-- ==== Sys2Proof/Word.lean ====
section
/-! DEFINITION. The word types of the Y9 and nothing more: names for the widths the spec uses (00 R3-R4, 01 R30, R40, R43). Bit-field helpers stand in Machine/Bits.lean. -/

namespace Sys2Proof

/-- A byte of memory or scratchpad. -/
abbrev Byte := BitVec 8
/-- A 32-bit lane value, line-core word or sequencer word. -/
abbrev W32 := BitVec 32
/-- A 64-bit scalar, sequencer register, wave word or device register. -/
abbrev W64 := BitVec 64
/-- A set of the 32 lanes of a wave: bit i stands for lane i (01 R30). -/
abbrev Lanes := BitVec 32

end Sys2Proof
end

