-- ==== Sys2Proof/Config.lean ====
section
/-! DEFINITION. What the spec leaves open, as constants with no body: nothing in Lean can evaluate them or
prove a value of them (assumption log, entry 2). -/

namespace Sys2Proof.Config

/-- The value of one use of an unspecified value (00 R14), by the number of uses before it. -/
opaque freeValue : Nat → BitVec 64

/-- The bytes of an ECDSA P-256 signature the module's identity key makes over a message (25 R507). -/
opaque signature : List Byte → List Byte

/-- Whether an ECDSA P-256 signature, r and s, of an image header's first 128 bytes verifies against the fused key (25 R506). -/
opaque verifies : List Byte → List Byte × List Byte → Bool

/-- The signature in a firmware image's 256-byte header, r and s, whose place no rule gives (25 R506). -/
opaque headerSignature : List Byte → List Byte × List Byte

/-- The digest field of a firmware image's 256-byte header, whose place no rule gives (25 R506). -/
opaque headerDigest : List Byte → List Byte

/-- The anti-rollback counter of a firmware image's header (25 R506). -/
opaque headerCounter : List Byte → Nat

/-- The stored bytes of the configuration record, whose layout no rule gives: its register writes, and in its pod section the
module's number and its routes (25 R500, R507). -/
opaque recordBytes : List (Nat × BitVec 64) → Nat → List Nat → List Byte

/-- The reading of a management sensor whose value no rule gives (25 R508), by the number of reads. -/
opaque sensor : Nat → BitVec 32

/-- The fuse words that the fuse summary measures, by the fused minima of the anti-rollback counters of stage 1, the policy
firmware and the pager (25 R506, R507). -/
opaque fuses : Nat → Nat → Nat → List Byte

/-- The value TTAG reads for a context and residency slot: the spec names the two parts of an owner tag and
not their places in the register (07 R249, 01 R41). -/
opaque ownerTag : Nat → Nat → BitVec 64

end Sys2Proof.Config
end

