-- ==== Sys2Proof/Syntax.lean ====
section
/-! DEFINITION. The abstract syntax of the whole opcode table (spec/opcode_table.json): one constructor of
`Instr` per row, with the operand structures of the four word streams (03_words_and_opcode_map.md). -/

namespace Sys2Proof

/-- The sixteen types of the T field (03 R86). -/
inductive WType where
  | s8 | s16 | s32 | s64 | z8 | z16 | z32 | z64
  | b32 | b64 | f16 | bf16 | f32 | f64 | f16x2 | bf16x2
  deriving DecidableEq, Repr

/-- The types of the 8-bit type code (03 R86): those of T, and four more. -/
inductive TCode where
  | t (w : WType)
  | s4 | e4m3 | e5m2 | cb4
  deriving DecidableEq, Repr

/-- Rounding modes (00 R19). -/
inductive Rnd where | rn | rz | ru | rd
  deriving DecidableEq, Repr

/-- Scopes (00 R21). -/
inductive Scope where | wv | wg | cl | dv | sy | pd
  deriving DecidableEq, Repr

/-- Memory orders (00 R22). -/
inductive MOrder where | rlx | acq | rel | ar
  deriving DecidableEq, Repr

/-- Store hints (00 R23). -/
inductive Hint where | plain | wc | nt
  deriving DecidableEq, Repr

/-- The memory control byte of the memory group (03 R92). -/
structure Ctl where
  scope : Scope
  order : MOrder
  hint  : Hint
  deriving DecidableEq, Repr

/-- An operand of a wave word as its class and field give it (03 R87, R88, R92). -/
inductive Operand where
  /-- class 00: a vector register (or the predicate number, where the instruction names one). -/
  | v (n : BitVec 8)
  /-- class 01: a scalar register. -/
  | s (n : BitVec 6)
  /-- class 10, 0x00-0x07: a stream register. -/
  | sq (n : BitVec 3)
  /-- class 10, 0x10-0x1D: a special register, by its number less 0x10. -/
  | sp (n : BitVec 4)
  /-- class 11: the 8-bit immediate field. -/
  | imm (x : BitVec 8)
  /-- class 11, field 0x80: the clause's literal word. -/
  | lit (x : BitVec 64)
  /-- the immediate pair b:c of a two-source word. -/
  | pair (x : BitVec 16)
  /-- operand c as memory control byte. -/
  | ctl (c : Ctl)
  deriving DecidableEq, Repr

/-- The fields of a wave word but its opcode, which the constructor of `Instr` gives (03 R85). -/
structure WWord where
  t   : WType
  m   : BitVec 4
  p   : BitVec 3
  pn  : Bool
  u   : Bool
  l   : BitVec 3
  d   : BitVec 8
  a   : Operand
  b   : Operand
  c   : Operand
  rnd : Rnd
  deriving DecidableEq, Repr

/-- The fields of a sequencer word but its opcode (03 R104, R105). `imm` holds the immediate of the
word's own format in its low bits (12 for I and B, 17 for U, 22 for J), 0 for format R. -/
structure SWord where
  tu  : Bool
  gd  : Bool
  td  : Bool
  gu  : Bool
  d   : BitVec 5
  a   : BitVec 5
  b   : BitVec 5
  imm : BitVec 22
  deriving DecidableEq, Repr

/-- The fields of a matrix word but its operation (03 R107). -/
structure MWord where
  d    : BitVec 3
  c    : Bool
  fmt  : BitVec 5
  mb   : BitVec 6
  kx   : BitVec 6
  nx   : BitVec 6
  px   : BitVec 6
  spl  : BitVec 2
  spm  : BitVec 2
  dfmt : BitVec 5
  drnd : Rnd
  dsat : Bool
  hg   : BitVec 5
  a    : BitVec 20
  b    : BitVec 20
  astr : BitVec 20
  pstr : BitVec 20
  deriving DecidableEq, Repr

/-- One slot of a line bundle but its opcode (03 R109). In the immediate form b, c and M together are
the 13-bit immediate. `slot` is the slot number 0-3 the operation stands in. -/
structure LSlot where
  slot : BitVec 2
  y    : BitVec 2
  yn   : Bool
  d    : BitVec 5
  a    : BitVec 5
  b    : BitVec 5
  c    : BitVec 5
  m    : BitVec 3
  deriving DecidableEq, Repr

/-- A packet: the type-specific bits of its header, its length in words, and its body words (11 R322). -/
structure PacketWord where
  tspec : W32
  len   : Nat
  body  : List W64
  deriving DecidableEq, Repr

/-- A mailbox command: request words 1 to 3 and the function that issues it (11 R340, R341). -/
structure MailWord where
  func : Nat
  a1   : W64
  a2   : W64
  a3   : W64
  deriving DecidableEq, Repr

/-- A workgroup by its core and residency slot (13 R349). -/
structure WgRef where
  core : Nat
  slot : Nat
  deriving DecidableEq, Repr

/-- A wave by its core, residency slot and wave number. -/
structure WaveRef where
  core : Nat
  slot : Nat
  wave : Nat
  deriving DecidableEq, Repr

/-- The two engine queues of a core (08 R261). -/
inductive EngineQueue where | matrix | drain
  deriving DecidableEq, Repr

/-- The sequencer contexts (07 R222). -/
inductive SeqCtx where | intake | main | outfall | trap
  deriving DecidableEq, Repr

/-- One entry of the water-turn token (25 R501). -/
structure TokenEntry where
  sv     : Bool
  victim : BitVec 6
  want   : BitVec 16
  idle   : BitVec 10
  load   : BitVec 24
  deriving DecidableEq, Repr

/-- A stolen range as it reaches the thief (25 R502). -/
structure StealRange where
  victim : Nat
  ctx    : Nat
  grid   : Nat
  lpb    : Nat
  start  : Nat
  count  : Nat
  deriving DecidableEq, Repr

/-- A unit that fails a bring-up step (25 R504): the step, and the unit for per-unit steps. -/
structure BringUpFail where
  step : Nat
  unit : Nat
  deriving DecidableEq, Repr

/-- Where an uncorrectable error strikes (16 R418, 25 R496). -/
inductive ErrorTarget where
  /-- local memory, L2 or a page table, at a device physical address. -/
  | memory (dpa : Nat)
  /-- a byte of a resident workgroup's scratchpad. -/
  | scratchpad (r : WgRef) (offset : Nat)
  /-- a lane of a vector register. -/
  | register (r : WaveRef) (n : Nat) (lane : Nat)
  /-- a scalar register. -/
  | scalar (r : WaveRef) (n : Nat)
  /-- a register of a core's sequencer context. -/
  | sequencer (core : Nat) (ctx : SeqCtx) (n : Nat)
  /-- a save frame. -/
  | frame (f : Nat)
  /-- outside every context's data. -/
  | device
  deriving DecidableEq, Repr

/-- The firmware images of the module (25 R506, R507). -/
inductive FwImageId where | stage1 | policy | pager
  deriving DecidableEq, Repr

/-- The PLDM monitoring sensors (25 R508). -/
inductive Sensor where
  | inletCoolant | outletCoolant | hottestTile | inputVoltage | inputPower | replace | health
  deriving DecidableEq, Repr

/-- A request of another module, arriving over a pod link (14 R385, R386). -/
inductive PodOp where
  | read (size : Nat)
  | write (bytes : List Byte)
  | add (v : W64) (size : Nat)
  | exch (v : W64) (size : Nat)
  | cas (cmp new : W64) (size : Nat)
  | tladd (v : W64)
  | tlset (v : W64)
  /-- any operation of ATOM and RED: its type, M and rounding (06 R198). -/
  | atom (t : WType) (m : BitVec 3) (rnd : Rnd) (v : W64)
  deriving DecidableEq, Repr

/-- A pod request with its source module, context and flow (14 R385), the agent that sent it, and, on an ordered flow, the
number of that agent's writes and atomics sent on the flow before it (14 R386). -/
structure PodRequest where
  source : Nat
  ctx    : Nat
  flow   : Nat
  agent  : Nat
  order  : Option Nat
  addr   : Nat
  op     : PodOp
  deriving DecidableEq, Repr


/-- One constructor per row of spec/opcode_table.json: the instruction words of the four
streams, the packets and mailbox commands, and the device events, each one indivisible step
(95_what_each_step_holds.md). The words come first, the events after them. -/
inductive Instr where
  /-- Vector integer add per active lane, wrapping or saturating (R127). -/
  | wAdd (w : WWord)
  /-- Vector integer subtract per active lane, wrapping or saturating (R127). -/
  | wSub (w : WWord)
  /-- Vector add with carry in and out through a predicate (R128). -/
  | wAddc (w : WWord)
  /-- Vector subtract with borrow in and out through a predicate (R128). -/
  | wSubb (w : WWord)
  /-- Vector integer multiply, low part, wrapping or saturating (R127). -/
  | wMul (w : WWord)
  /-- Vector high half of the exact integer product (R129). -/
  | wMulh (w : WWord)
  /-- Vector integer multiply-add, wrapping or saturating (R127). -/
  | wMad (w : WWord)
  /-- Vector widening 32x32 multiply plus 64-bit addend (R129). -/
  | wMadw (w : WWord)
  /-- Vector integer minimum (R127). -/
  | wMin (w : WWord)
  /-- Vector integer maximum (R127). -/
  | wMax (w : WWord)
  /-- Vector integer absolute value (R127). -/
  | wAbs (w : WWord)
  /-- Vector integer negation (R127). -/
  | wNeg (w : WWord)
  /-- Vector bitwise AND (R131). -/
  | wAnd (w : WWord)
  /-- Vector bitwise OR (R131). -/
  | wOr (w : WWord)
  /-- Vector bitwise XOR (R131). -/
  | wXor (w : WWord)
  /-- Vector bitwise NOT (R131). -/
  | wNot (w : WWord)
  /-- Vector AND with complement of b (R131). -/
  | wAndn (w : WWord)
  /-- Vector shift left with zero fill (R131). -/
  | wShl (w : WWord)
  /-- Vector logical shift right (R131). -/
  | wShr (w : WWord)
  /-- Vector arithmetic shift right (R131). -/
  | wSar (w : WWord)
  /-- Vector rotate left (R131). -/
  | wRot (w : WWord)
  /-- Vector funnel shift of a:b by c (R131). -/
  | wFunnel (w : WWord)
  /-- Vector bit-field extract (R132). -/
  | wBfx (w : WWord)
  /-- Vector bit-field insert into d (R132). -/
  | wBfi (w : WWord)
  /-- Vector population count (R133). -/
  | wPopc (w : WWord)
  /-- Vector count leading zeros (R133). -/
  | wClz (w : WWord)
  /-- Vector count trailing zeros (R133). -/
  | wCtz (w : WWord)
  /-- Vector bit reversal (R133). -/
  | wBrev (w : WWord)
  /-- Scalar-destination form of ADD, evaluated once per issue (R123). -/
  | wAddScalar (w : WWord)
  /-- Scalar-destination form of SUB (R123). -/
  | wSubScalar (w : WWord)
  /-- Scalar-destination form of ADDC (R128). -/
  | wAddcScalar (w : WWord)
  /-- Scalar-destination form of SUBB (R128). -/
  | wSubbScalar (w : WWord)
  /-- Scalar-destination form of MUL (R123). -/
  | wMulScalar (w : WWord)
  /-- Scalar-destination form of MULH (R123). -/
  | wMulhScalar (w : WWord)
  /-- Scalar-destination form of MAD (R123). -/
  | wMadScalar (w : WWord)
  /-- Scalar-destination form of MADW (R123). -/
  | wMadwScalar (w : WWord)
  /-- Scalar-destination form of MIN (R123). -/
  | wMinScalar (w : WWord)
  /-- Scalar-destination form of MAX (R123). -/
  | wMaxScalar (w : WWord)
  /-- Scalar-destination form of ABS (R123). -/
  | wAbsScalar (w : WWord)
  /-- Scalar-destination form of NEG (R123). -/
  | wNegScalar (w : WWord)
  /-- Scalar-destination form of AND (R123). -/
  | wAndScalar (w : WWord)
  /-- Scalar-destination form of OR (R123). -/
  | wOrScalar (w : WWord)
  /-- Scalar-destination form of XOR (R123). -/
  | wXorScalar (w : WWord)
  /-- Scalar-destination form of NOT (R123). -/
  | wNotScalar (w : WWord)
  /-- Scalar-destination form of ANDN (R123). -/
  | wAndnScalar (w : WWord)
  /-- Scalar-destination form of SHL (R123). -/
  | wShlScalar (w : WWord)
  /-- Scalar-destination form of SHR (R123). -/
  | wShrScalar (w : WWord)
  /-- Scalar-destination form of SAR (R123). -/
  | wSarScalar (w : WWord)
  /-- Scalar-destination form of ROT (R123). -/
  | wRotScalar (w : WWord)
  /-- Scalar-destination form of FUNNEL (R123). -/
  | wFunnelScalar (w : WWord)
  /-- Scalar-destination form of BFX (R123). -/
  | wBfxScalar (w : WWord)
  /-- Scalar-destination form of BFI (R123). -/
  | wBfiScalar (w : WWord)
  /-- Scalar-destination form of POPC (R123). -/
  | wPopcScalar (w : WWord)
  /-- Scalar-destination form of CLZ (R123). -/
  | wClzScalar (w : WWord)
  /-- Scalar-destination form of CTZ (R123). -/
  | wCtzScalar (w : WWord)
  /-- Scalar-destination form of BREV (R123). -/
  | wBrevScalar (w : WWord)
  /-- Vector select between a and b by predicate (R135). -/
  | wSel (w : WWord)
  /-- Vector move of bits unchanged (R137). -/
  | wMov (w : WWord)
  /-- Scalar move (R137). -/
  | wMovScalar (w : WWord)
  /-- Vector read of a register chosen at run time (R138). -/
  | wMovl (w : WWord)
  /-- Scalar read of a scalar register chosen at run time (R138). -/
  | wMovlScalar (w : WWord)
  /-- Vector 64-bit address plus shifted index (R139). -/
  | wLea (w : WWord)
  /-- Scalar form of LEA (R139). -/
  | wLeaScalar (w : WWord)
  /-- Writes a lane mask, lowest lane, count or live mask to a scalar (R140). -/
  | wLane (w : WWord)
  /-- Vector cross-lane shuffle (R141). -/
  | wShuf (w : WWord)
  /-- Broadcast one lane's value to every active lane (R142). -/
  | wBcast (w : WWord)
  /-- Vector read of a special register (R143). -/
  | wRdsp (w : WWord)
  /-- Scalar read of a special register (R143). -/
  | wRdspScalar (w : WWord)
  /-- Integer compare writing one predicate bit per active lane (R134). -/
  | wCmp (w : WWord)
  /-- Predicate logic through a truth table (R136). -/
  | wPlog (w : WWord)
  /-- Writes FLAGS or LSTK (R144). -/
  | wWrsp (w : WWord)
  /-- Relative branch of the active lanes (R149). -/
  | wBra (w : WWord)
  /-- Indirect branch to a per-lane target (R149). -/
  | wBrx (w : WWord)
  /-- Relative call pushing return addresses, spilling beyond depth 4 (R151). -/
  | wCall (w : WWord)
  /-- Indirect call to per-lane targets (R151). -/
  | wCallx (w : WWord)
  /-- Return popping the on-chip stack and refilling spilled entries (R152). -/
  | wRet (w : WWord)
  /-- Makes every active lane exited (R155). -/
  | wExit (w : WWord)
  /-- Raises trap TRAP with a code once for the group (R156). -/
  | wTrap (w : WWord)
  /-- Raises trap BREAK with a code once for the group (R156). -/
  | wBreak (w : WWord)
  /-- Wave word with no effect (R157). -/
  | wNop (w : WWord)
  /-- Makes the partition prefer other waves next (R157). -/
  | wYield (w : WWord)
  /-- Makes active lanes wait for n tck (R158). -/
  | wSleep (w : WWord)
  /-- Makes active lanes wait until named completion flags clear (R159). -/
  | wWaitf (w : WWord)
  /-- Float add with one rounding (R164). -/
  | wFadd (w : WWord)
  /-- Float subtract with one rounding (R164). -/
  | wFsub (w : WWord)
  /-- Float multiply with one rounding (R164). -/
  | wFmul (w : WWord)
  /-- Fused float multiply-add (R164). -/
  | wFfma (w : WWord)
  /-- Float minimum by selection (R165). -/
  | wFmin (w : WWord)
  /-- Float maximum by selection (R165). -/
  | wFmax (w : WWord)
  /-- Float compare writing a predicate (R166). -/
  | wFcmp (w : WWord)
  /-- Float classification against a mask (R167). -/
  | wFclass (w : WWord)
  /-- Rounds to an integral value (R168). -/
  | wFrnd (w : WWord)
  /-- Fractional part rounded toward minus infinity (R168). -/
  | wFract (w : WWord)
  /-- Correctly rounded reciprocal, long-latency (R170). -/
  | wRcp (w : WWord)
  /-- Correctly rounded reciprocal square root (R170). -/
  | wRsq (w : WWord)
  /-- Correctly rounded square root (R170). -/
  | wSqrt (w : WWord)
  /-- Correctly rounded 2 to the x (R170). -/
  | wExp2 (w : WWord)
  /-- Correctly rounded base-2 logarithm (R170). -/
  | wLog2 (w : WWord)
  /-- Correctly rounded sine (R170). -/
  | wSin (w : WWord)
  /-- Correctly rounded cosine (R170). -/
  | wCos (w : WWord)
  /-- Correctly rounded hyperbolic tangent (R170). -/
  | wTanh (w : WWord)
  /-- Converts between number formats (R171). -/
  | wCvt (w : WWord)
  /-- Assembles a packed 32-bit value (R173). -/
  | wPack (w : WWord)
  /-- Extracts one element of a packed value (R174). -/
  | wUnpack (w : WWord)
  /-- Two-element dot product added to c with one rounding (R175). -/
  | wDot2 (w : WWord)
  /-- Four-element dot product added to c (R175). -/
  | wDot4 (w : WWord)
  /-- Fixed-tree reduction across active lanes (R177). -/
  | wReduce (w : WWord)
  /-- Sequential prefix scan across active lanes (R177). -/
  | wScan (w : WWord)
  /-- Ranks active lanes' scores and hands out the k best (R179). -/
  | wTopk (w : WWord)
  /-- Writes a lane mask to a scalar (R180). -/
  | wBallot (w : WWord)
  /-- Computes a wave-wide vote bit (R181). -/
  | wVote (w : WWord)
  /-- Loads memory per active lane (R190). -/
  | wLd (w : WWord)
  /-- Stores memory per active lane (R190). -/
  | wSt (w : WWord)
  /-- Loads scratchpad, pending on empty lines (R191). -/
  | wLds (w : WWord)
  /-- Stores scratchpad (R191). -/
  | wSts (w : WWord)
  /-- Appends an entry to a gang member's receive queue (R193). -/
  | wSend (w : WWord)
  /-- Removes the head entry of the workgroup's receive queue (R194). -/
  | wRecv (w : WWord)
  /-- Prefetch hint into L1 or L2 (R195). -/
  | wPref (w : WWord)
  /-- Writes back dirty bytes of a range (R196). -/
  | wWb (w : WWord)
  /-- Writes back and invalidates lines of a range (R196). -/
  | wInv (w : WWord)
  /-- Atomic read-modify-write returning the old value (R198). -/
  | wAtom (w : WWord)
  /-- Atomic compare-and-swap (R199). -/
  | wAtomcas (w : WWord)
  /-- Atomic reduction without a returned value (R198). -/
  | wRed (w : WWord)
  /-- Adds a region entry to the context's region table (R202). -/
  | wBind (w : WWord)
  /-- Removes matching region entries (R203). -/
  | wUnbind (w : WWord)
  /-- Waits on an object then invalidates its regions (R205). -/
  | wAcq (w : WWord)
  /-- Writes back an object's regions then release-stores the object (R204). -/
  | wRel (w : WWord)
  /-- Orders the wave's accesses at a scope (R206). -/
  | wFence (w : WWord)
  /-- Arrives at a named barrier and waits (R209). -/
  | wBar (w : WWord)
  /-- Arrives at the grid barrier (R211). -/
  | wGbar (w : WWord)
  /-- Arrives at a named barrier without waiting (R209). -/
  | wArrive (w : WWord)
  /-- Waits for the phase of the latest arrival (R209). -/
  | wWaitb (w : WWord)
  /-- Stalls until earlier writes reach the core's engines (R207). -/
  | wOpfence (w : WWord)
  /-- Saturating add to a timeline (R212). -/
  | wTladd (w : WWord)
  /-- Sets a timeline, marking a rewind (R212). -/
  | wTlset (w : WWord)
  /-- Waits until a timeline reaches a threshold (R214). -/
  | wTlwait (w : WWord)
  /-- Enqueues a copy of an LPB on a device launch queue (R216). -/
  | wLaunch (w : WWord)
  /-- Sets the workgroup's performance request (R218). -/
  | wSetperf (w : WWord)
  /-- Sets the workgroup's remaining-time estimate (R219). -/
  | wProgress (w : WWord)
  /-- Wave side of the rendezvous with the engine job (R220). -/
  | wRdv (w : WWord)
  /-- Sequencer add (R233). -/
  | seqAdd (w : SWord)
  /-- Sequencer subtract (R233). -/
  | seqSub (w : SWord)
  /-- Sequencer bitwise AND (R233). -/
  | seqAnd (w : SWord)
  /-- Sequencer bitwise OR (R233). -/
  | seqOr (w : SWord)
  /-- Sequencer bitwise XOR (R233). -/
  | seqXor (w : SWord)
  /-- Sequencer shift left (R233). -/
  | seqShl (w : SWord)
  /-- Sequencer logical shift right (R233). -/
  | seqShr (w : SWord)
  /-- Sequencer arithmetic shift right (R233). -/
  | seqSar (w : SWord)
  /-- Sequencer multiply, result after 4 tck (R233). -/
  | seqMul (w : SWord)
  /-- Sequencer signed set-less-than (R233). -/
  | seqSlt (w : SWord)
  /-- Sequencer unsigned set-less-than (R233). -/
  | seqSltz (w : SWord)
  /-- Sequencer add immediate (R233). -/
  | seqAddi (w : SWord)
  /-- Sequencer load immediate (R233). -/
  | seqLi (w : SWord)
  /-- Sequencer load upper immediate times 4,096 (R233). -/
  | seqLui (w : SWord)
  /-- Branch if equal (R234). -/
  | seqBeq (w : SWord)
  /-- Branch if not equal (R234). -/
  | seqBne (w : SWord)
  /-- Branch if less, signed (R234). -/
  | seqBlt (w : SWord)
  /-- Branch if greater or equal, signed (R234). -/
  | seqBge (w : SWord)
  /-- Relative jump (R234). -/
  | seqJ (w : SWord)
  /-- Jump and link (R234). -/
  | seqJal (w : SWord)
  /-- Jump to register and link (R234). -/
  | seqJr (w : SWord)
  /-- Loads 8 bytes of memory into a g register (R235). -/
  | seqLdg (w : SWord)
  /-- Stores a g register to 8 bytes of memory (R235). -/
  | seqStg (w : SWord)
  /-- Hands a 32-byte copy command to the copy engine (R236). -/
  | seqCpy (w : SWord)
  /-- Waits for copies up to a copy number (R237). -/
  | seqCpyw (w : SWord)
  /-- Hands a matrix word to its engine queue and takes a ticket (R238). -/
  | seqMw (w : SWord)
  /-- Copies a loop-nest table into the shadow registers (R239). -/
  | seqNest (w : SWord)
  /-- Checks and starts the shadow loop nest under a ticket (R239). -/
  | seqGo (w : SWord)
  /-- Waits until tickets up to a number complete (R240). -/
  | seqNwait (w : SWord)
  /-- Reads spillway state into a g register (R242). -/
  | seqSpw (w : SWord)
  /-- Token-only word returning ring state (R243). -/
  | seqTok (w : SWord)
  /-- Sets the job's pacing request for a queue (R244). -/
  | seqPace (w : SWord)
  /-- Sequencer side of the rendezvous (R245). -/
  | seqRdv (w : SWord)
  /-- Loads an overlay into the instruction store (R246). -/
  | seqOvl (w : SWord)
  /-- Reads a trap control register (R249). -/
  | seqMfc (w : SWord)
  /-- Writes a trap control register (R249). -/
  | seqMtc (w : SWord)
  /-- Raises TRAP in a user context, escalates in the trap context (R250). -/
  | seqTrap (w : SWord)
  /-- Leaves the trap context, resuming at TEPC (R250). -/
  | seqEret (w : SWord)
  /-- Stops the context (R247). -/
  | seqHalt (w : SWord)
  /-- Loads a weight slot from scratchpad (R265). -/
  | mWload (w : MWord)
  /-- Streams P activation vectors through a weight slot into a tile (R268). -/
  | mStep (w : MWord)
  /-- Converts tile rows to scratchpad and clears them (R272). -/
  | mDrain (w : MWord)
  /-- Folds a tile's spillway entries into its fold array (R273). -/
  | mFold (w : MWord)
  /-- Clears a tile and frees its entries (R274). -/
  | mClr (w : MWord)
  /-- Occupies the array with zero data for its demand (R275). -/
  | mFill (w : MWord)
  /-- Matrix no-operation completing at dequeue (R275). -/
  | mNop (w : MWord)
  /-- NOP packet parsed and discarded (R324). -/
  | pkNop (w : PacketWord)
  /-- Reads an LPB and accepts or refuses the grid (R324). -/
  | pkLaunchGrid (w : PacketWord)
  /-- Parses the packets of an indirect buffer (R326). -/
  | pkIndirect (w : PacketWord)
  /-- Parsing stops until a timeline reaches a threshold (R324). -/
  | pkTlWait (w : PacketWord)
  /-- Release-adds to a timeline, optionally after draining (R324). -/
  | pkTlAdd (w : PacketWord)
  /-- Release-sets a timeline, optionally after draining (R324). -/
  | pkTlSet (w : PacketWord)
  /-- Parsing waits for every earlier grid of the queue (R324). -/
  | pkBarrier (w : PacketWord)
  /-- After earlier grids, hands a frame slot to heads (R324). -/
  | pkPresent (w : PacketWord)
  /-- Mailbox command creating a device context (R341). -/
  | mbCreateContext (w : MailWord)
  /-- Mailbox command destroying a context after its grids (R341). -/
  | mbDestroyContext (w : MailWord)
  /-- Mailbox command binding a queue to a ring and context (R341). -/
  | mbBindQueue (w : MailWord)
  /-- Mailbox command unbinding a queue after its grids (R341). -/
  | mbUnbindQueue (w : MailWord)
  /-- Mailbox command discarding unparsed words and clearing halts (R341). -/
  | mbResetQueue (w : MailWord)
  /-- Mailbox command ending every grid of a context (R341). -/
  | mbResetContext (w : MailWord)
  /-- Mailbox command restarting the policy firmware (R342). -/
  | mbFwRestart (w : MailWord)
  /-- Mailbox command replacing a virtual function's grant (R498). -/
  | mbGrant (w : MailWord)
  /-- Mailbox command pairing contexts for stealing (R498). -/
  | mbPodPeer (w : MailWord)
  /-- Mailbox command setting a context's PASID (R498). -/
  | mbSetPasid (w : MailWord)
  /-- Mailbox command marking bring-up steps for full retry (R498). -/
  | mbClearFences (w : MailWord)
  /-- Decrements a k register and branches while nonzero (R298). -/
  | lLoop (w : LSlot)
  /-- Line-core relative branch (R298). -/
  | lBr (w : LSlot)
  /-- Line-core conditional branch (R298). -/
  | lBrc (w : LSlot)
  /-- Ends the band (R290). -/
  | lHalt (w : LSlot)
  /-- Waits for the head's beam line count to reach a target (R299). -/
  | lBeam (w : LSlot)
  /-- Reads a word of the latched pose record (R300). -/
  | lPose (w : LSlot)
  /-- k register add (R297). -/
  | lKadd (w : LSlot)
  /-- k register add immediate (R297). -/
  | lKaddi (w : LSlot)
  /-- k register subtract (R297). -/
  | lKsub (w : LSlot)
  /-- k register multiply (R297). -/
  | lKmul (w : LSlot)
  /-- k register AND (R297). -/
  | lKand (w : LSlot)
  /-- k register OR (R297). -/
  | lKor (w : LSlot)
  /-- k register XOR (R297). -/
  | lKxor (w : LSlot)
  /-- k register shift left (R297). -/
  | lKshl (w : LSlot)
  /-- k register logical shift right (R297). -/
  | lKshr (w : LSlot)
  /-- k register arithmetic shift right (R297). -/
  | lKsar (w : LSlot)
  /-- k register load immediate (R297). -/
  | lKli (w : LSlot)
  /-- Shifts a k register by 13 and inserts an immediate (R297). -/
  | lKlui (w : LSlot)
  /-- k register signed set-less-than (R297). -/
  | lKslt (w : LSlot)
  /-- Line-core vector add (R302). -/
  | lHadd (w : LSlot)
  /-- Line-core vector subtract (R302). -/
  | lHsub (w : LSlot)
  /-- Line-core vector multiply (R302). -/
  | lHmul (w : LSlot)
  /-- Line-core fused multiply-add (R302). -/
  | lHfma (w : LSlot)
  /-- Line-core vector minimum (R302). -/
  | lHmin (w : LSlot)
  /-- Line-core vector maximum (R302). -/
  | lHmax (w : LSlot)
  /-- Line-core compare into a y predicate (R303). -/
  | lHcmp (w : LSlot)
  /-- Line-core select by predicate (R303). -/
  | lHsel (w : LSlot)
  /-- Line-core conversion (R304). -/
  | lHcvt (w : LSlot)
  /-- Line-core reciprocal (R305). -/
  | lHrcp (w : LSlot)
  /-- Line-core fused linear interpolation (R305). -/
  | lHlerp (w : LSlot)
  /-- Line-core lane shuffle (R306). -/
  | lHshuf (w : LSlot)
  /-- Line matrix engine vector times weight set (R308). -/
  | lPmm (w : LSlot)
  /-- Loads a weight set from the line buffer (R308). -/
  | lPmw (w : LSlot)
  /-- Loads 64 bytes of line buffer into an h register (R310). -/
  | lLbld (w : LSlot)
  /-- Stores an h register's active lanes to the line buffer (R310). -/
  | lLbst (w : LSlot)
  /-- Per-lane gather from the line buffer (R310). -/
  | lGath (w : LSlot)
  /-- Samples a frame slot plane (R312). -/
  | lSamp (w : LSlot)
  /-- Writes up to 16 pixels into the scan FIFO (R313). -/
  | lEmit (w : LSlot)
  /-- Empty line-bundle slot (R110). -/
  | lNop (w : LSlot)
  /-- A lane group starts a clause once its wait-mask flags are clear (R96). -/
  | evClauseStart
  /-- A bound long-latency instruction completes, writing its destination and clearing its flag share (R97). -/
  | evLongLatencyCompletion (r : WaveRef) (k : Nat)
  /-- A sleeping lane becomes live when its tck count is reached (R158). -/
  | evSleepExpiry (r : WaveRef)
  /-- Lanes in WAITF become live once the named flags clear (R159). -/
  | evWaitfRelease (r : WaveRef)
  /-- A named barrier's phase completes, releasing and acquiring at .wg (R208). -/
  | evBarrierPhaseCompletion (r : WgRef) (n : Nat)
  /-- The grid barrier completes, releasing at .dv and advancing the generation (R211). -/
  | evGbarCompletion (grid : Nat)
  /-- Waves and engine contexts meet at RDV (R220). -/
  | evRendezvousCompletion (r : WgRef)
  /-- The ACQ condition holds; regions are invalidated and lanes go live (R205). -/
  | evAcqRelease (r : WaveRef)
  /-- Waiting lanes go live after a read at or past the threshold (R214). -/
  | evTlwaitRelease (r : WaveRef)
  /-- All lanes waiting with one in TLWAIT.park: the workgroup parks off its core (R215). -/
  | evTlwaitPark (r : WgRef)
  /-- Periodic re-read of a pod or host timeline for waiters (R213). -/
  | evTimelinePoll (r : WaveRef)
  /-- A wave with no live lane ends once its bound instructions complete (R155). -/
  | evWaveEnd (r : WaveRef)
  /-- SPILLWAY_FULL is delivered to main's armed handler at its next word boundary (R403). -/
  | evSpillwayHandlerDelivery (r : WgRef)
  /-- An atomic reply missing 100 us into a save is saved poisoned (R416). -/
  | evReplyTakenAsPoisoned (r : WaveRef) (k : Nat)
  /-- The idle count reaches WDLIMIT and the workgroup traps (R419). -/
  | evWatchdog (r : WgRef)
  /-- A shed mark's grace expires and the workgroup is checkpointed by force (R362). -/
  | evShedForce (r : WgRef)
  /-- After the overlay load the three contexts start at their entries (R229). -/
  | evSequencerJobStart (r : WgRef)
  /-- A waiting integer pass commits once the spillway has room (R269). -/
  | evPassCommit (core : Nat)
  /-- The STALL-mode count reaches 4,096 and SPILLWAY_FULL is raised (R270). -/
  | evSpillwayStallExpiry (core : Nat)
  /-- A matrix or drain word completes, merging flags and completing its ticket (R240). -/
  | evMatrixWordCompletion (core : Nat) (q : EngineQueue)
  /-- The address generator hands the next generated word to its queue (R283). -/
  | evNestWordGeneration (core : Nat)
  /-- A word presents its demand once its other start conditions hold (R452). -/
  | evHeadgateDemand (core : Nat) (q : EngineQueue)
  /-- A waiting word is granted and starts (R452). -/
  | evHeadgateGrant (tile : Nat)
  /-- Every 4 tck the headgate position moves up, down or stays (R451). -/
  | evHeadgateBoundary (tile : Nat)
  /-- A pending ramp table comes into force when the headgate is idle (R469). -/
  | evRampTableInForce (tile : Nat)
  /-- A command takes a free copy slot and marks its lines empty (R255). -/
  | evCopyAcceptance (r : WgRef)
  /-- A copy chunk starts once the chunk eight below completes (R436). -/
  | evCopyChunkStart (core : Nat) (slot : Nat)
  /-- All line writes of a chunk are performed (R437). -/
  | evCopyChunkCompletion (core : Nat) (slot : Nat)
  /-- A copy delivers an element to a stream register lane with room (R430). -/
  | evStreamDelivery (core : Nat) (slot : Nat)
  /-- A copy completes, freeing its slot and making its completion writes (R241). -/
  | evCopyCompletion (core : Nat) (slot : Nat)
  /-- A core with room claims a range from a grid's turnout counter (R347). -/
  | evClaim (core : Nat) (grid : Nat)
  /-- A core claims one gang and reserves members on its cluster (R352). -/
  | evGangClaim (core : Nat) (grid : Nat)
  /-- A claim reply arrives and its workgroups are placed on the core (R350). -/
  | evPlacement (core : Nat)
  /-- A reserved gang member is placed when room appears (R353). -/
  | evReservedMemberPlacement (core : Nat)
  /-- A waiting grid's priority token count grows every 512 fck (R357). -/
  | evTokenGrowth (grid : Nat)
  /-- A grid with enough tokens chooses a victim and drain, kill or checkpoint (R358). -/
  | evPreemptionDecision (grid : Nat)
  /-- A drained victim not done in time is chosen for again (R360). -/
  | evDrainTimeout (r : WgRef)
  /-- A save into a free frame completes, releasing at .dv and freeing the core (R394). -/
  | evSaveCompletion (r : WgRef)
  /-- A permitted saved workgroup is restored with an acquire at .dv (R364). -/
  | evRestore (core : Nat) (frame : Nat)
  /-- A queued relaunch starts the workgroup from its entry (R366). -/
  | evRelaunch (core : Nat) (grid : Nat)
  /-- A tail write is ignored as stale, halts on a jump, or advances the tail (R320). -/
  | evQtailWrite (q : Nat) (v : W64)
  /-- A waiting TL_WAIT is satisfied and parsing resumes (R332). -/
  | evTlWaitRelease (q : Nat)
  /-- A drain wait of BARRIER, PRESENT or DRAIN ends and parsing goes on (R324). -/
  | evParsingResumes (q : Nat)
  /-- The head overflow entry moves into its class queue when there is room (R336). -/
  | evOverflowMove (ctx : Nat)
  /-- The front end dequeues one device launch per fck (R337). -/
  | evDeviceLaunchDequeue (ctx : Nat)
  /-- A held or waiting mailbox command completes with its RESULT (R514). -/
  | evMailboxCompletion (f : Nat)
  /-- W1C write to CTXERR, clearing LPB_INVALID and its records (R334). -/
  | evCtxerrWrite (ctx : Nat) (v : W64)
  /-- Verdict RESUME on the oldest stopped workgroup (R406). -/
  | evFresumeResume (ctx : Nat) (frame : Nat)
  /-- Verdict KILL on the oldest stopped workgroup (R406). -/
  | evFresumeKill (ctx : Nat) (frame : Nat)
  /-- Starts invalidating translations of a page range (R411). -/
  | evTlbinv (ctx : Nat) (v : W64)
  /-- The invalidation finishes and BUSY clears (R411). -/
  | evTlbinvComplete (ctx : Nat)
  /-- W1C write to CERR clearing SPW_STRAY and SRC (R414). -/
  | evCerrWrite (core : Nat) (v : W64)
  /-- A write to a register with no behaviour of its own (R7). -/
  | evRegisterWrite (f : Nat) (dpa : Nat) (size : Nat) (v : W64)
  /-- A host posted write to BAR 2 is performed at .dv (R388). -/
  | evHostPostedWrite (f : Nat) (offset : Nat) (bytes : List Byte)
  /-- A host read of BAR 2 is served (R388). -/
  | evHostMemoryRead (f : Nat) (offset : Nat) (size : Nat)
  /-- A shelf frame arrives and updates the shelf level (R472). -/
  | evShelfFrame (bytes : List Byte)
  /-- The module replies to a valid shelf frame (R473). -/
  | evShelfReply (draw vin : BitVec 16)
  /-- No valid frame for LOSSTIME: LOSS set and SLV raised (R476). -/
  | evShelfLoss
  /-- A new shed level takes effect module-wide (R456). -/
  | evShedLevelChange
  /-- A write to FLOOR or LOSSLVL changes the module level (R475). -/
  | evShedctlWrite (v : W64)
  /-- A requested voltage point starts a rail move or becomes pending (R462). -/
  | evVmboxWrite (tile : Nat) (point : BitVec 4)
  /-- The rail reaches its target and a pending point starts (R462). -/
  | evRailMoveComplete (tile : Nat)
  /-- A rising rail passes an operating point and LVCAP rises (R463). -/
  | evRailPassesPoint (tile : Nat)
  /-- A ramp table write is refused or held pending (R469). -/
  | evHgrampWrite (tile : Nat) (n : Bool) (v : W64)
  /-- Setting RUN checks the head, loads line programs and starts scanning (R485). -/
  | evRunSet (head : Nat) (v : W64)
  /-- Clearing RUN stops band dispatch for the head (R485). -/
  | evRunClear (head : Nat) (v : W64)
  /-- After its last frame the head stops its cores and RUNNING clears (R485). -/
  | evHeadStop (head : Nat)
  /-- Publishes the staged pose record (R481). -/
  | evPosecommit (head : Nat) (v : W64)
  /-- LCNT advances at each line period (R486). -/
  | evLineStart (head : Nat)
  /-- The published pose record is latched for a target line (R481). -/
  | evPoseLatch (head : Nat)
  /-- A band is dispatched to its line core (R487). -/
  | evBandDispatch (head : Nat)
  /-- A band not ended by its last line plus one is aborted (R488). -/
  | evBandAbort (lc : Nat)
  /-- A line is closed; missing pixels are filled by the bypass (R491). -/
  | evGuardPoint (head : Nat)
  /-- CAPCNT advances after a frame's capture writes are performed (R494). -/
  | evCaptureFrameDone (head : Nat)
  /-- The pod token arrives; the module writes its entry and steal request (R501). -/
  | evWaterTurnToken (gen : W32) (entries : List TokenEntry)
  /-- A victim reserves a range for a thief at its next claim (R502). -/
  | evSteal (thief : Nat)
  /-- The thief places a stolen range in the peer context (R502). -/
  | evStealRangeArrival (range : StealRange)
  /-- A stolen workgroup's completion reaches the victim (R502). -/
  | evStolenCompletionReport (grid wgl : Nat)
  /-- Unreported stolen workgroups are treated as killed by a fault (R503). -/
  | evThiefUnreachable (thief : Nat)
  /-- No token for 100 us: the module regenerates it (R503). -/
  | evTokenRegeneration (lowerReachable : Bool)
  /-- The root of trust runs the bring-up steps in order (R504). -/
  | evPowerUp (fails : List BringUpFail)
  /-- A die at 110 C removes every rail (R508). -/
  | evThermalTrip
  /-- Input below 42 V turns the stage off (R508). -/
  | evInputUndervoltage
  /-- An uncorrectable error poisons data or sets UNCERR (R418). -/
  | evUncorrectableError (target : ErrorTarget)
  /-- SPDM request answered with signed measurements (R507). -/
  | evSpdmMeasurements (index : Nat) (nonce : List Byte)
  /-- PLDM update writes the unused firmware slot (R506). -/
  | evPldmFirmwareUpdate (image : FwImageId) (bytes : List Byte)
  /-- PLDM activation raises the fused anti-rollback minimum (R506). -/
  | evPldmActivation (image : FwImageId) (counter : Nat)
  /-- PLDM monitoring request returns sensor values (R508). -/
  | evPldmSensorRead (sensor : Sensor)
  /-- The host answers a PCIe AtomicOp Swap or CAS sent for a timeline write, either successfully (deciding REWOUND, or the next CAS try) or with a refusal that traps PROTECTION or sets TLFAIL (R213). -/
  | evHostAtomicopCompletion (id : Nat) (old : Option W64)
  /-- A read, write or atomic from another module arrives over a pod link and is performed at this module's L2 in its flow's order, waking timeline waiters (R386). -/
  | evPodRequestArrival (req : PodRequest)
  /-- A delayed line-core result arrives and writes its h or k registers, releasing bundles that wait on them; this covers SAMP data returned by the presentation partition and PMM results (R293). -/
  | evLineResultArrival (lc : Nat) (k : Nat)
  /-- A sequencer LDG's access returns and writes gd, or an STG is performed at .dv, releasing stalled words and any token push that waits on it (R231). -/
  | evLdgAccessReturn (core : Nat) (ctx : SeqCtx)
  /-- The overlay a sequencer OVL word loads is fully in the instruction store, so the issuing context and any stalled fetch go on (R246). -/
  | evOvlLoadComplete (core : Nat)
  /-- A WB, INV, REL write-back or release store, or OPFENCE, is performed, so the waiting lane group may start its next clause (R196). -/
  | evMaintenancePerformed (r : WaveRef)
  deriving DecidableEq, Repr

end Sys2Proof
end

