-- ==== Sys2Proof/Machine/Bits.lean ====
section
/-! DEFINITION. Bit-field, extension, byte-order and small list helpers, and the encodings of the fields
several word kinds share: rounding, type codes, scopes, orders, hints (00 R3, R4; 03 R85, R86, R92). -/

namespace Sys2Proof.Machine

/-- `x[hi:lo]` as a natural number, given the low bit and the width (R3). -/
def bits (x lo width : Nat) : Nat := x / 2 ^ lo % 2 ^ width

/-- Bit `i` of `x`. -/
def bit (x i : Nat) : Bool := x / 2 ^ i % 2 == 1

/-- `sext(x, ·)` of the low `n` bits of `x`, as an integer (R11). -/
def signed (n x : Nat) : Int :=
  let y := x % 2 ^ n
  if 2 ^ n ≤ 2 * y then (y : Int) - 2 ^ n else y

/-- The two's-complement image of `v` in `n` bits. -/
def wrap (n : Nat) (v : Int) : Nat := (v % (2 ^ n : Nat)).toNat

/-- The `n` bytes of `x`, least significant first (R4). -/
def toBytes : Nat → Nat → List Byte
  | 0, _ => []
  | n + 1, x => BitVec.ofNat 8 x :: toBytes n (x / 256)

/-- The number a little-endian byte list stands for (R4). -/
def ofBytes : List Byte → Nat
  | [] => 0
  | b :: rest => b.toNat + 256 * ofBytes rest

/-- Rounds `n` up to a multiple of `m`. -/
def roundUp (n m : Nat) : Nat := (n + m - 1) / m * m

/-- Replaces the element at `i`, where the list has one. -/
def setAt {α : Type} : List α → Nat → α → List α
  | [], _, _ => []
  | _ :: rest, 0, v => v :: rest
  | x :: rest, i + 1, v => x :: setAt rest i v

/-- Changes the element at `i`, where the list has one. -/
def modAt {α : Type} : List α → Nat → (α → α) → List α
  | [], _, _ => []
  | x :: rest, 0, f => f x :: rest
  | x :: rest, i + 1, f => x :: modAt rest i f

/-- Looks a key up in a list of pairs. -/
def assoc {α : Type} : List (Nat × α) → Nat → Option α
  | [], _ => none
  | (k, v) :: rest, n => if k = n then some v else assoc rest n

/-- Puts a value under a key, keeping the keys in rising order. -/
def assocSet {α : Type} : List (Nat × α) → Nat → α → List (Nat × α)
  | [], n, v => [(n, v)]
  | (k, x) :: rest, n, v =>
    if n < k then (n, v) :: (k, x) :: rest
    else if n = k then (n, v) :: rest
    else (k, x) :: assocSet rest n v

/-- Drops a key. -/
def assocDrop {α : Type} : List (Nat × α) → Nat → List (Nat × α)
  | [], _ => []
  | (k, x) :: rest, n => if k = n then assocDrop rest n else (k, x) :: assocDrop rest n

/-- The first position at which a predicate holds. -/
def findIx {α : Type} (p : α → Bool) : List α → Option Nat
  | [] => none
  | x :: rest => if p x then some 0 else (findIx p rest).map (· + 1)

/-- The elements of a list, each once, in the order of their first places. -/
def distinct (l : List Nat) : List Nat := l.foldl (fun acc x => if acc.contains x then acc else acc ++ [x]) []

/-- The lanes of a mask in ascending order. -/
def lanesOf (m : Lanes) : List Nat := (List.range 32).filter (fun i => m.getLsbD i)

/-- The mask of the lanes a predicate picks. -/
def maskOf (p : Nat → Bool) : Lanes :=
  BitVec.ofNat 32 ((List.range 32).foldl (fun a i => if p i then a + 2 ^ i else a) 0)

/-- The number of bits of `x` that are 1, over the low `n` bits. -/
def popCount (n x : Nat) : Nat := ((List.range n).filter (fun i => bit x i)).length

/-- The lowest lane of a mask. -/
def lowLane (m : Lanes) : Option Nat := (lanesOf m).head?

/-- RND (R85): 00 .rn, 01 .rz, 10 .ru, 11 .rd. -/
def rndOf (n : Nat) : Rnd :=
  match n % 4 with
  | 0 => .rn
  | 1 => .rz
  | 2 => .ru
  | _ => .rd

/-- The two bits of a rounding mode. -/
def rndCode : Rnd → Nat
  | .rn => 0
  | .rz => 1
  | .ru => 2
  | .rd => 3

/-- The types in the order of the T field (R86). -/
def wtypes : List WType :=
  [.s8, .s16, .s32, .s64, .z8, .z16, .z32, .z64, .b32, .b64, .f16, .bf16, .f32, .f64, .f16x2, .bf16x2]

/-- The type of a T field value (R86). -/
def wtypeOf (n : Nat) : WType := (wtypes[n % 16]?).getD .s8

/-- The T field value of a type (R86). -/
def wtypeCode : WType → Nat
  | .s8 => 0 | .s16 => 1 | .s32 => 2 | .s64 => 3
  | .z8 => 4 | .z16 => 5 | .z32 => 6 | .z64 => 7
  | .b32 => 8 | .b64 => 9 | .f16 => 10 | .bf16 => 11
  | .f32 => 12 | .f64 => 13 | .f16x2 => 14 | .bf16x2 => 15

/-- The 8-bit type code (R86); codes from 0x14 up name nothing. -/
def tcodeOf (n : Nat) : Option TCode :=
  if n < 16 then some (.t (wtypeOf n))
  else match n with
    | 16 => some .s4
    | 17 => some .e4m3
    | 18 => some .e5m2
    | 19 => some .cb4
    | _ => none

/-- The three scope bits (R92); 110 and 111 name nothing. -/
def scopeOf (n : Nat) : Option Scope :=
  match n with
  | 0 => some .wv | 1 => some .wg | 2 => some .cl | 3 => some .dv | 4 => some .sy | 5 => some .pd
  | _ => none

/-- The scope bits of a scope (R92). -/
def scopeCode : Scope → Nat
  | .wv => 0 | .wg => 1 | .cl => 2 | .dv => 3 | .sy => 4 | .pd => 5

/-- The two order bits (R92). -/
def orderOf (n : Nat) : MOrder :=
  match n % 4 with
  | 0 => .rlx | 1 => .acq | 2 => .rel | _ => .ar

/-- The order bits of an order (R92). -/
def orderCode : MOrder → Nat
  | .rlx => 0 | .acq => 1 | .rel => 2 | .ar => 3

/-- The two hint bits (R92); 11 names nothing. -/
def hintOf (n : Nat) : Option Hint :=
  match n with
  | 0 => some .plain | 1 => some .wc | 2 => some .nt | _ => none

/-- The hint bits of a hint (R92). -/
def hintCode : Hint → Nat
  | .plain => 0 | .wc => 1 | .nt => 2

/-- The memory control byte (R92). -/
def ctlOf (n : Nat) : Option Ctl :=
  match scopeOf (bits n 5 3), hintOf (bits n 1 2), bit n 0 with
  | some s, some h, false => some { scope := s, order := orderOf (bits n 3 2), hint := h }
  | _, _, _ => none

/-- The byte of a memory control (R92). -/
def ctlCode (c : Ctl) : Nat := scopeCode c.scope * 32 + orderCode c.order * 8 + hintCode c.hint * 2

/-- The width in bits of a type (R18); packed types are 32 bits wide. -/
def wtypeBits : WType → Nat
  | .s8 | .z8 => 8
  | .s16 | .z16 | .f16 | .bf16 => 16
  | .s32 | .z32 | .b32 | .f32 | .f16x2 | .bf16x2 => 32
  | .s64 | .z64 | .b64 | .f64 => 64

/-- The width in bits of a type code. -/
def tcodeBits : TCode → Nat
  | .t w => wtypeBits w
  | .s4 | .cb4 => 4
  | .e4m3 | .e5m2 => 8

/-- Signed integer types. -/
def isSigned : WType → Bool
  | .s8 | .s16 | .s32 | .s64 => true
  | _ => false

/-- Integer types, signed or unsigned. -/
def isInt : WType → Bool
  | .s8 | .s16 | .s32 | .s64 | .z8 | .z16 | .z32 | .z64 => true
  | _ => false

/-- Floating-point types, the packed ones among them. -/
def isFloat : WType → Bool
  | .f16 | .bf16 | .f32 | .f64 | .f16x2 | .bf16x2 => true
  | _ => false

/-- Types of 64 bits. -/
def isWide : WType → Bool
  | .s64 | .z64 | .b64 | .f64 => true
  | _ => false

end Sys2Proof.Machine
end

