-- ==== Sys2Proof/Machine/State.lean ====
section
/-! DEFINITION. The state of the module as plain data: waves, workgroups, engine jobs, cores, save frames,
grids, contexts, queues, power, presentation, pod and bring-up, with the state after reset
(INVENTORY.md, '## State', lists each field with its rule). Lists of pairs are sparse: a unit not listed
is as it is at reset. -/

namespace Sys2Proof.Machine

/-! ## Faults and refusals -/

/-- The faults of a step. The spec gives no event that stops the module (00 R14): a trap, a halt of a
queue, a stopped line program and the loss of power are all next states. -/
inductive Fault where
  /-- raised by `step` for a turn that names a unit the module does not have (01 R25): the agenda is no
  order of moves of this machine. Safe: nothing is proved about it. -/
  | noSuchUnit
  deriving DecidableEq, Repr

/-- What has no meaning. -/
inductive Refusal where
  /-- raised by an arm of `exec` whose instruction is not modelled yet. Safe. -/
  | notModelled (mnemonic : String)
  deriving DecidableEq, Repr

/-! ## Accumulators and the spillway -/

/-- An owner tag: device context and residency slot (01 R41). -/
structure OwnerTag where
  ctx  : Nat
  slot : Nat
  deriving DecidableEq, Repr

/-- The kind of an accumulator tile (08 R263). -/
inductive TileKind where | empty | fp32 | fp64 | int
  deriving DecidableEq, Repr

/-- An accumulator tile (08 R263): elements that differ from 0, by index. -/
structure Tile where
  owner : Option OwnerTag
  kind  : TileKind
  elems : List (Nat × W32)
  fold  : Option Nat
  deriving DecidableEq, Repr

/-- An entry of the spillway (02 R81): a carry of +1, or of -1 when `neg`. -/
structure SpwEntry where
  owner : OwnerTag
  tile  : Nat
  elem  : Nat
  neg   : Bool
  deriving DecidableEq, Repr

/-! ## Traps -/

/-- The trap kinds (16 R392). -/
inductive TrapKind where
  | illegalWord | priv | uniformity | pageFault | protection | spillwayFull | accOwner | callSpillFault
  | poison | watchdog | shedForce | trap | brk
  deriving DecidableEq, Repr

/-- The source of a trap, SRC of the record (16 R396). -/
inductive TrapSrc where
  | wave | intake | main | outfall | copy | matrixQ | drainQ | scheduler
  deriving DecidableEq, Repr

/-- The 128-byte trap record (16 R396); `none` as kind is KIND 0. -/
structure TrapRecord where
  kind   : Option TrapKind
  src    : TrapSrc
  wave   : Nat
  acc    : BitVec 5
  code   : W32
  pc     : W64
  va     : W64
  mask   : Lanes
  done   : Lanes
  ticket : Nat
  resume : Nat
  slot   : Nat
  /-- SEQW, SEQI, SEQM, SEQO, SEQC, SEQX, SEQD (16 R400). -/
  seqs   : List Nat
  stamp  : Nat
  deriving DecidableEq, Repr

/-- The agent that waits on a trap the pager services (16 R393). -/
inductive TrapWho where
  | wave (slot wave : Nat)
  | seq (slot : Nat) (ctx : SeqCtx)
  | copy (slot : Nat) (copySlot : Nat)
  | engine (slot : Nat) (q : EngineQueue)
  /-- a copy that runs on while its workgroup is saved (16 R402). -/
  | detached (copySlot : Nat)
  /-- the restore of a frame, which waits for spillway entries (16 R417). -/
  | restore (frame : Nat)
  deriving DecidableEq, Repr

/-- A trap raised on a core and not yet serviced, or being serviced (16 R404). -/
structure TrapItem where
  record : TrapRecord
  who  : TrapWho
  ctx  : Nat
  /-- TVAL (07 R249). -/
  tval : W64
  /-- TWORD (07 R249). -/
  word : W64
  /-- the addresses whose pages the agent needs (16 R399). -/
  needs : List Nat
  deriving DecidableEq, Repr

/-! ## Waves -/

/-- What a waiting lane waits for (04 R145, R158, R159; 06 R205, R209, R211, R214, R220). -/
inductive LaneWait where
  | sleep (tck : Nat)
  | waitf (mask : BitVec 12)
  | bar (n phase : Nat)
  | waitb (n phase : Nat)
  | gbar
  | acq (object : W64) (threshold : W64)
  /-- `met`: a write has raised the timeline to the threshold, whatever it holds now (06 R214). -/
  | tlwait (addr : W64) (threshold : W64) (c : Ctl) (park met : Bool)
  | rdv
  deriving DecidableEq, Repr

/-- The state of a lane (04 R145). -/
inductive LaneState where
  | live
  | waiting (w : LaneWait)
  | exited
  deriving DecidableEq, Repr

/-- One lane of a wave (04 R145-R152). -/
structure Lane where
  pc    : W64
  /-- word index of the resume point (04 R147). -/
  ix    : Nat
  /-- call depth D. -/
  depth : Nat
  /-- on-chip return addresses, newest first, at most four (04 R151). -/
  stack : List W64
  state : LaneState
  /-- for each of the eight barriers, one more than the phase of the latest arrival; 0 for none. -/
  arrived : List Nat
  deriving DecidableEq, Repr

/-- The lane group in the middle of a clause (04 R146, R147). -/
structure Group where
  lanes : Lanes
  /-- address of the clause header. -/
  pc    : W64
  /-- the header word (03 R93). -/
  head  : W64
  /-- position of the next word. -/
  ix    : Nat
  deriving DecidableEq, Repr

/-- What completes a pending long-latency word (03 R97, R99). -/
inductive PendKind where
  /-- its result is known and waits to be written: one lane vector per destination register. -/
  | result (vals : List (List W32))
  /-- an LDS that waits for its lines to be full (06 R191): each lane's offset, and the access size. -/
  | lds (offsets : List Nat) (size : Nat)
  /-- a RECV that waits for a queue entry (06 R194), the n-th the workgroup issued. -/
  | recv (n : Nat)
  deriving DecidableEq, Repr

/-- What of the wave waits until a pending word has been performed: nothing, its later stores and atomics, or
all its later accesses (06 R194, R206). -/
inductive Holds where | nothing | writes | accesses
  deriving DecidableEq, Repr

/-- A long-latency word that has issued and not completed (03 R97-R99). -/
structure Pending where
  kind  : PendKind
  /-- the flag it is bound to. -/
  flag  : Nat
  /-- the type that extends its value. -/
  ty    : WType
  mask  : Lanes
  /-- destination vector registers. -/
  regs  : List Nat
  /-- sticky flags it raises when it completes (05 R162). -/
  sticky : BitVec 6
  /-- a word read or wrote its destination before it completed (03 R99). -/
  spoiled : Bool
  /-- its result comes in a reply from beyond the core (16 R416). -/
  reply   : Bool
  /-- what it holds back, where it has not been performed. -/
  holds   : Holds
  /-- the address of the word. -/
  pc      : W64
  deriving DecidableEq, Repr

/-- One stream register of a wave (18 R430): delivered, unread elements, per lane. -/
structure StreamReg where
  held : List (Nat × List W32)
  deriving DecidableEq, Repr

/-- Why a wave's group cannot go on by itself. -/
inductive WaveBlock where
  | none
  /-- a trap of the wave is with the pager (16 R393). -/
  | trapped
  /-- WB, INV or REL: the group waits until the operation is performed (06 R196, R204). -/
  | maintenance
  /-- timeline writes to host memory are in flight, `tag` the first of them (06 R213). -/
  | hostOp (tag : Nat)
  deriving DecidableEq, Repr

/-- A wave (01 R30, R37). -/
structure Wave where
  /-- mapped vector registers: 32 lanes of 32 bits each; a register not listed is unmapped (01 R33). -/
  vregs   : List (Nat × List W32)
  /-- the mapped registers that stand in the backing area (01 R35). -/
  spilled : List Nat
  /-- poisoned lanes of vector registers (16 R416, R418). -/
  poison  : List (Nat × Lanes)
  /-- poisoned scalar registers (16 R418). -/
  spoison : List Nat
  sregs   : List W64
  preds   : List Lanes
  /-- f0-f11: incomplete bound instructions of each flag (03 R97). -/
  flags   : List Nat
  streams : List StreamReg
  lstk    : W64
  lanes   : List Lane
  group   : Option Group
  pending : List Pending
  /-- write-combining buffers: bytes by physical address, not yet performed (00 R23). -/
  wc      : List Host.Cell
  /-- a FENCE with release part makes the next write a release at this scope (14 R375). -/
  fence   : Option Scope
  block   : WaveBlock
  /-- lanes of the group's current word that have already performed it (16 R398). -/
  done    : Lanes
  /-- words issued in this residence, SEQW (16 R400). -/
  issued  : Nat
  /-- the wave has ended (04 R155). -/
  ended   : Bool
  deriving DecidableEq, Repr

/-! ## Engine jobs -/

/-- What completes a reserved token push (07 R225). -/
inductive PushOn where
  | now
  | copy (ctx : SeqCtx) (num : Nat)
  | ticket (n : Nat)
  | ldg (ctx : SeqCtx) (id : Nat)
  | rdv (ctx : SeqCtx) (k : Nat)
  deriving DecidableEq, Repr

/-- A token ring direction: the tokens present, and the reserved pushes in issue order, each with whether
its effect is complete (07 R223-R225). -/
structure Ring where
  tokens   : Nat
  reserved : List (PushOn × Bool)
  deriving DecidableEq, Repr

/-- An access of LDG that has not returned (07 R231, R235). -/
structure LdgWait where
  id    : Nat
  reg   : Nat
  value : W64
  deriving DecidableEq, Repr

/-- A sequencer context of an engine job (01 R40; 07 R245-R247). -/
structure SeqState where
  g      : List W64
  pc     : Nat
  halted : Bool
  /-- its RDV waits (07 R245). -/
  rdv    : Option SWord
  rdvs   : Nat
  /-- the latest copy number (07 R236). -/
  copies : Nat
  ldgs   : List LdgWait
  nextId : Nat
  /-- registers that hold poisoned data (16 R416, R418). -/
  poison : List Nat
  /-- the tck at which its CPY arrived, while the CPY waits for a copy slot (07 R236; 18 R435). -/
  copySince : Option Nat
  /-- a trap of the context is with the pager. -/
  trapped : Bool
  issued : Nat
  deriving DecidableEq, Repr

/-- An overlay load in progress (07 R246). -/
structure OvlLoad where
  ctx   : SeqCtx
  /-- first store offset and length. -/
  at_   : Nat
  bytes : List Byte
  deriving DecidableEq, Repr

/-- A word of an engine queue (07 R238, 08 R261). -/
structure QueueWord where
  opx    : Nat
  w      : MWord
  ticket : Nat
  /-- its number among the words the job has handed over; words of one nest share a ticket. -/
  ord    : Nat
  /-- a nest's generator made it. -/
  nest   : Bool
  /-- a generated offset that leaves its 20-bit field (08 R285). -/
  astray : Bool
  /-- scratchpad bytes that a wave has stored to since the word was accepted: it reads unspecified values there
  (08 R279). -/
  raced  : List (Nat × Nat)
  deriving DecidableEq, Repr

/-- How far the head word of an engine queue has come (08 R270-R277; 20 R452). -/
inductive HeadPhase where
  | waiting
  /-- its demand is with the headgate. -/
  | presented
  /-- the headgate has granted its demand. -/
  | granted
  /-- it runs, or waits in the array for an operand line or, in an MSTEP, for the next try of a pass. -/
  | running
  /-- a pass waits for spillway room in STALL mode, with the count of R270. -/
  | stalled (count : Nat)
  /-- stopped by SPILLWAY_FULL (08 R271). -/
  | stopped
  /-- its work is done; its completion remains. -/
  | finished
  deriving DecidableEq, Repr

/-- A weight latch (08 R264): raw elements by rows, and the codebook for cb4. -/
structure Latch where
  fmt      : Nat
  k        : Nat
  n        : Nat
  weights  : List (List Nat)
  codebook : List Nat
  deriving DecidableEq, Repr

/-- The word of the weight loader, dequeued and not completed (08 R261), with the latch it has loaded (08 R265). -/
structure LoaderRun where
  q     : QueueWord
  phase : HeadPhase
  begun : Bool
  latch : Option Latch
  deriving DecidableEq, Repr

/-- Whether a word has started (08 R261). -/
def HeadPhase.started : HeadPhase → Bool
  | .running | .stalled _ | .stopped | .finished => true
  | .waiting | .presented | .granted => false

/-- An engine queue: its words in ticket order, and how far the head word has come: whether it has started,
its next pass and the flags raised so far. A started head word occupies the array or the drain unit; the weight
loader's word stands beside the queue. -/
structure EngineQ where
  words   : List QueueWord
  loader  : Option LoaderRun
  /-- finished words behind which a later word has started, with their flags: their completion remains. -/
  finishing : List (QueueWord × BitVec 6)
  phase   : HeadPhase
  begun   : Bool
  pass    : Nat
  sticky  : BitVec 6
  /-- a trap of the head word is with the pager. -/
  trapped : Bool
  /-- words started in this residence: SEQX or SEQD (16 R400). -/
  started : Nat
  deriving DecidableEq, Repr

/-- Where the expansion of a nest stands (08 R283). -/
inductive NestStage where
  /-- the two MCLRs before the first point. -/
  | clear0 | clear1
  /-- at the current point: its MDRAIN, WLOAD, MSTEP, MFOLD come in this order. -/
  | drain | load | step | fold
  /-- the MDRAIN after the last point. -/
  | last
  deriving DecidableEq, Repr

/-- The active loop nest (08 R283): its table and ticket, and the variables of the expansion; `point` holds
the indices, level 0 first. -/
structure NestRun where
  table  : List Byte
  ticket : Nat
  stage  : NestStage
  point  : List Nat
  tile   : Nat
  slot   : Nat
  lastw  : Option Int
  cur    : Option Int
  run    : Nat
  deriving DecidableEq, Repr

/-- A SPILLWAY_FULL waiting for, or in, its handler (16 R403; 19 R447). -/
structure SpwStop where
  tval      : W64
  delivered : Bool
  /-- the ticket of the first drain word handed over after the delivery. -/
  drain     : Option Nat
  deriving DecidableEq, Repr

/-- The engine job of a workgroup (01 R40-R42; 07 R223-R247; 08 R261-R264). -/
structure Job where
  intake   : SeqState
  main     : SeqState
  outfall  : SeqState
  ringIF   : Ring
  ringIR   : Ring
  ringOF   : Ring
  ringOR   : Ring
  /-- the overlay loader has placed the image and the contexts have started (07 R229). -/
  started  : Bool
  /-- the latest ticket, and the incomplete tickets with the words each still owes; a running nest's
  ticket is kept open by the nest. -/
  ticket   : Nat
  open_    : List (Nat × Nat)
  pace     : List Nat
  shadow   : List Byte
  nest     : Option NestRun
  /-- words handed to the queues so far. -/
  handed   : Nat
  matrixQ  : EngineQ
  drainQ   : EngineQ
  slots    : List (Option Latch)
  spwStop  : Option SpwStop
  ovl      : Option OvlLoad
  tscr0    : W64
  tscr1    : W64
  ended    : Bool
  deriving DecidableEq, Repr

/-! ## Copies -/

/-- Who handed a copy command over (07 R236, R258). -/
inductive CopyFrom where
  | seq (ctx : SeqCtx) (num : Nat)
  | ring (k : Nat)
  deriving DecidableEq, Repr

/-- An accepted, uncompleted copy (07 R251-R257; 18 R435-R440). -/
structure Copy where
  /-- W0 to W3 of the command. -/
  cmd      : List W64
  from_    : CopyFrom
  /-- the completion timeline; 0 for none. -/
  timeline : W64
  core     : Nat
  slot     : Nat
  /-- chunks complete: the next one is the lowest incomplete. -/
  done     : Nat
  /-- chunks in progress. -/
  running  : List Nat
  /-- REDUCE elements performed in chunks not complete (18 R439). -/
  marks    : List Nat
  /-- elements delivered to a stream register (18 R430). -/
  sent     : Nat
  /-- values read for delivery, in element order. -/
  fetched  : List W32
  /-- a fault of the copy is with the pager, or held for the host: the chunk and its trap. -/
  fault    : Option TrapItem
  /-- stopped by a save at a chunk boundary; it has given up its slot (16 R402). -/
  stopped  : Bool
  /-- it runs on while its workgroup is saved (16 R402). -/
  detached : Bool
  sticky   : BitVec 6
  deriving DecidableEq, Repr

/-- A header as the engine read it at a notification: entries below `upto` are read at BASE and ENTRIES,
and advance TLADDR (07 R512). -/
structure RingView where
  upto     : Nat
  base     : Nat
  entries  : Nat
  timeline : W64
  /-- the tck of the notification, the entries' arrival (07 R236; 18 R435). -/
  since    : Nat
  deriving DecidableEq, Repr

/-- The engine's side of a workgroup's copy ring (07 R258-R260; 17 R421). -/
structure CopyRing where
  tail    : Nat
  taken   : Nat
  done    : Nat
  /-- entries above DONE whose copies have completed. -/
  ahead   : List Nat
  stopped : Bool
  views   : List RingView
  deriving DecidableEq, Repr

/-! ## Workgroups -/

/-- An entry of a gang receive queue: its sender's gang index; its lanes' values stand in the scratchpad
(06 R193; 18 R432). -/
structure Message where
  sender : Nat
  deriving DecidableEq, Repr

/-- What one tck has done to a workgroup's flag word (01 R38; 04 R143). -/
structure FlagTck where
  tck    : Nat
  /-- the flag word before it, which RDSP reads in it. -/
  before : BitVec 6
  sets   : BitVec 6
  /-- the WRSP that stands: the WAVEID of its wave and the value. -/
  write  : Option (Nat × BitVec 6)
  deriving DecidableEq, Repr

/-- What a workgroup parks at: a shed point, BAR's or GBAR's, or TLWAIT.park (06 R210, R211, R215). -/
inductive Park where | shedPoint | timeline
  deriving DecidableEq, Repr

/-- A pre-emption in effect or a save under way (13 R359, R360). -/
inductive Preempt where
  /-- a drain, with the tile's tck at which its window ends and the grid it is for. -/
  | drain (until_ : Nat) (grid : Nat)
  /-- the workgroup issues nothing; its save is under way, with its record, whether the host must give a
  verdict (16 R393), and what it parks at, if it does. -/
  | saving (rec : TrapRecord) (stop : Bool) (park : Option Park)
  deriving DecidableEq, Repr

/-- A workgroup, resident or saved (01 R27-R30, R37-R38; 13 R349-R363). -/
structure Workgroup where
  grid     : Nat
  ctx      : Nat
  /-- linear index (01 R28). -/
  wgl      : Nat
  /-- residency slot, base partition and first scratchpad byte on its core (13 R350). -/
  slot     : Nat
  part     : Nat
  base     : Nat
  waves    : List Wave
  job      : Option Job
  /-- the live flag word SA, IV, DZ, OF, UF, NX (01 R38). -/
  flags    : BitVec 6
  /-- the latest tck in which the flag word was set or written; none since the latest start or restore. -/
  flagTck  : Option FlagTck
  /-- scratchpad bytes that differ from 0, by offset (01 R45; 13 R351). -/
  scratch  : List Host.Cell
  /-- poisoned scratchpad bytes (16 R418). -/
  poison   : List Nat
  /-- phase counters of the eight barriers (06 R208). -/
  barriers : List Nat
  perf     : Nat
  /-- the tck of the latest SETPERF, and of the latest PROGRESS, in this residence (06 R218, R219). -/
  perfAt   : Option Nat
  progressAt : Option Nat
  /-- the remaining estimate last set, and the tile's tck when it was set (13 R359). -/
  estimate : Nat × Nat
  /-- the tck since it was set that passed in earlier residences (13 R359). -/
  aged     : Nat
  /-- tile's tck at the latest start or restore (13 R359). -/
  started  : Nat
  /-- marked to shed: the fck at which its grace expires (13 R362). -/
  shed     : Option Nat
  preempt  : Option Preempt
  /-- the fck at which the save under way began (16 R416). -/
  saveAt   : Nat
  copies   : List Copy
  ring     : CopyRing
  queue    : List Message
  /-- entries appended so far: the next one stands at slot `appended` mod 16 of the queue (18 R432). -/
  appended : Nat
  /-- RECVs issued so far (06 R194). -/
  recvs    : Nat
  /-- free-entry counts this member holds, by gang index of the target (18 R433). -/
  credits  : List (Nat × Nat)
  /-- arrived at GBAR in the generation in force (06 R211). -/
  gbar     : Bool
  /-- rendezvous completed (06 R220). -/
  rdvs     : Nat
  /-- watchdog count in tck (16 R419). -/
  watchdog : Nat
  /-- copies accepted in this residence, SEQC (16 R400). -/
  seqc     : Nat
  deriving DecidableEq, Repr

/-- A save frame in use (16 R394-R396). -/
structure Frame where
  record   : TrapRecord
  lateFlags : BitVec 6
  /-- TILECORE and TILEMASK (16 R395, R417). -/
  tileCore : Option Nat
  tileMask : BitVec 8
  wg       : Workgroup
  /-- saved accumulator tiles and their spillway entries (16 R417). -/
  tiles    : List (Nat × Tile)
  entries  : List SpwEntry
  /-- the engine job's part of the instruction store. -/
  store    : List Host.Cell
  /-- stopped for the host's verdict, in order of stopping (16 R406). -/
  stopped  : Option Nat
  /-- the core it was saved from, and the fck and that core's tck of the save, or of a parked one's restore becoming
  permitted; none until then (13 R354). -/
  core     : Nat
  since    : Option (Nat × Nat)
  /-- parked in TLWAIT.park or at a shed point: its restore waits for the conditions, or for GBAR's barrier
  (06 R211, R215). -/
  parked   : Option Park
  poisoned : Bool
  deriving DecidableEq, Repr

/-! ## Cores -/

/-- An L1 line: 128 bytes, and which of them are dirty (14 R376). -/
structure L1Line where
  line  : Nat
  bytes : List Byte
  dirty : BitVec 128
  deriving DecidableEq, Repr

/-- A line that a core's instruction caches hold (01 R25): 128 bytes as they stood beyond every L1. -/
structure CodeLine where
  line  : Nat
  bytes : List Byte
  deriving DecidableEq, Repr

/-- A cached leaf translation (16 R412): its context, the page's first VA and size, and the leaf. -/
structure TlbEntry where
  ctx  : Nat
  va   : Nat
  size : Nat
  leaf : W64
  deriving DecidableEq, Repr

/-- A table that a quadrant's walk cache holds (16 R412): its context, the first address of the span it translates,
its level and its physical address. -/
structure CachedTable where
  ctx   : Nat
  va    : Nat
  level : Nat
  table : Nat
  deriving DecidableEq, Repr

/-- The privileged trap context of a core (07 R248, R249). -/
structure TrapCtx where
  /-- the trap being serviced. -/
  item : Option TrapItem
  g    : List W64
  pc   : Nat
  tepc : W64
  ldgs : List LdgWait
  /-- TSCR0 and TSCR1 as the trap context holds them. -/
  tscr0 : W64
  tscr1 : W64
  /-- the core's trap-entry record, TREC0 to TREC15 (16 R401). -/
  rec_ : TrapRecord
  /-- an escalation has not returned: the trap context issues nothing (07 R250). -/
  escalating : Bool
  /-- registers that hold poisoned data. -/
  poison : List Nat
  deriving DecidableEq, Repr

/-- A core's gang reservation (13 R352, R353): the grid, the member, and the frame it is restored from. -/
structure Reservation where
  grid  : Nat
  wgl   : Nat
  frame : Option Nat
  deriving DecidableEq, Repr

/-- What a workgroup takes of a core (13 R349): its residency slot, base partition, scratchpad, the partitions of its
waves, its reservation of registers, and whether it carries an engine job. -/
structure Occupant where
  slot    : Nat
  part    : Nat
  base    : Nat
  scratch : Nat
  parts   : List Nat
  regs    : Nat
  engine  : Bool
  deriving DecidableEq, Repr

/-- A compute core (01 R25; 13 R349; 16 R412-R414). -/
structure ComputeCore where
  wgs     : List (Nat × Workgroup)
  /-- instruction-store bytes that differ from 0 (01 R40). -/
  store   : List Host.Cell
  tiles   : List (Nat × Tile)
  spw     : List SpwEntry
  l1      : List L1Line
  /-- the instruction caches (01 R25; 11 R339). -/
  icache  : List CodeLine
  tlb     : List TlbEntry
  trap    : TrapCtx
  trapQ   : List TrapItem
  wheel   : Nat
  reserve : Option Reservation
  /-- the claim whose reply is on its way: grid, first index, count (13 R348). -/
  claim   : Option (Nat × Nat × Nat)
  /-- the cores on which the gang claim on its way will reserve members, as the claim chose them (13 R352). -/
  gang    : List Nat
  /-- the tck of the latest shed point or forced checkpoint there, which the level in force decided, or of the latest read of
  SHEDLV there (21 R456, R458). -/
  levelAt : Option Nat
  /-- the room that drained workgroups freed here, each for the grid that takes it before any other source (13 R360). -/
  promised : List (Nat × Occupant)
  spillCnt  : W64
  refillCnt : W64
  tlbMiss   : W64
  pfCount   : W64
  /-- CERR: SPW_STRAY, MORE, SRC (16 R414). -/
  stray   : Bool
  more    : Bool
  strayBy : BitVec 10
  deriving DecidableEq, Repr
/-! ## Grids, contexts, queues -/

/-- The fields of a launch parameter block as read at acceptance (01 R49, R51). -/
structure Lpb where
  kimg : W64
  gridX : Nat
  gridY : Nat
  gridZ : Nat
  waves : Nat
  claim : Nat
  gang : Nat
  cls : Nat
  scratch : Nat
  maxRegs : Nat
  /-- the MODE byte: IDEM, RETRY, SPWMODE, ENGINE. -/
  mode : BitVec 8
  estimate : Nat
  argBase : W64
  regTab : W64
  tlAddr : W64
  tlVal : W64
  lstkBase : W64
  lstkStride : Nat
  seqImg : W64
  deriving DecidableEq, Repr

/-- A buffer entry of LAUNCH_GRID (11 R325). -/
structure BufferEntry where
  base  : Nat
  bytes : Nat
  scope : Scope
  rel   : Bool
  acq   : Bool
  deriving DecidableEq, Repr

/-- An entry of a context's region table (06 R202; 14 R379-R381); `grid` is the grid whose REGTAB added it. -/
structure Region where
  base   : Nat
  len    : Nat
  object : Nat
  scope  : Scope
  grid   : Option Nat
  deriving DecidableEq, Repr

/-- An accepted grid that has not completed (13 R347, R357, R365-R367). -/
structure Grid where
  /-- accept sequence number. -/
  id    : Nat
  ctx   : Nat
  /-- the hardware queue it came from; none for a device launch. -/
  queue : Option Nat
  lpbAddr : W64
  lpb   : Lpb
  /-- address of the first clause header. -/
  entry : W64
  next  : Nat
  total : Nat
  /-- the range of linear indices it may claim from starts here; a stolen range starts above 0. -/
  first : Nat
  /-- the priority token T (13 R357), and the fck of waiting that have not yet made it grow. -/
  token : Nat
  waited : Nat
  /-- barrier generation (06 R211). -/
  gen   : Nat
  /-- the cores its workgroups have run on. -/
  cores : List Nat
  /-- linear indices of completed workgroups that have started (13 R367). -/
  completed : List Nat
  /-- queued relaunches: order number, shared with saves, and linear index (13 R354, R366). -/
  relaunch : List (Nat × Nat)
  /-- retries used, by linear index (13 R365). -/
  retries : List (Nat × Nat)
  /-- WAITPREV: it starts nothing while one of these grids has not completed (11 R324). -/
  after : List Nat
  buffers : List BufferEntry
  /-- the ACQ maintenance of its buffers is done (11 R325). -/
  acquired : Bool
  /-- ranges reserved for other modules: thief, start, count, indices reported (25 R502). -/
  stolen : List (Nat × Nat × Nat × List Nat)
  /-- a range stolen from another module: its module, and its grid there (25 R502). -/
  home : Option (Nat × Nat)
  deriving DecidableEq, Repr

/-- A position in an indirect buffer: address, length and next word (11 R326). -/
structure BufferPos where
  addr : Nat
  len  : Nat
  next : Nat
  deriving DecidableEq, Repr

/-- What a queue's parsing waits on (11 R324). -/
inductive QueueWait where
  | none
  /-- TL_WAIT on a timeline; `met` as for a lane (11 R332). -/
  | timeline (addr : W64) (threshold : W64) (scope : Scope) (met : Bool)
  /-- BARRIER, DRAIN or PRESENT: the grids that must complete first; the packet is parsed again then. -/
  | grids (ids : List Nat)
  /-- a timeline write to host memory is in flight. -/
  | hostOp (id : Nat)
  deriving DecidableEq, Repr

/-- The writes to a QTAIL that have arrived in one fck (11 R320): the fck, the tail before them, and their values. -/
structure TailBurst where
  fck    : Nat
  tail   : Nat
  values : List Nat
  deriving DecidableEq, Repr

/-- A hardware queue (11 R318-R328). -/
structure HwQueue where
  tail  : Nat
  burst : Option TailBurst
  head  : Nat
  base  : W64
  bound : Bool
  log2  : Nat
  ctx   : Nat
  ctxErr : Bool
  ringFault : Bool
  pktErr : Bool
  tailJump : Bool
  halted : Bool
  errPos : Nat
  /-- indirect buffers being parsed, innermost first. -/
  bufs  : List BufferPos
  wait  : QueueWait
  /-- grids accepted from the queue that have not completed. -/
  grids : List Nat
  deriving DecidableEq, Repr

/-- A device context (11 R331-R338; 14 R379-R385; 16 R406-R407; 25 R498). -/
structure Context where
  created : Bool
  root    : Nat
  /-- CTXERR (11 R334). -/
  refusals : Nat
  errOffset : Nat
  errQueue : Nat
  errDevice : Bool
  unreadable : Bool
  retryOut : Bool
  lpbInvalid : Bool
  tlFail : Bool
  err : Bool
  errAddr : W64
  /-- TLEVT (11 R331). -/
  evtAddr : W64
  /-- the latest fck with an event, and whether REWOUND and SATURATED were set in it. -/
  evtAt   : Option (Nat × Bool × Bool)
  rewound : Bool
  saturated : Bool
  ovfBase : W64
  ovfEnt  : Nat
  /-- the four class queues: address and image of each LPB. -/
  launchQ : List (List (W64 × List Byte))
  /-- overflow ring: index of its head entry, and the class and LPB address of its entries in order. -/
  ovfHead : Nat
  ovf     : List (Nat × W64)
  flowMode : BitVec 4
  /-- frames of the fault list, oldest first (16 R406). -/
  faultList : List Nat
  /-- invalidations in progress: VA and N (16 R407). -/
  tlbInv  : List (Nat × Nat)
  wdLimit : W32
  stopAll : Bool
  regions : List Region
  pasid   : Option (BitVec 20)
  /-- POD_PEER: module and context there. -/
  peer    : Option (Nat × Nat)
  deriving DecidableEq, Repr

/-- A bind record (13 R345). -/
structure BindRec where
  tileMask : W64
  maxCores : Nat
  perfCeil : Nat
  noVictim : Bool
  valid    : Bool
  deriving DecidableEq, Repr

/-- A mailbox (11 R340). -/
structure Mailbox where
  req    : List W64
  rsp    : List W64
  seq    : W32
  result : BitVec 8
  done   : Bool
  busy   : Bool
  deriving DecidableEq, Repr

/-- A virtual function's grant (25 R498). -/
structure Grant where
  firstQ : Nat
  countQ : Nat
  firstC : Nat
  countC : Nat
  base   : Nat
  log2   : Nat
  heads  : Bool
  deriving DecidableEq, Repr

/-- Who waits for a timeline write to host memory (06 R213). -/
inductive HostOpWho where
  /-- a lane of a wave; `tag` is the first of the operations its word sent. -/
  | wave (r : WaveRef) (lane tag : Nat)
  | queue (q : Nat)
  | copy (ctx : Nat)
  | grid (id : Nat)
  deriving DecidableEq, Repr

/-- A PCIe AtomicOp in flight (06 R213): a Swap of `value`, or a CAS request that offers the saturating sum
of `value` and `expect`. -/
structure HostOp where
  id    : Nat
  ctx   : Nat
  addr  : Nat
  va    : W64
  add   : Bool
  value : W64
  expect : W64
  /-- the PASID its request carries (25 R498, R499). -/
  pasid : Option (BitVec 20)
  who   : HostOpWho
  deriving DecidableEq, Repr

/-! ## Power -/

/-- A word that presented a demand to the headgate (20 R452): its core and queue, and the tck it began to
wait; the weight loader's word stands in the matrix queue. -/
structure Demand where
  core  : Nat
  q     : EngineQueue
  loader : Bool
  need  : Nat
  since : Nat
  /-- the tck of its occupancy that remain (08 R276, R277). -/
  left  : Nat
  deriving DecidableEq, Repr

/-- A tile's headgate (20 R449-R454; 22 R469-R470). -/
structure Headgate where
  pos     : Nat
  ramp    : List Nat
  /-- a pending ramp table (22 R469). -/
  pend    : Option (List Nat)
  badRamp : Bool
  rot     : Nat
  /-- the tck and the grid of the latest GBAR that set ROT (20 R453). -/
  rotBy   : Option (Nat × Nat)
  /-- the tck of the ramp start, while the ramp clock runs (20 R450). -/
  start   : Option Nat
  waiting : List Demand
  holding : List Demand
  /-- the filler of the tck: sixteenths on the arrays of cores, in the rotated order (20 R454). -/
  filling : List (Nat × Nat)
  fill    : W64
  deriving DecidableEq, Repr

/-- A tile (01 R25, R37; 22 R461-R470). -/
structure Tile64 where
  tck    : Nat
  mhz    : Nat
  /-- rail voltage in units of 1/400 mV: a move takes one unit each fck (22 R462). -/
  rail   : Nat
  target : Nat
  pend   : Option Nat
  moving : Bool
  lvCap  : Nat
  /-- OPTAB: MV and LVMAX of the sixteen points. -/
  opTab  : List (Nat × Nat)
  perfCap : Nat
  /-- the levels in force in this tck, of local clusters 0 to 2 (22 R467). -/
  force   : List Nat
  /-- the point the firmware has chosen and not yet written to VMBOX (22 R464). -/
  wanted  : Option Nat
  gate   : Headgate
  deriving DecidableEq, Repr

/-- The module power page (22 R472-R478). -/
structure PowerPage where
  lossLvl : Nat
  floor   : Nat
  slv     : Nat
  /-- the level in force, SHEDLV. -/
  level   : Nat
  /-- levels decided and not yet in force, in order of decision (22 R475). -/
  decided : List Nat
  loss    : Bool
  link    : Bool
  /-- the restore window: start in fck and target. -/
  window  : Option (Nat × Nat)
  lastTarget : Nat
  /-- SHELFLAST: FLG, SEQ, FDEV, VBUS. -/
  lastFlg : BitVec 2
  lastSeq : BitVec 8
  lastDev : BitVec 16
  lastBus : BitVec 16
  frames  : W32
  crcErr  : BitVec 16
  gaps    : BitVec 16
  draw    : BitVec 16
  vcurve  : List W64
  fcurve  : List W64
  fband   : BitVec 16
  vband   : BitVec 16
  lossTime : BitVec 16
  grace   : Nat
  rdelay  : BitVec 16
  paceDrain  : BitVec 16
  paceMatrix : BitVec 16
  paceCopy   : BitVec 16
  /-- the latest voltage and deviation readings (22 R474). -/
  vLast   : Option Nat
  fLast   : Option Int
  /-- arrival of the last valid frame, in fck. -/
  arrival : Nat
  /-- a reply is due: the SEQ and the level decided at the frame (22 R473). -/
  replyDue : Option (BitVec 8 × Nat)
  /-- the last reply sent. -/
  reply   : List Byte
  deriving DecidableEq, Repr

/-! ## Presentation -/

/-- A frame descriptor (23 R479). -/
structure FrameDesc where
  width  : Nat
  height : Nat
  colOff : Nat
  colStr : Nat
  depOff : Nat
  depStr : Nat
  motOff : Nat
  motStr : Nat
  deriving DecidableEq, Repr

/-- A head's view of the frame slots, for one presented frame (24 R489). -/
structure View where
  slots : List (Option FrameDesc)
  cur   : Option Nat
  deriving DecidableEq, Repr

/-- A presented frame with bands dispatched or lines to scan (24 R487-R490). -/
structure HeadFrame where
  frame : Nat
  view  : View
  /-- bands dispatched so far. -/
  bands : Nat
  deriving DecidableEq, Repr

/-- A display head (23 R480-R481; 24 R484-R494, R515). -/
structure Head where
  cores   : BitVec 16
  capEn   : Bool
  dpEn    : Bool
  depth   : Nat
  run     : Bool
  vtot    : Nat
  vact    : Nat
  hact    : Nat
  lead    : Nat
  bandLines : Nat
  guard   : Nat
  latch   : Nat
  linePer : Nat
  lpLen   : Nat
  lpAddr  : Nat
  cfgErr  : Bool
  running : Bool
  bypass  : W32
  late    : W32
  capDrop : BitVec 16
  overrun : BitVec 16
  bypLines : W32
  bypCfg  : W64
  capN    : Nat
  capBase : Nat
  capCnt  : W32
  capStr  : W32
  bpp16   : BitVec 12
  dsc     : Bool
  rate    : BitVec 2
  lanesDp : BitVec 2
  poseW : List W64
  /-- the published record, the fck of its commit, and the record published before that fck (23 R481). -/
  published : List W32
  publishedAt : Nat
  before    : List W32
  poseSeq : W64
  /-- the lck in which the head started. -/
  start   : Nat
  /-- the beam line count, not wrapped: LCNT is its low 32 bits (23 R480; 24 R486). -/
  line    : Nat
  /-- RUN is cleared: the line at which the head stops (24 R485). -/
  stopAt  : Option Nat
  /-- the record that latches of this line's fck copy (23 R481). -/
  snap    : List W32
  /-- the lines below it have their record latched; the lines below `closedTo` are closed. -/
  latchedTo : Nat
  closedTo  : Nat
  /-- latched records by target line, latest first, at most 256 (09 R300). -/
  latched : List (Nat × List W32)
  /-- pending PRESENTs in the order of their handovers: slot, descriptor. -/
  pending : List (Nat × Option FrameDesc)
  view    : View
  /-- the views of the latest frames. -/
  frames  : List HeadFrame
  /-- the next band of each rank: frame and band (24 R487). -/
  next    : List (Nat × Nat)
  /-- pixels of lines not yet scanned: line, column, components (09 R313). -/
  fifo    : List (Nat × Nat × Nat × Nat × Nat)
  /-- the line being scanned: column, components. -/
  scan    : List (Nat × Nat × Nat × Nat)
  /-- lines in the capture path: frame, address, bytes; and the frames presented whole (24 R494). -/
  capQ    : List (Nat × Nat × List Byte)
  capDone : List Nat
  /-- whether CAPCFG, and CAPGEO, were last written while CAPEN was 1 (24 R494). -/
  cfgHeld : Bool
  geoHeld : Bool
  deriving DecidableEq, Repr

/-- The band a line core runs (24 R487). -/
structure Band where
  head  : Nat
  frame : Nat
  first : Nat
  lines : Nat
  deriving DecidableEq, Repr

/-- An EMIT on its way to the scan FIFO (09 R313): its beam line, and its pixels by column with their codes. -/
structure LineEmit where
  line   : Int
  pixels : List (Nat × Nat × Nat × Nat)
  deriving DecidableEq, Repr

/-- A result of a line core that has not arrived (09 R293; 24 R488): the h registers it writes with its values by
lane, and the lanes it writes; or an EMIT that has not reached the scan FIFO. -/
structure LineResult where
  regs : List (Nat × List W32)
  mask : BitVec 16
  emit : Option LineEmit := none
  deriving DecidableEq, Repr

/-- The registers a bundle reads, as they stood when it issued (09 R292). -/
structure LineSnap where
  pc : Nat
  h : List (List W32)
  k : List W32
  y : List (BitVec 16)
  deriving DecidableEq, Repr

/-- A line core (01 R43; 09 R289-R295, R314). -/
structure LineCore where
  pc     : Nat
  h      : List (List W32)
  k      : List W32
  y      : List (BitVec 16)
  /-- line-buffer bytes that differ from 0. -/
  buffer : List Host.Cell
  /-- weight sets W0-W3: 32 rows of 32 bf16 bit patterns; an unlisted set holds +0. -/
  sets   : List (Nat × List (List (BitVec 16)))
  /-- LCFAULT. -/
  faultPc : Nat
  faultSlots : BitVec 4
  faultCode : Nat
  faultValid : Bool
  /-- the program store: bundles. -/
  store  : List (BitVec 128)
  head   : Option Nat
  band   : Option Band
  stopped : Bool
  results : List LineResult
  snap   : LineSnap
  deriving DecidableEq, Repr

/-! ## Pod, bring-up, management -/

/-- A step's entry of the bring-up record (25 R505). -/
structure RecEntry where
  outcome : Nat
  failed  : Nat
  bitmap  : List Nat
  deriving DecidableEq, Repr

/-- A copy of the bring-up record (25 R505). -/
structure BringUpRecord where
  seq     : Nat
  entries : List RecEntry
  /-- its CRC holds: no loss of power cut its write off. -/
  whole   : Bool
  deriving DecidableEq, Repr

/-- A firmware image slot (25 R506): the image with its 256-byte header. -/
structure FwSlots where
  slotA : List Byte
  slotB : List Byte
  /-- the slot in use is B. -/
  useB  : Bool
  /-- the fused minimum of the anti-rollback counter. -/
  minCounter : Nat
  /-- the slot chosen failed its verification. -/
  failedA : Bool
  failedB : Bool
  /-- an update wrote the slot not in use: it is used from the next start. -/
  updated : Bool
  deriving DecidableEq, Repr

/-- A base die, the presentation die or the I/O die: its rail is up, and its master clock's count (01 R26). -/
structure Island where
  rail  : Bool
  clock : Nat
  deriving DecidableEq, Repr

/-- The policy processor: its registers and its 256 KiB of tightly coupled memory (01 R26). -/
structure PolicyCore where
  x   : List W32
  pc  : W32
  mem : List Host.Cell
  deriving DecidableEq, Repr

/-- The module (25 R495-R508). -/
structure ModuleState where
  powered : Bool
  ready   : Bool
  /-- a thermal trip removed the rails: the next start records step 1 as failed (25 R508). -/
  tripped : Bool
  failStep : Nat
  uncErr  : Bool
  fwFail  : Bool
  replace : Bool
  /-- FWSTATE: 0 BOOTING, 1 RUNNING, 2 RESTARTING, 3 FAILED. -/
  fwState : Nat
  fencedTiles : List Nat
  fencedCores : List Nat
  fencedLine  : List Nat
  deadLinks   : List Nat
  slowCh      : List Nat
  deadHeads   : List Nat
  presOff     : Bool
  pcieSlow    : Bool
  /-- the shelf port did not start: LINK stays 0. -/
  shelfOff    : Bool
  recordA : BringUpRecord
  recordB : BringUpRecord
  /-- the configuration record in flash: register writes, and the pod section: the module's number, and the modules to
  which routes lead (22 R460; 25 R500). -/
  config  : List (Nat × W64)
  podNum  : Nat
  podRoutes : List Nat
  /-- the module's number and the modules its programmed routes lead to, as the firmware has set them up (25 R500). -/
  modNum  : Nat
  routes  : List Nat
  /-- the size of BAR 2 of the physical function: log₂ of GiB (25 R499). -/
  bar2Log : Nat
  stage1  : FwSlots
  policy  : FwSlots
  pager   : FwSlots
  /-- measurements locked for attestation (25 R507). -/
  measured : List (List Byte)
  reply   : List Byte
  policyCore : PolicyCore
  deriving DecidableEq, Repr

/-- The pod side (25 R501-R503). -/
structure PodState where
  gen     : W32
  entries : List TokenEntry
  seen    : W32
  /-- fck of the last token. -/
  seenAt  : Nat
  /-- steal requests that name this module and have not been acted on: thief and WANT. -/
  steals  : List (Nat × Nat)
  /-- accesses performed here of each agent on each ordered flow, by module, context, flow and agent (14 R386). -/
  order   : List ((Nat × Nat × Nat × Nat) × Nat)
  /-- ranges and reports sent on VC 2, and responses sent on VC 1: the outside world takes them. -/
  sent    : List StealRange
  reports : List (Nat × Nat × Nat)
  responses : List (Nat × List Byte)
  deriving DecidableEq, Repr

/-! ## The machine -/

/-- The agent a word is issued for. -/
inductive Agent where
  | none
  | wave (r : WaveRef)
  | seq (core : Nat) (ctx : SeqCtx)
  | engine (core : Nat) (q : EngineQueue)
  | line (lc : Nat)
  | packet (q : Nat)
  | mail (f : Nat)
  deriving DecidableEq, Repr

/-- Where a loss of power cuts a bring-up step off: in the write of its entry before it begins, between its two writes of the
record, or in the write of its outcome (25 R504, R505). -/
inductive OutageAt where | beginning | work | ending
  deriving DecidableEq, Repr

/-- Who moves next: the model's own field, plain data in place of the hardware's arbitration and of the
outside world (assumption log, entry 1). -/
inductive Turn where
  /-- a wave: the start of a clause, or its group's next word. -/
  | wave (r : WaveRef)
  /-- one wheel position of a core's sequencer (07 R222). -/
  | seq (core : Nat)
  /-- the head word of an engine queue starts. -/
  | engine (core : Nat) (q : EngineQueue)
  /-- a line core's next bundle. -/
  | line (lc : Nat)
  /-- the next packet of a queue. -/
  | packet (q : Nat)
  /-- the policy processor takes a mailbox's request. -/
  | mail (f : Nat)
  | event (i : Instr)
  /-- time passes: tck of a tile, fck of the fabric, lck of the presentation die. -/
  | tck (tile n : Nat)
  | fck (n : Nat)
  | lck (n : Nat)
  /-- an L1 line is evicted, its dirty bytes written back (14 R376). -/
  | evict (core line : Nat)
  /-- a wave's write-combining buffers drain (00 R23). -/
  | drainWc (r : WaveRef)
  /-- the outside world changes bytes of its own memory: host memory, or another module's (01 R46). -/
  | outside (dpa : Nat) (bytes : List Byte)
  /-- a TLB entry is dropped (16 R412). -/
  | tlbDrop (core ctx va : Nat)
  /-- a core's instruction caches take a line, or drop one (01 R25; 11 R339). -/
  | fillCode (core line : Nat)
  | dropCode (core line : Nat)
  /-- the firmware chooses a tile's operating point (22 R464). -/
  | firmware (tile : Nat)
  /-- the host resizes BAR 2 of the physical function (25 R499). -/
  | resizeBar (log : Nat)
  /-- power comes and fails again in a bring-up step (25 R504, R505). -/
  | outage (fails : List BringUpFail) (step : Nat) (at_ : OutageAt)
  /-- the host reads a register through a function's BAR 0 (00 R10; 25 R496). -/
  | regRead (f dpa size : Nat)
  deriving DecidableEq, Repr

/-- The machine: everything the spec gives it, and the model's own fields `agenda`, `cur` and `freeCount`
(assumption log, entries 1 and 2). -/
structure State where
  mem      : List Host.Cell
  poison   : List Nat
  fck      : Nat
  lck      : Nat
  tiles    : List (Nat × Tile64)
  /-- the four base dies, the presentation die and the I/O die (01 R26). -/
  islands  : List Island
  cores    : List (Nat × ComputeCore)
  l2tlb    : List (Nat × TlbEntry)
  /-- the quadrants' walk caches (16 R412). -/
  walkCache : List (Nat × CachedTable)
  grids    : List Grid
  accepts  : Nat
  frames   : List (Nat × Frame)
  stops    : Nat
  saves    : Nat
  contexts : List (Nat × Context)
  queues   : List (Nat × HwQueue)
  bind     : List (Nat × BindRec)
  mail     : List (Nat × Mailbox)
  grants   : List (Nat × Grant)
  ferr     : List (Nat × BitVec 2)
  /-- the device launch queues served in the round under way: class and context (11 R337). -/
  served   : List (Nat × Nat)
  hostOps  : List HostOp
  hostOpId : Nat
  power    : PowerPage
  presv    : Nat
  heads    : List (Nat × Head)
  lineCores : List (Nat × LineCore)
  lineLast : Nat
  pod      : PodState
  modl     : ModuleState
  agenda   : List Turn
  cur      : Agent
  freeCount : Nat
  deriving DecidableEq, Repr
/-! ## Reset -/

/-- A lane before its PC is set to the kernel's entry. -/
def Lane.reset : Lane :=
  { pc := 0, ix := 0, depth := 0, stack := [], state := .live, arrived := List.replicate 8 0 }

/-- An empty trap record: KIND 0. -/
def TrapRecord.reset : TrapRecord :=
  { kind := none, src := .scheduler, wave := 0, acc := 0, code := 0, pc := 0, va := 0, mask := 0, done := 0,
    ticket := 0, resume := 0, slot := 0, seqs := List.replicate 7 0, stamp := 0 }

/-- A sequencer context at the start of a job (01 R40). -/
def SeqState.reset : SeqState :=
  { g := List.replicate 32 0, pc := 0, halted := false, rdv := none, rdvs := 0, copies := 0, ldgs := [],
    nextId := 0, poison := [], copySince := none, trapped := false, issued := 0 }

/-- An empty ring (07 R229). -/
def Ring.reset : Ring := { tokens := 0, reserved := [] }

/-- An empty engine queue. -/
def EngineQ.reset : EngineQ :=
  { words := [], loader := none, finishing := [], phase := .waiting, begun := false, pass := 0, sticky := 0, trapped := false, started := 0 }

/-- The engine job of a workgroup being placed (01 R40; 07 R229, R239, R244; 08 R264). TSCR0 and TSCR1 start at 0 by the
model's choice (assumption log, entry 5). -/
def Job.reset : Job :=
  { intake := .reset, main := .reset, outfall := .reset, ringIF := .reset, ringIR := .reset, ringOF := .reset,
    ringOR := .reset, started := false, ticket := 0, open_ := [], pace := [0, 0, 0],
    shadow := List.replicate 200 0, nest := none, handed := 0, matrixQ := .reset, drainQ := .reset, slots := [none, none],
    spwStop := none, ovl := none, tscr0 := 0, tscr1 := 0, ended := false }

/-- A copy ring at placement (17 R421). -/
def CopyRing.reset : CopyRing := { tail := 0, taken := 0, done := 0, ahead := [], stopped := false, views := [] }

/-- An accumulator tile at power-up (08 R263). -/
def Tile.reset : Tile := { owner := none, kind := .empty, elems := [], fold := none }

/-- The trap context while no trap is serviced; its registers before their first use are 0 by the model's
choice (assumption log, entry 5). -/
def TrapCtx.reset : TrapCtx :=
  { item := none, g := List.replicate 32 0, pc := 0xE000, tepc := 0, ldgs := [],
    tscr0 := 0, tscr1 := 0, rec_ := .reset, escalating := false, poison := [] }

/-- A core at reset. -/
def ComputeCore.reset : ComputeCore :=
  { wgs := [], store := [], tiles := [], spw := [], l1 := [], icache := [], tlb := [], trap := .reset, trapQ := [], wheel := 0,
    reserve := none, claim := none, gang := [], levelAt := none, promised := [], spillCnt := 0, refillCnt := 0, tlbMiss := 0, pfCount := 0, stray := false,
    more := false, strayBy := 0 }

/-- A queue at reset: unbound, QSTAT 0x40 (11 R318). -/
def HwQueue.reset : HwQueue :=
  { tail := 0, burst := none, head := 0, base := 0, bound := false, log2 := 0, ctx := 0, ctxErr := false, ringFault := false,
    pktErr := false, tailJump := false, halted := false, errPos := 0, bufs := [], wait := .none, grids := [] }

/-- A context page at reset (11 R333; 14 R385; 16 R407). -/
def Context.reset : Context :=
  { created := false, root := 0, refusals := 0, errOffset := 0, errQueue := 0, errDevice := false,
    unreadable := false, retryOut := false, lpbInvalid := false, tlFail := false, err := false, errAddr := 0,
    evtAddr := 0, evtAt := none, rewound := false, saturated := false, ovfBase := 0, ovfEnt := 0, launchQ := [[], [], [], []],
    ovfHead := 0, ovf := [], flowMode := 0, faultList := [], tlbInv := [], wdLimit := 0x00400000,
    stopAll := false, regions := [], pasid := none, peer := none }

/-- A bind record at reset (13 R345). -/
def BindRec.reset : BindRec := { tileMask := 0, maxCores := 0, perfCeil := 0, noVictim := false, valid := false }

/-- A mailbox at reset (11 R340). -/
def Mailbox.reset : Mailbox :=
  { req := List.replicate 8 0, rsp := List.replicate 8 0, seq := 0, result := 0, done := false, busy := false }

/-- The nominal fuse table: MV and LVMAX of points 0 to 15 (22 R461). -/
def nominalPoints : List (Nat × Nat) :=
  [(420, 10), (433, 11), (447, 12), (460, 13), (473, 14), (487, 15), (500, 16), (513, 16), (527, 16), (540, 16),
   (553, 16), (567, 16), (580, 16), (593, 16), (607, 16), (620, 16)]

/-- The headgate at reset (20 R449, R453; 22 R470). -/
def Headgate.reset : Headgate :=
  { pos := 0, ramp := (List.range 16).map (fun i => 12 * (i + 1)), pend := none, badRamp := false, rot := 0, rotBy := none,
    start := none, waiting := [], holding := [], filling := [], fill := 0 }

/-- A tile at reset, its fuses nominal (22 R461, R468). -/
def Tile64.reset : Tile64 :=
  { tck := 0, mhz := 4000, rail := 200000, target := 6, pend := none, moving := false, lvCap := 16,
    opTab := nominalPoints, perfCap := 16, force := [1, 1, 1], wanted := none, gate := .reset }

/-- The power page at reset (22 R478). -/
def PowerPage.reset : PowerPage :=
  { lossLvl := 0, floor := 0, slv := 0, level := 0, decided := [], loss := false, link := false, window := none,
    lastTarget := 0, lastFlg := 0, lastSeq := 0, lastDev := 0, lastBus := 0, frames := 0, crcErr := 0, gaps := 0,
    draw := 0,
    vcurve := [0x0001BB800000C350, 0x000300000002B3B0, 0x0003000000030000, 0x0003000000030000],
    fcurve := [0x0001FE0C0000FED4, 0x000380000002FCE0, 0x0003800000038000, 0x0003800000038000],
    fband := 50, vband := 500, lossTime := 200, grace := 400, rdelay := 1000, paceDrain := 0, paceMatrix := 0,
    paceCopy := 0, vLast := none, fLast := none, arrival := 0, replyDue := none, reply := [] }

/-- A view that holds no frame (24 R489). -/
def View.reset : View := { slots := List.replicate 8 none, cur := none }

/-- A head at reset (24 R484, R492, R494; 23 R481). -/
def Head.reset : Head :=
  { cores := 0, capEn := false, dpEn := false, depth := 0, run := false, vtot := 0, vact := 0, hact := 0, lead := 8,
    bandLines := 16, guard := 1, latch := 4, linePer := 0, lpLen := 0, lpAddr := 0, cfgErr := false,
    running := false, bypass := 0, late := 0, capDrop := 0, overrun := 0, bypLines := 0, bypCfg := 1,
    capN := 0, capBase := 0, capCnt := 0, capStr := 0, bpp16 := 0, dsc := false, rate := 0, lanesDp := 0,
    poseW := List.replicate 8 0, published := List.replicate 16 0, publishedAt := 0, before := List.replicate 16 0,
    poseSeq := 0, start := 0, line := 0, stopAt := none, snap := List.replicate 16 0, latchedTo := 0, closedTo := 0,
    latched := [], pending := [], view := .reset, frames := [], next := [], fifo := [], scan := [], capQ := [],
    capDone := [], cfgHeld := false, geoHeld := false }

/-- The registers of a line core when a line program starts (01 R43; 09 R290). -/
def LineCore.reset : LineCore :=
  { pc := 0, h := List.replicate 32 (List.replicate 16 0), k := List.replicate 32 0, y := [0xFFFF, 0, 0, 0],
    buffer := [], sets := [], faultPc := 0, faultSlots := 0, faultCode := 0, faultValid := false, store := [],
    head := none, band := none, stopped := false, results := [],
    snap := { pc := 0, h := List.replicate 32 (List.replicate 16 0), k := List.replicate 32 0, y := [0xFFFF, 0, 0, 0] } }

/-- An empty bring-up record: no step run, nothing fenced (assumption log, entry 4). -/
def BringUpRecord.reset : BringUpRecord :=
  { seq := 0, entries := List.replicate 24 { outcome := 0, failed := 0, bitmap := [] }, whole := true }

/-- A firmware image's slots before the module's first update (assumption log, entry 4). -/
def FwSlots.reset : FwSlots :=
  { slotA := [], slotB := [], useB := false, minCounter := 0, failedA := false, failedB := false, updated := false }

/-- An island before its rail is raised. -/
def Island.reset : Island := { rail := false, clock := 0 }

/-- The policy processor at reset; its registers and memory hold 0 by the model's choice (assumption log, entry 5). -/
def PolicyCore.reset : PolicyCore := { x := List.replicate 32 0, pc := 0, mem := [] }

/-- The module after power-on (25 R496). Flash contents and the module's number are the model's choice
(assumption log, entry 4). -/
def ModuleState.reset : ModuleState :=
  { powered := true, ready := false, tripped := false, failStep := 0, uncErr := false, fwFail := false, replace := false, fwState := 0,
    fencedTiles := [], fencedCores := [], fencedLine := [], deadLinks := [], slowCh := [], deadHeads := [],
    presOff := false, pcieSlow := false, shelfOff := false, recordA := .reset, recordB := .reset, config := [], podNum := 0,
    podRoutes := List.range 64, modNum := 0, routes := [], bar2Log := 8, stage1 := .reset, policy := .reset, pager := .reset, measured := [], reply := [],
    policyCore := .reset }

/-- The pod side at reset. -/
def PodState.reset : PodState :=
  { gen := 0, entries := List.replicate 64 { sv := false, victim := 0, want := 0, idle := 0, load := 0 }, seen := 0,
    seenAt := 0, steals := [], order := [], sent := [], reports := [], responses := [] }

/-- The machine right after module power-on (00 R8): READY 0, nothing bound, memory with nothing listed. -/
def State.reset : State :=
  { mem := [], poison := [], fck := 0, lck := 0, tiles := [], islands := List.replicate 6 .reset, cores := [], l2tlb := [], walkCache := [], grids := [], accepts := 0,
    frames := [], stops := 0, saves := 0, contexts := [], queues := [], bind := [], mail := [], grants := [],
    ferr := [], served := [], hostOps := [], hostOpId := 0, power := .reset, presv := 4, heads := [], lineCores := [],
    lineLast := 0, pod := .reset, modl := .reset, agenda := [], cur := .none, freeCount := 0 }

end Sys2Proof.Machine
end

