-- ==== Sys2Proof/Machine/Access.lean ====
section
/-! DEFINITION. Reading and writing the parts of State: units by their indices, resident workgroups, waves,
grids, contexts, queues; free values; the sticky flags of a workgroup. -/

namespace Sys2Proof.Machine

/-- The outcome of a step. -/
abbrev Res := Host.Outcome State Fault Refusal

/-- The tile, cluster and quadrant of a core (01 R25). -/
def tileOf (core : Nat) : Nat := core / 12
/-- The global cluster index of a core. -/
def clusterOf (core : Nat) : Nat := core / 4
/-- The quadrant of a core. -/
def quadOf (core : Nat) : Nat := core / 192

/-! ## Units -/

/-- Core `n`. -/
def State.core (s : State) (n : Nat) : ComputeCore := (assoc s.cores n).getD .reset
/-- Replaces core `n`. -/
def State.setCore (s : State) (n : Nat) (c : ComputeCore) : State := { s with cores := assocSet s.cores n c }
/-- Changes core `n`. -/
def State.updCore (s : State) (n : Nat) (f : ComputeCore → ComputeCore) : State := s.setCore n (f (s.core n))

/-- The cores that are not as at reset. -/
def State.coreIds (s : State) : List Nat := s.cores.map (·.1)

/-- Tile `t`. -/
def State.tile (s : State) (t : Nat) : Tile64 := (assoc s.tiles t).getD .reset
/-- Changes tile `t`. -/
def State.updTile (s : State) (t : Nat) (f : Tile64 → Tile64) : State :=
  { s with tiles := assocSet s.tiles t (f (s.tile t)) }

/-- The master-clock count of a core's tile (01 R37). -/
def State.tckOf (s : State) (core : Nat) : Nat := (s.tile (tileOf core)).tck

/-- Marks a core's tck as one in which the shed level in force has decided there, or was read (21 R456). -/
def State.noteShedPoint (s : State) (core : Nat) : State :=
  s.updCore core (fun c => { c with levelAt := some (s.tckOf core) })

/-- Context `c`. -/
def State.context (s : State) (c : Nat) : Context := (assoc s.contexts c).getD .reset
/-- Changes context `c`. -/
def State.updContext (s : State) (c : Nat) (f : Context → Context) : State :=
  { s with contexts := assocSet s.contexts c (f (s.context c)) }

/-- Hardware queue `q`. -/
def State.queue (s : State) (q : Nat) : HwQueue := (assoc s.queues q).getD .reset
/-- Changes hardware queue `q`. -/
def State.updQueue (s : State) (q : Nat) (f : HwQueue → HwQueue) : State :=
  { s with queues := assocSet s.queues q (f (s.queue q)) }

/-- The bind record of context `c` (13 R345). -/
def State.bindOf (s : State) (c : Nat) : BindRec := (assoc s.bind c).getD .reset

/-- The mailbox of function `f`. -/
def State.mailbox (s : State) (f : Nat) : Mailbox := (assoc s.mail f).getD .reset
/-- Changes the mailbox of function `f`. -/
def State.updMailbox (s : State) (f : Nat) (g : Mailbox → Mailbox) : State :=
  { s with mail := assocSet s.mail f (g (s.mailbox f)) }

/-- Head `h`. -/
def State.head (s : State) (h : Nat) : Head := (assoc s.heads h).getD .reset
/-- Changes head `h`. -/
def State.updHead (s : State) (h : Nat) (f : Head → Head) : State :=
  { s with heads := assocSet s.heads h (f (s.head h)) }

/-- Line core `c`. -/
def State.lineCore (s : State) (c : Nat) : LineCore := (assoc s.lineCores c).getD .reset
/-- Changes line core `c`. -/
def State.updLineCore (s : State) (c : Nat) (f : LineCore → LineCore) : State :=
  { s with lineCores := assocSet s.lineCores c (f (s.lineCore c)) }

/-- The function whose FERR records a device access of a context: the virtual function whose grant holds it,
else the physical function (00 R509). -/
def State.funcOf (s : State) (ctx : Nat) : Nat :=
  ((s.grants.find? (fun p => decide (p.2.firstC ≤ ctx) && decide (ctx < p.2.firstC + p.2.countC))).map (·.1)).getD 0

/-- Sets a bit of a function's FERR (25 R496): bit 0 MMIO_WIDTH, bit 1 DENIED. -/
def State.setFerr (s : State) (f : Nat) (b : BitVec 2) : State :=
  { s with ferr := assocSet s.ferr f ((assoc s.ferr f).getD 0 ||| b) }

/-- A register write or another access that the module answers once it is ready, and ignores before (25 R495). -/
def whenReady (s : State) (r : Res) : Res := if s.modl.ready then r else .next s

/-! ## Workgroups, waves, grids, frames -/

/-- The workgroup in a residency slot. -/
def State.wg? (s : State) (r : WgRef) : Option Workgroup := assoc (s.core r.core).wgs r.slot
/-- Puts a workgroup in a residency slot. -/
def State.setWg (s : State) (r : WgRef) (w : Workgroup) : State :=
  s.updCore r.core (fun c => { c with wgs := assocSet c.wgs r.slot w })
/-- Frees a residency slot. -/
def State.dropWg (s : State) (r : WgRef) : State :=
  s.updCore r.core (fun c => { c with wgs := assocDrop c.wgs r.slot })
/-- Changes the workgroup in a residency slot, where there is one. -/
def State.updWg (s : State) (r : WgRef) (f : Workgroup → Workgroup) : State :=
  match s.wg? r with
  | some w => s.setWg r (f w)
  | none => s

/-- The workgroup a wave belongs to. -/
def wgOf (r : WaveRef) : WgRef := ⟨r.core, r.slot⟩

/-- A resident wave. -/
def State.wave? (s : State) (r : WaveRef) : Option Wave := (s.wg? (wgOf r)).bind (fun w => w.waves[r.wave]?)
/-- Changes a resident wave, where there is one. -/
def State.updWave (s : State) (r : WaveRef) (f : Wave → Wave) : State :=
  s.updWg (wgOf r) (fun w => { w with waves := modAt w.waves r.wave f })

/-- The engine job of a residency slot. -/
def State.job? (s : State) (r : WgRef) : Option Job := (s.wg? r).bind (·.job)
/-- Changes the engine job of a residency slot, where there is one. -/
def State.updJob (s : State) (r : WgRef) (f : Job → Job) : State :=
  s.updWg r (fun w => { w with job := w.job.map f })

/-- The residency slot whose workgroup carries a core's engine job (01 R27: at most one). -/
def State.jobSlot (s : State) (core : Nat) : Option Nat :=
  ((s.core core).wgs.find? (fun p => p.2.job.isSome)).map (·.1)

/-- Every resident workgroup with its place. -/
def State.allWgs (s : State) : List (WgRef × Workgroup) :=
  s.cores.flatMap (fun p => p.2.wgs.map (fun w => (⟨p.1, w.1⟩, w.2)))

/-- An accepted grid. -/
def State.grid? (s : State) (id : Nat) : Option Grid := s.grids.find? (fun g => g.id == id)
/-- Changes an accepted grid, where there is one. -/
def State.updGrid (s : State) (id : Nat) (f : Grid → Grid) : State :=
  { s with grids := s.grids.map (fun g => if g.id = id then f g else g) }

/-- A save frame in use. -/
def State.frame? (s : State) (f : Nat) : Option Frame := assoc s.frames f
/-- Changes a save frame in use. -/
def State.updFrame (s : State) (f : Nat) (g : Frame → Frame) : State :=
  match s.frame? f with
  | some x => { s with frames := assocSet s.frames f (g x) }
  | none => s

/-- The lowest free save frame of the pool's 16,384 (16 R394). -/
def State.freeFrame (s : State) : Option Nat :=
  (List.range (s.frames.length + 1)).find? (fun f => (assoc s.frames f).isNone && decide (f < 16384))

/-- A context of an engine job. -/
def Job.ctx (j : Job) : SeqCtx → SeqState
  | .intake => j.intake
  | .main => j.main
  | .outfall => j.outfall
  | .trap => .reset
/-- Changes a user context of an engine job. -/
def Job.updCtx (j : Job) (c : SeqCtx) (f : SeqState → SeqState) : Job :=
  match c with
  | .intake => { j with intake := f j.intake }
  | .main => { j with main := f j.main }
  | .outfall => { j with outfall := f j.outfall }
  | .trap => j

/-- An engine queue of a job. -/
def Job.queue (j : Job) : EngineQueue → EngineQ
  | .matrix => j.matrixQ
  | .drain => j.drainQ
/-- Changes an engine queue of a job. -/
def Job.updQueue (j : Job) (q : EngineQueue) (f : EngineQ → EngineQ) : Job :=
  match q with
  | .matrix => { j with matrixQ := f j.matrixQ }
  | .drain => { j with drainQ := f j.drainQ }

/-! ## Launch parameters -/

/-- MODE bit 0 (01 R49). -/
def Lpb.idem (l : Lpb) : Bool := l.mode.getLsbD 0
/-- MODE bits 3:1. -/
def Lpb.retry (l : Lpb) : Nat := bits l.mode.toNat 1 3
/-- MODE bit 4: SPWMODE is TRAP. -/
def Lpb.spwTrap (l : Lpb) : Bool := l.mode.getLsbD 4
/-- MODE bit 5. -/
def Lpb.engine (l : Lpb) : Bool := l.mode.getLsbD 5

/-- A launch parameter block of zeros, for a workgroup whose grid is gone. -/
def Lpb.zero : Lpb :=
  { kimg := 0, gridX := 0, gridY := 0, gridZ := 0, waves := 0, claim := 0, gang := 0, cls := 0, scratch := 0,
    maxRegs := 0, mode := 0, estimate := 0, argBase := 0, regTab := 0, tlAddr := 0, tlVal := 0, lstkBase := 0,
    lstkStride := 0, seqImg := 0 }

/-- The launch parameters of a workgroup's grid. -/
def State.lpbOf (s : State) (w : Workgroup) : Lpb := ((s.grid? w.grid).map (·.lpb)).getD .zero

/-! ## Free values and flags -/

/-- A fresh unspecified value (00 R14): an opaque constant at the counter, which advances. -/
def State.free (s : State) : BitVec 64 × State :=
  (Config.freeValue s.freeCount, { s with freeCount := s.freeCount + 1 })

/-- A fresh unspecified value for each of `n` lanes. -/
def State.freeLanes (s : State) (n : Nat) : List W32 × State :=
  ((List.range n).map (fun i => (Config.freeValue (s.freeCount + i)).setWidth 32),
   { s with freeCount := s.freeCount + n })

/-- `n` unspecified bytes. -/
def State.freeBytes (s : State) (n : Nat) : List Byte × State :=
  ((List.range n).map (fun i => (Config.freeValue (s.freeCount + i)).setWidth 8), { s with freeCount := s.freeCount + n })

/-- The sticky flags (01 R38). -/
def flagNX : BitVec 6 := 1
/-- Underflow. -/
def flagUF : BitVec 6 := 2
/-- Overflow. -/
def flagOF : BitVec 6 := 4
/-- Division by zero. -/
def flagDZ : BitVec 6 := 8
/-- Invalid operation. -/
def flagIV : BitVec 6 := 16
/-- A result was saturated. -/
def flagSA : BitVec 6 := 32

/-- What a tck has done to a workgroup's flag word so far: nothing yet, where the record is of another tck. -/
def Workgroup.flagsIn (w : Workgroup) (tck : Nat) : FlagTck :=
  let new : FlagTck := { tck := tck, before := w.flags, sets := 0, write := none }
  match w.flagTck with
  | some x => if x.tck = tck then x else new
  | none => new

/-- Sets sticky flags in a tck (01 R38). -/
def Workgroup.raise (w : Workgroup) (tck : Nat) (f : BitVec 6) : Workgroup :=
  let x := w.flagsIn tck
  { w with flags := w.flags ||| f, flagTck := some { x with sets := x.sets ||| f } }

/-- WRSP to FLAGS by a wave in a tck: of several the one of the highest WAVEID stands, and every set of that tck is
ORed to it (01 R38). -/
def Workgroup.writeFlags (w : Workgroup) (tck wave : Nat) (v : BitVec 6) : Workgroup :=
  let x := w.flagsIn tck
  let y := match x.write with
    | some y => if wave < y.1 then y else (wave, v)
    | none => (wave, v)
  { w with flags := y.2 ||| x.sets, flagTck := some { x with write := some y } }

/-- The flag word as RDSP reads it in a tck: without the sets and writes of that tck (04 R143). -/
def Workgroup.flagsRead (w : Workgroup) (tck : Nat) : BitVec 6 := (w.flagsIn tck).before

/-- Whether a workgroup's save is under way (13 R361). -/
def Workgroup.saving (w : Workgroup) : Bool :=
  match w.preempt with
  | some (.saving _ _ _) => true
  | _ => false

/-- Sets sticky flags of a resident workgroup (01 R38). -/
def State.raise (s : State) (r : WgRef) (f : BitVec 6) : State :=
  if f = 0 then s else s.updWg r (fun w => w.raise (s.tckOf r.core) f)

/-- ORs flags that arrive from an asynchronous operation into the live flag word, or into the frame's
LATEFLAGS where the workgroup is saved (16 R415). -/
def State.raiseLate (s : State) (grid wgl : Nat) (f : BitVec 6) : State :=
  if f = 0 then s else
  match s.allWgs.find? (fun p => p.2.grid == grid && p.2.wgl == wgl) with
  | some p => s.raise p.1 f
  | none => { s with frames := s.frames.map (fun q =>
      if q.2.wg.grid = grid ∧ q.2.wg.wgl = wgl then (q.1, { q.2 with lateFlags := q.2.lateFlags ||| f }) else q) }

end Sys2Proof.Machine
end

