-- ==== Sys2Proof/Machine/Float.lean ====
section
/-! DEFINITION. Floating-point formats, exact values, rounding, flags, saturation and conversions
(02 R54-R70, R74). Every exact value is a sign, a magnitude m and an exponent e: m × 2^e. A value that is not
of this form is given by the two neighbours it lies between, as an odd multiple of a half unit far below
the precision of every format, which rounds as the value itself does. -/

namespace Sys2Proof.Machine

/-- A floating-point format: exponent bits, fraction bits, bias, and whether it lacks infinities (R54). -/
structure Fmt where
  eb : Nat
  fb : Nat
  bias : Nat
  noInf : Bool
  deriving DecidableEq, Repr

/-- binary64. -/
def f64 : Fmt := ⟨11, 52, 1023, false⟩
/-- binary32. -/
def f32 : Fmt := ⟨8, 23, 127, false⟩
/-- binary16. -/
def f16 : Fmt := ⟨5, 10, 15, false⟩
/-- bfloat16. -/
def bf16 : Fmt := ⟨8, 7, 127, false⟩
/-- e4m3. -/
def e4m3 : Fmt := ⟨4, 3, 7, true⟩
/-- e5m2. -/
def e5m2 : Fmt := ⟨5, 2, 15, false⟩

/-- The width of a format. -/
def Fmt.width (f : Fmt) : Nat := 1 + f.eb + f.fb

/-- The format of a float type; the element format of a packed type (R161). -/
def wtypeFmt : WType → Fmt
  | .f64 => f64
  | .f16 | .f16x2 => f16
  | .bf16 | .bf16x2 => bf16
  | _ => f32

/-- The format of a type code that is a float format. -/
def tcodeFmt : TCode → Option Fmt
  | .t .f64 => some f64
  | .t .f32 => some f32
  | .t .f16 => some f16
  | .t .bf16 => some bf16
  | .e4m3 => some e4m3
  | .e5m2 => some e5m2
  | _ => none

/-- A value taken in: a NaN, quiet or signalling, an infinity, or a finite value m × 2^e with its sign. -/
inductive FVal where
  | nan (signalling : Bool)
  | inf (neg : Bool)
  | fin (neg : Bool) (m : Nat) (e : Int)
  deriving DecidableEq, Repr

/-- The value of an encoding (R54, R56). -/
def Fmt.value (f : Fmt) (x : Nat) : FVal :=
  let s := bit x (f.eb + f.fb)
  let e := bits x f.fb f.eb
  let fr := bits x 0 f.fb
  if e = 2 ^ f.eb - 1 ∧ f.noInf = false then
    if fr = 0 then .inf s else .nan (!bit fr (f.fb - 1))
  else if e = 2 ^ f.eb - 1 ∧ fr = 2 ^ f.fb - 1 then .nan false
  else if e = 0 then .fin s fr (1 - (f.bias : Int) - f.fb)
  else .fin s (2 ^ f.fb + fr) ((e : Int) - f.bias - f.fb)

/-- The canonical NaN (R56). -/
def Fmt.canonNaN (f : Fmt) : Nat :=
  if f.noInf then 2 ^ (f.eb + f.fb) - 1 else (2 ^ f.eb - 1) * 2 ^ f.fb + 2 ^ (f.fb - 1)

/-- The encoding of the largest finite magnitude (R54). -/
def Fmt.maxFinite (f : Fmt) : Nat :=
  if f.noInf then 2 ^ (f.eb + f.fb) - 2 else (2 ^ f.eb - 1) * 2 ^ f.fb - 1

/-- The sign bit in its place. -/
def Fmt.signBit (f : Fmt) (neg : Bool) : Nat := if neg then 2 ^ (f.eb + f.fb) else 0

/-- The encoding of an infinity; e4m3 has the canonical NaN in its place (R62). -/
def Fmt.infinity (f : Fmt) (neg : Bool) : Nat :=
  if f.noInf then f.canonNaN else f.signBit neg + (2 ^ f.eb - 1) * 2 ^ f.fb

/-- The number of bits of a magnitude. -/
def bitLen (n : Nat) : Nat := if n = 0 then 0 else Nat.log2 n + 1

/-- Whether rounding a quotient with a remainder of `r` out of `2^d` goes away from zero (R19, R62). -/
def roundsUp (rnd : Rnd) (neg odd : Bool) (r d : Nat) : Bool :=
  match rnd with
  | .rn => decide (2 ^ d < 2 * r) || (decide (2 * r = 2 ^ d) && odd)
  | .rz => false
  | .ru => !neg && r != 0
  | .rd => neg && r != 0

/-- Divides a magnitude by `2^d` and rounds: the rounded quotient, and whether it is inexact. -/
def roundShift (rnd : Rnd) (neg : Bool) (m d : Nat) : Nat × Bool :=
  let q := m / 2 ^ d
  let r := m % 2 ^ d
  (if roundsUp rnd neg (q % 2 == 1) r d then q + 1 else q, r != 0)

/-- What an overflow gives without .sat (R62): whether it is the infinity. -/
def overflowInf (rnd : Rnd) (neg : Bool) : Bool :=
  match rnd with
  | .rn => true
  | .rz => false
  | .ru => !neg
  | .rd => neg

/-- Rounds a finite exact value to a format (R62-R64): the encoding and the flags. -/
def Fmt.roundFin (f : Fmt) (rnd : Rnd) (sat neg : Bool) (m : Nat) (e : Int) : Nat × BitVec 6 :=
  if m = 0 then (f.signBit neg, 0)
  else
    let top : Int := (bitLen m : Int) - 1 + e
    let emin : Int := 1 - (f.bias : Int)
    let u : Int := max top emin - f.fb
    let qi : Nat × Bool := if u ≤ e then (m * 2 ^ (e - u).toNat, false) else roundShift rnd neg m (u - e).toNat
    let code : Nat := ((u + f.fb + f.bias - 1) * (2 ^ f.fb : Nat) + qi.1).toNat
    let uf : BitVec 6 := if top < emin ∧ qi.2 = true then flagUF else 0
    if f.maxFinite < code then
      if sat then (f.signBit neg + f.maxFinite, flagSA ||| flagNX)
      else (if overflowInf rnd neg then f.infinity neg else f.signBit neg + f.maxFinite, flagOF ||| flagNX)
    else (f.signBit neg + code, uf ||| (if qi.2 then flagNX else 0))

/-- Rounds an exact result, which may be a NaN or an infinity (R57, R62-R64). -/
def Fmt.round (f : Fmt) (rnd : Rnd) (sat : Bool) (v : FVal) : Nat × BitVec 6 :=
  match v with
  | .nan _ => (f.canonNaN, 0)
  | .inf neg =>
    if sat then (f.signBit neg + f.maxFinite, flagSA)
    else (f.infinity neg, if f.noInf then flagIV else 0)
  | .fin neg m e => f.roundFin rnd sat neg m e

/-! ## Exact arithmetic -/

/-- A signalling NaN as input sets IV (R57). -/
def FVal.snan : FVal → Bool
  | .nan s => s
  | _ => false

/-- Any NaN. -/
def FVal.isNaN : FVal → Bool
  | .nan _ => true
  | _ => false

/-- IV for signalling inputs. -/
def ivIf (b : Bool) : BitVec 6 := if b then flagIV else 0

/-- The sign of a value that is not a NaN. -/
def FVal.neg : FVal → Bool
  | .nan _ => false
  | .inf n => n
  | .fin n _ _ => n

/-- A value with its sign turned; a NaN is kept. -/
def FVal.negate : FVal → FVal
  | .nan s => .nan s
  | .inf n => .inf (!n)
  | .fin n m e => .fin (!n) m e

/-- The signed magnitude of a finite value at the exponent `e0`, which is not above its own. -/
def scaled (neg : Bool) (m : Nat) (e e0 : Int) : Int :=
  let x : Int := m * (2 ^ (e - e0).toNat : Nat)
  if neg then -x else x

/-- Exact sum of finite values; an exact zero has the sign of R62. -/
def addFin (rnd : Rnd) (n1 : Bool) (m1 : Nat) (e1 : Int) (n2 : Bool) (m2 : Nat) (e2 : Int) : FVal :=
  let e := min e1 e2
  let v := scaled n1 m1 e1 e + scaled n2 m2 e2 e
  if v = 0 then .fin (if m1 = 0 ∧ n1 = n2 then n1 else rnd == .rd) 0 0
  else .fin (decide (v < 0)) v.natAbs e

/-- Exact sum (R62, R164): the value, and the IV it raises. -/
def FVal.add (rnd : Rnd) (a b : FVal) : FVal × BitVec 6 :=
  let iv := ivIf (a.snan || b.snan)
  match a, b with
  | .nan _, _ | _, .nan _ => (.nan false, iv)
  | .inf x, .inf y => if x = y then (.inf x, 0) else (.nan false, flagIV)
  | .inf x, _ => (.inf x, 0)
  | _, .inf y => (.inf y, 0)
  | .fin n1 m1 e1, .fin n2 m2 e2 => (addFin rnd n1 m1 e1 n2 m2 e2, 0)

/-- Exact product (R74). -/
def FVal.mul (a b : FVal) : FVal × BitVec 6 :=
  let iv := ivIf (a.snan || b.snan)
  let s := a.neg != b.neg
  match a, b with
  | .nan _, _ | _, .nan _ => (.nan false, iv)
  | .inf _, .inf _ => (.inf s, 0)
  | .inf _, .fin _ m _ | .fin _ m _, .inf _ => if m = 0 then (.nan false, flagIV) else (.inf s, 0)
  | .fin _ m1 e1, .fin _ m2 e2 => (.fin s (m1 * m2) (e1 + e2), 0)

/-- The fused product-sum a × b + c (R164). -/
def FVal.fma (rnd : Rnd) (a b c : FVal) : FVal × BitVec 6 :=
  let p := a.mul b
  let r := p.1.add rnd c
  (r.1, p.2 ||| r.2)

/-- Whether a is below b, both being numbers; −0 equals +0. -/
def FVal.lt (a b : FVal) : Bool :=
  match a, b with
  | .nan _, _ | _, .nan _ => false
  | .inf x, .inf y => x && !y
  | .inf x, _ => x
  | _, .inf y => !y
  | .fin n1 m1 e1, .fin n2 m2 e2 =>
    let e := min e1 e2
    decide (scaled n1 m1 e1 e < scaled n2 m2 e2 e)

/-- Equality of numbers; −0 equals +0. -/
def FVal.eq (a b : FVal) : Bool := !a.isNaN && !b.isNaN && !a.lt b && !b.lt a

/-- The exact sum of several values with one rounding to come (R175): a NaN among the terms, or opposite
infinities, give a NaN. The zero of a sum whose terms are not all zeros of one sign is +0, −0 under .rd
(R62; assumption log, entry 14). -/
def FVal.sum (rnd : Rnd) (l : List FVal) : FVal × BitVec 6 :=
  match l with
  | [] => (.fin false 0 0, 0)
  | x :: rest =>
    let iv := ivIf (l.any FVal.snan)
    if l.any FVal.isNaN then (.nan false, iv)
    else
      let pos := l.any (fun v => v == .inf false)
      let negv := l.any (fun v => v == .inf true)
      if pos && negv then (.nan false, flagIV)
      else if pos then (.inf false, 0)
      else if negv then (.inf true, 0)
      else rest.foldl (fun acc v => acc.1.add rnd v) (x, 0)

/-! ## Conversions (R65-R70) -/

/-- Rounds a finite value to an integer. -/
def finToInt (rnd : Rnd) (neg : Bool) (m : Nat) (e : Int) : Int × Bool :=
  let q : Nat × Bool := if 0 ≤ e then (m * 2 ^ e.toNat, false) else roundShift rnd neg m (-e).toNat
  (if neg then -(q.1 : Int) else q.1, q.2)

/-- Float to float (R65). -/
def convFF (dst : Fmt) (rnd : Rnd) (sat : Bool) (v : FVal) : Nat × BitVec 6 :=
  let r := dst.round rnd sat v
  (r.1, r.2 ||| ivIf v.snan)

/-- Float to an integer range (R66). -/
def convFI (lo hi : Int) (rnd : Rnd) (sat : Bool) (v : FVal) : Int × BitVec 6 :=
  let clamp : BitVec 6 := if sat then flagSA else flagIV
  match v with
  | .nan _ => (0, flagIV)
  | .inf neg => (if neg then lo else hi, clamp)
  | .fin neg m e =>
    let i := finToInt rnd neg m e
    if hi < i.1 then (hi, clamp ||| flagNX)
    else if i.1 < lo then (lo, clamp ||| flagNX)
    else (i.1, if i.2 then flagNX else 0)

/-- Integer to float (R67). -/
def convIF (dst : Fmt) (rnd : Rnd) (sat : Bool) (i : Int) : Nat × BitVec 6 :=
  dst.roundFin rnd sat (decide (i < 0)) i.natAbs 0

/-- The bounds of an integer type of a width (R58). -/
def intLo (sgn : Bool) (n : Nat) : Int := if sgn then -(2 ^ (n - 1) : Nat) else 0
/-- The upper bound. -/
def intHi (sgn : Bool) (n : Nat) : Int := if sgn then (2 ^ (n - 1) : Nat) - 1 else (2 ^ n : Nat) - 1

/-- Clamps to a range: the value, and SA where it changes (R20, R127). -/
def clampInt (lo hi v : Int) : Int × BitVec 6 :=
  if v < lo then (lo, flagSA) else if hi < v then (hi, flagSA) else (v, 0)

/-- Integer to integer (R68): the n-bit image. -/
def convII (sgn : Bool) (n : Nat) (sat : Bool) (i : Int) : Nat × BitVec 6 :=
  if sat then let r := clampInt (intLo sgn n) (intHi sgn n) i; (wrap n r.1, r.2) else (wrap n i, 0)

/-! ## Operations on encodings -/

/-- Adds, rounding once. -/
def Fmt.add (f : Fmt) (rnd : Rnd) (sat : Bool) (x y : Nat) : Nat × BitVec 6 :=
  let v := (f.value x).add rnd (f.value y)
  let r := f.round rnd sat v.1
  (r.1, r.2 ||| v.2)

/-- Subtracts, rounding once. -/
def Fmt.sub (f : Fmt) (rnd : Rnd) (sat : Bool) (x y : Nat) : Nat × BitVec 6 :=
  let v := (f.value x).add rnd (f.value y).negate
  let r := f.round rnd sat v.1
  (r.1, r.2 ||| v.2)

/-- Multiplies, rounding once. -/
def Fmt.mul (f : Fmt) (rnd : Rnd) (sat : Bool) (x y : Nat) : Nat × BitVec 6 :=
  let v := (f.value x).mul (f.value y)
  let r := f.round rnd sat v.1
  (r.1, r.2 ||| v.2)

/-- Fused multiply-add, rounding once. -/
def Fmt.fma (f : Fmt) (rnd : Rnd) (sat : Bool) (x y z : Nat) : Nat × BitVec 6 :=
  let v := (f.value x).fma rnd (f.value y) (f.value z)
  let r := f.round rnd sat v.1
  (r.1, r.2 ||| v.2)

/-- Minimum or maximum by selection (R165). -/
def Fmt.select (f : Fmt) (isMax : Bool) (x y : Nat) : Nat × BitVec 6 :=
  let a := f.value x
  let b := f.value y
  let iv := ivIf (a.snan || b.snan)
  if a.isNaN && b.isNaN then (f.canonNaN, iv)
  else if a.isNaN then (y, iv)
  else if b.isNaN then (x, iv)
  else
    let less := a.lt b || (a.eq b && a.neg && !b.neg)
    (if isMax then (if less then y else x) else if less then x else y, iv)

/-- Comparison conditions (R166): the bit, and IV. -/
def Fmt.compare (f : Fmt) (cc x y : Nat) : Bool × BitVec 6 :=
  let a := f.value x
  let b := f.value y
  let un := a.isNaN || b.isNaN
  let iv := ivIf (a.snan || b.snan || (un && decide (2 ≤ cc) && decide (cc ≤ 5)))
  (match cc with
   | 0 => a.eq b
   | 1 => !a.eq b
   | 2 => a.lt b
   | 3 => !un && !b.lt a
   | 4 => b.lt a
   | 5 => !un && !a.lt b
   | 6 => un
   | _ => !un, iv)

/-- The class of an encoding (R167). -/
def Fmt.class_ (f : Fmt) (x : Nat) : Nat :=
  match f.value x with
  | .nan s => if s then 0 else 1
  | .inf n => if n then 2 else 9
  | .fin n m _ =>
    if m = 0 then (if n then 5 else 6)
    else if m < 2 ^ f.fb then (if n then 4 else 7)
    else if n then 3 else 8

/-- Rounds to an integral value (R168). -/
def Fmt.frnd (f : Fmt) (rnd : Rnd) (x : Nat) : Nat × BitVec 6 :=
  match f.value x with
  | .nan s => (f.canonNaN, ivIf s)
  | .inf _ => (x, 0)
  | .fin neg m e =>
    if 0 ≤ e then (x, 0)
    else ((f.roundFin .rn false neg (roundShift rnd neg m (-e).toNat).1 0).1, 0)

/-- The fractional part, rounded toward −∞ (R168). -/
def Fmt.fract (f : Fmt) (x : Nat) : Nat × BitVec 6 :=
  match f.value x with
  | .nan s => (f.canonNaN, ivIf s)
  | .inf _ => (f.canonNaN, flagIV)
  | .fin neg m e =>
    if 0 ≤ e then (0, 0)
    else
      let d := (-e).toNat
      let r := m % 2 ^ d
      let q := if neg && r != 0 then 2 ^ d - r else r
      let v := f.roundFin .rd false false q e
      (v.1, v.2 &&& flagNX)

/-- The encoding of a small integer, which every float type holds exactly (R88). -/
def Fmt.ofInt (f : Fmt) (i : Int) : Nat := (convIF f .rn false i).1

/-- Applies an operation to the elements of a packed or plain value (R161). -/
def elementwise (packed : Bool) (f : Nat → Nat × BitVec 6) (x : Nat) : Nat × BitVec 6 :=
  if packed then
    let lo := f (x % 65536)
    let hi := f (x / 65536 % 65536)
    (lo.1 + 65536 * hi.1, lo.2 ||| hi.2)
  else f x

/-- A packed type. -/
def isPacked : WType → Bool
  | .f16x2 | .bf16x2 => true
  | _ => false

/-- Element `i` of a packed value. -/
def half (x i : Nat) : Nat := bits x (16 * i) 16

/-- Applies a two-operand operation elementwise. -/
def elementwise2 (packed : Bool) (f : Nat → Nat → Nat × BitVec 6) (x y : Nat) : Nat × BitVec 6 :=
  if packed then
    let lo := f (half x 0) (half y 0)
    let hi := f (half x 1) (half y 1)
    (lo.1 + 65536 * hi.1, lo.2 ||| hi.2)
  else f x y

/-- Applies a three-operand operation elementwise. -/
def elementwise3 (packed : Bool) (f : Nat → Nat → Nat → Nat × BitVec 6) (x y z : Nat) : Nat × BitVec 6 :=
  if packed then
    let lo := f (half x 0) (half y 0) (half z 0)
    let hi := f (half x 1) (half y 1) (half z 1)
    (lo.1 + 65536 * hi.1, lo.2 ||| hi.2)
  else f x y z

end Sys2Proof.Machine
end

