-- ==== Sys2Proof/Machine/Flags.lean ====
section
/-! DEFINITION. The computations of the integer wave operations on n-bit values, with the SA flag they raise
(04 R127-R133, R139), and the comparison conditions (04 R134). -/

namespace Sys2Proof.Machine

/-- A value of a type as an integer (04 R122). -/
def toInt (t : WType) (x : Nat) : Int := if isSigned t then signed (wtypeBits t) x else (x : Int)

/-- Wraps an exact result, or under .sat clamps it and raises SA (04 R127). -/
def wrapOrSat (t : WType) (sat : Bool) (v : Int) : Nat × BitVec 6 := convII (isSigned t) (wtypeBits t) sat v

/-- ADD. -/
def addVal (t : WType) (sat : Bool) (x y : Nat) : Nat × BitVec 6 := wrapOrSat t sat (toInt t x + toInt t y)
/-- SUB. -/
def subVal (t : WType) (sat : Bool) (x y : Nat) : Nat × BitVec 6 := wrapOrSat t sat (toInt t x - toInt t y)
/-- MUL. -/
def mulVal (t : WType) (sat : Bool) (x y : Nat) : Nat × BitVec 6 := wrapOrSat t sat (toInt t x * toInt t y)
/-- MAD. -/
def madVal (t : WType) (sat : Bool) (x y z : Nat) : Nat × BitVec 6 :=
  wrapOrSat t sat (toInt t x * toInt t y + toInt t z)
/-- MIN. -/
def minVal (t : WType) (x y : Nat) : Nat × BitVec 6 := (if toInt t x ≤ toInt t y then x else y, 0)
/-- MAX. -/
def maxVal (t : WType) (x y : Nat) : Nat × BitVec 6 := (if toInt t x ≤ toInt t y then y else x, 0)
/-- ABS. -/
def absVal (t : WType) (sat : Bool) (x : Nat) : Nat × BitVec 6 := wrapOrSat t sat (toInt t x).natAbs
/-- NEG. -/
def negVal (t : WType) (sat : Bool) (x : Nat) : Nat × BitVec 6 := wrapOrSat t sat (-(toInt t x))

/-- MULH: the high half of the exact product (04 R129). -/
def mulhVal (t : WType) (x y : Nat) : Nat × BitVec 6 :=
  let n := wtypeBits t
  (wrap n (toInt t x * toInt t y / (2 ^ n : Nat)), 0)

/-- The 64-bit type MADW widens to (04 R129). -/
def wideOf (t : WType) : WType := if isSigned t then .s64 else .z64

/-- MADW. -/
def madwVal (t : WType) (sat : Bool) (x y z : Nat) : Nat × BitVec 6 :=
  wrapOrSat (wideOf t) sat (toInt t x * toInt t y + toInt (wideOf t) z)

/-- ADDC: the result and the carry out (04 R128). -/
def addcVal (t : WType) (x y ci : Nat) : Nat × Bool :=
  let n := wtypeBits t
  ((x + y + ci) % 2 ^ n, decide (2 ^ n ≤ x + y + ci))

/-- SUBB: the result and the borrow out (04 R128). -/
def subbVal (t : WType) (x y ci : Nat) : Nat × Bool :=
  let v : Int := (x : Int) - y - ci
  (wrap (wtypeBits t) v, decide (v < 0))

/-- AND (04 R131). -/
def andVal (x y : Nat) : Nat × BitVec 6 := (x &&& y, 0)
/-- OR. -/
def orVal (x y : Nat) : Nat × BitVec 6 := (x ||| y, 0)
/-- XOR. -/
def xorVal (x y : Nat) : Nat × BitVec 6 := (x ^^^ y, 0)
/-- NOT of n bits. -/
def notVal (n x : Nat) : Nat × BitVec 6 := (2 ^ n - 1 - x, 0)
/-- ANDN. -/
def andnVal (n x y : Nat) : Nat × BitVec 6 := (x &&& (2 ^ n - 1 - y), 0)
/-- SHL by bits 7:0 of the amount (04 R131). -/
def shlVal (n x y : Nat) : Nat × BitVec 6 :=
  let s := y % 256
  (if n ≤ s then 0 else x * 2 ^ s % 2 ^ n, 0)
/-- SHR. -/
def shrVal (n x y : Nat) : Nat × BitVec 6 :=
  let s := y % 256
  (if n ≤ s then 0 else x / 2 ^ s, 0)
/-- SAR. -/
def sarVal (n x y : Nat) : Nat × BitVec 6 :=
  let s := y % 256
  (if n ≤ s then (if bit x (n - 1) then 2 ^ n - 1 else 0) else wrap n (signed n x / (2 ^ s : Nat)), 0)
/-- ROT: left, by the amount modulo n. -/
def rotVal (n x y : Nat) : Nat × BitVec 6 :=
  let r := y % n
  ((x * 2 ^ r + x / 2 ^ (n - r)) % 2 ^ n, 0)
/-- FUNNEL. -/
def funnelVal (n x y z : Nat) : Nat × BitVec 6 := ((x * 2 ^ n + y) / 2 ^ (z % n) % 2 ^ n, 0)

/-- BFX (04 R132). -/
def bfxVal (t : WType) (x y z : Nat) : Nat × BitVec 6 :=
  let n := wtypeBits t
  let st := y % 256
  let ln := z % 256
  if ln = 0 ∨ n ≤ st then (0, 0)
  else
    let ln := min ln (n - st)
    let f := bits x st ln
    (if isSigned t then wrap n (signed ln f) else f, 0)

/-- BFI into `old` (04 R132). -/
def bfiVal (n old x y z : Nat) : Nat × BitVec 6 :=
  let st := y % 256
  let ln := z % 256
  if ln = 0 ∨ n ≤ st then (old, 0)
  else
    let ln := min ln (n - st)
    (old - bits old st ln * 2 ^ st + bits x 0 ln * 2 ^ st, 0)

/-- POPC (04 R133). -/
def popcVal (n x : Nat) : Nat × BitVec 6 := (popCount n x, 0)
/-- CLZ. -/
def clzVal (n x : Nat) : Nat × BitVec 6 := (n - bitLen x, 0)
/-- CTZ. -/
def ctzVal (n x : Nat) : Nat × BitVec 6 := ((findIx (fun i => bit x i) (List.range n)).getD n, 0)
/-- BREV. -/
def brevVal (n x : Nat) : Nat × BitVec 6 :=
  ((List.range n).foldl (fun a i => if bit x i then a + 2 ^ (n - 1 - i) else a) 0, 0)

/-- LEA (04 R139). -/
def leaVal (t : WType) (sh x y : Nat) : Nat × BitVec 6 := (wrap 64 ((x : Int) + toInt t y * (2 ^ sh : Nat)), 0)

/-- The conditions of CMP (04 R134). -/
def cmpVal (t : WType) (cc x y : Nat) : Bool :=
  let a := toInt t x
  let b := toInt t y
  match cc with
  | 0 => a == b
  | 1 => a != b
  | 2 => decide (a < b)
  | 3 => decide (a ≤ b)
  | 4 => decide (b < a)
  | _ => decide (b ≤ a)

/-- The truth table of PLOG (04 R136). -/
def plogVal (table : Nat) (a b : Bool) : Bool := bit table (2 * a.toNat + b.toNat)

/-- The new value of an ATOM or RED, with its flags (06 R198). -/
def atomOp (t : WType) (m : Nat) (rnd : Rnd) (old v : Nat) : Nat × BitVec 6 :=
  match m with
  | 0 => if isFloat t then (wtypeFmt t).add rnd false old v else ((old + v) % 2 ^ wtypeBits t, 0)
  | 1 => minVal t old v
  | 2 => maxVal t old v
  | 3 => (old &&& v, 0)
  | 4 => (old ||| v, 0)
  | 5 => (old ^^^ v, 0)
  | _ => (v, 0)

end Sys2Proof.Machine
end

