-- ==== Sys2Proof/Machine/Transc.lean ====
section
/-! DEFINITION. The correctly rounded functions of 05 R169-R170 on exact values. A function's value at x that
is no m × 2^e is enclosed between two neighbouring multiples of a unit at least 2^-35 of its size; the odd
half multiple between them rounds as the value does (02 R62). Enclosures are computed in fixed point at a
precision that grows until the two ends lie in one unit. -/

namespace Sys2Proof.Machine

/-- The value strictly between n and n + 1 units of 2^e. -/
def between (neg : Bool) (n : Nat) (e : Int) : FVal := .fin neg (2 * n + 1) (e - 1)

/-- The integer square root, from the bits below `fuel` down. -/
def isqrtGo : Nat → Nat → Nat → Nat
  | 0, _, r => r
  | i + 1, n, r => let t := r + 2 ^ i; isqrtGo i n (if t * t ≤ n then t else r)

/-- The integer square root. -/
def isqrt (n : Nat) : Nat := isqrtGo (bitLen n / 2 + 1) n 0

/-- 1 / (m × 2^e). -/
def recipVal (neg : Bool) (m : Nat) (e : Int) : FVal :=
  let k := bitLen m + 64
  let q := 2 ^ k / m
  if 2 ^ k % m = 0 then .fin neg q (-e - k) else between neg q (-e - k)

/-- The square root of m × 2^e. -/
def sqrtVal (m : Nat) (e : Int) : FVal :=
  let k : Nat := if (e % 2) = 0 then 140 else 141
  let n := m * 2 ^ k
  let r := isqrt n
  let g := (e - k) / 2
  if r * r = n then .fin false r g else between false r g

/-- 1 / √(m × 2^e). -/
def rsqVal (m : Nat) (e : Int) : FVal :=
  let m' := if (e % 2) = 0 then m else 2 * m
  let e' := if (e % 2) = 0 then e else e - 1
  let k := bitLen m' / 2 + 80
  let q := isqrt (2 ^ (2 * k) / m')
  let g := -(e' / 2) - k
  if q * q * m' = 2 ^ (2 * k) then .fin false q g else between false q g

/-! ## Fixed-point series; every value carries 2^p -/

/-- Σ t / (2k + 1) with t shrinking by n² and the sign alternating where `alt`. -/
def oddSeries (alt : Bool) (n2 : Nat) : Nat → Nat → Nat → Bool → Int → Int
  | 0, _, _, _, acc => acc
  | fuel + 1, t, k, minus, acc =>
    let x : Int := (t / (2 * k + 1) : Nat)
    oddSeries alt n2 fuel (t / n2) (k + 1) (if alt then !minus else minus) (if minus then acc - x else acc + x)

/-- ln 2 = 2 atanh (1/3). -/
def ln2Fix (p : Nat) : Int := 2 * oddSeries false 9 p (2 ^ p / 3) 0 false 0

/-- π / 2 by Machin's formula. -/
def halfPiFix (p : Nat) : Int :=
  8 * oddSeries true 25 p (2 ^ p / 5) 0 false 0 - 2 * oddSeries true 57121 p (2 ^ p / 239) 0 false 0

/-- Σ t / (2k + 1) with t multiplied by z²: atanh z from t = z. -/
def atanhSeries (p : Nat) (z2 : Int) : Nat → Int → Nat → Int → Int
  | 0, _, _, acc => acc
  | fuel + 1, t, k, acc => atanhSeries p z2 fuel (t * z2 / (2 ^ p : Nat)) (k + 1) (acc + t / ((2 * k + 1 : Nat) : Int))

/-- Σ r^k / k! from the term t of index k. -/
def expSeries (p : Nat) (r : Int) : Nat → Int → Nat → Int → Int
  | 0, _, _, acc => acc
  | fuel + 1, t, k, acc =>
    let u := t * r / (2 ^ p : Nat) / ((k + 1 : Nat) : Int)
    expSeries p r fuel u (k + 1) (acc + u)

/-- exp r for 0 ≤ r < 1. -/
def expFix (p : Nat) (r : Int) : Int := let one : Int := (2 ^ p : Nat); expSeries p r (p / 2) one 0 one

/-- Alternating even or odd terms of the exponential series: cos from t = 1, k = 0, sin from t = r, k = 1. -/
def trigSeries (p : Nat) (r2 : Int) : Nat → Int → Nat → Int → Int
  | 0, _, _, acc => acc
  | fuel + 1, t, k, acc =>
    let u := -(t * r2 / (2 ^ p : Nat)) / (((k + 1) * (k + 2) : Nat) : Int)
    trigSeries p r2 fuel u (k + 2) (acc + u)

/-- sin r or cos r for |r| ≤ 1. -/
def trigFix (p : Nat) (cosine : Bool) (r : Int) : Int :=
  let r2 := r * r / (2 ^ p : Nat)
  if cosine then let one : Int := (2 ^ p : Nat); trigSeries p r2 (p / 2) one 0 one
  else trigSeries p r2 (p / 2) r 1 r

/-- The error of every approximation here, in units of 2^-p, is below this. -/
def fixErr : Int := 1048576

/-- The value an approximation with 2^p encloses, times 2^k, where its two ends lie in one unit. -/
def enclose (p : Nat) (k : Int) (a : Int) : Option FVal :=
  let lo := (a.natAbs : Int) - fixErr
  let hi := (a.natAbs : Int) + fixErr
  let g := bitLen lo.toNat - 62
  if lo.toNat < 2 ^ 62 then none
  else if lo.toNat / 2 ^ g = hi.toNat / 2 ^ g then
    some (between (decide (a < 0)) (lo.toNat / 2 ^ g) ((g : Int) - p + k))
  else none

/-- Tries growing precisions. The approximation gives its value with 2^p and an exponent to add. -/
def ziv (f : Nat → Int × Int) : FVal :=
  match (let a := f 192; enclose 192 a.2 a.1) with
  | some v => v
  | none =>
  match (let a := f 384; enclose 384 a.2 a.1) with
  | some v => v
  | none =>
  match (let a := f 768; enclose 768 a.2 a.1) with
  | some v => v
  | none => let a := f 1536; between (decide (a.1 < 0)) (a.1.natAbs / 2 ^ 768) (768 - 1536 + a.2)

/-- m × 2^(e + p), rounded down: a finite value in fixed point. -/
def toFix (p m : Nat) (e : Int) : Int :=
  if 0 ≤ e + p then (m * 2 ^ (e + p).toNat : Nat) else (m / 2 ^ (-(e + p)).toNat : Nat)

/-- Whether m × 2^e is below 2^b. -/
def belowPow (m : Nat) (e b : Int) : Bool := decide ((bitLen m : Int) + e ≤ b)

/-- 2^x (R170). -/
def exp2Val (neg : Bool) (m : Nat) (e : Int) : FVal :=
  if m = 0 then .fin false 1 0
  else if belowPow m e (-60) then if neg then between false (2 ^ 60 - 1) (-60) else between false (2 ^ 60) (-60)
  else if !belowPow m e 12 then .fin false 3 (if neg then -4000 else 4000)
  else
    let frac := if e < 0 then m % 2 ^ (-e).toNat else 0
    let x1 : Int := toFix 0 m e
    if frac = 0 then .fin false 1 (if neg then -x1 else x1)
    else
      ziv (fun p =>
        let x := if neg then -toFix p m e else toFix p m e
        let k := x / (2 ^ p : Nat)
        let r := x - k * (2 ^ p : Nat)
        (expFix p (r * ln2Fix p / (2 ^ p : Nat)), k))

/-- log2 of a positive value (R170). -/
def log2Val (m : Nat) (e : Int) : FVal :=
  let l := bitLen m - 1
  if m = 2 ^ l then let v : Int := l + e; .fin (decide (v < 0)) v.natAbs 0
  else
    -- the argument is brought into 0.75 to 1.5
    let big := decide (3 * 2 ^ l < 2 * m)
    let d : Int := ((if big then 2 ^ (l + 1) else 2 ^ l : Nat) : Int)
    let k : Int := (if big then (l : Int) + 1 else l) + e
    ziv (fun p =>
      let z := ((m : Int) - d) * (2 ^ p : Nat) / ((m : Int) + d)
      let ln := 2 * atanhSeries p (z * z / (2 ^ p : Nat)) (p / 2) z 0 0
      (k * (2 ^ p : Nat) + ln * (2 ^ p : Nat) / ln2Fix p, 0))

/-- sin x or cos x, x nonzero (R170). -/
def trigVal (cosine neg : Bool) (m : Nat) (e : Int) : FVal :=
  if belowPow m e (-20) then
    if cosine then between false (2 ^ 40 - 1) (-40) else between neg (m * 1024 - 1) (e - 10)
  else
    ziv (fun p =>
      let w := p + bitLen m + e.toNat + 4
      let x := toFix w m e
      let h := halfPiFix w
      -- the nearest multiple of π/2
      let n := (2 * x + h) / (2 * h)
      let r := (x - n * h) / (2 ^ (w - p) : Nat)
      let q := n % 4
      let v :=
        if cosine then
          (if q = 0 then trigFix p true r else if q = 1 then -trigFix p false r
           else if q = 2 then -trigFix p true r else trigFix p false r)
        else
          (if q = 0 then trigFix p false r else if q = 1 then trigFix p true r
           else if q = 2 then -trigFix p false r else -trigFix p true r)
      (if neg && !cosine then -v else v, 0))

/-- tanh x, x nonzero (R170). -/
def tanhVal (neg : Bool) (m : Nat) (e : Int) : FVal :=
  if belowPow m e (-20) then between neg (m * 1024 - 1) (e - 10)
  else if !belowPow m e 6 then between neg (2 ^ 60 - 1) (-60)
  else
    ziv (fun p =>
      let x := 2 * toFix p m e
      let l := ln2Fix p
      let k := x / l
      let y := expFix p (x - k * l) * (2 ^ k.toNat : Nat)
      let one : Int := (2 ^ p : Nat)
      let t := one - 2 * one * one / (y + one)
      (if neg then -t else t, 0))

/-- The functions of R169. -/
inductive Func where | rcp | rsq | sqrt | exp2 | log2 | sin | cos | tanh
  deriving DecidableEq, Repr

/-- The exact value of a function at a value, with the IV and DZ of the special inputs (R170). -/
def Func.value (fn : Func) (v : FVal) : FVal × BitVec 6 :=
  match v with
  | .nan s => (.nan false, ivIf s)
  | .inf neg =>
    match fn with
    | .rcp => (.fin neg 0 0, 0)
    | .rsq => if neg then (.nan false, flagIV) else (.fin false 0 0, 0)
    | .sqrt => if neg then (.nan false, flagIV) else (.inf false, 0)
    | .exp2 => if neg then (.fin false 0 0, 0) else (.inf false, 0)
    | .log2 => if neg then (.nan false, flagIV) else (.inf false, 0)
    | .sin | .cos => (.nan false, flagIV)
    | .tanh => (.fin neg 1 0, 0)
  | .fin neg m e =>
    if m = 0 then
      match fn with
      | .rcp | .rsq => (.inf neg, flagDZ)
      | .sqrt | .sin | .tanh => (.fin neg 0 0, 0)
      | .exp2 | .cos => (.fin false 1 0, 0)
      | .log2 => (.inf true, flagDZ)
    else
      match fn with
      | .rcp => (recipVal neg m e, 0)
      | .rsq => if neg then (.nan false, flagIV) else (rsqVal m e, 0)
      | .sqrt => if neg then (.nan false, flagIV) else (sqrtVal m e, 0)
      | .exp2 => (exp2Val neg m e, 0)
      | .log2 => if neg then (.nan false, flagIV) else (log2Val m e, 0)
      | .sin => (trigVal false neg m e, 0)
      | .cos => (trigVal true neg m e, 0)
      | .tanh => (tanhVal neg m e, 0)

/-- A function on an encoding, rounded once (R170). -/
def Fmt.func (f : Fmt) (fn : Func) (rnd : Rnd) (sat : Bool) (x : Nat) : Nat × BitVec 6 :=
  let v := fn.value (f.value x)
  let r := f.round rnd sat v.1
  (r.1, r.2 ||| v.2)

end Sys2Proof.Machine
end

