-- ==== Sys2Proof/Machine/Forms.lean ====
section
/-! DEFINITION. The forms of wave words: for each opcode, type and modifier, what every operand field may
hold and how it is read (03 R86-R92, R103; 04 R121-R148; 05 R160-R181; 06 R183-R199). A word whose fields
are outside its form traps ILLEGAL_WORD. -/

namespace Sys2Proof.Machine

/-- What an operand field of a wave word stands for. -/
inductive OpForm where
  /-- not used: field 0, class 00 (R87). -/
  | unused
  /-- a value of a type, from the classes marked; a vector operand names one register, or the even
  first register of a pair under a 64-bit type (R121). -/
  | value (ty : TCode) (vec sca str spe immOk : Bool)
  /-- a 64-bit address, from a vector pair or a scalar (R185). -/
  | addr
  /-- 128-bit data of an .x2 word (R185). -/
  | quad
  /-- a predicate number 0-7 in class 00. -/
  | pred
  /-- a raw immediate field holding one of the codes listed (R136, R171, R173, R174, R176). -/
  | code (allowed : List Nat)
  /-- a special register named for RDSP (R143): 64-bit or 32-bit ones, LANEID or not. -/
  | special (wide32 : Bool) (wide64 : Bool) (laneid : Bool)
  /-- an even scalar register (R202). -/
  | evenScalar
  /-- a vector register named as a base, of any number (R138). -/
  | vbase
  /-- a scalar register named as a base (R138). -/
  | sbase
  /-- a memory control byte (R92). -/
  | ctl (scopes : List Scope) (orders : List MOrder) (hints : List Hint)
  deriving DecidableEq, Repr

/-- What the d field names (R91). -/
inductive DstForm where
  | none
  /-- a vector register; `regs` of them from d on, d a multiple of `regs` (R121, R185). -/
  | vec (regs : Nat)
  | sca
  | pred
  /-- a special register of access RW (R37). -/
  | special
  deriving DecidableEq, Repr

/-- The form of a wave word. -/
structure WaveForm where
  dst    : DstForm
  a      : OpForm
  b      : OpForm
  c      : OpForm
  /-- RND carries a rounding mode (R89). -/
  rounds : Bool
  /-- d is also read, with the sources (R132, R173, R199). -/
  readsD : Bool
  deriving DecidableEq, Repr

/-- Any class but stream under a 64-bit type (R121, R160). -/
def genV (t : WType) : OpForm := .value (.t t) true true (!isWide t) true true
/-- As `genV` without stream registers (R141, R142). -/
def genNoStream (t : WType) : OpForm := .value (.t t) true true false true true
/-- An operand of a scalar form: scalar, special or immediate (R91, R124). -/
def genS (t : WType) : OpForm := .value (.t t) false true false true true
/-- Scalar or immediate. -/
def scaImm (t : WType) : OpForm := .value (.t t) false true false false true
/-- Vector, scalar or immediate. -/
def vecScaImm (t : WType) : OpForm := .value (.t t) true true false false true
/-- Vector or scalar. -/
def vecSca (t : WType) : OpForm := .value (.t t) true true false false false
/-- Data of a store or atomic: vector, scalar, stream or immediate (R185). -/
def dataOp (t : WType) : OpForm := .value (.t t) true true (!isWide t) false true

/-- A vector destination of a type: one register, or a pair under a 64-bit type. -/
def vdst (t : WType) : DstForm := .vec (if isWide t then 2 else 1)

/-- The opcodes whose map entry is two-source (R103). -/
def twoSource (op : Nat) : Bool :=
  let o := if 0x40 ≤ op ∧ op < 0x70 then op - 0x40 else op
  (0x01 ≤ o && o ≤ 0x06) || o == 0x09 || o == 0x0A || (0x10 ≤ o && o ≤ 0x12) || (0x14 ≤ o && o ≤ 0x18)
    || o == 0x23 || op == 0x28 || (0x80 ≤ op && op ≤ 0x82) || op == 0x84 || op == 0x85 || op == 0x86

/-- The long-latency opcodes (R103). -/
def longLatency (op : Nat) : Bool :=
  (0x8A ≤ op && op ≤ 0x91) || op == 0x9A || op == 0xA0 || op == 0xA2 || op == 0xA5 || op == 0xA9 || op == 0xAA

/-- Words that must stand last in their clause (R95): BRA, BRX, CALL, CALLX, RET, EXIT, TRAP, BREAK. -/
def lastOnly (op : Nat) : Bool := 0x30 ≤ op && op ≤ 0x37

/-- The words on which U may be 1 (R85). -/
def uAllowed (op : Nat) : Bool := 0x30 ≤ op && op ≤ 0x34

/-- All scopes. -/
def allScopes : List Scope := [.wv, .wg, .cl, .dv, .sy, .pd]
/-- All orders. -/
def allOrders : List MOrder := [.rlx, .acq, .rel, .ar]

/-- Forms of rows 0x0_-0x1_ (vector) and their scalar-destination twins (R126, R130), on the vector
opcode. `sc` says that the word is the scalar form. -/
def intForm (sc : Bool) (op : Nat) (t : WType) (m : Nat) : Option WaveForm :=
  let g := if sc then genS else genV
  let d : DstForm := if sc then .sca else vdst t
  let two (ok : Bool) : Option WaveForm := if ok then some ⟨d, g t, g t, .unused, false, false⟩ else none
  let one (ok : Bool) : Option WaveForm := if ok then some ⟨d, g t, .unused, .unused, false, false⟩ else none
  let three (ok : Bool) : Option WaveForm := if ok then some ⟨d, g t, g t, g t, false, false⟩ else none
  let sat := m == 0 || m == 8
  let raw := (t == .b32 || t == .b64) && m == 0
  match op with
  | 0x01 | 0x02 | 0x05 => two (isInt t && sat)
  | 0x03 | 0x04 => two ((t == .z32 || t == .z64) && decide (m < 8))
  | 0x06 => two ((t == .s32 || t == .s64 || t == .z32 || t == .z64) && m == 0)
  | 0x07 => three (isInt t && sat)
  | 0x08 =>
    if (t == .s32 || t == .z32) && sat then
      some ⟨if sc then .sca else .vec 2, g t, g t, g (if t == .s32 then .s64 else .z64), false, false⟩
    else none
  | 0x09 | 0x0A => two (isInt t && m == 0)
  | 0x0B | 0x0C => one (isInt t && sat)
  | 0x10 | 0x11 | 0x12 | 0x14 | 0x15 | 0x16 | 0x17 | 0x18 => two raw
  | 0x13 | 0x1C | 0x1D | 0x1E | 0x1F => one raw
  | 0x19 => three raw
  | 0x1A => three ((t == .s32 || t == .s64 || t == .z32 || t == .z64) && m == 0)
  | 0x1B => if raw then some ⟨d, g t, g t, g t, false, true⟩ else none
  | _ => none

/-- Forms of row 0x2_ and its scalar twins 0x61-0x63, 0x67 (R134-R144). Operand b of the scalar MOVL is a scalar or an
immediate, as in the vector form: R138 names its class for that form alone, and the model takes it for both (assumption
log, entry 38). -/
def moveForm (op : Nat) (t : WType) (m : Nat) : Option WaveForm :=
  let raw := t == .b32 || t == .b64
  match op with
  | 0x20 => if raw && m < 8 then some ⟨vdst t, genV t, genV t, .unused, false, false⟩ else none
  | 0x21 =>
    if raw && m == 0 then
      some ⟨vdst t, .value (.t t) true true (!isWide t) false true, .unused, .unused, false, false⟩
    else none
  | 0x61 => if raw && m == 0 then some ⟨.sca, scaImm t, .unused, .unused, false, false⟩ else none
  | 0x22 => if raw && m == 0 then some ⟨vdst t, .vbase, scaImm .z32, .unused, false, false⟩ else none
  | 0x62 => if raw && m == 0 then some ⟨.sca, .sbase, scaImm .z32, .unused, false, false⟩ else none
  | 0x23 =>
    if (t == .s32 || t == .z32 || t == .z64) && m < 8 then
      some ⟨.vec 2, genV .z64, genV t, .unused, false, false⟩
    else none
  | 0x63 =>
    if (t == .s32 || t == .z32 || t == .z64) && m < 8 then
      some ⟨.sca, genS .z64, genS t, .unused, false, false⟩
    else none
  | 0x24 => if t == .z32 && m < 4 then some ⟨.sca, .unused, .unused, .unused, false, false⟩ else none
  | 0x25 => if raw && m < 4 then some ⟨vdst t, genNoStream t, genV t, .unused, false, false⟩ else none
  | 0x26 =>
    if raw && m == 0 then some ⟨vdst t, genNoStream t, scaImm .b32, .unused, false, false⟩
    else if raw && m == 1 then some ⟨vdst t, genNoStream t, .unused, .unused, false, false⟩
    else none
  | 0x27 =>
    if t == .b32 && m == 0 then some ⟨.vec 1, .special true false true, .unused, .unused, false, false⟩
    else if t == .b64 && m == 0 then some ⟨.vec 2, .special false true false, .unused, .unused, false, false⟩
    else none
  | 0x67 =>
    if t == .b64 && m == 0 then some ⟨.sca, .special true true false, .unused, .unused, false, false⟩ else none
  | 0x28 =>
    if (isInt t && m < 6) || (raw && m < 2) then some ⟨.pred, genV t, genV t, .unused, false, false⟩ else none
  | 0x29 =>
    if t == .b32 && m == 0 then some ⟨.pred, .pred, .pred, .code (List.range 16), false, false⟩ else none
  | 0x2A => if t == .b64 && m == 0 then some ⟨.special, scaImm .b64, .unused, .unused, false, false⟩ else none
  | _ => none

/-- Forms of row 0x3_ (R148). -/
def controlForm (op : Nat) (t : WType) (m : Nat) : Option WaveForm :=
  let f (ty : WType) (a : OpForm) : Option WaveForm :=
    if t == ty && m == 0 then some ⟨.none, a, .unused, .unused, false, false⟩ else none
  match op with
  | 0x30 | 0x32 => f .s64 (.value (.t .s64) false false false false true)
  | 0x31 | 0x33 => f .b64 (vecSca .b64)
  | 0x34 | 0x35 | 0x38 | 0x39 => f .s8 .unused
  | 0x36 | 0x37 | 0x3A => f .z32 (scaImm .z32)
  | 0x3B => f .b32 (scaImm .b32)
  | _ => none

/-- The type codes CVT accepts as source or destination (R171). -/
def cvtCodes (dst : Bool) : List Nat :=
  [0, 1, 2, 3, 4, 5, 6, 7, 10, 11, 12, 13, 16, 17, 18] ++ if dst then [] else [19]

/-- The raw immediate of an operand that carries a code. -/
def immCode : Operand → Nat
  | .imm x => x.toNat
  | _ => 256

/-- The register count of a type code's vector operand. -/
def tcodeRegs (t : TCode) : Nat := if tcodeBits t = 64 then 2 else 1

/-- Forms of rows 0x8_ and 0x9_ (R164-R181). The operands b and c of CVT, PACK and UNPACK carry type
codes that decide the types of the others. An 8-bit immediate a of PACK's byte form, and a or b of its half form, is the
integer as an f32, as the value that the form converts is: the model's choice (assumption log, entry 37). -/
def floatForm (op : Nat) (w : WWord) : Option WaveForm :=
  let t := w.t
  let m := w.m.toNat
  let sat := m == 0 || m == 8
  let flt := isFloat t
  let scalarFlt := t == .f16 || t == .bf16 || t == .f32 || t == .f64
  match op with
  | 0x80 | 0x81 | 0x82 => if flt && sat then some ⟨vdst t, genV t, genV t, .unused, true, false⟩ else none
  | 0x83 => if flt && sat then some ⟨vdst t, genV t, genV t, genV t, true, false⟩ else none
  | 0x84 | 0x85 => if flt && m == 0 then some ⟨vdst t, genV t, genV t, .unused, false, false⟩ else none
  | 0x86 => if scalarFlt && m < 8 then some ⟨.pred, genV t, genV t, .unused, false, false⟩ else none
  | 0x87 => if scalarFlt && m == 0 then some ⟨.pred, genV t, scaImm .z32, .unused, false, false⟩ else none
  | 0x88 => if flt && m == 0 then some ⟨vdst t, genV t, .unused, .unused, true, false⟩ else none
  | 0x89 => if flt && m == 0 then some ⟨vdst t, genV t, .unused, .unused, false, false⟩ else none
  | 0x8A | 0x8B | 0x8C => if flt && sat then some ⟨vdst t, genV t, .unused, .unused, true, false⟩ else none
  | 0x8D | 0x8E | 0x8F | 0x90 | 0x91 =>
    if flt && t != .f64 && sat then some ⟨vdst t, genV t, .unused, .unused, true, false⟩ else none
  | 0x92 =>
    match tcodeOf (immCode w.b), tcodeOf (immCode w.c) with
    | some dt, some st =>
      if t == .s8 && (m % 8 == 0 || st == .cb4) then
        let fltT (x : TCode) : Bool := match x with
          | .t y => isFloat y
          | .e4m3 | .e5m2 | .cb4 => true
          | .s4 => false
        some ⟨.vec (tcodeRegs dt), .value st true true (tcodeBits st != 64) true true,
          .code (cvtCodes true), .code (cvtCodes false), fltT dt || fltT st, false⟩
      else none
    | _, _ => none
  | 0x93 =>
    match m % 8 with
    | 0 => if t == .f16x2 || t == .bf16x2 then
        some ⟨.vec 1, genV .f32, genV .f32, .unused, true, false⟩ else none
    | 1 => if t == .b32 && m == 1 then some ⟨.vec 1, genV .b32, genV .b32, .unused, false, false⟩ else none
    | 2 => if t == .b32 then
        some ⟨.vec 1, genV .f32, genV .b32, .code [0x11, 0x12, 0x00, 0x04], true, true⟩ else none
    | _ => none
  | 0x94 =>
    let b := vecScaImm .b32
    match m with
    | 0 => if t == .f16x2 || t == .bf16x2 then some ⟨.vec 1, genV t, b, .unused, false, false⟩ else none
    | 1 => if t == .b32 then some ⟨.vec 1, genV .b32, b, .unused, false, false⟩ else none
    | 2 => if t == .b32 then
        some ⟨.vec 1, genV .b32, b, .code [0x11, 0x12, 0x00, 0x04], false, false⟩ else none
    | 3 => if t == .b32 then some ⟨.vec 1, genV .b32, b, .code [0x10], false, false⟩ else none
    | _ => none
  | 0x95 =>
    let e : WType := if m % 2 = 0 then .f16x2 else .bf16x2
    if t == .f32 && m % 8 < 2 then some ⟨.vec 1, genV e, genV e, genV .f32, true, false⟩ else none
  | 0x96 =>
    if t == .s32 && m % 8 < 2 then some ⟨.vec 1, genV .b32, genV .b32, genV .s32, false, false⟩
    else if t == .f32 && m % 8 / 2 == 1 then some ⟨.vec 1, genV .b32, genV .b32, genV .f32, true, false⟩
    else none
  | 0x98 | 0x99 =>
    let k := m % 8
    let ok := (k == 0 && (isInt t || (scalarFlt && m < 8))) || ((k == 1 || k == 2) && (isInt t || scalarFlt) && m < 8)
      || ((k == 3 || k == 4 || k == 5) && (t == .b32 || t == .b64) && m < 8)
    if ok then
      some ⟨vdst t, genV t, if op = 0x98 then .unused else .code [0, 1], .unused, k == 0 && scalarFlt, false⟩
    else none
  | 0x9A =>
    if (t == .s32 || t == .z32 || t == .f16 || t == .bf16 || t == .f32) && m < 8 then
      some ⟨.vec (if m % 2 = 1 then 2 else 1), vecSca t, scaImm .z32,
        if m / 4 % 2 = 1 then vecSca .z32 else .unused, false, false⟩
    else none
  | 0x9B =>
    if t == .z32 && m == 0 then some ⟨.sca, .pred, .unused, .unused, false, false⟩
    else if t == .z32 && m == 1 then
      some ⟨.sca, .value (.t .b32) true false false false false, .unused, .unused, false, false⟩
    else none
  | 0x9C =>
    if t == .b32 && m < 3 then some ⟨.pred, .pred, .unused, .unused, false, false⟩
    else if t == .b32 && m == 3 then
      some ⟨.pred, .value (.t .b32) true false false false false, .unused, .unused, false, false⟩
    else none
  | _ => none

/-- The types an ATOM or RED operation accepts (R198). -/
def atomOk (t : WType) (m : Nat) : Bool :=
  match m with
  | 0 => t == .s32 || t == .s64 || t == .z32 || t == .z64 || t == .f32 || t == .f64
  | 1 | 2 => t == .s32 || t == .s64 || t == .z32 || t == .z64
  | 3 | 4 | 5 | 6 => t == .b32 || t == .b64
  | _ => false

/-- Forms of the memory group (R183-R185). -/
def memForm (op : Nat) (t : WType) (m : Nat) : Option WaveForm :=
  let upTo9 := isInt t || t == .b32 || t == .b64
  let x2 := m == 1 && t == .b64
  let okLd := upTo9 && (m == 0 || x2)
  let ddst : DstForm := if x2 then .vec 4 else vdst t
  let data : OpForm := if x2 then .quad else dataOp t
  let u64 := scaImm .b64
  let is (ty : WType) : Bool := t == ty && m == 0
  let u (a b c : OpForm) : Option WaveForm := some ⟨.none, a, b, c, false, false⟩
  match op with
  | 0xA0 => if okLd then
      some ⟨ddst, .addr, vecScaImm .s32, .ctl allScopes [.rlx, .acq] [.plain, .nt], false, false⟩ else none
  | 0xA1 => if okLd then u .addr data (.ctl allScopes [.rlx, .rel] [.plain, .wc, .nt]) else none
  | 0xA2 => if okLd then some ⟨ddst, vecScaImm .z32, vecScaImm .s32, .unused, false, false⟩ else none
  | 0xA3 => if okLd then u (vecScaImm .z32) data .unused else none
  | 0xA4 => if is .b32 then u u64 (dataOp .b32) (.ctl [.cl, .dv] [.rlx, .rel] [.plain]) else none
  | 0xA5 => if is .b32 then
      some ⟨.vec 1, .unused, .unused, .ctl [.cl, .dv] [.rlx, .acq] [.plain], false, false⟩ else none
  | 0xA6 => if t == .b64 && m < 2 then u .addr (vecScaImm .s32) .unused else none
  | 0xA7 | 0xA8 => if is .b64 then u u64 u64 (.ctl allScopes [.rlx] [.plain]) else none
  | 0xA9 => if atomOk t m then
      some ⟨vdst t, .addr, dataOp t, .ctl allScopes allOrders [.plain], m == 0 && isFloat t, false⟩ else none
  | 0xAA => if is .b32 || is .b64 then
      some ⟨vdst t, .addr, dataOp t, .ctl allScopes allOrders [.plain], false, true⟩ else none
  | 0xAB => if atomOk t m then
      some ⟨.none, .addr, dataOp t, .ctl allScopes [.rlx, .rel] [.plain], m == 0 && isFloat t, false⟩ else none
  | 0xAC => if is .b64 then u .evenScalar u64 (.ctl allScopes [.rlx] [.plain]) else none
  | 0xAD | 0xAE | 0xAF => if is .b64 then u u64 u64 .unused else none
  | 0xB0 =>
    if t == .s8 && m == 0 then u .unused .unused (.ctl allScopes allOrders [.plain])
    else if t == .s8 && m == 1 then u .unused .unused (.ctl allScopes [.acq, .rel, .ar] [.plain])
    else none
  | 0xB1 | 0xB3 | 0xB4 => if is .z32 then u (scaImm .z32) .unused .unused else none
  | 0xB2 | 0xB5 | 0xBC => if is .s8 then u .unused .unused .unused else none
  | 0xB6 | 0xB7 => if is .z64 then u u64 u64 (.ctl allScopes [.rlx, .rel] [.plain]) else none
  | 0xB8 => if t == .z64 && m < 2 then u u64 u64 (.ctl allScopes [.rlx, .acq] [.plain]) else none
  | 0xB9 => if is .b64 then some ⟨.pred, u64, .unused, .unused, false, false⟩ else none
  | 0xBA => if is .z32 then u (vecScaImm .z32) .unused .unused else none
  | 0xBB => if is .z32 then u u64 .unused .unused else none
  | _ => none

/-- The form of a wave word, where its opcode, type, modifier and codes have one. -/
def waveForm (op : Nat) (w : WWord) : Option WaveForm :=
  let m := w.m.toNat
  if op < 0x20 then intForm false op w.t m
  else if op < 0x30 then moveForm op w.t m
  else if op < 0x40 then controlForm op w.t m
  else if op < 0x60 then intForm true (op - 0x40) w.t m
  else if op < 0x80 then moveForm op w.t m
  else if op < 0xA0 then floatForm op w
  else memForm op w.t m

/-- The registers a vector operand of a form names, from its field on. -/
def formRegs : OpForm → Nat
  | .value ty _ _ _ _ _ => tcodeRegs ty
  | .addr => 2
  | .quad => 4
  | _ => 0

/-- Whether an operand fits its form (R87, R121, R185). A literal operand is checked for its word by
`literalOk`. -/
def operandFits (f : OpForm) (o : Operand) : Bool :=
  match f, o with
  | .unused, .v n => n == 0
  | .value ty true _ _ _ _, .v n => n.toNat % tcodeRegs ty == 0
  | .value _ _ true _ _ _, .s _ => true
  | .value _ _ _ true _ _, .sq _ => true
  | .value _ vec _ _ true _, .sp n => n.toNat < 14 && (vec || n != 0)
  | .value _ _ _ _ _ true, .imm x => x != 0x80
  | .value _ _ _ _ _ true, .lit _ => true
  | .addr, .v n => n.toNat % 2 == 0
  | .addr, .s _ => true
  | .quad, .v n => n.toNat % 4 == 0
  | .quad, .s n => n.toNat % 2 == 0
  | .quad, .imm x => x != 0x80
  | .quad, .lit _ => true
  | .pred, .v n => n.toNat < 8
  | .code l, .imm x => l.contains x.toNat && x != 0x80
  | .special n32 n64 lane, .sp n =>
    n.toNat < 14 && (n != 0 || lane) && (if [2, 3, 12, 13].contains n.toNat then n64 else n32)
  | .evenScalar, .s n => n.toNat % 2 == 0
  | .vbase, .v _ => true
  | .sbase, .s _ => true
  | .ctl ss os hs, .ctl c => ss.contains c.scope && os.contains c.order && hs.contains c.hint
  | _, _ => false

/-- Whether d fits what the opcode names with it (R91). -/
def dstFits (f : DstForm) (d : BitVec 8) : Bool :=
  match f with
  | .none => d == 0
  | .vec r => d.toNat % r == 0
  | .sca => d.toNat < 64
  | .pred => d.toNat < 8
  | .special => d == 0x1B || d == 0x1C

/-- The literal words an operand selects. -/
def literalOf : Operand → List W64
  | .lit x => [x]
  | _ => []

/-- The literal words a word's operands select (R88). -/
def literalsOf (w : WWord) : List W64 := literalOf w.a ++ literalOf w.b ++ literalOf w.c

/-- All operands that select the literal read the same one (R88). -/
def literalOk (w : WWord) : Bool :=
  match literalsOf w with
  | [] => true
  | x :: rest => rest.all (fun y => y == x)

/-- Whether operand b is the immediate pair, allowed in a two-source word of a type that is no float
(R88). -/
def pairFits (op : Nat) (f : WaveForm) (w : WWord) : Bool :=
  match w.b with
  | .pair _ =>
    match f.b with
    | .value (.t t) _ _ _ _ immOk => twoSource op && immOk && !isFloat t && w.c == .v 0
    | _ => false
  | _ => operandFits f.b w.b && operandFits f.c w.c

/-- Whether the fields of a word fit its form. -/
def fieldsFit (op : Nat) (f : WaveForm) (w : WWord) : Bool :=
  dstFits f.dst w.d && operandFits f.a w.a && pairFits op f w && literalOk w
    && (f.rounds || w.rnd == .rn) && (!w.u || uAllowed op)

/-- RND must be 00 in a CVT between integer types, and in PACK.raw (R171, R173): the forms say so; the
integer destinations of PACK.byte keep the mode. -/
def waveOk (op : Nat) (w : WWord) : Bool :=
  match waveForm op w with
  | some f => fieldsFit op f w
  | none => false

end Sys2Proof.Machine
end

