-- ==== Sys2Proof/Machine/WordForms.lean ====
section
/-! DEFINITION. The forms of sequencer words, matrix words and line slots: which fields each operation
uses and the limits a word's own fields must keep (03 R104-R111; 07 R232; 08 R265-R275; 09 R295-R309).
What depends on the machine's state (contexts, latches, tiles, SCRATCH) is checked by the meanings. -/

namespace Sys2Proof.Machine

/-- The operand formats of sequencer words (R105). -/
inductive SeqFmt where | r | i | u | b | j
  deriving DecidableEq, Repr

/-- The immediate's width in each format (R105). -/
def SeqFmt.immBits : SeqFmt → Nat
  | .r => 0 | .i => 12 | .u => 17 | .b => 12 | .j => 22

/-- The form of a sequencer word: its format and the register fields it uses (R232). -/
structure SeqForm where
  fmt  : SeqFmt
  useD : Bool
  useA : Bool
  useB : Bool
  useImm : Bool
  deriving DecidableEq, Repr

/-- The sequencer opcodes and their forms (R106, R232). -/
def seqForm (op : Nat) : Option SeqForm :=
  match op with
  | 0x01 | 0x02 | 0x03 | 0x04 | 0x05 | 0x06 | 0x07 | 0x08 | 0x09 | 0x0A | 0x0B => some ⟨.r, true, true, true, false⟩
  | 0x0C => some ⟨.i, true, true, false, true⟩
  | 0x0D | 0x0E => some ⟨.u, true, false, false, true⟩
  | 0x10 | 0x11 | 0x12 | 0x13 => some ⟨.b, false, true, true, true⟩
  | 0x14 => some ⟨.j, false, false, false, true⟩
  | 0x15 => some ⟨.u, true, false, false, true⟩
  | 0x16 => some ⟨.r, true, true, false, false⟩
  | 0x18 | 0x19 => some ⟨.i, true, true, false, true⟩
  | 0x20 => some ⟨.r, true, true, true, false⟩
  | 0x21 => some ⟨.r, false, true, false, false⟩
  | 0x22 => some ⟨.i, true, true, false, true⟩
  | 0x23 => some ⟨.i, false, true, false, true⟩
  | 0x24 => some ⟨.r, true, false, false, false⟩
  | 0x25 => some ⟨.r, false, true, false, false⟩
  | 0x26 | 0x27 => some ⟨.r, true, false, false, false⟩
  | 0x28 => some ⟨.i, false, true, false, true⟩
  | 0x30 => some ⟨.r, true, false, false, false⟩
  | 0x31 => some ⟨.i, false, true, false, true⟩
  | 0x32 => some ⟨.i, true, false, false, true⟩
  | 0x33 => some ⟨.i, false, true, false, true⟩
  | 0x34 => some ⟨.i, false, false, false, true⟩
  | 0x35 | 0x36 => some ⟨.r, false, false, false, false⟩
  | _ => none

/-- Limits on the fields of single operations: CPY's register group (R236), PACE's queue (R244), RDV's
pair (R245). -/
def seqLimits (op : Nat) (w : SWord) : Bool :=
  match op with
  | 0x20 => w.a.toNat % 4 == 0 && w.a != 0
  | 0x28 => decide (w.imm.toNat < 3)
  | 0x30 => w.d.toNat % 2 == 0
  | _ => true

/-- Whether a sequencer word keeps its form: fields not used are 0 and the immediate fits (R105). -/
def seqOk (op : Nat) (w : SWord) : Bool :=
  match seqForm op with
  | some f =>
    (f.useD || w.d == 0) && (f.useA || w.a == 0) && (f.useB || w.b == 0)
      && decide (w.imm.toNat < 2 ^ f.fmt.immBits) && seqLimits op w
  | none => false

/-- The weight formats of WLOAD, with the widest tile of each (R73, R265). -/
def weightCols (fmt : Nat) : Option Nat :=
  match fmt with
  | 0x0D => some 16
  | 0x0C => some 32
  | 0x0A | 0x0B | 0x11 | 0x12 | 0x13 | 0x00 | 0x10 => some 64
  | _ => none

/-- The activation formats of MSTEP (R71, R72). -/
def activationOk (fmt : Nat) : Bool := [0x0D, 0x0C, 0x0A, 0x0B, 0x11, 0x12, 0x00, 0x10].contains fmt

/-- The integer activation formats, s8 and s4. -/
def intActivation (fmt : Nat) : Bool := fmt == 0x00 || fmt == 0x10

/-- The drain formats of MDRAIN (R272). -/
def drainOk (fmt : Nat) : Bool :=
  fmt < 8 || (10 ≤ fmt && fmt < 14) || fmt == 0x10 || fmt == 0x11 || fmt == 0x12

/-- Which fields of R107 a matrix operation uses (R108), in the order
d c fmt mb kx nx px spl spm dfmt drnd dsat hg a b astr pstr. -/
def matrixUses (opx : Nat) : List Bool :=
  match opx with
  | 1 => [false, true, true, false, true, true, false, false, false, false, false, false, true, true, true, true, false]
  | 2 => [true, true, true, true, true, true, true, true, true, false, false, false, true, true, false, true, true]
  | 3 => [true, false, false, false, false, true, true, false, false, true, true, true, true, false, true, true, false]
  | 4 => [true, false, false, false, false, false, false, false, false, false, false, false, true, false, true, false, false]
  | 5 => [true, false, false, false, false, false, false, false, false, false, false, false, false, false, false, false, false]
  | 6 => [false, false, false, false, true, true, true, false, false, false, false, false, true, false, false, false, false]
  | _ => List.replicate 17 false

/-- The fields of R107 as numbers, in the order of `matrixUses`. -/
def matrixFields (w : MWord) : List Nat :=
  [w.d.toNat, w.c.toNat, w.fmt.toNat, w.mb.toNat, w.kx.toNat, w.nx.toNat, w.px.toNat, w.spl.toNat, w.spm.toNat,
   w.dfmt.toNat, rndCode w.drnd, w.dsat.toNat, w.hg.toNat, w.a.toNat, w.b.toNat, w.astr.toNat, w.pstr.toNat]

/-- Formats and bounds of the operation (R265, R267, R272). -/
def matrixLimits (opx : Nat) (w : MWord) : Bool :=
  match opx with
  | 1 =>
    match weightCols w.fmt.toNat with
    | some n => decide (w.nx.toNat < n) && (w.fmt.toNat == 0x13 || w.b == 0)
    | none => false
  | 2 => activationOk w.fmt.toNat && (if intActivation w.fmt.toNat then decide (w.mb.toNat ≤ 20) else w.mb == 0)
  | 3 => drainOk w.dfmt.toNat
  | _ => true

/-- Whether a matrix word passes the checks of R108 that need no state. -/
def matrixOk (opx : Nat) (w : MWord) : Bool :=
  decide (opx < 7) && ((matrixUses opx).zip (matrixFields w)).all (fun p => p.1 || p.2 == 0)
    && w.spl != 3 && w.spm != 3 && decide (w.hg.toNat ≤ 16) && matrixLimits opx w

/-- The 13-bit immediate of a line slot (R109). -/
def lineImm (w : LSlot) : BitVec 13 := w.b ++ w.c ++ w.m

/-- No guard (R295). -/
def lineUnguarded (w : LSlot) : Bool := w.y == 0 && !w.yn

/-- Whether a slot's fields keep the limits of its operation (R296-R309). -/
def lineOk (slot op : Nat) (w : LSlot) : Bool :=
  let d := w.d.toNat
  let a := w.a.toNat
  let b := w.b.toNat
  let c := w.c.toNat
  let m := w.m.toNat
  let vecOp : Bool :=
    match op with
    | 0x01 | 0x02 | 0x03 | 0x05 | 0x06 => c == 0
    | 0x04 => true
    | 0x07 => decide (d < 4) && m % 4 != 1 && decide (c < 8) && (m % 4 == 0 || decide (c < 6))
    | 0x08 => m % 4 == 0 && decide (c < 4)
    | 0x09 => b == 0 && decide (c < 8)
    | 0x0A => m == 0 && b == 0 && c == 0
    | 0x0B => m % 4 == 0
    | 0x0C => (m == 0 && c == 0) || ((m == 1 || m == 2 || m == 3) && b == 0 && decide (c < 16))
    | 0x20 => slot == 2 && lineUnguarded w && d % 2 == 0 && c == 0
        && (if 4 ≤ m then b % 2 == 0 else b == 0)
    | _ => false
  if op = 0 then w.y == 0 && !w.yn && d == 0 && a == 0 && b == 0 && c == 0 && m == 0
  else match slot with
    | 0 =>
      lineUnguarded w &&
      match op with
      | 0x01 => d == 0
      | 0x02 => d == 0 && a == 0
      | 0x03 => decide (d < 7) && (decide (d < 4) || decide (a < 4))
      | 0x04 => d == 0 && a == 0 && b == 0 && c == 0 && m == 0
      | 0x05 | 0x11 | 0x1B => true
      | 0x06 => decide ((lineImm w).toNat < 16)
      | 0x1A => a == 0
      | 0x10 | 0x12 | 0x13 | 0x14 | 0x15 | 0x16 | 0x17 | 0x18 | 0x19 | 0x1C => c == 0 && m == 0
      | _ => false
    | 3 =>
      match op with
      | 0x01 | 0x02 => true
      | 0x03 => m % 4 != 3 && decide (c < 8) && (m % 4 == 1 || (m % 4 == 0 && d % 4 == 0) || (m % 4 == 2 && d % 2 == 0))
      | 0x04 => c == 0 && m == 0
      | 0x05 => d == 0 && m == 0 && decide (a ≤ 29)
      | 0x06 => lineUnguarded w && decide (m < 4) && d == 0 && b == 0 && c == 0
      | _ => false
    | _ => vecOp

end Sys2Proof.Machine
end

