-- ==== Sys2Proof/Machine/Opcodes.lean ====
section
/-! DEFINITION. The opcode maps of the manual, from code to operation and back: wave words, sequencer words,
matrix words, line slots, packets and mailbox commands (03 R102, R106, R108, R110; 11 R323, R341; 25 R498). -/

namespace Sys2Proof.Machine

/-- The wave opcode map (03 R102). Part 1 of 4. -/
def waveOps0 : List (Nat × (WWord → Instr)) :=
  [(0x01, .wAdd), (0x02, .wSub), (0x03, .wAddc), (0x04, .wSubb),
   (0x05, .wMul), (0x06, .wMulh), (0x07, .wMad), (0x08, .wMadw),
   (0x09, .wMin), (0x0A, .wMax), (0x0B, .wAbs), (0x0C, .wNeg),
   (0x10, .wAnd), (0x11, .wOr), (0x12, .wXor), (0x13, .wNot),
   (0x14, .wAndn), (0x15, .wShl), (0x16, .wShr), (0x17, .wSar),
   (0x18, .wRot), (0x19, .wFunnel), (0x1A, .wBfx), (0x1B, .wBfi),
   (0x1C, .wPopc), (0x1D, .wClz), (0x1E, .wCtz), (0x1F, .wBrev),
   (0x20, .wSel), (0x21, .wMov), (0x22, .wMovl), (0x23, .wLea),
   (0x24, .wLane), (0x25, .wShuf), (0x26, .wBcast)]

/-- The wave opcode map (03 R102). Part 2 of 4. -/
def waveOps1 : List (Nat × (WWord → Instr)) :=
  [(0x27, .wRdsp), (0x28, .wCmp), (0x29, .wPlog), (0x2A, .wWrsp),
   (0x30, .wBra), (0x31, .wBrx), (0x32, .wCall), (0x33, .wCallx),
   (0x34, .wRet), (0x35, .wExit), (0x36, .wTrap), (0x37, .wBreak),
   (0x38, .wNop), (0x39, .wYield), (0x3A, .wSleep), (0x3B, .wWaitf),
   (0x41, .wAddScalar), (0x42, .wSubScalar), (0x43, .wAddcScalar), (0x44, .wSubbScalar),
   (0x45, .wMulScalar), (0x46, .wMulhScalar), (0x47, .wMadScalar), (0x48, .wMadwScalar),
   (0x49, .wMinScalar), (0x4A, .wMaxScalar), (0x4B, .wAbsScalar), (0x4C, .wNegScalar),
   (0x50, .wAndScalar), (0x51, .wOrScalar), (0x52, .wXorScalar), (0x53, .wNotScalar),
   (0x54, .wAndnScalar), (0x55, .wShlScalar), (0x56, .wShrScalar)]

/-- The wave opcode map (03 R102). Part 3 of 4. -/
def waveOps2 : List (Nat × (WWord → Instr)) :=
  [(0x57, .wSarScalar), (0x58, .wRotScalar), (0x59, .wFunnelScalar), (0x5A, .wBfxScalar),
   (0x5B, .wBfiScalar), (0x5C, .wPopcScalar), (0x5D, .wClzScalar), (0x5E, .wCtzScalar),
   (0x5F, .wBrevScalar), (0x61, .wMovScalar), (0x62, .wMovlScalar), (0x63, .wLeaScalar),
   (0x67, .wRdspScalar), (0x80, .wFadd), (0x81, .wFsub), (0x82, .wFmul),
   (0x83, .wFfma), (0x84, .wFmin), (0x85, .wFmax), (0x86, .wFcmp),
   (0x87, .wFclass), (0x88, .wFrnd), (0x89, .wFract), (0x8A, .wRcp),
   (0x8B, .wRsq), (0x8C, .wSqrt), (0x8D, .wExp2), (0x8E, .wLog2),
   (0x8F, .wSin), (0x90, .wCos), (0x91, .wTanh), (0x92, .wCvt),
   (0x93, .wPack), (0x94, .wUnpack), (0x95, .wDot2)]

/-- The wave opcode map (03 R102). Part 4 of 4. -/
def waveOps3 : List (Nat × (WWord → Instr)) :=
  [(0x96, .wDot4), (0x98, .wReduce), (0x99, .wScan), (0x9A, .wTopk),
   (0x9B, .wBallot), (0x9C, .wVote), (0xA0, .wLd), (0xA1, .wSt),
   (0xA2, .wLds), (0xA3, .wSts), (0xA4, .wSend), (0xA5, .wRecv),
   (0xA6, .wPref), (0xA7, .wWb), (0xA8, .wInv), (0xA9, .wAtom),
   (0xAA, .wAtomcas), (0xAB, .wRed), (0xAC, .wBind), (0xAD, .wUnbind),
   (0xAE, .wAcq), (0xAF, .wRel), (0xB0, .wFence), (0xB1, .wBar),
   (0xB2, .wGbar), (0xB3, .wArrive), (0xB4, .wWaitb), (0xB5, .wOpfence),
   (0xB6, .wTladd), (0xB7, .wTlset), (0xB8, .wTlwait), (0xB9, .wLaunch),
   (0xBA, .wSetperf), (0xBB, .wProgress), (0xBC, .wRdv)]

/-- The wave opcode map (03 R102). -/
def waveOps : List (Nat × (WWord → Instr)) := waveOps0 ++ waveOps1 ++ waveOps2 ++ waveOps3

/-- The sequencer opcode map (03 R106). Part 1 of 2. -/
def seqOps0 : List (Nat × (SWord → Instr)) :=
  [(0x01, .seqAdd), (0x02, .seqSub), (0x03, .seqAnd), (0x04, .seqOr),
   (0x05, .seqXor), (0x06, .seqShl), (0x07, .seqShr), (0x08, .seqSar),
   (0x09, .seqMul), (0x0A, .seqSlt), (0x0B, .seqSltz), (0x0C, .seqAddi),
   (0x0D, .seqLi), (0x0E, .seqLui), (0x10, .seqBeq), (0x11, .seqBne),
   (0x12, .seqBlt), (0x13, .seqBge), (0x14, .seqJ), (0x15, .seqJal),
   (0x16, .seqJr), (0x18, .seqLdg), (0x19, .seqStg), (0x20, .seqCpy),
   (0x21, .seqCpyw), (0x22, .seqMw), (0x23, .seqNest), (0x24, .seqGo),
   (0x25, .seqNwait), (0x26, .seqSpw), (0x27, .seqTok), (0x28, .seqPace),
   (0x30, .seqRdv), (0x31, .seqOvl), (0x32, .seqMfc)]

/-- The sequencer opcode map (03 R106). Part 2 of 2. -/
def seqOps1 : List (Nat × (SWord → Instr)) :=
  [(0x33, .seqMtc), (0x34, .seqTrap), (0x35, .seqEret), (0x36, .seqHalt)]

/-- The sequencer opcode map (03 R106). -/
def seqOps : List (Nat × (SWord → Instr)) := seqOps0 ++ seqOps1

/-- The matrix operations by OPX (03 R108). -/
def matrixOps : List (Nat × (MWord → Instr)) :=
  [(0x00, .mNop), (0x01, .mWload), (0x02, .mStep), (0x03, .mDrain),
   (0x04, .mFold), (0x05, .mClr), (0x06, .mFill)]

/-- The operations of line slot 0 (03 R110). -/
def lineOps0 : List (Nat × (LSlot → Instr)) :=
  [(0x01, .lLoop), (0x02, .lBr), (0x03, .lBrc), (0x04, .lHalt),
   (0x05, .lBeam), (0x06, .lPose), (0x10, .lKadd), (0x11, .lKaddi),
   (0x12, .lKsub), (0x13, .lKmul), (0x14, .lKand), (0x15, .lKor),
   (0x16, .lKxor), (0x17, .lKshl), (0x18, .lKshr), (0x19, .lKsar),
   (0x1A, .lKli), (0x1B, .lKlui), (0x1C, .lKslt)]

/-- The operations of line slots 1 and 2; PMM stands apart (03 R110). -/
def lineOpsV : List (Nat × (LSlot → Instr)) :=
  [(0x01, .lHadd), (0x02, .lHsub), (0x03, .lHmul), (0x04, .lHfma),
   (0x05, .lHmin), (0x06, .lHmax), (0x07, .lHcmp), (0x08, .lHsel),
   (0x09, .lHcvt), (0x0A, .lHrcp), (0x0B, .lHlerp), (0x0C, .lHshuf)]

/-- The operations of line slot 3 (03 R110). -/
def lineOps3 : List (Nat × (LSlot → Instr)) :=
  [(0x01, .lLbld), (0x02, .lLbst), (0x03, .lSamp), (0x04, .lGath),
   (0x05, .lEmit), (0x06, .lPmw)]

/-- The packet types (11 R323). -/
def packetOps : List (Nat × (PacketWord → Instr)) :=
  [(0x00, .pkNop), (0x01, .pkLaunchGrid), (0x02, .pkIndirect), (0x03, .pkTlWait), (0x04, .pkTlAdd), (0x05, .pkTlSet), (0x06, .pkBarrier), (0x07, .pkPresent)]

/-- The mailbox commands (11 R341, 25 R498). -/
def mailOps : List (Nat × (MailWord → Instr)) :=
  [(0x01, .mbCreateContext), (0x02, .mbDestroyContext), (0x03, .mbBindQueue), (0x04, .mbUnbindQueue), (0x05, .mbResetQueue), (0x06, .mbResetContext), (0x07, .mbFwRestart), (0x08, .mbGrant), (0x09, .mbPodPeer), (0x0A, .mbSetPasid), (0x0B, .mbClearFences)]

/-- The opcode and fields of a wave word (03 R102). -/
def waveOpcode : Instr → Option (Nat × WWord)
  | .wAdd w => some (0x01, w)
  | .wSub w => some (0x02, w)
  | .wAddc w => some (0x03, w)
  | .wSubb w => some (0x04, w)
  | .wMul w => some (0x05, w)
  | .wMulh w => some (0x06, w)
  | .wMad w => some (0x07, w)
  | .wMadw w => some (0x08, w)
  | .wMin w => some (0x09, w)
  | .wMax w => some (0x0A, w)
  | .wAbs w => some (0x0B, w)
  | .wNeg w => some (0x0C, w)
  | .wAnd w => some (0x10, w)
  | .wOr w => some (0x11, w)
  | .wXor w => some (0x12, w)
  | .wNot w => some (0x13, w)
  | .wAndn w => some (0x14, w)
  | .wShl w => some (0x15, w)
  | .wShr w => some (0x16, w)
  | .wSar w => some (0x17, w)
  | .wRot w => some (0x18, w)
  | .wFunnel w => some (0x19, w)
  | .wBfx w => some (0x1A, w)
  | .wBfi w => some (0x1B, w)
  | .wPopc w => some (0x1C, w)
  | .wClz w => some (0x1D, w)
  | .wCtz w => some (0x1E, w)
  | .wBrev w => some (0x1F, w)
  | .wSel w => some (0x20, w)
  | .wMov w => some (0x21, w)
  | .wMovl w => some (0x22, w)
  | .wLea w => some (0x23, w)
  | .wLane w => some (0x24, w)
  | .wShuf w => some (0x25, w)
  | .wBcast w => some (0x26, w)
  | .wRdsp w => some (0x27, w)
  | .wCmp w => some (0x28, w)
  | .wPlog w => some (0x29, w)
  | .wWrsp w => some (0x2A, w)
  | .wBra w => some (0x30, w)
  | .wBrx w => some (0x31, w)
  | .wCall w => some (0x32, w)
  | .wCallx w => some (0x33, w)
  | .wRet w => some (0x34, w)
  | .wExit w => some (0x35, w)
  | .wTrap w => some (0x36, w)
  | .wBreak w => some (0x37, w)
  | .wNop w => some (0x38, w)
  | .wYield w => some (0x39, w)
  | .wSleep w => some (0x3A, w)
  | .wWaitf w => some (0x3B, w)
  | .wAddScalar w => some (0x41, w)
  | .wSubScalar w => some (0x42, w)
  | .wAddcScalar w => some (0x43, w)
  | .wSubbScalar w => some (0x44, w)
  | .wMulScalar w => some (0x45, w)
  | .wMulhScalar w => some (0x46, w)
  | .wMadScalar w => some (0x47, w)
  | .wMadwScalar w => some (0x48, w)
  | .wMinScalar w => some (0x49, w)
  | .wMaxScalar w => some (0x4A, w)
  | .wAbsScalar w => some (0x4B, w)
  | .wNegScalar w => some (0x4C, w)
  | .wAndScalar w => some (0x50, w)
  | .wOrScalar w => some (0x51, w)
  | .wXorScalar w => some (0x52, w)
  | .wNotScalar w => some (0x53, w)
  | .wAndnScalar w => some (0x54, w)
  | .wShlScalar w => some (0x55, w)
  | .wShrScalar w => some (0x56, w)
  | .wSarScalar w => some (0x57, w)
  | .wRotScalar w => some (0x58, w)
  | .wFunnelScalar w => some (0x59, w)
  | .wBfxScalar w => some (0x5A, w)
  | .wBfiScalar w => some (0x5B, w)
  | .wPopcScalar w => some (0x5C, w)
  | .wClzScalar w => some (0x5D, w)
  | .wCtzScalar w => some (0x5E, w)
  | .wBrevScalar w => some (0x5F, w)
  | .wMovScalar w => some (0x61, w)
  | .wMovlScalar w => some (0x62, w)
  | .wLeaScalar w => some (0x63, w)
  | .wRdspScalar w => some (0x67, w)
  | .wFadd w => some (0x80, w)
  | .wFsub w => some (0x81, w)
  | .wFmul w => some (0x82, w)
  | .wFfma w => some (0x83, w)
  | .wFmin w => some (0x84, w)
  | .wFmax w => some (0x85, w)
  | .wFcmp w => some (0x86, w)
  | .wFclass w => some (0x87, w)
  | .wFrnd w => some (0x88, w)
  | .wFract w => some (0x89, w)
  | .wRcp w => some (0x8A, w)
  | .wRsq w => some (0x8B, w)
  | .wSqrt w => some (0x8C, w)
  | .wExp2 w => some (0x8D, w)
  | .wLog2 w => some (0x8E, w)
  | .wSin w => some (0x8F, w)
  | .wCos w => some (0x90, w)
  | .wTanh w => some (0x91, w)
  | .wCvt w => some (0x92, w)
  | .wPack w => some (0x93, w)
  | .wUnpack w => some (0x94, w)
  | .wDot2 w => some (0x95, w)
  | .wDot4 w => some (0x96, w)
  | .wReduce w => some (0x98, w)
  | .wScan w => some (0x99, w)
  | .wTopk w => some (0x9A, w)
  | .wBallot w => some (0x9B, w)
  | .wVote w => some (0x9C, w)
  | .wLd w => some (0xA0, w)
  | .wSt w => some (0xA1, w)
  | .wLds w => some (0xA2, w)
  | .wSts w => some (0xA3, w)
  | .wSend w => some (0xA4, w)
  | .wRecv w => some (0xA5, w)
  | .wPref w => some (0xA6, w)
  | .wWb w => some (0xA7, w)
  | .wInv w => some (0xA8, w)
  | .wAtom w => some (0xA9, w)
  | .wAtomcas w => some (0xAA, w)
  | .wRed w => some (0xAB, w)
  | .wBind w => some (0xAC, w)
  | .wUnbind w => some (0xAD, w)
  | .wAcq w => some (0xAE, w)
  | .wRel w => some (0xAF, w)
  | .wFence w => some (0xB0, w)
  | .wBar w => some (0xB1, w)
  | .wGbar w => some (0xB2, w)
  | .wArrive w => some (0xB3, w)
  | .wWaitb w => some (0xB4, w)
  | .wOpfence w => some (0xB5, w)
  | .wTladd w => some (0xB6, w)
  | .wTlset w => some (0xB7, w)
  | .wTlwait w => some (0xB8, w)
  | .wLaunch w => some (0xB9, w)
  | .wSetperf w => some (0xBA, w)
  | .wProgress w => some (0xBB, w)
  | .wRdv w => some (0xBC, w)
  | _ => none

/-- The opcode and fields of a sequencer word (03 R106). -/
def seqOpcode : Instr → Option (Nat × SWord)
  | .seqAdd w => some (0x01, w)
  | .seqSub w => some (0x02, w)
  | .seqAnd w => some (0x03, w)
  | .seqOr w => some (0x04, w)
  | .seqXor w => some (0x05, w)
  | .seqShl w => some (0x06, w)
  | .seqShr w => some (0x07, w)
  | .seqSar w => some (0x08, w)
  | .seqMul w => some (0x09, w)
  | .seqSlt w => some (0x0A, w)
  | .seqSltz w => some (0x0B, w)
  | .seqAddi w => some (0x0C, w)
  | .seqLi w => some (0x0D, w)
  | .seqLui w => some (0x0E, w)
  | .seqBeq w => some (0x10, w)
  | .seqBne w => some (0x11, w)
  | .seqBlt w => some (0x12, w)
  | .seqBge w => some (0x13, w)
  | .seqJ w => some (0x14, w)
  | .seqJal w => some (0x15, w)
  | .seqJr w => some (0x16, w)
  | .seqLdg w => some (0x18, w)
  | .seqStg w => some (0x19, w)
  | .seqCpy w => some (0x20, w)
  | .seqCpyw w => some (0x21, w)
  | .seqMw w => some (0x22, w)
  | .seqNest w => some (0x23, w)
  | .seqGo w => some (0x24, w)
  | .seqNwait w => some (0x25, w)
  | .seqSpw w => some (0x26, w)
  | .seqTok w => some (0x27, w)
  | .seqPace w => some (0x28, w)
  | .seqRdv w => some (0x30, w)
  | .seqOvl w => some (0x31, w)
  | .seqMfc w => some (0x32, w)
  | .seqMtc w => some (0x33, w)
  | .seqTrap w => some (0x34, w)
  | .seqEret w => some (0x35, w)
  | .seqHalt w => some (0x36, w)
  | _ => none

/-- OPX and the fields of a matrix word (03 R108). -/
def matrixOpcode : Instr → Option (Nat × MWord)
  | .mNop w => some (0x00, w)
  | .mWload w => some (0x01, w)
  | .mStep w => some (0x02, w)
  | .mDrain w => some (0x03, w)
  | .mFold w => some (0x04, w)
  | .mClr w => some (0x05, w)
  | .mFill w => some (0x06, w)
  | _ => none

/-- The slots of a bundle an operation may stand in. -/
inductive SlotKind where | zero | vector | two | three | any
  deriving DecidableEq, Repr

/-- Whether slot number `n` is of a kind (03 R110). -/
def SlotKind.holds : SlotKind → Nat → Bool
  | .zero, n => n == 0
  | .vector, n => n == 1 || n == 2
  | .two, n => n == 2
  | .three, n => n == 3
  | .any, n => n < 4

/-- The slots, the opcode and the fields of a line operation (03 R110). -/
def lineOpcode : Instr → Option (SlotKind × Nat × LSlot)
  | .lLoop w => some (.zero, 0x01, w)
  | .lBr w => some (.zero, 0x02, w)
  | .lBrc w => some (.zero, 0x03, w)
  | .lHalt w => some (.zero, 0x04, w)
  | .lBeam w => some (.zero, 0x05, w)
  | .lPose w => some (.zero, 0x06, w)
  | .lKadd w => some (.zero, 0x10, w)
  | .lKaddi w => some (.zero, 0x11, w)
  | .lKsub w => some (.zero, 0x12, w)
  | .lKmul w => some (.zero, 0x13, w)
  | .lKand w => some (.zero, 0x14, w)
  | .lKor w => some (.zero, 0x15, w)
  | .lKxor w => some (.zero, 0x16, w)
  | .lKshl w => some (.zero, 0x17, w)
  | .lKshr w => some (.zero, 0x18, w)
  | .lKsar w => some (.zero, 0x19, w)
  | .lKli w => some (.zero, 0x1A, w)
  | .lKlui w => some (.zero, 0x1B, w)
  | .lKslt w => some (.zero, 0x1C, w)
  | .lHadd w => some (.vector, 0x01, w)
  | .lHsub w => some (.vector, 0x02, w)
  | .lHmul w => some (.vector, 0x03, w)
  | .lHfma w => some (.vector, 0x04, w)
  | .lHmin w => some (.vector, 0x05, w)
  | .lHmax w => some (.vector, 0x06, w)
  | .lHcmp w => some (.vector, 0x07, w)
  | .lHsel w => some (.vector, 0x08, w)
  | .lHcvt w => some (.vector, 0x09, w)
  | .lHrcp w => some (.vector, 0x0A, w)
  | .lHlerp w => some (.vector, 0x0B, w)
  | .lHshuf w => some (.vector, 0x0C, w)
  | .lPmm w => some (.two, 0x20, w)
  | .lLbld w => some (.three, 0x01, w)
  | .lLbst w => some (.three, 0x02, w)
  | .lSamp w => some (.three, 0x03, w)
  | .lGath w => some (.three, 0x04, w)
  | .lEmit w => some (.three, 0x05, w)
  | .lPmw w => some (.three, 0x06, w)
  | .lNop w => some (.any, 0x00, w)
  | _ => none

/-- The type and words of a packet (11 R323). -/
def packetType : Instr → Option (Nat × PacketWord)
  | .pkNop w => some (0x00, w)
  | .pkLaunchGrid w => some (0x01, w)
  | .pkIndirect w => some (0x02, w)
  | .pkTlWait w => some (0x03, w)
  | .pkTlAdd w => some (0x04, w)
  | .pkTlSet w => some (0x05, w)
  | .pkBarrier w => some (0x06, w)
  | .pkPresent w => some (0x07, w)
  | _ => none

/-- The code and words of a mailbox command (11 R341, 25 R498). -/
def mailCode : Instr → Option (Nat × MailWord)
  | .mbCreateContext w => some (0x01, w)
  | .mbDestroyContext w => some (0x02, w)
  | .mbBindQueue w => some (0x03, w)
  | .mbUnbindQueue w => some (0x04, w)
  | .mbResetQueue w => some (0x05, w)
  | .mbResetContext w => some (0x06, w)
  | .mbFwRestart w => some (0x07, w)
  | .mbGrant w => some (0x08, w)
  | .mbPodPeer w => some (0x09, w)
  | .mbSetPasid w => some (0x0A, w)
  | .mbClearFences w => some (0x0B, w)
  | _ => none

/-- Whether an instruction keeps the form the spec gives its word. Events have no word: any is well formed
(assumption log, entry 1). -/
def formOk (i : Instr) : Bool :=
  match waveOpcode i with
  | some (op, w) => waveOk op w
  | none =>
  match seqOpcode i with
  | some (op, w) => seqOk op w
  | none =>
  match matrixOpcode i with
  | some (op, w) => matrixOk op w
  | none =>
  match lineOpcode i with
  | some (k, op, w) => k.holds w.slot.toNat && lineOk w.slot.toNat op w
  | none =>
  match packetType i with
  | some (_, w) => decide (1 ≤ w.len ∧ w.len < 65536 ∧ w.body.length < w.len)
  | none =>
  match mailCode i with
  | some (_, w) => decide (w.func < 17)
  | none => true

end Sys2Proof.Machine
end

