-- ==== Sys2Proof/WellFormed.lean ====
section
/-! DEFINITION. Well-formed instructions: those whose fields keep the limits the spec gives their word. The
checks themselves stand in Machine/Forms.lean and Machine/WordForms.lean. -/

namespace Sys2Proof

/-- An instruction keeps the form of its word (03 R86-R92, R105, R108, R111). -/
abbrev WellFormed (i : Instr) : Prop := Machine.formOk i = true

end Sys2Proof
end

