-- ==== Sys2Proof/Decode.lean ====
section
/-! DEFINITION. The decoders of the four word kinds and of packets, total on any bits, and after them the
encoders written from the same tables (03 R85-R111, 11 R322). A word that decodes to nothing is one that
traps ILLEGAL_WORD (or, a packet, halts its queue with PKT_ERR). -/

namespace Sys2Proof

open Sys2Proof.Machine

/-! ## Decoders -/

/-- How an operand field of a wave word is read. -/
inductive FieldMode where
  /-- by its class, 0x80 of class 11 being the literal (03 R87, R88). -/
  | plain
  /-- a code: class 11 is the raw field (05 R171, R173, R174). -/
  | raw
  /-- a memory control byte (03 R92). -/
  | ctl
  deriving DecidableEq, Repr

/-- The opcodes whose operand c is a control byte (06 R183). -/
def ctlOps : List Nat :=
  [0xA0, 0xA1, 0xA4, 0xA5, 0xA7, 0xA8, 0xA9, 0xAA, 0xAB, 0xAC, 0xB0, 0xB6, 0xB7, 0xB8]

/-- How operand b of an opcode is read. -/
def modeB (op : Nat) : FieldMode := if op = 0x92 ∨ op = 0x99 then .raw else .plain

/-- How operand c of an opcode is read. -/
def modeC (op : Nat) : FieldMode :=
  if ctlOps.contains op then .ctl
  else if [0x29, 0x92, 0x93, 0x94].contains op then .raw
  else .plain

/-- An operand from its class and field; `lit` is the next word of the clause (03 R87, R88, R92). -/
def decodeOperand (mode : FieldMode) (cls field : Nat) (lit : Option W64) : Option Operand :=
  match cls with
  | 0 => some (.v (BitVec.ofNat 8 field))
  | 1 => if field < 64 then some (.s (BitVec.ofNat 6 field)) else none
  | 2 =>
    if field < 8 then some (.sq (BitVec.ofNat 3 field))
    else if 0x10 ≤ field ∧ field < 0x1E then some (.sp (BitVec.ofNat 4 (field - 0x10)))
    else none
  | _ =>
    match mode with
    | .ctl => (ctlOf field).map .ctl
    | .raw => some (.imm (BitVec.ofNat 8 field))
    | .plain => if field = 0x80 then lit.map .lit else some (.imm (BitVec.ofNat 8 field))

/-- The fields of a wave word (03 R85), with the immediate pair of a two-source word (03 R88). -/
def decodeWaveFields (op x : Nat) (lit : Option W64) : Option WWord :=
  let ka := bits x 6 2
  let kb := bits x 4 2
  let kc := bits x 2 2
  let pair := twoSource op && kb == 3 && kc == 3
  let b := if pair then some (Operand.pair (BitVec.ofNat 16 (bits x 8 16)))
    else decodeOperand (modeB op) kb (bits x 16 8) lit
  let c := if pair then some (Operand.v 0) else decodeOperand (modeC op) kc (bits x 8 8) lit
  match decodeOperand .plain ka (bits x 24 8) lit, b, c with
  | some a, some b, some c =>
    some { t := wtypeOf (bits x 52 4), m := BitVec.ofNat 4 (bits x 48 4), p := BitVec.ofNat 3 (bits x 45 3),
           pn := bit x 44, u := bit x 43, l := BitVec.ofNat 3 (bits x 40 3), d := BitVec.ofNat 8 (bits x 32 8),
           a := a, b := b, c := c, rnd := rndOf (bits x 0 2) }
  | _, _, _ => none

/-- The instruction a wave word stands for, given the word that follows it in its clause. -/
def decodeWave (w : W64) (lit : Option W64) : Option Instr :=
  let x := w.toNat
  let op := bits x 56 8
  match assoc waveOps op, decodeWaveFields op x lit with
  | some c, some f => if waveOk op f then some (c f) else none
  | _, _ => none

/-- The fields of a sequencer word in its format (03 R104, R105). -/
def decodeSeqFields (f : SeqForm) (x : Nat) : Option SWord :=
  let fa := match f.fmt with
    | .b => bits x 17 5
    | .r | .i => bits x 12 5
    | _ => 0
  let fb := match f.fmt with
    | .b => bits x 12 5
    | .r => bits x 7 5
    | _ => 0
  let fd := match f.fmt with
    | .r | .i | .u => bits x 17 5
    | _ => 0
  if f.fmt = .r ∧ bits x 0 7 ≠ 0 then none
  else some { tu := bit x 25, gd := bit x 24, td := bit x 23, gu := bit x 22, d := BitVec.ofNat 5 fd,
              a := BitVec.ofNat 5 fa, b := BitVec.ofNat 5 fb, imm := BitVec.ofNat 22 (bits x 0 f.fmt.immBits) }

/-- The instruction a sequencer word stands for (03 R104-R106). -/
def decodeSeq (w : W32) : Option Instr :=
  let x := w.toNat
  let op := bits x 26 6
  match assoc seqOps op, seqForm op with
  | some c, some f =>
    match decodeSeqFields f x with
    | some s => if seqOk op s then some (c s) else none
    | none => none
  | _, _ => none

/-- The fields of a matrix word (03 R107). -/
def decodeMatrixFields (x : Nat) : MWord :=
  { d := BitVec.ofNat 3 (bits x 185 3), c := bit x 184, fmt := BitVec.ofNat 5 (bits x 179 5),
    mb := BitVec.ofNat 6 (bits x 173 6), kx := BitVec.ofNat 6 (bits x 167 6), nx := BitVec.ofNat 6 (bits x 161 6),
    px := BitVec.ofNat 6 (bits x 155 6), spl := BitVec.ofNat 2 (bits x 153 2), spm := BitVec.ofNat 2 (bits x 151 2),
    dfmt := BitVec.ofNat 5 (bits x 146 5), drnd := rndOf (bits x 144 2), dsat := bit x 143,
    hg := BitVec.ofNat 5 (bits x 138 5), a := BitVec.ofNat 20 (bits x 108 20), b := BitVec.ofNat 20 (bits x 88 20),
    astr := BitVec.ofNat 20 (bits x 68 20), pstr := BitVec.ofNat 20 (bits x 44 20) }

/-- The instruction a matrix word stands for, with the checks of R108 that need no state. -/
def decodeMatrix (x : Nat) : Option Instr :=
  let opx := bits x 188 4
  let w := decodeMatrixFields x
  match assoc matrixOps opx with
  | some c =>
    if bits x 128 10 = 0 ∧ bits x 64 4 = 0 ∧ bits x 0 44 = 0 ∧ matrixOk opx w = true then some (c w) else none
  | none => none

/-- The operations of a slot (03 R110). -/
def lineOps (slot : Nat) : List (Nat × (LSlot → Instr)) :=
  (0x00, .lNop) :: match slot with
    | 0 => lineOps0
    | 1 => lineOpsV
    | 2 => lineOpsV ++ [(0x20, .lPmm)]
    | _ => lineOps3

/-- The operation a slot of a line bundle stands for (03 R109-R111). -/
def decodeSlot (slot : Nat) (w : W32) : Option Instr :=
  let x := w.toNat
  let op := bits x 26 6
  let f : LSlot := { slot := BitVec.ofNat 2 slot, y := BitVec.ofNat 2 (bits x 24 2), yn := bit x 23,
                     d := BitVec.ofNat 5 (bits x 18 5), a := BitVec.ofNat 5 (bits x 13 5),
                     b := BitVec.ofNat 5 (bits x 8 5), c := BitVec.ofNat 5 (bits x 3 5), m := BitVec.ofNat 3 (bits x 0 3) }
  match assoc (lineOps slot) op with
  | some c => if lineOk slot op f then some (c f) else none
  | none => none

/-- The packet of a type (11 R322, R323); a type that is reserved is none. -/
def decodePacket (header : W64) (body : List W64) : Option Instr :=
  let x := header.toNat
  (assoc packetOps (bits x 0 8)).map (fun c => c ⟨BitVec.ofNat 32 (bits x 32 32), bits x 8 16, body⟩)

/-- The mailbox command of a code (11 R341, 25 R498). -/
def decodeMail (w0 w1 w2 w3 : W64) (func : Nat) : Option Instr :=
  (assoc mailOps (bits w0.toNat 0 8)).map (fun c => c ⟨func, w1, w2, w3⟩)

/-- The one operation of a bundle whose other slots hold NOP. -/
def decodeLoneSlot (x : Nat) : Option Instr :=
  match decodeSlot 0 (BitVec.ofNat 32 x), decodeSlot 1 (BitVec.ofNat 32 (bits x 32 32)),
      decodeSlot 2 (BitVec.ofNat 32 (bits x 64 32)), decodeSlot 3 (BitVec.ofNat 32 (bits x 96 32)) with
  | some a, some (.lNop _), some (.lNop _), some (.lNop _) => some a
  | some (.lNop _), some b, some (.lNop _), some (.lNop _) => some b
  | some (.lNop _), some (.lNop _), some c, some (.lNop _) => some c
  | some (.lNop _), some (.lNop _), some (.lNop _), some d => some d
  | _, _, _, _ => none

/-- The instruction of a table row's word: 32 bits are a sequencer word, 64 a wave word (with a literal
word of zeros after it), 128 a line bundle of one operation, 192 a matrix word. -/
def decodeTableWord (nbits w : Nat) : Option Instr :=
  match nbits with
  | 32 => decodeSeq (BitVec.ofNat 32 w)
  | 64 => decodeWave (BitVec.ofNat 64 w) (some 0)
  | 128 => decodeLoneSlot w
  | 192 => decodeMatrix w
  | _ => none

/-! ## Encoders -/

/-- The class and field of an operand (03 R87, R88, R92). -/
def encodeOperand : Operand → Nat × Nat
  | .v n => (0, n.toNat)
  | .s n => (1, n.toNat)
  | .sq n => (2, n.toNat)
  | .sp n => (2, 0x10 + n.toNat)
  | .imm x => (3, x.toNat)
  | .lit _ => (3, 0x80)
  | .pair _ => (3, 0)
  | .ctl c => (3, ctlCode c)

/-- The classes and fields of operands b and c, the immediate pair among them (03 R88). -/
def encodeBC (w : WWord) : (Nat × Nat) × (Nat × Nat) :=
  match w.b with
  | .pair x => ((3, x.toNat / 256), (3, x.toNat % 256))
  | o => (encodeOperand o, encodeOperand w.c)

/-- The 64 bits of a wave word (03 R85). -/
def encodeWaveWord (op : Nat) (w : WWord) : W64 :=
  let a := encodeOperand w.a
  let bc := encodeBC w
  BitVec.ofNat 64 (op * 2 ^ 56 + wtypeCode w.t * 2 ^ 52 + w.m.toNat * 2 ^ 48 + w.p.toNat * 2 ^ 45
    + w.pn.toNat * 2 ^ 44 + w.u.toNat * 2 ^ 43 + w.l.toNat * 2 ^ 40 + w.d.toNat * 2 ^ 32 + a.2 * 2 ^ 24
    + bc.1.2 * 2 ^ 16 + bc.2.2 * 2 ^ 8 + a.1 * 2 ^ 6 + bc.1.1 * 2 ^ 4 + bc.2.1 * 2 ^ 2 + rndCode w.rnd)

/-- The words of a wave instruction: its word, and its literal word where an operand selects one. -/
def encodeWave (op : Nat) (w : WWord) : List W64 := encodeWaveWord op w :: (literalsOf w).take 1

/-- The 32 bits of a sequencer word (03 R104, R105). -/
def encodeSeqWord (op : Nat) (f : SeqFmt) (w : SWord) : W32 :=
  let low := match f with
    | .r => w.d.toNat * 2 ^ 17 + w.a.toNat * 2 ^ 12 + w.b.toNat * 2 ^ 7
    | .i => w.d.toNat * 2 ^ 17 + w.a.toNat * 2 ^ 12 + w.imm.toNat
    | .u => w.d.toNat * 2 ^ 17 + w.imm.toNat
    | .b => w.a.toNat * 2 ^ 17 + w.b.toNat * 2 ^ 12 + w.imm.toNat
    | .j => w.imm.toNat
  BitVec.ofNat 32 (op * 2 ^ 26 + w.tu.toNat * 2 ^ 25 + w.gd.toNat * 2 ^ 24 + w.td.toNat * 2 ^ 23
    + w.gu.toNat * 2 ^ 22 + low)

/-- The 192 bits of a matrix word (03 R107). -/
def encodeMatrixWord (opx : Nat) (w : MWord) : Nat :=
  opx * 2 ^ 188 + w.d.toNat * 2 ^ 185 + w.c.toNat * 2 ^ 184 + w.fmt.toNat * 2 ^ 179 + w.mb.toNat * 2 ^ 173
    + w.kx.toNat * 2 ^ 167 + w.nx.toNat * 2 ^ 161 + w.px.toNat * 2 ^ 155 + w.spl.toNat * 2 ^ 153
    + w.spm.toNat * 2 ^ 151 + w.dfmt.toNat * 2 ^ 146 + rndCode w.drnd * 2 ^ 144 + w.dsat.toNat * 2 ^ 143
    + w.hg.toNat * 2 ^ 138 + w.a.toNat * 2 ^ 108 + w.b.toNat * 2 ^ 88 + w.astr.toNat * 2 ^ 68 + w.pstr.toNat * 2 ^ 44

/-- The 32 bits of a line slot (03 R109). -/
def encodeSlotWord (op : Nat) (w : LSlot) : W32 :=
  BitVec.ofNat 32 (op * 2 ^ 26 + w.y.toNat * 2 ^ 24 + w.yn.toNat * 2 ^ 23 + w.d.toNat * 2 ^ 18 + w.a.toNat * 2 ^ 13
    + w.b.toNat * 2 ^ 8 + w.c.toNat * 2 ^ 3 + w.m.toNat)

/-- The header word of a packet (11 R322). -/
def encodePacketHeader (ty : Nat) (w : PacketWord) : W64 :=
  BitVec.ofNat 64 (w.tspec.toNat * 2 ^ 32 + w.len * 2 ^ 8 + ty)

/-- 64-bit words as bytes, each little-endian (00 R4). -/
def wordBytes (l : List W64) : List Byte := l.flatMap (fun x => toBytes 8 x.toNat)

/-- The bytes of an instruction as the hardware stores its words, lowest address first (00 R4): a wave
word with its literal, a sequencer word, a matrix word, a bundle whose other slots hold NOP, a packet with
its body filled up with zero words, a mailbox command's request words 0 to 3. Events have none. -/
def encode (i : Instr) : List Byte :=
  match waveOpcode i with
  | some (op, w) => wordBytes (encodeWave op w)
  | none =>
  match seqOpcode i with
  | some (op, w) =>
    match seqForm op with
    | some f => toBytes 4 (encodeSeqWord op f.fmt w).toNat
    | none => []
  | none =>
  match matrixOpcode i with
  | some (op, w) => toBytes 24 (encodeMatrixWord op w)
  | none =>
  match lineOpcode i with
  | some (_, op, w) => toBytes 16 ((encodeSlotWord op w).toNat * 2 ^ (32 * w.slot.toNat))
  | none =>
  match packetType i with
  | some (ty, w) =>
    toBytes 8 (encodePacketHeader ty w).toNat
      ++ wordBytes (w.body ++ List.replicate (w.len - 1 - w.body.length) 0)
  | none =>
  match mailCode i with
  | some (c, w) => toBytes 8 c ++ toBytes 8 w.a1.toNat ++ toBytes 8 w.a2.toNat ++ toBytes 8 w.a3.toNat
  | none => []

end Sys2Proof
end

