-- ==== Sys2Proof/Machine/Memory.lean ====
section
/-! DEFINITION. Bytes of memory in canonical form; the device physical address map (01 R46); L1 lines and
what publishes them (14 R376, R377); scratchpad bytes; scratchpad windows (01 R47). An unlisted byte of
memory or scratchpad reads 0 (assumption log, entry 3). -/

namespace Sys2Proof.Machine

/-! ## Lists of cells -/

/-- What a byte that nothing has written reads as (assumption log, entry 3; for scratchpad 13 R351). -/
def unlisted : Byte := 0

/-- The byte at an address. -/
def cellAt : List Host.Cell → Nat → Byte
  | [], _ => unlisted
  | (a, b) :: rest, x => if x < a then unlisted else if x = a then b else cellAt rest x

/-- Writes a byte, keeping addresses rising and no entry equal to an unlisted byte. -/
def cellPut : List Host.Cell → Nat → Byte → List Host.Cell
  | [], x, v => if v = unlisted then [] else [(x, v)]
  | (a, b) :: rest, x, v =>
    if x < a then (if v = unlisted then (a, b) :: rest else (x, v) :: (a, b) :: rest)
    else if x = a then (if v = unlisted then rest else (a, v) :: rest)
    else (a, b) :: cellPut rest x v

/-- The canonical form: addresses strictly rising, no entry equal to an unlisted byte. -/
def cellsWf : List Host.Cell → Bool
  | [] => true
  | [(_, b)] => b != unlisted
  | (a, b) :: (c, d) :: rest => b != unlisted && decide (a < c) && cellsWf ((c, d) :: rest)

/-- The bytes from an address on. -/
def cellsAt (m : List Host.Cell) (a n : Nat) : List Byte := (List.range n).map (fun i => cellAt m (a + i))

/-- Writes bytes from an address on. -/
def cellsPut (m : List Host.Cell) (a : Nat) : List Byte → List Host.Cell
  | [] => m
  | b :: rest => cellsPut (cellPut m a b) (a + 1) rest

/-- The memory's canonical form. -/
abbrev State.memWf (s : State) : Prop := cellsWf s.mem = true

/-! ## The address map (01 R46) -/

/-- What stands at a device physical address. -/
inductive Place where
  /-- local memory. -/
  | dram
  /-- the scratchpad window of a core, at a physical scratchpad offset (01 R47). -/
  | window (core off : Nat)
  /-- the device register block. -/
  | regs (off : Nat)
  /-- the presentation partition. -/
  | pres (off : Nat)
  /-- host memory through PCIe. -/
  | host
  /-- memory of another module of the pod. -/
  | pod (m off : Nat)
  /-- unassigned. -/
  | none
  deriving DecidableEq, Repr

/-- Local memory is 256 GiB. -/
def localBytes : Nat := 0x4000000000
/-- The save pool (16 R394). -/
def poolBase : Nat := 0x003800000000

/-- The address map of R46. -/
def place (a : Nat) : Place :=
  if a < 0x004000000000 then .dram
  else if a < 0x004030000000 then
    let o := a - 0x004000000000
    if o % 0x100000 < 0xC0000 then .window (o / 0x100000) (o % 0x100000) else .none
  else if 0x004100000000 ≤ a ∧ a < 0x004110000000 then .regs (a - 0x004100000000)
  else if 0x004200000000 ≤ a ∧ a < 0x004204000000 then .pres (a - 0x004200000000)
  else if 0x100000000000 ≤ a ∧ a < 0x200000000000 then .host
  else if 0x200000000000 ≤ a ∧ a < 0x600000000000 then
    let o := a - 0x200000000000
    if o % 0x10000000000 < localBytes then .pod (o / 0x10000000000) (o % 0x10000000000) else .none
  else .none

/-- A pod window of the module's own number reaches its own local memory (assumption log, entry 8). -/
def State.canonAddr (s : State) (a : Nat) : Nat :=
  match place a with
  | .pod m o => if m = s.modl.modNum then o else a
  | _ => a

/-- Whether a page's bytes can be cached in an L1: local memory and the presentation partition (14 R376). -/
def cacheable (a : Nat) : Bool :=
  match place a with
  | .dram | .pres _ => true
  | _ => false

/-! ## Memory beyond L1 -/

/-- The bytes at an address, as they stand beyond every L1. -/
def State.readMem (s : State) (a n : Nat) : List Byte := cellsAt s.mem a n

/-- Writes bytes beyond L1: they are performed at the point of coherence (14 R369). Writing a poisoned
byte whole replaces it. -/
def State.writeMem (s : State) (a : Nat) (b : List Byte) : State :=
  { s with mem := cellsPut s.mem a b, poison := s.poison.filter (fun p => !(decide (a ≤ p) && decide (p < a + b.length))) }

/-- The 8-byte word at an address beyond L1. -/
def State.readWord (s : State) (a : Nat) : Nat := ofBytes (s.readMem a 8)

/-- Whether any of `n` bytes of memory from `a` on is poisoned (16 R418). -/
def State.poisoned (s : State) (a n : Nat) : Bool := s.poison.any (fun p => decide (a ≤ p) && decide (p < a + n))

/-- Whether a physical byte is poisoned: of memory, or through a window of the scratchpad it stands for. -/
def State.poisonedByte (s : State) (d : Nat) : Bool :=
  match place d with
  | .window core off =>
    match (s.core core).wgs.find? (fun p => decide (p.2.base ≤ off) && decide (off < p.2.base + (s.lpbOf p.2).scratch)) with
    | some p => p.2.poison.contains (off - p.2.base)
    | none => false
  | _ => s.poison.contains d

/-! ## L1 (14 R376-R378) -/

/-- The line an address lies in. -/
def lineOfAddr (a : Nat) : Nat := a / 128

/-- A core's copy of a line. -/
def findLine (l : List L1Line) (n : Nat) : Option L1Line := l.find? (fun x => x.line == n)

/-- Drops a line from a list of lines. -/
def dropLine (l : List L1Line) (n : Nat) : List L1Line := l.filter (fun x => x.line != n)

/-- Writes the dirty bytes of a line back to the point of coherence. -/
def State.writeBackLine (s : State) (x : L1Line) : State :=
  (List.range 128).foldl (fun s i =>
    if x.dirty.getLsbD i then s.writeMem (x.line * 128 + i) [(x.bytes[i]?).getD 0] else s) s

/-- The 128 bytes of a line with one of them replaced. -/
def lineWith (bytes : List Byte) (i : Nat) (b : Byte) : List Byte :=
  (List.range 128).map (fun j => if j = i then b else (bytes[j]?).getD 0)

/-- Writes back the lines of a core that a predicate picks, and keeps them clean. -/
def State.writeBack (s : State) (core : Nat) (p : Nat → Bool) : State :=
  let ls := (s.core core).l1
  let s := (ls.filter (fun x => p x.line && x.dirty != 0)).foldl (fun s x => s.writeBackLine x) s
  s.updCore core (fun c => { c with l1 := c.l1.map (fun x => if p x.line then { x with dirty := 0 } else x) })

/-- Writes back and then drops the lines of a core that a predicate picks: an invalidation loses no dirty
byte (06 R196). -/
def State.invalidate (s : State) (core : Nat) (p : Nat → Bool) : State :=
  (s.writeBack core p).updCore core (fun c => { c with l1 := c.l1.filter (fun x => !p x.line) })

/-- The lines of a core's L1 in use: those it holds, and one for every register that stands in a backing area (01 R25, R33,
R48). -/
def ComputeCore.l1Used (c : ComputeCore) : Nat :=
  c.l1.length + (c.wgs.map (fun p => (p.2.waves.map (fun v => v.spilled.length)).foldl (· + ·) 0)).foldl (· + ·) 0

/-- Whether a core's L1 has room for one line more: it holds 128 KiB, 1,024 lines. -/
def ComputeCore.l1Room (c : ComputeCore) : Bool := decide (c.l1Used < 1024)

/-- The line of an address in a core's L1, filled from memory where it is not there and the L1 has room; dirty bytes
of a line present are kept when it is filled anew. Which line leaves a full L1 is the agenda's (assumption log,
entry 7). -/
def State.fillLine (s : State) (core a : Nat) (fresh : Bool) : L1Line × State :=
  let n := lineOfAddr a
  let mem := s.readMem (n * 128) 128
  match findLine (s.core core).l1 n with
  | some x =>
    if fresh then
      let y := { x with bytes := (List.range 128).map (fun i =>
        if x.dirty.getLsbD i then (x.bytes[i]?).getD 0 else (mem[i]?).getD 0) }
      (y, s.updCore core (fun c => { c with l1 := y :: dropLine c.l1 n }))
    else (x, s)
  | none =>
    let y : L1Line := { line := n, bytes := mem, dirty := 0 }
    (y, s.updCore core (fun c => if c.l1Room then { c with l1 := y :: c.l1 } else c))

/-- A byte read through a core's L1; `fresh` reads beyond it but keeps the core's own dirty bytes. -/
def State.readL1 (s : State) (core a : Nat) (fresh : Bool) : Byte × State :=
  let (x, s) := s.fillLine core a fresh
  ((x.bytes[a % 128]?).getD 0, s)

/-- A byte as the agents of a core find it without its L1's clean copies: the core's own dirty byte stands before the
one beyond it (14 R370, R376). -/
def State.readAround (s : State) (core a : Nat) : Byte :=
  match findLine (s.core core).l1 (lineOfAddr a) with
  | some x => if x.dirty.getLsbD (a % 128) then (x.bytes[a % 128]?).getD 0 else cellAt s.mem a
  | none => cellAt s.mem a

/-- A byte read beyond L1 without allocating. A copy of its line that the L1 holds is filled anew, so that no later
read of the core's waves returns an older value (14 R370). -/
def State.readBeyond (s : State) (core a : Nat) : Byte × State :=
  match findLine (s.core core).l1 (lineOfAddr a) with
  | some _ => s.readL1 core a true
  | none => (cellAt s.mem a, s)

/-- Performs a line that a core's L1 holds dirty, whole, so that no other write falls between the bytes of a store to it: what
an access beyond the L1 comes after (14 R369). -/
def State.settleL1 (s : State) (core d : Nat) : State :=
  match findLine (s.core core).l1 (lineOfAddr d) with
  | some x =>
    if x.dirty = 0 then s
    else (s.writeBackLine x).updCore core (fun c => { c with l1 := { x with dirty := 0 } :: dropLine c.l1 x.line })
  | none => s

/-- A byte performed beyond L1 by a wave of a core, after the line's dirty bytes: the core's own copy of the byte follows it, so
that the core's waves read no older value (14 R369, R370; assumption log, entry 7). -/
def State.writeThrough (s : State) (core a : Nat) (b : Byte) : State :=
  let s := (s.settleL1 core a).writeMem a [b]
  match findLine (s.core core).l1 (lineOfAddr a) with
  | some x =>
    let i := a % 128
    let y := { x with bytes := lineWith x.bytes i b, dirty := x.dirty &&& ~~~(BitVec.ofNat 128 (2 ^ i)) }
    s.updCore core (fun c => { c with l1 := y :: dropLine c.l1 x.line })
  | none => s

/-- A plain local store of a byte: it stays in the core's L1 (14 R376), where that has room for its line. -/
def State.writeL1 (s : State) (core a : Nat) (b : Byte) : State :=
  let (x, s) := s.fillLine core a false
  if (findLine (s.core core).l1 x.line).isNone then s.writeThrough core a b
  else
    let i := a % 128
    let y := { x with bytes := lineWith x.bytes i b, dirty := x.dirty ||| BitVec.ofNat 128 (2 ^ i) }
    s.updCore core (fun c => { c with l1 := y :: dropLine c.l1 x.line })

/-- Whether a line overlaps a range of bytes. -/
def lineIn (base len line : Nat) : Bool := decide (line * 128 < base + len) && decide (base < line * 128 + 128)

/-! ## Scratchpad -/

/-- Bytes of a workgroup's scratchpad allocation (01 R45). -/
def Workgroup.readScratch (w : Workgroup) (off n : Nat) : List Byte := cellsAt w.scratch off n

/-- Writes bytes of the allocation. -/
def Workgroup.writeScratch (w : Workgroup) (off : Nat) (b : List Byte) : Workgroup :=
  { w with scratch := cellsPut w.scratch off b,
           poison := w.poison.filter (fun p => !(decide (off ≤ p) && decide (p < off + b.length))) }

/-- The resident allocation that a physical scratchpad byte of a core lies in, with the offset in it
(01 R47). -/
def State.allocationAt (s : State) (core y : Nat) : Option (WgRef × Nat) :=
  ((s.core core).wgs.find? (fun p => decide (p.2.base ≤ y) && decide (y < p.2.base + (s.lpbOf p.2).scratch))).map
    (fun p => (⟨core, p.1⟩, y - p.2.base))

/-- Records a stray access to a core's scratchpad window (01 R47; 16 R414). -/
def State.strayAccess (s : State) (core : Nat) (src : BitVec 10) : State :=
  s.updCore core (fun c =>
    if c.stray then { c with more := true } else { c with stray := true, strayBy := src })

/-- The core whose window a physical address lies in, where no resident allocation holds its byte. -/
def State.strayCore (s : State) (d : Nat) : Option Nat :=
  match place d with
  | .window core off => if (s.allocationAt core off).isNone then some core else none
  | _ => none

/-- Records an access to physical bytes, where it is stray: one record on each core it strays on. -/
def State.noteStray (s : State) (dpas : List Nat) (src : BitVec 10) : State :=
  (distinct (dpas.filterMap s.strayCore)).foldl (fun s core => s.strayAccess core src) s

/-- The gang of a linear index. -/
def Lpb.gangOf (l : Lpb) (wgl : Nat) : Nat := wgl / l.gang

/-- Whether a scratchpad window access reaches the place of a member of the workgroup's gang that has not started, or
of a saved one, which counts as unstarted until it is restored (01 R47; 13 R353). A member that has not started has no place yet:
every byte of its core's window that no resident allocation holds counts as its own, for its gang alone, by the model's choice
(assumption log, entry 65). -/
def State.awaitsMember (s : State) (g : Workgroup) (d : Nat) : Bool :=
  let l := s.lpbOf g
  let mate (grid wgl : Nat) : Bool := grid == g.grid && l.gangOf wgl == l.gangOf g.wgl
  match place d with
  | .window core off =>
    (s.allocationAt core off).isNone
      && ((s.core core).reserve.any (fun x => mate x.grid x.wgl)
        || s.frames.any (fun p => mate p.2.wg.grid p.2.wg.wgl && p.2.core == core && decide (p.2.wg.base ≤ off)
            && decide (off < p.2.wg.base + l.scratch)))
  | _ => false

/-- A byte of a scratchpad window; a stray read returns 0. -/
def State.windowByte (s : State) (core off : Nat) : Byte :=
  match s.allocationAt core off with
  | some (r, o) => ((s.wg? r).map (fun w => cellAt w.scratch o)).getD 0
  | none => 0

/-- A byte written through a scratchpad window; a stray write is ignored. -/
def State.writeWindow (s : State) (core off : Nat) (b : Byte) : State :=
  match s.allocationAt core off with
  | some (r, o) => s.updWg r (fun w => w.writeScratch o [b])
  | none => s

/-! ## Releases (06 R190, R206; 14 R373, R376) -/

/-- Performs a byte of a write-combining buffer of a wave on a core. -/
def State.performCell (s : State) (core : Nat) (c : Host.Cell) : State :=
  match place c.1 with
  | .window k off => s.writeWindow k off c.2
  | _ => s.writeThrough core c.1 c.2

/-- Performs a wave's write-combining buffers: bytes bound for memory, in any place of the map but the
register block. -/
def State.drainWc (s : State) (r : WaveRef) : State :=
  match s.wave? r with
  | none => s
  | some w =>
    let s := w.wc.foldl (fun s c => s.performCell r.core c) s
    s.updWave r (fun w => { w with wc := [] })

/-- Performs every earlier write of a wave that does not allocate in L1 (06 R190). -/
def State.releaseWave (s : State) (r : WaveRef) : State := s.drainWc r

/-- A full release of a core: its L1's dirty lines too (14 R376, item 3). -/
def State.releaseCore (s : State) (core : Nat) : State := s.writeBack core (fun _ => true)

/-- Performs the write-combining buffers of every wave of a workgroup: a release at .wg and beyond (06 R190). -/
def State.drainWg (s : State) (r : WgRef) : State :=
  match s.wg? r with
  | none => s
  | some g => (List.range g.waves.length).foldl (fun s i => s.drainWc ⟨r.core, r.slot, i⟩) s

/-- A full release of a workgroup: every earlier write of its waves (14 R373, park and checkpoint). -/
def State.releaseWg (s : State) (r : WgRef) : State := (s.drainWg r).releaseCore r.core

/-- A full acquire of a core: its L1 holds no line (14 R377). -/
def State.acquireCore (s : State) (core : Nat) : State := s.invalidate core (fun _ => true)

end Sys2Proof.Machine
end

