-- ==== Sys2Proof/Machine/Translate.lean ====
section
/-! DEFINITION. Page tables, walks, TLBs and permissions (16 R408-R413). -/

namespace Sys2Proof.Machine

/-- What an access does (16 R396, ACC). -/
inductive AccKind where | read | write | atomic | fetch
  deriving DecidableEq, Repr

/-- The ACC bits of an access (16 R396). -/
def accBits : AccKind → BitVec 5
  | .read => 1
  | .write => 2
  | .atomic => 4
  | .fetch => 8

/-- The result of translating an address. -/
inductive Xlat where
  /-- the device physical address. -/
  | ok (dpa : Nat)
  | pageFault
  | protection
  /-- a poisoned page-table entry (16 R418). -/
  | poison
  /-- a filling entry: the agent waits and walks again (16 R404). -/
  | wait
  deriving DecidableEq, Repr

/-- The size of the page or of the span of addresses that an entry stands for at a level (16 R408). -/
def levelSize : Nat → Nat
  | 0 => 0x8000000000
  | 1 => 0x40000000
  | 2 => 0x200000
  | _ => 0x1000

/-- The index of an address at a level (16 R408). -/
def levelIndex (va level : Nat) : Nat :=
  match level with
  | 0 => bits va 39 13
  | 1 => bits va 30 9
  | 2 => bits va 21 9
  | _ => bits va 12 9

/-- The FRAME field of an entry as an address (16 R409). -/
def entryFrame (e : Nat) : Nat := bits e 12 36 * 4096

/-- Whether a valid entry is well formed at its level (16 R409, R410). -/
def validEntryOk (level e : Nat) : Bool :=
  let leaf := bit e 1
  bits e 48 16 == 0 && bits e 5 7 == 0
    && (leaf || level != 3) && !(leaf && level == 0) && (!bit e 4 || (leaf && level == 3))
    && (!(leaf && level == 1) || bits e 12 18 == 0) && (!(leaf && level == 2) || bits e 12 9 == 0)

/-- Whether an address range lies in the save pool (16 R394). -/
def inPool (a n : Nat) : Bool := decide (poolBase < a + n) && decide (a < localBytes)

/-- The page size of a leaf: sixteen leaves with C64 map one page of 64 KiB (16 R408, R409). -/
def leafSize (level e : Nat) : Nat := if level = 3 ∧ bit e 4 = true then 0x10000 else levelSize level

/-- Where a walk ends. -/
inductive Walk where
  /-- a leaf at a level. -/
  | leaf (level : Nat) (entry : Nat)
  /-- an entry with V = 0 at a level and physical address: absent or demand. -/
  | hole (level : Nat) (at_ : Nat) (entry : Nat)
  | filling
  | protection
  | poison
  deriving DecidableEq, Repr

/-- Walks the tables from a level down (16 R408-R410); `fuel` levels remain. -/
def walkFrom (s : State) (va : Nat) : Nat → Nat → Nat → Walk
  | 0, _, _ => .protection
  | fuel + 1, level, table =>
    let a := table + 8 * levelIndex va level
    if s.poisoned a 8 then .poison
    else
      let e := s.readWord a
      if bit e 0 then
        if !validEntryOk level e then .protection
        else if bit e 1 then
          if inPool (s.canonAddr (entryFrame e)) (levelSize level) then .protection else .leaf level e
        else
          let t := entryFrame e
          if localBytes ≤ t ∨ inPool t 4096 = true then .protection
          else walkFrom s va fuel (level + 1) t
      else if bits e 52 12 ≠ 0 ∨ bit e 3 = true ∨ bits e 1 2 = 3 then .protection
      else if bits e 1 2 = 2 then .filling
      else .hole level a e

/-- The tables that a walk reaches below a table, with their levels (16 R408). -/
def walkTables (s : State) (va : Nat) : Nat → Nat → Nat → List (Nat × Nat)
  | 0, _, _ => []
  | fuel + 1, level, table =>
    let e := s.readWord (table + 8 * levelIndex va level)
    if bit e 0 && validEntryOk level e && !bit e 1 then (level + 1, entryFrame e) :: walkTables s va fuel (level + 1) (entryFrame e)
    else []

/-- The walk of an address in a context (16 R408). -/
def State.walk (s : State) (ctx va : Nat) : Walk :=
  let root := (s.context ctx).root
  if root % 65536 ≠ 0 then .protection else walkFrom s va 4 0 root

/-- Whether a leaf allows an access (16 R409, R410). -/
def leafAllows (leaf : Nat) : AccKind → Bool
  | .read => true
  | .write | .atomic => bit leaf 2
  | .fetch => bit leaf 3

/-- The address a leaf of a page size gives. -/
def leafAddr (leaf size va : Nat) : Nat := entryFrame leaf / size * size + va % size

/-- A TLB entry of a context that covers an address. -/
def findTlb (l : List TlbEntry) (ctx va : Nat) : Option TlbEntry :=
  l.find? (fun e => e.ctx == ctx && decide (e.va ≤ va) && decide (va < e.va + e.size))

/-- The entries of all quadrants with a quadrant's oldest taken away. -/
def dropOldest (quad : Nat) (l : List (Nat × TlbEntry)) : List (Nat × TlbEntry) :=
  match findIx (fun p => p.1 == quad) l.reverse with
  | some k => l.eraseIdx (l.length - 1 - k)
  | none => l

/-- Puts a translation in a core's TLB of 256 entries and its quadrant's of 16,384 (16 R412), the oldest entry
leaving when one is full. -/
def State.tlbPut (s : State) (core : Nat) (e : TlbEntry) : State :=
  let quad := quadOf core
  { (s.updCore core (fun c => { c with tlb := (e :: c.tlb).take 256 })) with
    l2tlb := (quad, e) :: (if (s.l2tlb.filter (fun p => p.1 == quad)).length < 16384 then s.l2tlb else dropOldest quad s.l2tlb) }

/-- Whether an entry of a walk cache stands for a table that the walk of an address reads. -/
def CachedTable.covers (t : CachedTable) (ctx va : Nat) : Bool :=
  t.ctx == ctx && decide (t.va ≤ va) && decide (va < t.va + levelSize (t.level - 1))

/-- The deepest table that a quadrant's walk cache knows for an address (16 R412). -/
def State.cachedTable (s : State) (quad ctx va : Nat) : Option CachedTable :=
  (s.walkCache.filter (fun p => p.1 == quad && p.2.covers ctx va)).foldl (fun b p =>
    match b with
    | some x => if x.level < p.2.level then some p.2 else b
    | none => some p.2) none

/-- The walk of an address by an agent of a quadrant, from the deepest table that its walk cache knows
(16 R408, R412). -/
def State.walkIn (s : State) (quad ctx va : Nat) : Walk :=
  match s.cachedTable quad ctx va with
  | some t => if (s.context ctx).root % 65536 ≠ 0 then .protection else walkFrom s va (4 - t.level) t.level t.table
  | none => s.walk ctx va

/-- Puts the tables of a walk that found a leaf in the quadrant's walk cache. -/
def State.cacheWalk (s : State) (quad ctx va : Nat) : State :=
  let from_ := match s.cachedTable quad ctx va with
    | some t => (t.level, t.table)
    | none => (0, (s.context ctx).root)
  { s with walkCache := (walkTables s va (4 - from_.1) from_.1 from_.2).map (fun t =>
      let size := levelSize (t.1 - 1)
      (quad, { ctx := ctx, va := va / size * size, level := t.1, table := t.2 })) ++ s.walkCache }

/-- Whether a route reaches a module of the pod: the routes lead to it, and a link that trained is left
(25 R500). -/
def State.podReached (s : State) (m : Nat) : Bool :=
  s.modl.routes.contains m && (List.range 8).any (fun l => !s.modl.deadLinks.contains l)

/-- Checks a leaf and forms the address, which must be assigned (01 R46), and reached where it lies in the pod
(25 R500). -/
def State.useLeaf (s : State) (leaf size va : Nat) (acc : AccKind) : Xlat :=
  if !leafAllows leaf acc then .protection
  else
    let a := s.canonAddr (leafAddr leaf size va)
    match place a with
    | .none => .protection
    | .pod m _ => if s.podReached m then .ok a else .protection
    | _ => .ok a

/-- What the lookup of an address gives an agent of a core: the page it reaches, as first address and size, with the
leaf that maps it, or how the walk ended (16 R412). -/
structure Lookup where
  va   : Nat
  size : Nat
  leaf : Nat
  /-- how a walk without a leaf ended. -/
  fail : Option Xlat
  deriving DecidableEq, Repr

/-- What a lookup gives for an address of its page. -/
def Lookup.at_ (s : State) (k : Lookup) (va : Nat) (acc : AccKind) : Xlat :=
  match k.fail with
  | some x => x
  | none => s.useLeaf k.leaf k.size va acc

/-- The lookup of an address for an agent of a core: in its TLB, in its quadrant's, and by a walk (16 R408-R412). Bits
63:52 of the address must be 0 (01 R44). -/
def State.lookup (s : State) (core ctx va : Nat) : Lookup × State :=
  let fail (size : Nat) (x : Xlat) : Lookup := { va := va / size * size, size := size, leaf := 0, fail := some x }
  let hit (e : TlbEntry) : Lookup := { va := e.va, size := e.size, leaf := e.leaf.toNat, fail := none }
  if 2 ^ 52 ≤ va then (fail 4096 .protection, s) else
  match findTlb (s.core core).tlb ctx va with
  | some e => (hit e, s)
  | none =>
    let s := s.updCore core (fun c => { c with tlbMiss := c.tlbMiss + 1 })
    match findTlb ((s.l2tlb.filter (fun p => p.1 == quadOf core)).map (·.2)) ctx va with
    | some e => (hit e, s.updCore core (fun c => { c with tlb := (e :: c.tlb).take 256 }))
    | none =>
      match s.walkIn (quadOf core) ctx va with
      | .leaf level e =>
        let size := leafSize level e
        let t : TlbEntry := { ctx := ctx, va := va / size * size, size := size, leaf := BitVec.ofNat 64 e }
        (hit t, (s.cacheWalk (quadOf core) ctx va).tlbPut core t)
      | .hole level _ _ => (fail (levelSize level) .pageFault, s)
      | .filling => (fail 4096 .wait, s)
      | .protection => (fail 4096 .protection, s)
      | .poison => (fail 4096 .poison, s)

/-- Translates an address for an agent of a core (16 R410-R413). -/
def State.translate (s : State) (core ctx va : Nat) (acc : AccKind) : Xlat × State :=
  let k := s.lookup core ctx va
  (k.1.at_ s va acc, k.2)

/-- Translates for a module agent that has no core: the front end (16 R412: no TLB is named for it). -/
def State.translateFe (s : State) (ctx va : Nat) (acc : AccKind) : Xlat :=
  if 2 ^ 52 ≤ va then .protection else
  match s.walk ctx va with
  | .leaf level e => s.useLeaf e (leafSize level e) va acc
  | .hole _ _ _ => .pageFault
  | .filling => .wait
  | .protection => .protection
  | .poison => .poison

/-- The pages that `n` bytes from an address touch, as the first address in each. -/
def pagesOf (va n : Nat) : List Nat :=
  if n = 0 then [] else
  (List.range ((va + n - 1) / 4096 - va / 4096 + 1)).map (fun i => if i = 0 then va else (va / 4096 + i) * 4096)

/-- The worse of two translation results; PROTECTION stands before PAGE_FAULT (16 R397). Where POISON stands is the
model's choice (assumption log, entry 63). -/
def Xlat.worse : Xlat → Xlat → Xlat
  | .protection, _ | _, .protection => .protection
  | .poison, _ | _, .poison => .poison
  | .pageFault, _ | _, .pageFault => .pageFault
  | .wait, _ | _, .wait => .wait
  | .ok a, .ok _ => .ok a

/-- Translates every page of an access; the address is that of its first byte. -/
def State.translateSpan (s : State) (core ctx va n : Nat) (acc : AccKind) : Xlat × State :=
  match pagesOf va n with
  | [] => s.translate core ctx va acc
  | p :: rest =>
    let r := s.translate core ctx p acc
    rest.foldl (fun r q =>
      let t := r.2.translate core ctx q acc
      (r.1.worse t.1, t.2)) r

/-- The physical address of each byte of a span that translates, found page by page. -/
def State.spanAddr (s : State) (core ctx va i : Nat) (acc : AccKind) : Nat :=
  match (s.translate core ctx (va + i) acc).1 with
  | .ok a => a
  | _ => 0

/-- A physical byte as the front end and the pager read it: a scratchpad window gives its scratchpad's byte
(01 R47), the register block 0, as an access wider than its registers (00 R10). -/
def State.feByte (s : State) (d : Nat) : Byte :=
  match place d with
  | .window core off => s.windowByte core off
  | .regs _ => 0
  | _ => cellAt s.mem d

/-- Reads bytes of a context's address space for the front end or the pager, beyond every L1: the worst translation
result, POISON among them (16 R418), and the bytes that translate. -/
def State.readSpan (s : State) (ctx va n : Nat) : Xlat × List Byte :=
  (List.range n).foldr (fun i acc =>
    match s.translateFe ctx (va + i) .read with
    | .ok a => (if s.poisonedByte a then acc.1.worse .poison else acc.1, s.feByte a :: acc.2)
    | x => (acc.1.worse x, acc.2)) (.ok 0, [])

/-- The bytes of a span; none where one does not translate or is poisoned. -/
def State.readFe (s : State) (ctx va n : Nat) : Option (List Byte) :=
  match s.readSpan ctx va n with
  | (.ok _, b) => some b
  | _ => none

/-- Whether a physical address lies in the register block. -/
def inRegs (d : Nat) : Bool :=
  match place d with
  | .regs _ => true
  | _ => false

/-- Records a read of a span by the front end or the pager: where it strays (16 R414), and where it meets the register
block, as an access wider than its registers (00 R10, R509). -/
def State.noteFe (s : State) (ctx va n : Nat) : State :=
  let l := (List.range n).filterMap (fun i => match s.translateFe ctx (va + i) .read with
    | .ok a => some a
    | _ => none)
  (if l.any inRegs then s.setFerr (s.funcOf ctx) 1 else s).noteStray l 0x3FF

/-- The 8-byte word at an address of a context, read by the front end. -/
def State.readFeWord (s : State) (ctx va : Nat) : Option Nat := (s.readFe ctx va 8).map ofBytes

end Sys2Proof.Machine
end

