-- ==== Sys2Proof/Machine/CopyForm.lean ====
section
/-! DEFINITION. The 32-byte copy command: its fields, what makes it malformed, its elements, their places on
both sides, and its chunks (07 R251-R254; 18 R436, R442). -/

namespace Sys2Proof.Machine

/-- The operations of a copy (07 R252). -/
inductive CopyOp where | linear | tensor2 | tensor3 | gather | scatter | bitplane | fill | reduce
  deriving DecidableEq, Repr

/-- The operation of a code; 8-15 are reserved. -/
def copyOpOf (n : Nat) : Option CopyOp :=
  [CopyOp.linear, .tensor2, .tensor3, .gather, .scatter, .bitplane, .fill, .reduce][n]?

/-- The fields of a copy command (07 R251, R252). -/
structure CopyCmd where
  op    : CopyOp
  /-- the source is scratchpad. -/
  srcPad : Bool
  /-- 0 memory, 1 scratchpad, 2 bit-plane layout, 3 stream register. -/
  dk    : Nat
  esz   : Nat
  scope : Scope
  ds    : Bool
  aux   : Nat
  n0    : Nat
  n1    : Nat
  src   : Nat
  dst   : Nat
  x2    : Nat
  w3    : Nat
  deriving DecidableEq, Repr

/-- N2 of TENSOR3. -/
def CopyCmd.n2 (c : CopyCmd) : Nat := if c.op = .tensor3 then c.x2 + 1 else 1
/-- S1, where the operation has one. -/
def CopyCmd.s1 (c : CopyCmd) : Nat :=
  match c.op with
  | .gather | .scatter => bits c.w3 32 32
  | .tensor2 | .tensor3 | .bitplane => bits c.w3 0 32
  | _ => 0
/-- S2 of TENSOR3. -/
def CopyCmd.s2 (c : CopyCmd) : Nat := if c.op = .tensor3 then bits c.w3 32 32 else 0
/-- IDX of GATHER and SCATTER. -/
def CopyCmd.idx (c : CopyCmd) : Nat := bits c.w3 0 20
/-- VSTR of BITPLANE. -/
def CopyCmd.vstr (c : CopyCmd) : Nat := c.x2 * 16
/-- PSTR of BITPLANE. -/
def CopyCmd.pstr (c : CopyCmd) : Nat := bits c.w3 32 20
/-- The element size in bytes. -/
def CopyCmd.size (c : CopyCmd) : Nat := 2 ^ c.esz

/-- The element size code a BITPLANE type needs (18 R442). -/
def bitplaneEsz (t : Nat) : Option Nat :=
  match t with
  | 0x0D => some 3
  | 0x0C => some 2
  | 0x0A | 0x0B => some 1
  | 0x11 | 0x12 | 0x00 | 0x10 => some 0
  | _ => none

/-- The element size code of a REDUCE operation and type (07 R252). -/
def reduceEsz (o t : Nat) : Option Nat :=
  match o with
  | 0 => if t = 0x02 ∨ t = 0x06 ∨ t = 0x0C then some 2 else if t = 0x03 ∨ t = 0x07 ∨ t = 0x0D then some 3 else none
  | 1 | 2 => if t = 0x02 ∨ t = 0x06 then some 2 else if t = 0x03 ∨ t = 0x07 then some 3 else none
  | 3 | 4 | 5 => if t = 0x08 then some 2 else if t = 0x09 then some 3 else none
  | _ => none

/-- The kinds of both sides an operation allows (07 R252). -/
def copyKindsOk (op : CopyOp) (sk dk : Nat) : Bool :=
  match op with
  | .linear => sk < 2 && (dk == 0 || dk == 1 || dk == 3)
  | .tensor2 | .tensor3 => sk < 2 && dk < 2
  | .gather => sk == 0 && (dk == 0 || dk == 1 || dk == 3)
  | .scatter | .reduce => sk < 2 && dk == 0
  | .bitplane => sk < 2 && dk == 2
  | .fill => sk == 0 && dk < 2

/-- Whether the fields an operation does not use are 0 (07 R252, R253). -/
def copyUnusedOk (c : CopyCmd) : Bool :=
  (c.op == .tensor2 || c.op == .tensor3 || !c.ds)
    && (match c.op with
        | .linear | .reduce => c.n1 == 1 && c.x2 == 0 && c.w3 == 0
        | .fill => c.n1 == 1 && c.x2 == 0 && c.src == 0
        | .tensor2 => c.x2 == 0 && bits c.w3 32 32 == 0
        | .tensor3 => true
        | .gather | .scatter => c.x2 == 0 && bits c.w3 20 12 == 0
        | .bitplane => bits c.w3 52 12 == 0)
    && (if c.dk = 3 then c.dst == 0 && c.esz == 2
        else match c.op with
          | .bitplane => bitplaneEsz c.aux == some c.esz && decide (c.n0 ≤ 64)
              && c.pstr % 16 == 0 && decide (32 ≤ c.pstr)
          | .reduce => reduceEsz (c.aux % 8) (c.aux / 8) == some c.esz
          | _ => c.aux == 0)

/-- The multiples of the element size (07 R253), and scratchpad offsets of 20 bits (07 R251). -/
def copyAlignOk (c : CopyCmd) : Bool :=
  c.src % c.size == 0 && c.dst % c.size == 0 && c.s1 % c.size == 0 && c.s2 % c.size == 0
    && (c.op != .bitplane || (c.vstr % c.size == 0 && c.pstr % c.size == 0))
    && ((c.op != .gather && c.op != .scatter) || c.idx % 4 == 0)
    && (!c.srcPad || decide (c.src < 0x100000)) && (!(c.dk == 1 || c.dk == 2) || decide (c.dst < 0x100000))

/-- Reads a command; none where it is malformed (07 R253). -/
def copyCmd (w : List W64) : Option CopyCmd :=
  let w0 := ((w[0]?).getD 0).toNat
  let w1 := ((w[1]?).getD 0).toNat
  let w2 := ((w[2]?).getD 0).toNat
  let w3 := ((w[3]?).getD 0).toNat
  let sk := bits w0 4 2
  let dk := bits w0 6 2
  match copyOpOf (bits w0 0 4), scopeOf (bits w0 10 3) with
  | some op, some scope =>
    let c : CopyCmd :=
      { op := op, srcPad := sk == 1, dk := dk, esz := bits w0 8 2, scope := scope, ds := bit w0 13,
        aux := bits w0 16 8, n0 := bits w0 32 32, n1 := bits w1 52 12 + 1, src := bits w1 0 52, dst := bits w2 0 52,
        x2 := bits w2 52 12, w3 := w3 }
    if copyKindsOk op sk dk && scope != .wv && bits w0 24 8 == 0 && !bit w0 15 && c.n0 != 0
        && copyUnusedOk c && copyAlignOk c then some c else none
  | _, _ => none

/-- The number of elements (07 R252). -/
def CopyCmd.count (c : CopyCmd) : Nat := c.n0 * c.n1 * c.n2

/-- Byte offset of element `i` on a dense side. -/
def CopyCmd.dense (c : CopyCmd) (i : Nat) : Nat := i * c.size

/-- Byte offset of element `i` on a strided side, by its column, row and plane. -/
def CopyCmd.strided (c : CopyCmd) (i : Nat) : Nat :=
  i % c.n0 * c.size + i / c.n0 % c.n1 * c.s1 + i / (c.n0 * c.n1) * c.s2

/-- Byte offset of element `i` on a side whose rows an index list places. -/
def CopyCmd.listed (c : CopyCmd) (list : Nat → Nat) (i : Nat) : Nat := list (i / c.n0) * c.s1 + i % c.n0 * c.size

/-- Where element `i` is read (07 R252): an address or scratchpad offset; products are taken modulo 2⁶⁴. -/
def CopyCmd.srcOf (c : CopyCmd) (list : Nat → Nat) (i : Nat) : Nat :=
  (c.src + match c.op with
    | .tensor2 | .tensor3 => if c.ds then c.dense i else c.strided i
    | .gather => c.listed list i
    | .bitplane => c.strided i
    | _ => c.dense i) % 2 ^ 64

/-- Where element `i` is written. -/
def CopyCmd.dstOf (c : CopyCmd) (list : Nat → Nat) (i : Nat) : Nat :=
  (c.dst + match c.op with
    | .tensor2 | .tensor3 => if c.ds then c.strided i else c.dense i
    | .scatter => c.listed list i
    | _ => c.dense i) % 2 ^ 64

/-- The chunk of element `i` (18 R436). -/
def CopyCmd.chunkOf (c : CopyCmd) (i : Nat) : Nat :=
  if c.op = .bitplane then i / c.n0 / 16
  else if c.ds ∨ c.op = .scatter ∨ c.op = .reduce ∨ c.dk = 3 then i * c.size / 4096
  else (c.dst + i * c.size) / 4096 - c.dst / 4096

/-- The number of chunks. -/
def CopyCmd.chunks (c : CopyCmd) : Nat := c.chunkOf (c.count - 1) + 1

/-- The elements of a chunk, as the first and one past the last. -/
def CopyCmd.chunkRange (c : CopyCmd) (k : Nat) : Nat × Nat :=
  if c.op = .bitplane then (min c.count (16 * k * c.n0), min c.count (16 * (k + 1) * c.n0))
  else if c.ds ∨ c.op = .scatter ∨ c.op = .reduce ∨ c.dk = 3 then
    (min c.count (k * 4096 / c.size), min c.count ((k + 1) * 4096 / c.size))
  else
    let b := c.dst / 4096 * 4096
    ((k * 4096 + b - c.dst) / c.size, min c.count (((k + 1) * 4096 + b - c.dst) / c.size))

/-- Whether two byte ranges, given by start and length, overlap. -/
def overlap (a m b n : Nat) : Bool := decide (a < b + n) && decide (b < a + m)

/-- The digit planes of an activation format by its type code (02 R72). -/
def digitPlanes (fmt : Nat) : Nat :=
  match fmt with
  | 13 => 14 | 12 => 6 | 10 => 3 | 11 => 2 | 0 => 2 | 17 => 1 | 18 => 1 | 16 => 1
  | _ => 0

/-- Whether a chunk from `k` on writes a scratchpad byte of a range (18 R427, R442). -/
def CopyCmd.writesPad (c : CopyCmd) (k off n : Nat) : Bool :=
  let e := (c.chunkRange k).1
  if c.chunks ≤ k then false
  else if c.dk = 2 then
    (List.range c.n1).any (fun r =>
      let v := c.dst + r * c.vstr
      decide (16 * k ≤ r) && (overlap v 128 off n
        || (List.range (digitPlanes c.aux)).any (fun t => overlap (v + 128 + t * c.pstr) 32 off n)))
  else if c.dk = 1 then
    if c.ds then
      (List.range (c.n1 * c.n2)).any (fun r =>
        let from_ := max e (r * c.n0)
        decide (from_ < (r + 1) * c.n0)
          && overlap (c.dst + c.strided from_) (((r + 1) * c.n0 - from_) * c.size) off n)
    else overlap (c.dst + e * c.size) ((c.count - e) * c.size) off n
  else false

/-- Whether a copy owes an element to a lane of a stream register (18 R431), `sent` being delivered. -/
def CopyCmd.owes (c : CopyCmd) (wave stream sent lane : Nat) : Bool :=
  c.dk == 3 && c.aux / 8 == wave && c.aux % 8 == stream
    && decide (sent ≤ lane + 32 * ((c.count - 1 - lane) / 32)) && decide (lane < c.count)

/-- Whether a copy touches its workgroup's scratchpad (16 R402): as source, destination or index list. -/
def CopyCmd.touchesPad (c : CopyCmd) : Bool := c.srcPad || c.dk != 0 || c.op == .gather || c.op == .scatter

end Sys2Proof.Machine
end

