-- ==== Sys2Proof/Machine/Levels.lean ====
section
/-! DEFINITION. Pulse-pattern levels: a cluster's request, its level in force and its pattern, which follow
from the workgroups resident there and the tile's caps (22 R465-R467); a headgate's floor and its filler (20 R449, R454). -/

namespace Sys2Proof.Machine

/-- PERFCEIL of a context's bind record: 0 reads as 16 (13 R345). -/
def BindRec.ceil (b : BindRec) : Nat := if b.perfCeil = 0 then 16 else min b.perfCeil 16

/-- REQ of a cluster (22 R466): the highest request of a workgroup resident there, clipped by its context's
ceiling; 1 where there is none. -/
def State.requestOf (s : State) (cluster : Nat) : Nat :=
  (s.allWgs.filter (fun p => clusterOf p.1.core == cluster)).foldl
    (fun m p => max m (min p.2.perf (s.bindOf p.2.ctx).ceil)) 1

/-- PERFCAP as it acts: 0, or a value above 16, acts as 16 (22 R468). -/
def Tile64.cap (t : Tile64) : Nat := if t.perfCap = 0 ∨ 16 < t.perfCap then 16 else t.perfCap

/-- LV of a cluster (22 R466). -/
def State.levelOf (s : State) (cluster : Nat) : Nat :=
  min (s.requestOf cluster) (min (s.tile (cluster / 3)).cap (s.tile (cluster / 3)).lvCap)

/-- The levels that a tile's clusters have from the next tck on: they follow from the state at the end of this one (22 R467). -/
def State.nextLevels (s : State) (tile : Nat) : List Nat := (List.range 3).map (fun i => s.levelOf (3 * tile + i))

/-- The level of a cluster in force in this tck (22 R467). -/
def State.levelInForce (s : State) (cluster : Nat) : Nat := ((s.tile (cluster / 3)).force[cluster % 3]?).getD 1

/-- The highest request among a tile's clusters, each clipped by PERFCAP (22 R464). -/
def State.highestRequest (s : State) (tile : Nat) : Nat :=
  (List.range 3).foldl (fun m i => max m (min (s.requestOf (3 * tile + i)) (s.tile tile).cap)) 1

/-- The operating point that the firmware chooses for a tile: the lowest whose level limit reaches that request (22 R464). -/
def State.firmwarePoint (s : State) (tile : Nat) : Option Nat :=
  (List.range 16).find? (fun j => decide (s.highestRequest tile ≤ (((s.tile tile).opTab[j]?).getD (0, 0)).2))

/-- The firmware, where it runs, chooses a tile's operating point; VMBOX_WRITE writes it (22 R464). -/
def State.chooseFirmware (s : State) (tile : Nat) : State :=
  if s.modl.fwState = 1 then s.updTile tile (fun t => { t with wanted := s.firmwarePoint tile }) else s

/-- The pattern of a level: bit k set when slot k pulses (22 R465). -/
def patternOf (n : Nat) : BitVec 16 :=
  BitVec.ofNat 16 ((List.range 16).foldl (fun a k => if k * n / 16 < (k + 1) * n / 16 then a + 2 ^ k else a) 0)

/-- The highest point of a tile that lies within its rail voltage and its target's (22 R463). -/
def Tile64.levelCap (t : Tile64) : Nat :=
  let tv := ((t.opTab[t.target]?).getD (0, 0)).1
  t.opTab.foldl (fun m p => if p.1 * 400 ≤ t.rail ∧ p.1 ≤ tv then p.2 else m) 0

/-! ## A headgate's floor and its filler (20 R449, R454) -/

/-- W of a headgate: the demands in their occupancy (20 R449). -/
def Headgate.load (g : Headgate) : Nat := g.holding.foldl (fun n d => n + d.need) 0

/-- A ramp level as it acts: at most 192 (20 R449). -/
def Headgate.rampAt (g : Headgate) (i : Nat) : Nat := min 192 ((g.ramp[i]?).getD 0)

/-- The floor of a position (20 R449). -/
def Headgate.floorOf (g : Headgate) : Nat := if g.pos = 0 then 0 else g.rampAt (g.pos - 1)

/-- The filler a headgate runs: what its load lacks of its floor, as far as its arrays have room. -/
def Headgate.lack (g : Headgate) : Nat := g.floorOf - g.load

/-- The cores of a tile in the rotated order (20 R453). -/
def Headgate.coreOrder (g : Headgate) (tile : Nat) : List Nat :=
  (List.range 12).map (fun k => tile * 12 + (g.rot + k / 4) % 3 * 4 + k % 4)

/-- The sixteenths that a core's array leaves free: the demand of the array word it runs apart. -/
def Headgate.room (g : Headgate) (core : Nat) : Nat :=
  16 - ((g.holding.filter (fun d => d.core == core && d.q == .matrix && !d.loader)).foldl (fun n d => n + d.need) 0)

/-- Lays `n` sixteenths of filler on the arrays of cores, in their order. -/
def Headgate.lay (g : Headgate) : Nat → List Nat → List (Nat × Nat)
  | _, [] => []
  | n, core :: rest =>
    let k := min n (g.room core)
    if k = 0 then g.lay n rest else (core, k) :: g.lay (n - k) rest

/-- A tile's headgate with its filler placed anew. -/
def Headgate.placed (g : Headgate) (tile : Nat) : Headgate := { g with filling := g.lay g.lack (g.coreOrder tile) }

/-- The filler a headgate runs in a tck, in sixteenths. -/
def Headgate.filler (g : Headgate) : Nat := g.filling.foldl (fun n p => n + p.2) 0

/-- Changes the demands of a tile's headgate, or its rotation: the filler is placed anew in the same tck (20 R454). -/
def State.updGate (s : State) (tile : Nat) (f : Headgate → Headgate) : State :=
  s.updTile tile (fun t => { t with gate := (f t.gate).placed tile })

end Sys2Proof.Machine
end

