-- ==== Sys2Proof/Machine/Ops.lean ====
section
/-! DEFINITION. Taking a trap, and the return from one, as shared operations: the record, the pager's queue
and the trap context, stop, containment, kill and a context's entering error (16 R392-R406, R417-R420;
07 R248-R250; 13 R365; 11 R335). -/

namespace Sys2Proof.Machine

/-! ## Records -/

/-- The code of a trap kind (16 R392). -/
def TrapKind.code : TrapKind → Nat
  | .illegalWord => 1 | .priv => 2 | .uniformity => 3 | .pageFault => 4 | .protection => 5 | .spillwayFull => 6
  | .accOwner => 7 | .callSpillFault => 8 | .poison => 9 | .watchdog => 10 | .shedForce => 11 | .trap => 12 | .brk => 13

/-- The SRC code of a trap source (16 R396). -/
def TrapSrc.code : TrapSrc → Nat
  | .wave => 0 | .intake => 1 | .main => 2 | .outfall => 3 | .copy => 4 | .matrixQ => 5 | .drainQ => 6 | .scheduler => 7

/-- The 128 bytes of a record (16 R396). -/
def TrapRecord.bytes (r : TrapRecord) : List Byte :=
  toBytes 1 ((r.kind.map TrapKind.code).getD 0) ++ toBytes 1 r.src.code ++ toBytes 1 r.wave ++ toBytes 1 r.acc.toNat
    ++ toBytes 4 r.code.toNat ++ toBytes 8 r.pc.toNat ++ toBytes 8 r.va.toNat ++ toBytes 4 r.mask.toNat
    ++ toBytes 4 r.done.toNat ++ toBytes 8 r.ticket ++ toBytes 4 r.resume ++ toBytes 4 r.slot
    ++ r.seqs.flatMap (toBytes 8) ++ toBytes 8 r.stamp ++ toBytes 16 0

/-- SEQX or SEQD of an engine queue (16 R400): the words started; a WLOAD has no effect before it completes (08 R265), and one
in the loader is not counted. -/
def EngineQ.counted (q : EngineQ) : Nat := q.started - (if q.loader.any (·.begun) then 1 else 0)

/-- SEQI, SEQM, SEQO, SEQC, SEQX, SEQD of a workgroup (16 R400). -/
def Workgroup.seqCounts (w : Workgroup) : List Nat :=
  match w.job with
  | some j => [j.intake.issued, j.main.issued, j.outfall.issued, w.seqc, j.matrixQ.counted, j.drainQ.counted]
  | none => [0, 0, 0, w.seqc, 0, 0]

/-- Fills in the counts and the stamp of a record (16 R396, R400). -/
def State.stampRecord (s : State) (r : WgRef) (wave : Nat) (t : TrapRecord) : TrapRecord :=
  match s.wg? r with
  | some w => { t with seqs := ((w.waves[wave]?).map (·.issued)).getD 0 :: w.seqCounts, stamp := s.tckOf r.core }
  | none => { t with stamp := s.tckOf r.core }

/-! ## The trap context (07 R248-R250) -/

/-- Where the waiting agent of a trap stands: the store offset of its word, which for a TRAP word lies before the record's PC
(16 R396); 0 for the others. -/
def trapPc (t : TrapItem) : W64 :=
  match t.who with
  | .seq _ _ => if t.record.kind = some .trap then t.record.pc - 4 else t.record.pc
  | _ => 0

/-- The residency slot of a trap's workgroup; 16 where no resident workgroup raised it. -/
def TrapWho.slot : TrapWho → Nat
  | .wave s _ => s
  | .seq s _ => s
  | .copy s _ => s
  | .engine s _ => s
  | .detached _ => 16
  | .restore _ => 16

/-- The MSTEP of a matrix queue that is in progress, with its next pass. -/
def EngineQ.inStep (q : EngineQ) : Option (Nat × Nat) :=
  if q.begun && q.phase != .finished then
    match q.words with
    | x :: _ => if x.opx = 2 then some (x.ticket, q.pass) else none
    | [] => none
  else none

/-- Names the MSTEP in progress in a record (16 R400, R401), where the record's own trap does not use the fields: which of the
two stands the spec leaves open (assumption log, entry 63). -/
def Workgroup.stoppedAt (w : Workgroup) (t : TrapRecord) : TrapRecord :=
  match w.job.bind (·.matrixQ.inStep), t.src with
  | none, _ | _, .matrixQ | _, .drainQ => t
  | some (n, _), .copy => { t with ticket := n }
  | some (n, p), _ => { t with ticket := n, resume := p }

/-- The record of a trap as it is formed anew, with the counts, the MSTEP in progress and the tck of this moment (16 R401). -/
def State.formRecord (s : State) (r : WgRef) (t : TrapRecord) : TrapRecord :=
  let t := s.stampRecord r (if t.src = .wave then t.wave else 1000) t
  match s.wg? r with
  | some w => w.stoppedAt t
  | none => t

/-- Puts a trap in a core's queue: in the order raised, and in SRC order among those of one tck (16 R404). -/
def queueTrap (t : TrapItem) (l : List TrapItem) : List TrapItem :=
  let ahead (x : TrapItem) : Bool :=
    decide (x.record.stamp < t.record.stamp) || (x.record.stamp == t.record.stamp && decide (x.record.src.code ≤ t.record.src.code))
  l.takeWhile ahead ++ t :: l.dropWhile ahead

/-- Whether a copy stands in a slot of a core (18 R435). -/
def Copy.inSlot (c : Copy) (core slot : Nat) : Bool := c.core == core && c.slot == slot && !c.stopped

/-- The resident workgroup whose copy stands in a slot of a core. -/
def State.copyHome (s : State) (core cs : Nat) : Option WgRef :=
  (s.allWgs.find? (fun p => p.2.copies.any (fun c => c.inSlot core cs))).map (·.1)

/-- The frame of the saved workgroup whose copy stands in a slot of a core. -/
def State.copyFrame (s : State) (core cs : Nat) : Option (Nat × Frame) :=
  s.frames.find? (fun p => p.2.wg.copies.any (fun c => c.inSlot core cs))

/-- The workgroup of the trap in a core's trap context, with its place where it is resident there: one that has been saved
or has left the core, with a copy that runs on or a restore, has the place of none. -/
def State.trapOwner (s : State) (core : Nat) (t : TrapItem) : Option (WgRef × Workgroup) :=
  let away : WgRef := ⟨core, t.who.slot⟩
  match t.who with
  | .detached cs =>
    match s.copyHome core cs with
    | some r => (s.wg? r).map (fun w => (if r.core = core then r else away, w))
    | none => (s.copyFrame core cs).map (fun p => (away, p.2.wg))
  | .restore f => (s.frame? f).map (fun x => (away, x.wg))
  | _ => (s.wg? away).map (fun w => (away, w))

/-- Changes the engine job of the workgroup of a trap, resident or saved. -/
def State.updTrapJob (s : State) (core : Nat) (t : TrapItem) (f : Job → Job) : State :=
  let saved (s : State) (n : Nat) : State := s.updFrame n (fun x => { x with wg := { x.wg with job := x.wg.job.map f } })
  match t.who with
  | .detached cs =>
    match s.copyHome core cs, s.copyFrame core cs with
    | some r, _ => s.updJob r f
    | none, some (n, _) => saved s n
    | none, none => s
  | .restore n => saved s n
  | w => s.updJob ⟨core, w.slot⟩ f

/-- TSCR0 and TSCR1 at the entry of a trap (07 R249): those of its workgroup's job, resident or saved; for a trap without one
the spec gives no value (assumption log, entry 51). -/
def State.entryScratch (s : State) (core : Nat) (t : TrapItem) : (W64 × W64) × State :=
  match (s.trapOwner core t).bind (·.2.job) with
  | some j => ((j.tscr0, j.tscr1), s)
  | none => let a := s.free; let b := a.2.free; ((a.1, b.1), b.2)

/-- Enters the trap context for the next trap in the queue, where it is idle: TEPC takes the trapped
word's offset, TCAUSE, TCTX, TVAL, TWORD and TTAG show the trap, the trap-entry record is formed, and its pc is 0xE000
(07 R248, R249; 16 R401). -/
def State.enterTrap (s : State) (core : Nat) : State :=
  match (s.core core).trap.item, (s.core core).trapQ with
  | none, t :: rest =>
    let x := s.entryScratch core t
    x.2.updCore core (fun c => { c with
      trapQ := rest
      trap := { c.trap with
        item := some t, pc := 0xE000, tepc := trapPc t, ldgs := [], escalating := false,
        tscr0 := x.1.1, tscr1 := x.1.2, rec_ := s.formRecord ⟨core, t.who.slot⟩ t.record } })
  | _, _ => s

/-- A copy whose fault has been serviced goes on from its faulting chunk (18 R439). -/
def Copy.resumed (c : Copy) : Copy := { c with fault := none, running := [] }

/-- Changes the copies in a slot of a core that are not stopped, of resident and of saved workgroups. -/
def State.updSlotCopies (s : State) (core slot : Nat) (f : Copy → Copy) : State :=
  let g (w : Workgroup) : Workgroup := { w with copies := w.copies.map (fun c =>
    if c.core = core ∧ c.slot = slot ∧ c.stopped = false then f c else c) }
  { s with
    cores := s.cores.map (fun p => (p.1, { p.2 with wgs := p.2.wgs.map (fun q => (q.1, g q.2)) })),
    frames := s.frames.map (fun p => (p.1, { p.2 with wg := g p.2.wg })) }

/-- A job whose engine trap has returned: an MSTEP that SPILLWAY_FULL stopped resumes at its pass (08 R271). -/
def Job.returned (j : Job) (q : EngineQueue) : Job :=
  if q = .matrix ∧ j.matrixQ.phase = .stopped then { j with spwStop := none, matrixQ := { j.matrixQ with phase := .waiting } } else j

/-- Marks the agent of a trap as waiting for the pager, or as going on (16 R393, R402). -/
def State.setTrapped (s : State) (core : Nat) (who : TrapWho) (b : Bool) : State :=
  match who with
  | .wave slot wave => s.updWave ⟨core, slot, wave⟩ (fun w => { w with block := if b then .trapped else .none })
  | .seq slot ctx => s.updJob ⟨core, slot⟩ (fun j => j.updCtx ctx (fun x => { x with trapped := b }))
  | .copy slot cs => s.updWg ⟨core, slot⟩ (fun w => { w with copies := w.copies.map (fun c =>
      if c.inSlot core cs = true ∧ c.fault.isSome = true ∧ b = false then c.resumed else c) })
  | .engine slot q => s.updJob ⟨core, slot⟩ (fun j =>
      let j := j.updQueue q (fun x => { x with trapped := b })
      if b then j else j.returned q)
  | .detached cs => if b then s else s.updSlotCopies core cs Copy.resumed
  | .restore _ => s

/-- Leaves the trap context: the agent of the trap goes on, and the next trap enters (07 R250). -/
def State.leaveTrap (s : State) (core : Nat) : State :=
  match (s.core core).trap.item with
  | none => s
  | some t =>
    ((s.setTrapped core t.who false).updCore core (fun c => { c with trap := { c.trap with item := none } })).enterTrap core

/-! ## Ending a workgroup (13 R360, R365; 16 R393, R417) -/

/-- Frees a tag's accumulator tiles and spillway entries on a core (16 R417). -/
def State.freeTag (s : State) (core : Nat) (tag : OwnerTag) : State :=
  s.updCore core (fun c => { c with
    tiles := c.tiles.map (fun p => if p.2.owner = some tag then (p.1, Tile.reset) else p),
    spw := c.spw.filter (fun e => e.owner != tag) })

/-- Drops a core's demands at its tile's headgate (20 R455). -/
def State.dropDemands (s : State) (core : Nat) : State :=
  s.updGate (tileOf core) (fun g => { g with
    waiting := g.waiting.filter (fun d => d.core != core), holding := g.holding.filter (fun d => d.core != core) })

/-- Drops the traps of some agents of a core, leaving the trap context where it services one of them; an escalation of
one has returned (07 R250). -/
def State.dropTrapsOf (s : State) (core : Nat) (p : TrapWho → Bool) : State :=
  (s.updCore core (fun c => { c with
    trapQ := c.trapQ.filter (fun t => !p t.who),
    trap := { c.trap with item := c.trap.item.filter (fun t => !p t.who) } })).enterTrap core

/-- Drops the traps of a residency slot. -/
def State.dropTraps (s : State) (r : WgRef) : State := s.dropTrapsOf r.core (fun w => w.slot == r.slot)

/-- Drops the traps of detached copies that end with their workgroup. -/
def State.dropCopyTraps (s : State) (cs : List Copy) : State :=
  (distinct (cs.map (·.core))).foldl (fun s core => s.dropTrapsOf core (fun w => match w with
    | .detached k => cs.any (fun c => c.inSlot core k)
    | _ => false)) s

/-- Discards a resident workgroup with its waves and engine job; its writes stand, those in its waves'
write-combining buffers too (13 R360, R366; 16 R393). -/
def State.discardWg (s : State) (r : WgRef) : State :=
  match s.wg? r with
  | none => s
  | some w =>
    let s := s.drainWg r
    let s := if w.job.isSome then (s.freeTag r.core ⟨w.ctx, r.slot⟩).dropDemands r.core else s
    ((s.dropTraps r).dropCopyTraps w.copies).dropWg r

/-- Discards a saved workgroup: its frame frees, what it left on its core (16 R394, R417), and a core reserved for its restore
(13 R353). -/
def State.discardFrame (s : State) (f : Nat) : State :=
  match s.frame? f with
  | none => s
  | some x =>
    let s := match x.tileCore with
      | some c => s.freeTag c ⟨x.wg.ctx, x.wg.slot⟩
      | none => s
    let s := s.updContext x.wg.ctx (fun c => { c with faultList := c.faultList.filter (fun g => g != f) })
    let s := (s.dropCopyTraps x.wg.copies).coreIds.foldl (fun s c => s.dropTrapsOf c (fun w => w == .restore f)) s
    { s with
      frames := assocDrop s.frames f
      cores := s.cores.map (fun p => (p.1, { p.2 with reserve := p.2.reserve.filter (fun r => r.frame != some f) })) }

/-- Queues a workgroup of a grid as a relaunch (13 R366). -/
def State.queueRelaunch (s : State) (grid wgl : Nat) : State :=
  { s.updGrid grid (fun g => { g with relaunch := g.relaunch ++ [(s.saves, wgl)] }) with saves := s.saves + 1 }

/-- Kills a workgroup of a grid; it is queued as a relaunch (13 R360). -/
def State.killRelaunch (s : State) (r : WgRef) : State :=
  match s.wg? r with
  | none => s
  | some w => (s.discardWg r).queueRelaunch w.grid w.wgl

/-- A queue's wait once a grid is gone. -/
def QueueWait.withoutGrid (id : Nat) : QueueWait → QueueWait
  | .grids ids => .grids (ids.filter (fun x => x != id))
  | x => x

/-- Takes a grid off the module: it has completed or ended. Queues and WAITPREV grids no longer wait for
it. -/
def State.removeGrid (s : State) (id : Nat) : State :=
  { s with
    grids := (s.grids.filter (fun g => g.id != id)).map (fun g => { g with after := g.after.filter (fun x => x != id) }),
    queues := s.queues.map (fun p => (p.1, { p.2 with
      grids := p.2.grids.filter (fun x => x != id), wait := p.2.wait.withoutGrid id })),
    cores := s.cores.map (fun p => (p.1, { p.2 with
      reserve := p.2.reserve.bind (fun x => if x.grid = id then none else some x),
      gang := if p.2.claim.any (fun x => x.1 == id) then [] else p.2.gang,
      claim := p.2.claim.bind (fun x => if x.1 = id then none else some x),
      promised := p.2.promised.filter (fun x => x.1 != id) })) }

/-- Ends every grid of a context: resident workgroups are killed without relaunch, saved ones discarded,
nothing more starts, no timeline is written (11 R341, RESET_CONTEXT; 16 R420). -/
def State.endContextGrids (s : State) (ctx : Nat) : State :=
  let s := (s.allWgs.filter (fun p => p.2.ctx == ctx)).foldl (fun s p => s.discardWg p.1) s
  let s := (s.frames.filter (fun p => p.2.wg.ctx == ctx)).foldl (fun s p => s.discardFrame p.1) s
  (s.grids.filter (fun g => g.ctx == ctx)).foldl (fun s g => s.removeGrid g.id) s

/-- Halts every queue bound to a context with CTX_ERR (11 R335). -/
def State.haltQueues (s : State) (ctx : Nat) : State :=
  { s with queues := s.queues.map (fun p =>
      if p.2.bound ∧ p.2.ctx = ctx then (p.1, { p.2 with halted := true, ctxErr := true }) else p) }

/-- QUEUE and DEVICE of a grid's launch (11 R334): its hardware queue, or its class where it came from a device launch
queue. -/
def Grid.launchedBy (g : Grid) : Nat × Bool :=
  match g.queue with
  | some q => (q, false)
  | none => (g.lpb.cls, true)

/-- A context enters error: ERR and RETRY_OUT, CTXERRADDR, QUEUE and DEVICE naming the grid's launch unless an earlier
event is recorded (11 R334, R335; 13 R365): that a refusal recorded before stands in CTXERRADDR then is the model's choice
(assumption log, entry 68). -/
def State.contextError (s : State) (g : Grid) : State :=
  ((s.updContext g.ctx (fun c =>
      let c := if c.lpbInvalid || c.retryOut then c
        else { c with errAddr := g.lpbAddr, errQueue := g.launchedBy.1, errDevice := g.launchedBy.2 }
      { c with err := true, retryOut := true })).haltQueues g.ctx).endContextGrids g.ctx

/-- What an unrecoverable fault of workgroup `wgl` does to its grid: one more retry, or the context's error
(13 R365). The workgroup itself is already discarded. -/
def State.retryOrError (s : State) (grid wgl : Nat) : State :=
  match s.grid? grid with
  | none => s
  | some g =>
    let used := (assoc g.retries wgl).getD 0
    if g.lpb.idem && decide (used < g.lpb.retry) then
      (s.updGrid grid (fun g => { g with retries := assocSet g.retries wgl (used + 1) })).queueRelaunch grid wgl
    else s.contextError g

/-- Whether a word has its grant and has not started. -/
def EngineQ.holdsGrant (q : EngineQ) (loader : Bool) : Bool :=
  if loader then q.loader.any (fun l => l.phase == .granted && !l.begun) else q.phase == .granted

/-- A word that has not started gives up its place at the headgate (20 R455). -/
def HeadPhase.withdrawn : HeadPhase → HeadPhase
  | .presented | .granted => .waiting
  | x => x

/-- An engine queue whose words have given up their places at the headgate. -/
def EngineQ.withdrawn (q : EngineQ) : EngineQ :=
  { q with phase := q.phase.withdrawn, loader := q.loader.map (fun l => { l with phase := l.phase.withdrawn }) }

/-- The words of a job that wait for a grant, or have one and have not started, give up their places (20 R455). -/
def State.withdrawDemands (s : State) (r : WgRef) : State :=
  match s.job? r with
  | none => s
  | some j =>
    (s.updGate (tileOf r.core) (fun g => { g with
      waiting := g.waiting.filter (fun d => d.core != r.core),
      holding := g.holding.filter (fun d => !(d.core == r.core && (j.queue d.q).holdsGrant d.loader)) })).updJob r
      (fun j => { j with matrixQ := j.matrixQ.withdrawn, drainQ := j.drainQ.withdrawn })

/-- A word that has its grant and has not started gives it up. -/
def HeadPhase.ungranted : HeadPhase → HeadPhase
  | .granted => .waiting
  | x => x

/-- An engine queue whose words have given up their grants. -/
def EngineQ.ungranted (q : EngineQ) : EngineQ :=
  { q with phase := q.phase.ungranted, loader := q.loader.map (fun l => { l with phase := l.phase.ungranted }) }

/-- The words of a job that have a grant and have not started give it up, and wait again as new words: a word that traps at its
start has not started, and none starts while its trap is serviced (08 R262, R277; 20 R452; assumption log, entry 24). -/
def State.giveUpGrants (s : State) (r : WgRef) : State :=
  match s.job? r with
  | none => s
  | some j =>
    (s.updGate (tileOf r.core) (fun g => { g with
      holding := g.holding.filter (fun d => !(d.core == r.core && (j.queue d.q).holdsGrant d.loader)) })).updJob r
      (fun j => { j with matrixQ := j.matrixQ.ungranted, drainQ := j.drainQ.ungranted })

/-- A workgroup as its save begins; a save under way is replaced only by one that stops it. -/
def Workgroup.toSave (w : Workgroup) (fck : Nat) (t : TrapRecord) (stop : Bool) (park : Option Park) : Workgroup :=
  match w.preempt with
  | some (.saving _ true _) => w
  | some (.saving _ false _) => if stop then { w with preempt := some (.saving t true none) } else w
  | _ => { w with preempt := some (.saving t stop park), saveAt := fck }

/-- Begins a save: the workgroup issues nothing from here (13 R360; 16 R393, R394). -/
def State.beginSave (s : State) (r : WgRef) (t : TrapRecord) (stop : Bool) (park : Option Park) : State :=
  (s.updWg r (fun w => w.toSave s.fck t stop park)).withdrawDemands r

/-- Containment (16 R393): the workgroup is killed and relaunched or its context enters error; under
STOPALL it is stopped. -/
def State.contain (s : State) (r : WgRef) (t : TrapRecord) : State :=
  match s.wg? r with
  | none => s
  | some w =>
    if (s.context w.ctx).stopAll then s.beginSave r t true none
    else (s.discardWg r).retryOrError w.grid w.wgl

/-! ## Taking a trap -/

/-- A trap waits in its core's queue, its agent with it, and enters the trap context when its turn comes. -/
def State.raiseTrap (s : State) (core : Nat) (t : TrapItem) : State :=
  ((s.updCore core (fun c => { c with
    pfCount := if t.record.kind = some .pageFault then c.pfCount + 1 else c.pfCount
    trapQ := queueTrap t c.trapQ })).setTrapped core t.who true).enterTrap core

/-- Whether a wave raised a trap. -/
def TrapWho.isWave : TrapWho → Bool
  | .wave _ _ => true
  | _ => false

/-- Takes a trap of a resident workgroup (16 R392, R393). The pager's kinds, and every trap of an engine job's contexts,
copies and engines, enter the core's trap context when their turn comes (07 R248). A wave's TRAP and BREAK stop the
workgroup; every other kind of a wave goes to containment. SPILLWAY_FULL reaches this only where no handler is armed
(R403). -/
def State.takeTrap (s : State) (r : WgRef) (t : TrapItem) : State :=
  match t.record.kind with
  | some .pageFault | some .accOwner => s.raiseTrap r.core t
  | some .trap | some .brk => if t.who.isWave then s.beginSave r t.record true none else s.raiseTrap r.core t
  | _ => if t.who.isWave then s.contain r t.record else s.raiseTrap r.core t

/-- A trap of a wave: the lanes that raised it, the address, and the needs of the pager. -/
def State.trapWave (s : State) (r : WaveRef) (kind : TrapKind) (acc : BitVec 5) (code : W32) (pc va : W64)
    (mask : Lanes) (needs : List Nat) : State :=
  match s.wg? (wgOf r) with
  | none => s
  | some w =>
    let rec_ := s.stampRecord (wgOf r) r.wave
      { TrapRecord.reset with kind := some kind, src := .wave, wave := r.wave, acc := acc, code := code, pc := pc,
                              va := va, mask := mask }
    let (word, s) := s.free
    s.takeTrap (wgOf r) { record := rec_, who := .wave r.slot r.wave, ctx := w.ctx,
                          tval := va, word := word, needs := needs }

/-- The source code of a sequencer context. -/
def seqSrc : SeqCtx → TrapSrc
  | .intake => .intake
  | .main => .main
  | .outfall => .outfall
  | .trap => .scheduler

/-- A trap of a sequencer context at a store offset (07 R248). -/
def State.trapSeq (s : State) (r : WgRef) (ctx : SeqCtx) (kind : TrapKind) (acc : BitVec 5) (code : W32) (pc : Nat)
    (va : W64) (word : W32) (needs : List Nat) : State :=
  match s.wg? r with
  | none => s
  | some w =>
    let rec_ := s.stampRecord r 1000
      { TrapRecord.reset with kind := some kind, src := seqSrc ctx, acc := acc, code := code,
                              pc := BitVec.ofNat 64 pc, va := va }
    s.takeTrap r { record := rec_, who := .seq r.slot ctx, ctx := w.ctx,
                   tval := if kind = .trap then code.setWidth 64 else va, word := word.setWidth 64, needs := needs }

/-- The trap item of a copy at a chunk (18 R438). -/
def State.copyTrap (s : State) (r : WgRef) (ctx slot chunk : Nat) (kind : TrapKind) (acc : BitVec 5) (va : Nat) :
    TrapItem × State :=
  let rec_ := s.stampRecord r 1000
    { TrapRecord.reset with kind := some kind, src := .copy, acc := acc, va := BitVec.ofNat 64 va, resume := chunk,
                            slot := slot }
  let (word, s) := s.free
  ({ record := rec_, who := .copy r.slot slot, ctx := ctx, tval := BitVec.ofNat 64 va, word := word, needs := [va] }, s)

/-- TVAL of a trap of a matrix or drain word (08 R271). -/
def engineTval (tile pass ticket : Nat) : W64 := BitVec.ofNat 64 (tile * 2 ^ 40 + pass * 2 ^ 32 + ticket % 2 ^ 32)

/-- The trap item of an engine queue's head word (08 R262, R269-R271; 16 R396): TWORD reads 0, and TVAL's PASS for every kind
but SPILLWAY_FULL. `needs` names the tag that holds what the word needs, for ACC_OWNER. -/
def State.engineItem (s : State) (r : WgRef) (ctx : Nat) (q : EngineQueue) (kind : TrapKind) (ticket pass tile : Nat)
    (needs : List Nat) : TrapItem :=
  let src := match q with
    | .matrix => TrapSrc.matrixQ
    | .drain => .drainQ
  let rec_ := s.stampRecord r 1000 { TrapRecord.reset with kind := some kind, src := src, ticket := ticket, resume := pass }
  { record := rec_, who := .engine r.slot q, ctx := ctx, tval := engineTval tile (if kind = .spillwayFull then pass else 0) ticket, word := 0,
    needs := needs }

/-- A trap of an engine queue's head word. -/
def State.trapEngine (s : State) (r : WgRef) (q : EngineQueue) (kind : TrapKind) (ticket pass tile : Nat)
    (needs : List Nat) : State :=
  match s.wg? r with
  | none => s
  | some w => s.takeTrap r (s.engineItem r w.ctx q kind ticket pass tile needs)

/-! ## The resident pager (16 R404-R405, R417) -/

/-- Whether a leaf may be installed at a level by the pager: in the leaf format, of the level's size (16 R404, R409). A
frame in the save pool, which R410 counts with the format's breaches, is none (assumption log, entry 9). -/
def fillLeafOk (level leaf : Nat) : Bool :=
  bit leaf 0 && bit leaf 1 && validEntryOk level leaf && !bit leaf 4 && !inPool (entryFrame leaf) (levelSize level)

/-- Writes bytes at a physical address as the pager does for a context: through a window to its scratchpad, to nothing in the
register block, as an access wider than its registers (00 R10, R509), and where nothing is assigned, else to memory. -/
def State.putPhys (s : State) (core ctx a : Nat) (b : List Byte) : State :=
  match place a with
  | .window _ _ =>
    ((b.zipIdx.foldl (fun s p => match place (a + p.2) with
      | .window k off => s.writeWindow k off p.1
      | _ => s) s)).noteStray ((List.range b.length).map (a + ·)) (BitVec.ofNat 10 core)
  | .regs _ => s.setFerr (s.funcOf ctx) 1
  | .none => s
  | _ => s.writeMem a b

/-- The number of a tag among the needs of a trap. -/
def tagNeed (t : OwnerTag) : Nat := t.ctx * 16 + t.slot

/-- What the pager's service of a page comes to. -/
inductive Fill where
  | done (s : State)
  /-- the page's entry is filling, or a page that the fill reads is: the pager waits. -/
  | waits
  /-- the page is not filled: the pager escalates, or, where it consumed poison, the workgroup is contained. -/
  | fails (k : Xlat) (s : State)

/-- Goes on with a fill's state. -/
def Fill.andThen (x : Fill) (f : State → Fill) : Fill :=
  match x with
  | .done s => f s
  | x => x

/-- Copies `n` bytes of a context's address space to physical memory, 4 KiB at a time. -/
def State.copyIn (s : State) (core ctx src dst n : Nat) : Fill :=
  (List.range ((n + 4095) / 4096)).foldl (fun acc i => acc.andThen (fun s =>
    let m := min 4096 (n - 4096 * i)
    match s.readSpan ctx (src + 4096 * i) m with
    | (.ok _, b) => .done ((s.noteFe ctx (src + 4096 * i) m).putPhys core ctx (dst + 4096 * i) b)
    | (.wait, _) => .waits
    | (k, _) => .fails k s)) (.done s)

/-- Fills the page of an address where its entry is a demand entry (16 R404). -/
def State.fillPage (s : State) (core ctx va : Nat) : Fill :=
  match s.walk ctx va with
  | .leaf _ _ => .done s
  | .filling => .waits
  | .hole level at_ e =>
    if bits e 1 2 ≠ 1 ∨ (level ≠ 2 ∧ level ≠ 3) then .fails .pageFault s
    else
      match s.readSpan ctx (bits e 4 48 * 16) 16 with
      | (.ok _, d) =>
        let src := ofBytes (d.take 8)
        let leaf := ofBytes (d.drop 8)
        if !fillLeafOk level leaf then .fails .pageFault s
        else
          let size := levelSize level
          let s := s.noteFe ctx (bits e 4 48 * 16) 16
          let filled : Fill :=
            if src = 0 then .done (s.putPhys core ctx (s.canonAddr (entryFrame leaf)) (List.replicate size 0))
            else s.copyIn core ctx src (s.canonAddr (entryFrame leaf)) size
          filled.andThen (fun s => .done (s.writeMem at_ (toBytes 8 leaf)))
      | (.wait, _) => .waits
      | (k, _) => .fails k s
  | .protection => .fails .protection s
  | .poison => .fails .poison s

/-- Fills the pages of several addresses in order, up to the first that cannot be filled (16 R399). -/
def State.fillPages (s : State) (core ctx : Nat) : List Nat → Fill
  | [] => .done s
  | va :: rest => (s.fillPage core ctx va).andThen (fun s => s.fillPages core ctx rest)

/-- Moves every tile and spillway entry of a tag from a core into its owner's frame (16 R417). -/
def State.saveTiles (s : State) (core : Nat) (tag : OwnerTag) : State :=
  let c := s.core core
  let ts := c.tiles.filter (fun p => p.2.owner == some tag)
  let es := c.spw.filter (fun e => e.owner == tag)
  let owner := s.frames.find? (fun p => p.2.wg.ctx == tag.ctx && p.2.wg.slot == tag.slot && p.2.tileCore == some core)
  let s := match owner with
    | some (f, _) => s.updFrame f (fun x => { x with tiles := x.tiles ++ ts, entries := x.entries ++ es, tileCore := none, tileMask := 0 })
    | none => s
  s.freeTag core tag

/-- Whether a copy has ended at a fault that its frame holds (18 R440). -/
def Copy.held (c : Copy) : Bool := c.detached && c.stopped && c.fault.isSome

/-- A detached copy ends at its fault: the frame holds it, and its slot is free (18 R435, R440). -/
def State.holdFault (s : State) (core cs : Nat) (t : TrapItem) : State :=
  s.updSlotCopies core cs (fun c => { c with fault := some t, stopped := true, running := [] })

/-- A copy whose fault stops its workgroup: it gives up its slot, and a restore resumes it (18 R435, R439). -/
def Copy.ended (c : Copy) : Copy := { c with fault := none, stopped := true, running := [] }

/-- The workgroup whose trap the trap context services, where it is resident; the copy that raised it ends. -/
def State.trapHome (s : State) (core : Nat) : TrapWho → Option WgRef × State
  | .detached cs => (s.copyHome core cs, if (s.copyHome core cs).isSome then s.updSlotCopies core cs Copy.ended else s)
  | .copy slot cs => (some ⟨core, slot⟩, s.updSlotCopies core cs Copy.ended)
  | .restore _ => (none, s)
  | w => (some ⟨core, w.slot⟩, s)

/-- The trap context goes on to the next trap, its agent left waiting. -/
def State.closeTrap (s : State) (core : Nat) : State :=
  (s.updCore core (fun c => { c with trap := { c.trap with item := none } })).enterTrap core

/-- Ends the service of a trap that stops or kills its workgroup: until the save has completed, the trap context issues
nothing (07 R250); the trap of a copy that outlived its workgroup's residence, or of a restore, is done with. -/
def State.endService (s : State) (core : Nat) (who : TrapWho) : State :=
  match who with
  | .detached _ | .restore _ => s.closeTrap core
  | _ => s.updCore core (fun c => { c with trap := { c.trap with escalating := true } })

/-- A saved workgroup enters its context's fault list in its frame, with a record (16 R393, R406). -/
def State.stopFrame (s : State) (f : Nat) (t : TrapRecord) : State :=
  match s.frame? f with
  | none => s
  | some x =>
    { (s.updFrame f (fun x => { x with record := t, stopped := some s.stops })).updContext x.wg.ctx
        (fun c => { c with faultList := c.faultList ++ [f] }) with stops := s.stops + 1 }

/-- A context whose TRAP word stops its workgroup resumes after that word (16 R406); where a stop is under way already, the
word is reissued. -/
def State.passTrapWord (s : State) (core : Nat) (t : TrapItem) : State :=
  match t.record.kind, t.who with
  | some .trap, .seq slot ctx =>
    if (s.wg? ⟨core, slot⟩).any (fun w => match w.preempt with
      | some (.saving _ true _) => true
      | _ => false) then s
    else s.updJob ⟨core, slot⟩ (fun j => j.updCtx ctx (fun x => { x with pc := t.record.pc.toNat }))
  | _, _ => s

/-- An escalation stops the workgroup with its record (16 R405), a saved one, whose restore trapped, in its frame. The fault of
a detached copy is held in the frame (18 R440). -/
def State.escalate (s : State) (core : Nat) (t : TrapItem) : State :=
  let rec_ := (s.core core).trap.rec_
  let x := s.trapHome core t.who
  let s := x.2.endService core t.who
  match x.1, t.who with
  | some r, _ => (s.passTrapWord core t).beginSave r rec_ true none
  | none, .detached cs => s.holdFault core cs t
  | none, .restore f => s.stopFrame f rec_
  | none, _ => s

/-- Containment of the workgroup whose trap the trap context services (16 R393): of a saved one, whose detached copy
raised it, its frame is discarded, or under STOPALL the fault is held in it. -/
def State.containTrap (s : State) (core : Nat) (t : TrapItem) (k : TrapKind) : State :=
  let rec_ := { (s.core core).trap.rec_ with kind := some k }
  let x := s.trapHome core t.who
  let s := x.2.endService core t.who
  match x.1, t.who with
  | some r, _ => s.contain r rec_
  | none, .detached cs =>
    match s.copyFrame core cs with
    | none => s
    | some (f, x) =>
      if (s.context x.wg.ctx).stopAll then s.holdFault core cs { t with record := rec_ }
      else (s.discardFrame f).retryOrError x.wg.grid x.wg.wgl
  | none, .restore f =>
    match s.frame? f with
    | none => s
    | some x =>
      if (s.context x.wg.ctx).stopAll then s.stopFrame f rec_ else (s.discardFrame f).retryOrError x.wg.grid x.wg.wgl
  | none, _ => s

/-- The service of the trap in the trap context, as one step (16 R392, R393, R404; assumption log, entry 9): the
resident pager fills the pages, or saves the tile, and returns, or it escalates; a TRAP stops the workgroup; the other
kinds go to containment. -/
def State.pagerService (s : State) (core : Nat) : State :=
  match (s.core core).trap.item with
  | none => s
  | some t =>
    if (s.core core).trap.escalating then s
    else
      match t.record.kind with
      | some .accOwner => (t.needs.foldl (fun (s : State) n => s.saveTiles core ⟨n / 16, n % 16⟩) s).leaveTrap core
      | some .pageFault =>
        match s.fillPages core t.ctx t.needs with
        | .done s => s.leaveTrap core
        | .waits => s
        | .fails .poison s => s.containTrap core t .poison
        | .fails _ s => s.escalate core t
      | some .trap | some .brk => s.escalate core t
      | some k => s.containTrap core t k
      | none => s

end Sys2Proof.Machine
end

