-- ==== Sys2Proof/Machine/Timeline.lean ====
section
/-! DEFINITION. Timelines: the read-modify-writes of TLADD and TLSET, where they are performed, what wakes on
them, and the timeline writes of the front end and of copies (06 R212-R214; 11 R331-R332; 06 R511); cache
maintenance of a range of a context's addresses (06 R196). -/

namespace Sys2Proof.Machine

/-! ## The read-modify-write -/

/-- The largest 64-bit value. -/
def maxWord : Nat := 0xFFFFFFFFFFFFFFFF

/-- The new value of a timeline, and whether REWOUND and SATURATED are marked (06 R212). -/
def timelineNext (add : Bool) (old v : Nat) : Nat × Bool × Bool :=
  if add then (if maxWord < old + v then (maxWord, false, true) else (old + v, false, false))
  else (v, decide (v < old), false)

/-- The bits of TLEVT that events have set in an fck: REWOUND and SATURATED (11 R331). -/
def Context.eventsIn (c : Context) (fck : Nat) : Bool × Bool :=
  match c.evtAt with
  | some x => if x.1 = fck then x.2 else (false, false)
  | none => (false, false)

/-- Records a timeline event in the TLEVT of the context that performs the write (11 R331). -/
def State.timelineEvent (s : State) (ctx : Nat) (va : W64) (rewound saturated : Bool) : State :=
  if rewound || saturated then
    s.updContext ctx (fun c => { c with
      evtAddr := va &&& 0x000FFFFFFFFFFFF8, rewound := c.rewound || rewound, saturated := c.saturated || saturated,
      evtAt := some (s.fck, (c.eventsIn s.fck).1 || rewound, (c.eventsIn s.fck).2 || saturated) })
  else s

/-! ## Waiters -/

/-- Marks a lane's timeline wait as met where a value seen at its address has reached the threshold (06 R214). -/
def Lane.meet (seen : W64 → Option Nat) (l : Lane) : Lane :=
  match l.state with
  | .waiting (.tlwait a t c p m) =>
    { l with state := .waiting (.tlwait a t c p (m || (seen a).any (fun v => decide (t.toNat ≤ v)))) }
  | _ => l

/-- Marks the timeline waits of a workgroup's lanes. -/
def Workgroup.meet (seen : W64 → Option Nat) (w : Workgroup) : Workgroup :=
  { w with waves := w.waves.map (fun x => { x with lanes := x.lanes.map (Lane.meet seen) }) }

/-- Whether an address of a context reaches a physical address. -/
def State.reaches (s : State) (ctx dpa : Nat) (a : W64) : Bool := s.translateFe ctx a.toNat .read == .ok dpa

/-- Whether every lane waiting in TLWAIT.park has had its condition met, by the marks alone (06 R215). -/
def Workgroup.parkMet (w : Workgroup) : Bool :=
  w.waves.all (fun x => x.lanes.all (fun l => match l.state with
    | .waiting (.tlwait _ _ _ true m) => m
    | _ => true))

/-- Marks the waiters, on a core, in a frame or in a queue, whose context sees a value that has reached their threshold
(06 R214; 11 R332). -/
def State.markWaiters (s : State) (seen : Nat → W64 → Option Nat) : State :=
  { s with
    cores := s.cores.map (fun p => (p.1, { p.2 with wgs := p.2.wgs.map (fun q => (q.1, q.2.meet (seen q.2.ctx))) })),
    queues := s.queues.map (fun p => (p.1, { p.2 with
      wait := match p.2.wait with
        | .timeline a t sc m => .timeline a t sc (m || (seen p.2.ctx a).any (fun v => decide (t.toNat ≤ v)))
        | x => x })),
    frames := s.frames.map (fun p => (p.1, { p.2 with wg := p.2.wg.meet (seen p.2.wg.ctx) })) }

/-- A new value at a physical address is compared by every waiter there. -/
def State.compareWaiters (s : State) (dpa v : Nat) : State :=
  s.markWaiters (fun ctx a => if s.reaches ctx dpa a then some v else none)

/-- Waiters compare the 8-byte words that a write changed (06 R213, R214). -/
def State.noteWrite (s : State) (a n : Nat) : State :=
  (List.range ((a + n + 7) / 8 - a / 8)).foldl (fun s i =>
    let w := (a / 8 + i) * 8
    s.compareWaiters w (s.readWord w)) s

/-- One indivisible timeline write at the slice that holds it (06 R212, R213). -/
def State.performTimeline (s : State) (ctx : Nat) (va : W64) (dpa : Nat) (add : Bool) (v : W64) : State :=
  let n := timelineNext add (s.readWord dpa) v.toNat
  ((s.writeMem dpa (toBytes 8 n.1)).timelineEvent ctx va n.2.1 n.2.2).compareWaiters dpa n.1

/-- The same for an agent of a core, or of none: it comes after the core's dirty bytes there, and the core's own copy follows
it (14 R369, R370, R377). -/
def State.performTimelineOf (s : State) (home : Option Nat) (ctx : Nat) (va : W64) (dpa : Nat) (add : Bool) (v : W64) : State :=
  match home with
  | none => s.performTimeline ctx va dpa add v
  | some core =>
    let s := (s.settleL1 core dpa).performTimeline ctx va dpa add v
    (List.range 8).foldl (fun s i => s.writeThrough core (dpa + i) (cellAt s.mem (dpa + i))) s

/-- Where a timeline write can be performed (06 R201, R213). -/
inductive TimelinePlace where | slice | host | nowhere
  deriving DecidableEq, Repr

/-- The place of a timeline write by its physical address. -/
def timelinePlace (dpa : Nat) : TimelinePlace :=
  match place dpa with
  | .dram | .pres _ | .pod _ _ => .slice
  | .host => .host
  | _ => .nowhere

/-- The value of a timeline that an L2 slice of the module holds, as a context reaches it; none for a timeline anywhere
else. -/
def State.sliceValue (s : State) (ctx : Nat) (a : W64) : Option Nat :=
  match s.translateFe ctx a.toNat .read with
  | .ok d => match place d with
    | .dram | .pres _ => some (s.readWord d)
    | _ => none
  | _ => none

/-- Whether some lane or queue waits for a timeline. -/
def State.anyTimelineWait (s : State) : Bool :=
  let waits (w : Workgroup) : Bool := w.waves.any (fun x => x.lanes.any (fun l => match l.state with
    | .waiting (.tlwait _ _ _ _ m) => !m
    | _ => false))
  s.cores.any (fun p => p.2.wgs.any (fun q => waits q.2)) || s.frames.any (fun p => waits p.2.wg)
    || s.queues.any (fun p => match p.2.wait with
      | .timeline _ _ _ m => !m
      | _ => false)

/-- Every write that a slice performs wakes the waiters of the timeline it reaches (06 R213): after a step, each waiter
compares the value its timeline now has. -/
def State.wakeWaiters (s : State) : State := if s.anyTimelineWait then s.markWaiters s.sliceValue else s

/-- Sends a PCIe AtomicOp for a timeline in host memory (06 R213): a Swap, or a CAS. What the first CAS of a
TLADD expects is the value the device finds there (assumption log, entry 10). -/
def State.sendHostOp (s : State) (ctx : Nat) (va : W64) (dpa : Nat) (add : Bool) (v : W64) (who : HostOpWho) : State :=
  let op : HostOp := { id := s.hostOpId, ctx := ctx, addr := dpa, va := va, add := add, value := v,
                       expect := BitVec.ofNat 64 (s.readWord dpa), pasid := (s.context ctx).pasid, who := who }
  { s with hostOps := s.hostOps ++ [op], hostOpId := s.hostOpId + 1 }

/-- Sets TLFAIL (11 R334; 06 R511). -/
def State.timelineFail (s : State) (ctx : Nat) : State := s.updContext ctx (fun c => { c with tlFail := true })

/-- Whether a timeline write of the front end or of a copy engine must wait: its walk meets a filling entry (16 R404). -/
def State.timelineWaits (s : State) (ctx : Nat) (va : W64) : Bool :=
  va != 0 && va.toNat % 8 == 0 && s.translateFe ctx va.toNat .atomic == .wait

/-- A timeline write of the front end or of a copy engine, where one is asked for (01 R52; 06 R511): made,
sent to the host, or not made with TLFAIL, for the core of a copy's workgroup or for none. Its callers wait where the walk meets
a filling entry. -/
def State.feTimeline (s : State) (home : Option Nat) (ctx : Nat) (va : W64) (add : Bool) (v : W64) (who : HostOpWho) : State :=
  if va = 0 then s
  else if va.toNat % 8 ≠ 0 then s.timelineFail ctx
  else
    match s.translateFe ctx va.toNat .atomic with
    | .ok dpa =>
      match timelinePlace dpa with
      | .slice => s.performTimelineOf home ctx va dpa add v
      | .host => s.sendHostOp ctx va dpa add v who
      | .nowhere => s.timelineFail ctx
    | _ => s.timelineFail ctx

/-! ## Cache maintenance of a range (06 R196) -/

/-- The parts of a table's span that a range `[lo, hi)` of addresses reaches, as physical base and length;
`fuel` levels remain. Parts without a translation are left out. -/
def State.segments (s : State) : Nat → Nat → Nat → Nat → Nat → List (Nat × Nat)
  | 0, _, _, _, _ => []
  | fuel + 1, level, table, lo, hi =>
    let size := match level with
      | 0 => 0x8000000000
      | n => levelSize n
    if hi ≤ lo then []
    else
      (List.range ((hi - 1) / size - lo / size + 1)).flatMap (fun i =>
        let page := (lo / size + i) * size
        let a := max lo page
        let b := min hi (page + size)
        let e := s.readWord (table + 8 * levelIndex a level)
        if !bit e 0 || !validEntryOk level e then []
        else if bit e 1 then [(s.canonAddr (entryFrame e / size * size + a % size), b - a)]
        else s.segments fuel (level + 1) (entryFrame e) a b)

/-- Whether a cache line overlaps a range of a context's addresses. -/
def State.lineOfRange (s : State) (ctx va len : Nat) : Nat → Bool :=
  let l := s.segments 4 0 (s.context ctx).root va (va + len)
  fun n => l.any (fun p => lineIn p.1 p.2 n)

/-- Whether WB and INV at a scope act at all: at .wv and .wg they are ignored. -/
def maintains : Scope → Bool
  | .wv | .wg => false
  | _ => true

end Sys2Proof.Machine
end

