-- ==== Sys2Proof/Machine/Waits.lean ====
section
/-! DEFINITION. What a resident workgroup waits for, and what it takes of its core: waiting lanes, scratchpad lines that a
copy leaves empty, streams, token pushes, physical registers (04 R145; 06 R191, R194, R208; 07 R225, R241; 18 R430; 01 R35). -/

namespace Sys2Proof.Machine

/-- Lane `l` of a list of lane values. -/
def at_ (l : List Nat) (i : Nat) : Nat := (l[i]?).getD 0

/-! ## Waiting lanes (04 R145; 06 R208-R211) -/

/-- Makes waiting lanes live where their wait is over. -/
def Wave.release (v : Wave) (p : LaneWait → Bool) : Wave :=
  { v with lanes := v.lanes.map (fun l => match l.state with
    | .waiting x => if p x then { l with state := .live } else l
    | _ => l) }

/-- Whether a lane has arrived at barrier `n` in a phase. -/
def Lane.arrivedIn (l : Lane) (n phase : Nat) : Bool := (l.arrived[n]?).getD 0 == phase + 1

/-- Whether every lane of every wave of a workgroup that has not ended has exited or satisfies `p`. -/
def Workgroup.everyLane (g : Workgroup) (p : Lane → Bool) : Bool :=
  g.waves.all (fun v => v.ended || v.lanes.all (fun l => l.state == .exited || p l))

/-- Whether some lane of a workgroup waits as `p` says. -/
def Workgroup.someWait (g : Workgroup) (p : LaneWait → Bool) : Bool :=
  g.waves.any (fun v => v.lanes.any (fun l => match l.state with
    | .waiting x => p x
    | _ => false))

/-- Makes waiting lanes of a workgroup live. -/
def Workgroup.release (g : Workgroup) (p : LaneWait → Bool) : Workgroup :=
  { g with waves := g.waves.map (fun v => v.release p) }

/-! ## Scratchpad lines (07 R241; 18 R427) -/

/-- Whether a scratchpad line is empty: an accepted, uncompleted copy has a chunk that writes it and is not
complete (18 R427). -/
def Workgroup.lineEmpty (g : Workgroup) (line : Nat) : Bool :=
  g.copies.any (fun c => match copyCmd c.cmd with
    | some k => k.writesPad c.done (128 * line) 128
    | none => false)

/-- The scratchpad lines an access touches. -/
def linesOf (off n : Nat) : List Nat := (List.range ((off + n - 1) / 128 - off / 128 + 1)).map (fun i => off / 128 + i)

/-- Whether a pending LDS finds its lines full, or a pending RECV an entry left for it by the RECVs before it
(06 R191, R194). -/
def Workgroup.served (g : Workgroup) (p : Pending) : Bool :=
  match p.kind with
  | .result _ => true
  | .lds offs size => !(lanesOf p.mask).any (fun i => (linesOf (at_ offs i) size).any g.lineEmpty)
  | .recv n =>
    decide ((g.waves.map (fun v => (v.pending.filter (fun q => match q.kind with
      | .recv m => decide (m < n)
      | _ => false)).length)).foldl (· + ·) 0 < g.queue.length)

/-! ## Streams (18 R430) -/

/-- The unread elements of a lane of a stream register. -/
def StreamReg.lane (q : StreamReg) (l : Nat) : List W32 := (assoc q.held l).getD []

/-- A stream register of a wave. -/
def Wave.stream (w : Wave) (n : Nat) : StreamReg := (w.streams[n]?).getD ⟨[]⟩

/-- Where a stream copy's next element goes: its wave, stream register and lane. -/
def Copy.nextLane (c : Copy) (k : CopyCmd) : Nat × Nat × Nat := (k.aux / 8, k.aux % 8, c.sent % 32)

/-- Whether a lane of a wave takes no element any more: an element for it is discarded as it is delivered (18 R431). -/
def Wave.laneGone (w : Wave) (lane : Nat) : Bool :=
  w.ended || (match w.lanes[lane]? with
    | some l => l.state == .exited
    | none => true)

/-- Whether a stream copy has an element that can be delivered now: no earlier copy owes its lane one, and the lane has
room or is gone (18 R430, R431). -/
def Workgroup.deliverable (w : Workgroup) (c : Copy) (k : CopyCmd) : Bool :=
  let (wave, q, lane) := c.nextLane k
  k.dk == 3 && !c.fetched.isEmpty
    && !(w.copies.takeWhile (fun x => !(x.core == c.core && x.slot == c.slot && !x.stopped))).any (fun x => match copyCmd x.cmd with
      | some k => k.owes wave q x.sent lane
      | none => false)
    && (w.waves[wave]?).any (fun v => v.laneGone lane || decide (((v.stream q).lane lane).length < 8))

/-! ## Pushes (07 R225) -/

/-- Marks the reserved pushes of a ring that wait on something as complete, and makes those that stand first
in issue order (07 R225). -/
def Ring.complete (r : Ring) (p : PushOn → Bool) : Ring :=
  let l := r.reserved.map (fun x => (x.1, x.2 || p x.1))
  let n := (l.takeWhile (·.2)).length
  { tokens := r.tokens + n, reserved := l.drop n }

/-- The same for every ring of a job. -/
def Job.completePushes (j : Job) (p : PushOn → Bool) : Job :=
  { j with ringIF := j.ringIF.complete p, ringIR := j.ringIR.complete p, ringOF := j.ringOF.complete p,
           ringOR := j.ringOR.complete p }

/-! ## Physical registers (01 R35) -/

/-- The physical registers of a partition in use. -/
def State.physInUse (s : State) (core part : Nat) : Nat :=
  (s.core core).wgs.foldl (fun n p =>
    (p.2.waves.zipIdx).foldl (fun n q =>
      if (p.2.part + q.2) % 6 = part then n + (q.1.vregs.length - q.1.spilled.length) else n) n) 0

/-- The mapped, unspilled registers of a partition's waves. -/
def State.spillable (s : State) (core part : Nat) : List (WaveRef × Nat) :=
  (s.core core).wgs.flatMap (fun p =>
    p.2.waves.zipIdx.flatMap (fun q =>
      if (p.2.part + q.2) % 6 = part then
        (q.1.vregs.filter (fun v => !q.1.spilled.contains v.1)).map (fun v => (⟨core, p.1, q.2⟩, v.1))
      else []))

/-- A core's L1 gives up lines for the registers that stand in its backing areas, where the two exceed it (01 R25, R35, R48);
which lines is open (assumption log, entry 2). -/
def State.fitL1 (s : State) (core : Nat) : State :=
  (List.range ((s.core core).l1Used - 1024)).foldl (fun s _ =>
    let f := s.free
    let l := (s.core core).l1
    match l[f.1.toNat % l.length]? with
    | some x => f.2.invalidate core (fun n => n == x.line)
    | none => s) s

/-- Moves one mapped register of a full partition into the backing area; which one the spec leaves open
(01 R35; assumption log, entry 2). -/
def State.spillOne (s : State) (core part : Nat) : State :=
  let l := s.spillable core part
  let f := s.free
  match l[f.1.toNat % l.length]? with
  | some (r, n) =>
    (f.2.updWave r (fun w => { w with spilled := n :: w.spilled })).updCore core
      (fun c => { c with spillCnt := c.spillCnt + 1 })
  | none => s

end Sys2Proof.Machine
end

