-- ==== Sys2Proof/Machine/Place.lean ====
section
/-! DEFINITION. Where workgroups go: bind records and eligibility (13 R345-R346), room on a core and the
choices of placement (13 R349-R350), what a core takes next (13 R348, R352-R354), starting a workgroup
(13 R350-R351; 01 R30, R39), its completion and its grid's (13 R367; 01 R52). -/

namespace Sys2Proof.Machine

/-! ## Eligibility (13 R345, R346) -/

/-- Whether a core holds a resident workgroup of a context. -/
def State.holdsContext (s : State) (ctx core : Nat) : Bool := (s.core core).wgs.any (fun p => p.2.ctx == ctx)

/-- RESIDENT of a context's bind record (13 R345). -/
def State.residentCores (s : State) (ctx : Nat) : List Nat := s.coreIds.filter (s.holdsContext ctx)

/-- Whether a core is fenced (25 R497, R504). -/
def State.fenced (s : State) (core : Nat) : Bool :=
  s.modl.fencedCores.contains core || s.modl.fencedTiles.contains (tileOf core)

/-- Whether a core is eligible for a context (13 R346), with the cores in `extra` counted as holding work of
it. -/
def State.eligibleWith (s : State) (ctx : Nat) (extra : List Nat) (core : Nat) : Bool :=
  let b := s.bindOf ctx
  let held := s.residentCores ctx
  b.valid && b.tileMask.getLsbD (tileOf core) && !s.fenced core && decide (core < 768)
    && (held.contains core || extra.contains core || b.maxCores == 0
        || decide ((held ++ extra.filter (fun c => !held.contains c)).length < b.maxCores))

/-- Whether a core is eligible for a context. -/
def State.eligible (s : State) (ctx core : Nat) : Bool := s.eligibleWith ctx [] core

/-! ## Room (13 R349, R350) -/

/-- A resident workgroup as an occupant; a wave that has ended holds no wave slot and no registers. -/
def State.occupant (s : State) (slot : Nat) (w : Workgroup) : Occupant :=
  { slot := slot, part := w.part, base := w.base, scratch := (s.lpbOf w).scratch, regs := (s.lpbOf w).maxRegs,
    parts := w.waves.zipIdx.filterMap (fun p => if p.1.ended then none else some ((w.part + p.2) % 6)),
    engine := w.job.isSome }

/-- The wave-slot and register conditions of a partition list on every partition (13 R349; 01 R36). -/
def partsFit (occ : List Occupant) (parts : List Nat) (regs : Nat) : Bool :=
  (List.range 6).all (fun p =>
    let mine := (parts.filter (fun x => x == p)).length
    let n := occ.foldl (fun n o => n + (o.parts.filter (fun x => x == p)).length) 0
    let r := occ.foldl (fun r o => r + (o.parts.filter (fun x => x == p)).length * o.regs) 0
    mine == 0 || (decide (n + mine ≤ 16) && decide (r + mine * regs ≤ 896)))

/-- Whether `n` bytes of scratchpad are free at an offset. -/
def padFree (occ : List Occupant) (off n : Nat) : Bool :=
  decide (off + n ≤ 786432) && occ.all (fun o => decide (off + n ≤ o.base) || decide (o.base + o.scratch ≤ off))

/-- The choices of R350 for a workgroup of which the waves in a list have not ended: the lowest slot, the lowest scratchpad
offset, the lowest base partition. -/
def placeWaves (occ : List Occupant) (l : Lpb) (waves : List Nat) : Option Occupant :=
  let slot := (List.range 16).find? (fun n => !(occ.any (fun o => o.slot == n)))
  let base := (0 :: occ.map (fun o => o.base + o.scratch)).foldl (fun best o =>
    if padFree occ o l.scratch then (match best with
      | some b => some (min b o)
      | none => some o) else best) (none : Option Nat)
  let parts (b : Nat) : List Nat := waves.map (fun w => (b + w) % 6)
  let part := (List.range 6).find? (fun b => partsFit occ (parts b) l.maxRegs)
  match slot, base, part with
  | some n, some o, some b =>
    if l.engine && occ.any (·.engine) then none
    else some { slot := n, part := b, base := o, scratch := l.scratch, parts := parts b, regs := l.maxRegs,
                engine := l.engine }
  | _, _, _ => none

/-- The place of a workgroup that starts, with all its waves. -/
def placeOne (occ : List Occupant) (l : Lpb) : Option Occupant := placeWaves occ l (List.range l.waves)

/-- The waves of a saved workgroup that have not ended: partitions receive these alone. -/
def Frame.liveWaves (f : Frame) : List Nat := f.wg.waves.zipIdx.filterMap (fun p => if p.1.ended then none else some p.2)

/-- Places `n` workgroups one after another; none where one of them does not fit (13 R349). -/
def placeMany (l : Lpb) : Nat → List Occupant → Option (List Occupant)
  | 0, occ => some occ
  | n + 1, occ =>
    match placeOne occ l with
    | some o => placeMany l n (o :: occ)
    | none => none

/-- The resident workgroups of a core as occupants. -/
def State.occupants (s : State) (core : Nat) : List Occupant :=
  (s.core core).wgs.map (fun p => s.occupant p.1 p.2)

/-- The workgroups of a full unit that a core makes room for: CLAIM, or one member of a gang (13 R348, R352). -/
def Lpb.unit (l : Lpb) : Nat := if l.gang ≤ 1 then l.claim else 1

/-- Whether a workgroup of a class is covered by a shed level (13 R362). -/
def covered (level cls : Nat) : Bool := decide (1 ≤ level) && decide (level ≤ cls)

/-- Whether a grid may start workgroups: its context is not in error and it waits for no earlier grid. -/
def State.mayStart (s : State) (g : Grid) : Bool := !(s.context g.ctx).err && g.after.isEmpty

/-- Whether the room that a drain freed on a core is still held for its grid: the grid has work for it, may start it, and may
have the core (13 R346, R360, R362). -/
def State.promiseStands (s : State) (core grid : Nat) : Bool :=
  (s.grid? grid).any (fun g => (decide (g.next < g.total) || !g.relaunch.isEmpty || s.frames.any (fun p => p.2.wg.grid == grid))
    && s.mayStart g && s.eligible g.ctx core && !covered s.power.level g.lpb.cls)

/-- The room of a core that is held for the grids it was freed for (13 R360), but for one whose claim is on its way. -/
def State.promisedRoom (s : State) (core : Nat) : List Occupant :=
  ((s.core core).promised.filter (fun p => s.promiseStands core p.1
    && !(s.core core).claim.any (fun c => c.1 == p.1))).map (·.2)

/-- The occupants of a core with the room it holds: what drains freed for a grid (13 R360), and a full unit for a claim on its
way (13 R348). -/
def State.heldOccupants (s : State) (core : Nat) : List Occupant :=
  let occ := s.occupants core ++ s.promisedRoom core
  match (s.core core).claim with
  | some (g, _, _) =>
    match s.grid? g with
    | some g => (placeMany g.lpb g.lpb.unit occ).getD occ
    | none => occ
  | none => occ

/-- Whether `n` workgroups with these launch parameters fit on a core. -/
def State.fits (s : State) (core : Nat) (l : Lpb) (n : Nat) : Bool := (placeMany l n (s.heldOccupants core)).isSome

/-- Every workgroup, resident or saved, that holds copies. -/
def State.allCopies (s : State) : List Copy :=
  s.allWgs.flatMap (fun p => p.2.copies) ++ s.frames.flatMap (fun p => p.2.wg.copies)

/-- The copy slots of a core in use (18 R435). -/
def State.copySlotsUsed (s : State) (core : Nat) : List Nat :=
  s.allCopies.filterMap (fun c => if c.core = core ∧ c.stopped = false then some c.slot else none)

/-- The lowest copy slot of a core that is free, after those in `taken`. Which of several free slots a command takes the
spec leaves open (assumption log, entry 63). -/
def State.freeCopySlot (s : State) (core : Nat) (taken : List Nat) : Option Nat :=
  let used := s.copySlotsUsed core
  (List.range 128).find? (fun n => !used.contains n && !taken.contains n)

/-- Whether a core has a copy slot for each copy that a frame holds stopped (13 R349). -/
def State.slotsFor (s : State) (core : Nat) (f : Frame) : Bool :=
  decide ((f.wg.copies.filter (·.stopped)).length + (s.copySlotsUsed core).length ≤ 128)

/-- Whether a saved workgroup fits on a core: its room, and its copies' slots. -/
def State.fitsFrame (s : State) (core : Nat) (f : Frame) : Bool :=
  (placeWaves (s.heldOccupants core) (s.lpbOf f.wg) f.liveWaves).isSome && s.slotsFor core f

/-! ## Gangs (01 R28; 13 R352, R353) -/

/-- The cores of a cluster. -/
def clusterCores (cluster : Nat) : List Nat := (List.range 4).map (fun i => 4 * cluster + i)

/-- Whether a core's claim on its way is a gang's: its member 0 has not started, and reserves the others then. -/
def State.gangOnWay (s : State) (core : Nat) : Bool :=
  (s.core core).claim.any (fun x => (s.grid? x.1).any (fun g => decide (1 < g.lpb.gang)))

/-- Whether a cluster holds no gang with an unstarted member (13 R352). -/
def State.clusterUnreserved (s : State) (cluster : Nat) : Bool :=
  (clusterCores cluster).all (fun c => (s.core c).reserve.isNone && !s.gangOnWay c)

/-- Up to `n` more cores of a core's cluster, in ascending order, that can be reserved beside it: eligible,
and holding no reservation. -/
def State.gangCores (s : State) (ctx core n : Nat) : List Nat :=
  (((clusterCores (clusterOf core)).filter (fun c => c != core)).foldl (fun acc c =>
    if acc.length < n + 1 ∧ (s.core c).reserve.isNone ∧ s.eligibleWith ctx acc c then acc ++ [c] else acc)
    [core]).drop 1

/-- The members of a workgroup's gang that are on a core, by core. -/
def State.gangOnCores (s : State) (grid : Nat) (l : Lpb) (wgl : Nat) : List Nat :=
  (s.allWgs.filter (fun p => p.2.grid == grid && l.gangOf p.2.wgl == l.gangOf wgl)).map (fun p => p.1.core)

/-- The cores of a workgroup's gang: those its members are on, and those reserved for its members that have yet to start there
(13 R352, R353). -/
def State.gangHeld (s : State) (grid : Nat) (l : Lpb) (wgl : Nat) : List Nat :=
  s.gangOnCores grid l wgl
    ++ s.coreIds.filter (fun c => (s.core c).reserve.any (fun r => r.grid == grid && l.gangOf r.wgl == l.gangOf wgl))

/-- Whether a core is reserved for a workgroup: it starts there alone. -/
def State.reservedFor (s : State) (grid wgl : Nat) : Bool :=
  s.cores.any (fun p => p.2.reserve.any (fun r => r.grid == grid && r.wgl == wgl))

/-- The other saved members of a workgroup's gang: frame and linear index. -/
def State.gangSaved (s : State) (grid : Nat) (l : Lpb) (wgl : Nat) : List (Nat × Nat) :=
  (s.frames.filter (fun p => p.2.wg.grid == grid && l.gangOf p.2.wg.wgl == l.gangOf wgl && p.2.wg.wgl != wgl)).map
    (fun p => (p.1, p.2.wg.wgl))

/-- Whether the gang rules let workgroup `wgl` of a grid go to a core, as a restore or a relaunch (13 R353; 01 R27): in the
cluster of the members that are on a core or have one reserved, on a core that none of them has; the first of a gang of which
none has a core as for a gang claim. That a relaunch is held to them as a restore is, is an inference from R27 (assumption log,
entry 65). -/
def State.gangPlace (s : State) (core ctx grid : Nat) (l : Lpb) (wgl : Nat) : Bool :=
  if l.gang ≤ 1 then true
  else if s.reservedFor grid wgl then false
  else
    match s.gangHeld grid l wgl with
    | c :: rest => clusterOf c == clusterOf core && !(c :: rest).contains core
    | [] =>
      let n := (s.gangSaved grid l wgl).length
      s.clusterUnreserved (clusterOf core) && decide ((s.gangCores ctx core n).length = n)

/-- Whether the gang rules let a saved workgroup be restored on a core (13 R353). -/
def State.gangAllows (s : State) (core : Nat) (f : Frame) : Bool :=
  s.gangPlace core f.wg.ctx f.wg.grid (s.lpbOf f.wg) f.wg.wgl

/-! ## What a core takes next (13 R354) -/

/-- A source of work for a core. -/
inductive Source where
  | member
  | restore (frame : Nat)
  | relaunch (grid wgl : Nat)
  | claim (grid : Nat)
  | gang (grid : Nat)
  deriving DecidableEq, Repr

/-- Whether a lane of a parked workgroup waits in TLWAIT.park with its condition unmet: neither marked met,
nor met by the value its timeline holds (06 R215). -/
def State.parkUnmet (s : State) (ctx : Nat) (l : Lane) : Bool :=
  match l.state with
  | .waiting (.tlwait a t _ true m) =>
    !m && !(match s.translateFe ctx a.toNat .read with
      | .ok d => decide (t.toNat ≤ s.readWord d)
      | _ => false)
  | _ => false

/-- Whether a frame's restore waits for the pager to free spillway entries (16 R417). -/
def State.restoreTrapped (s : State) (f : Nat) : Bool :=
  s.cores.any (fun p => (p.2.trap.item.toList ++ p.2.trapQ).any (fun t => t.who == .restore f))

/-- Whether a saved workgroup's restore is permitted (13 R364; 16 R406; 06 R211, R215). -/
def State.restorable (s : State) (f : Frame) : Bool :=
  f.stopped.isNone && !covered s.power.level (s.lpbOf f.wg).cls
    && (match f.parked with
      | none => true
      | some .shedPoint => !f.wg.gbar
      | some .timeline => f.wg.waves.all (fun w => w.lanes.all (fun l => !s.parkUnmet f.wg.ctx l)))

/-- The entry with the least order number. -/
def leastBy {α : Type} (key : α → Nat) : List α → Option α
  | [] => none
  | x :: rest =>
    match leastBy key rest with
    | some y => some (if key y < key x then y else x)
    | none => some x

/-- The place of a saved workgroup among the restores: the fck of its save, or of its restore becoming permitted; then the
tile, the tile's tck and the core of the save (13 R354). Saves of two tiles in one fck count as of one time: their tck
are not comparable (assumption log, entry 65). -/
def Frame.key (f : Frame) : Nat :=
  match f.since with
  | some (fck, tck) => ((fck * 64 + tileOf f.core) * 2 ^ 64 + tck % 2 ^ 64) * 1024 + f.core
  | none => 2 ^ 200

/-- A workgroup that parked in TLWAIT.park takes its place among the restores in the tck in which its restore becomes
permitted, and loses it while its restore is not (13 R354). -/
def State.notePermits (s : State) : State :=
  { s with frames := s.frames.map (fun p =>
      if p.2.parked = some .timeline then
        (p.1, { p.2 with since := if s.restorable p.2 then p.2.since.or (some (s.fck, s.tckOf p.2.core)) else none })
      else p) }

/-- The saved workgroup of a class that a core would restore: the earliest save among those permitted,
eligible, allowed by their gang, and fitting. -/
def State.restoreFor (s : State) (core cls : Nat) (only : Option Nat) : Option Source :=
  (leastBy (fun p => p.2.key) (s.frames.filter (fun p =>
    (s.lpbOf p.2.wg).cls == cls && only.all (fun g => g == p.2.wg.grid) && s.restorable p.2 && !s.restoreTrapped p.1
      && s.eligible p.2.wg.ctx core && s.gangAllows core p.2 && s.fitsFrame core p.2))).map (fun p => .restore p.1)

/-- The relaunch of a class that a core would take: the first queued among those that fit. -/
def State.relaunchFor (s : State) (core cls : Nat) (only : Option Nat) : Option Source :=
  let all := (s.grids.filter (fun g => g.lpb.cls == cls && only.all (fun x => x == g.id) && s.mayStart g
    && s.eligible g.ctx core && s.fits core g.lpb 1)).flatMap (fun g =>
      (g.relaunch.filter (fun r => s.gangPlace core g.ctx g.id g.lpb r.2)).map (fun r => (r.1, g.id, r.2)))
  (leastBy (fun p => p.1) all).map (fun p => .relaunch p.2.1 p.2.2)

/-- Whether a core may claim from a grid (13 R348, R352). -/
def State.mayClaim (s : State) (core : Nat) (g : Grid) : Bool :=
  decide (g.next < g.total) && s.mayStart g && s.eligible g.ctx core
    && s.fits core g.lpb g.lpb.unit
    && (decide (g.lpb.gang ≤ 1) || s.clusterUnreserved (clusterOf core)
          && decide ((s.gangCores g.ctx core (g.lpb.gang - 1)).length = g.lpb.gang - 1))

/-- The claim of a class that a core would send: of the grid accepted first. -/
def State.claimFor (s : State) (core cls : Nat) (only : Option Nat) : Option Source :=
  if (s.core core).claim.isSome then none
  else
    (leastBy (fun g => g.id) (s.grids.filter (fun g =>
      g.lpb.cls == cls && only.all (fun x => x == g.id) && s.mayClaim core g))).map
      (fun g => if g.lpb.gang ≤ 1 then .claim g.id else .gang g.id)

/-- The first source of R354, of a given grid where `only` names one. -/
def State.sourceAmong (s : State) (core : Nat) (only : Option Nat) : Option Source :=
  let c := s.core core
  let byClass := ([0, 1, 2, 3].filter (fun k => !covered s.power.level k)).findSome? (fun k =>
    (if c.reserve.isSome then none else s.restoreFor core k only).or
      ((s.relaunchFor core k only).or (if c.reserve.isSome then none else s.claimFor core k only)))
  match c.reserve with
  | some r =>
    let l := ((s.grid? r.grid).map (·.lpb)).getD .zero
    let ok := match r.frame.bind s.frame? with
      | some f => s.fitsFrame core f && s.restorable f && !r.frame.any s.restoreTrapped
      | none => s.fits core l 1
    if ok && only.all (fun g => g == r.grid) then some .member else byClass
  | none => byClass

/-- Whether a grid still has work for a core to take: unclaimed workgroups, relaunches or saved ones. -/
def State.hasWork (s : State) (grid : Nat) : Bool :=
  match s.grid? grid with
  | none => false
  | some g => decide (g.next < g.total) || !g.relaunch.isEmpty || s.frames.any (fun p => p.2.wg.grid == grid && s.restorable p.2)

/-- A core's promises but for those to a grid. -/
def State.unpromise (s : State) (core grid : Nat) : State :=
  s.updCore core (fun c => { c with promised := c.promised.filter (fun p => p.1 != grid) })

/-- What a core takes next: room that a drained workgroup freed goes to the grid it was drained for before any other source,
which take the rest of the core's room (13 R354, R360). -/
def State.nextSource (s : State) (core : Nat) : Option Source :=
  (((s.core core).promised.map (·.1)).findSome? (fun g =>
    if s.promiseStands core g then (s.unpromise core g).sourceAmong core (some g) else none)).or (s.sourceAmong core none)

/-! ## Starting a workgroup -/

/-- The registers of a wave at its start (01 R30, R39). -/
def waveAtStart (g : Grid) (wgl wave : Nat) : Wave :=
  { vregs := [], spilled := [], poison := [], spoison := [],
    sregs := g.lpb.argBase :: BitVec.ofNat 64 wgl :: List.replicate 62 0,
    preds := List.replicate 8 (BitVec.allOnes 32), flags := List.replicate 12 0,
    streams := List.replicate 8 ⟨[]⟩,
    lstk := g.lpb.lstkBase + BitVec.ofNat 64 (g.lpb.lstkStride * (wgl * g.lpb.waves + wave)),
    lanes := List.replicate 32 { Lane.reset with pc := g.entry }, group := none, pending := [], wc := [],
    fence := none, block := .none, done := 0, issued := 0, ended := false }

/-- The free-entry counts of R433, for each other member of a gang. -/
def gangCount (gang : Nat) : Nat :=
  match gang with
  | 2 => 16
  | 3 => 8
  | 4 => 5
  | _ => 0

/-- A workgroup at its start. -/
def workgroupAtStart (g : Grid) (wgl : Nat) (o : Occupant) (tck : Nat) (credits : List (Nat × Nat)) : Workgroup :=
  { grid := g.id, ctx := g.ctx, wgl := wgl, slot := o.slot, part := o.part, base := o.base,
    waves := (List.range g.lpb.waves).map (waveAtStart g wgl), job := if g.lpb.engine then some Job.reset else none,
    flags := 0, flagTck := none, scratch := [], poison := [], barriers := List.replicate 8 0, perf := 16,
    perfAt := none, progressAt := none, estimate := (g.lpb.estimate, tck), aged := 0, started := tck, shed := none, preempt := none, saveAt := 0, copies := [],
    ring := CopyRing.reset, queue := [], appended := 0, recvs := 0, credits := credits, gbar := false, rdvs := 0, watchdog := 0, seqc := 0 }

/-- Changes every member of a gang, resident or saved. -/
def State.updGang (s : State) (grid : Nat) (l : Lpb) (wgl : Nat) (f : Workgroup → Workgroup) : State :=
  let mine (w : Workgroup) : Bool := w.grid == grid && l.gangOf w.wgl == l.gangOf wgl
  { s with
    cores := s.cores.map (fun p => (p.1, { p.2 with
      wgs := p.2.wgs.map (fun q => (q.1, if mine q.2 then f q.2 else q.2)) })),
    frames := s.frames.map (fun p => (p.1, if mine p.2.wg then { p.2 with wg := f p.2.wg } else p.2)) }

/-- The entries of a sender that stand in a member's queue. -/
def Workgroup.entriesFrom (w : Workgroup) (sender : Nat) : Nat := (w.queue.filter (fun m => m.sender == sender)).length

/-- The counts a member holds as it starts: full for each target, less its entries that a started target
still holds (18 R433). -/
def State.startCredits (s : State) (g : Grid) (wgl : Nat) : List (Nat × Nat) :=
  let all := s.allWgs.map (·.2) ++ s.frames.map (fun p => p.2.wg)
  ((List.range g.lpb.gang).filter (fun k => k != wgl % g.lpb.gang)).map (fun k =>
    (k, match all.find? (fun w => w.grid == g.id && g.lpb.gangOf w.wgl == g.lpb.gangOf wgl && w.wgl % g.lpb.gang == k) with
      | some w => gangCount g.lpb.gang - w.entriesFrom (wgl % g.lpb.gang)
      | none => gangCount g.lpb.gang))

/-- Reads bytes as a device agent of a workgroup on a core does, without its L1's clean copies (14 R376, R382): the first
translation failure in address order, or the bytes; it waits for a gang member that has not started (01 R47). Windows read
their scratchpad; the register block reads 0, as an access wider than its registers (00 R509). -/
def State.readVia (s : State) (core : Nat) (g : Workgroup) (va n : Nat) : (Xlat × List Byte) × State :=
  let ctx := g.ctx
  let t := s.translateSpan core ctx va n .read
  match t.1 with
  | .ok _ =>
    if (List.range n).any (fun i => t.2.awaitsMember g (t.2.spanAddr core ctx va i .read)) then ((.wait, []), t.2) else
    let r := (List.range n).foldl (fun (a : List Byte × State) i =>
      let d := a.2.spanAddr core ctx va i .read
      match place d with
      | .window c off => (a.2.windowByte c off :: a.1, a.2)
      | .regs _ => (0 :: a.1, a.2.setFerr (a.2.funcOf ctx) 1)
      | _ => (a.2.readAround core d :: a.1, a.2)) ([], t.2)
    if (List.range n).any (fun i => r.2.poisonedByte (r.2.spanAddr core ctx va i .read)) then ((.poison, []), r.2)
    else
      ((t.1, r.1.reverse), r.2.noteStray ((List.range n).map (fun i => r.2.spanAddr core ctx va i .read)) (BitVec.ofNat 10 core))
  | x => ((x, []), t.2)

/-- The first page that a device agent's access to a span does not reach, as the first address in it. -/
def State.firstMiss (s : State) (core ctx va n : Nat) : Option Nat :=
  (pagesOf va n).find? (fun p => match (s.translate core ctx p .read).1 with
    | .ok _ => false
    | _ => true)

/-- Copies the sequencer image of a grid into a core's instruction store (11 R339; 07 R228, R229): whether it could be
read; where not, the address that fails and the pages of the image that the load needs. -/
def State.loadImage (s : State) (core : Nat) (g : Workgroup) (img : W64) : (Xlat × Nat × List Nat) × State :=
  let fails (s : State) (x : Xlat) (va n : Nat) : (Xlat × Nat × List Nat) × State :=
    ((x, (s.firstMiss core g.ctx va n).getD va, pagesOf va n), s)
  let h := s.readVia core g img.toNat 64
  match h.1.1 with
  | .ok _ =>
    let len := min (ofBytes ((h.1.2.drop 8).take 4)) 0xE000
    let b := h.2.readVia core g (img.toNat + 64) len
    match b.1.1 with
    | .ok _ => ((.ok 0, 0, []), b.2.updCore core (fun c => { c with store := cellsPut c.store 0 b.1.2 }))
    | x => fails b.2 x (img.toNat + 64) len
  | x => fails h.2 x img.toNat 64

/-- The overlay load of a workgroup's image; a fault of it is a trap of the job (16 R392), recorded as
intake's at store offset 0 (assumption log, entry 12). -/
def State.overlayLoad (s : State) (r : WgRef) : Bool × State :=
  match s.wg? r with
  | none => (false, s)
  | some w =>
    let l := s.lpbOf w
    let t := s.loadImage r.core w l.seqImg
    let va := BitVec.ofNat 64 t.1.2.1
    match t.1.1 with
    | .ok _ => (true, t.2)
    | .wait => (false, t.2)
    | .pageFault => (false, t.2.trapSeq r .intake .pageFault 1 0 0 va 0 t.1.2.2)
    | .protection => (false, t.2.trapSeq r .intake .protection 1 0 0 va 0 [])
    | .poison => (false, t.2.trapSeq r .intake .poison 1 0 0 va 0 [])

/-- Buffer entries with ACQ: INV of each in every core before the grid's first workgroup (11 R325). -/
def State.acquireBuffers (s : State) (g : Grid) : State :=
  if g.acquired then s
  else
    let s := (g.buffers.filter (fun b => b.acq && maintains b.scope)).foldl (fun s b =>
      let p := s.lineOfRange g.ctx b.base b.bytes
      s.coreIds.foldl (fun s c => s.invalidate c p) s) s
    s.updGrid g.id (fun g => { g with acquired := true })

/-- A grid one of whose workgroups is placed on a core (13 R357). -/
def Grid.placedOn (g : Grid) (core : Nat) : Grid :=
  { g with token := 64 * (3 - g.lpb.cls), waited := 0, cores := if g.cores.contains core then g.cores else core :: g.cores }

/-- A core after a workgroup of a grid has taken room on it: the promises to the grid are kept, and so are those that no longer
stand (13 R360). -/
def State.keepPromises (s : State) (core grid : Nat) : State :=
  s.updCore core (fun c => { c with promised := c.promised.filter (fun p => p.1 != grid && s.promiseStands core p.1) })

/-- A core whose instruction caches are empty: the code of a workgroup that starts or is restored there is read afresh
(assumption log, entry 7). -/
def ComputeCore.freshCode (c : ComputeCore) : ComputeCore := { c with icache := [] }

/-- Starts workgroup `wgl` of a grid on a core, where it fits beside the room held for a claim (13 R348, R350, R351): its scratchpad allocation reads
0 and full, T returns to its starting value, the overlay load begins. -/
def State.startWg (s : State) (core grid wgl : Nat) : State :=
  match s.grid? grid with
  | none => s
  | some g =>
    match placeOne ((s.unpromise core grid).heldOccupants core) g.lpb with
    | none => s
    | some o =>
      let s := s.acquireBuffers g
      let w := workgroupAtStart g wgl o (s.tckOf core) (if g.lpb.gang ≤ 1 then [] else s.startCredits g wgl)
      let s := if g.lpb.gang ≤ 1 then s
        else s.updGang grid g.lpb wgl (fun m => { m with
          credits := assocSet m.credits (wgl % g.lpb.gang) (gangCount g.lpb.gang) })
      let s := (s.setWg ⟨core, o.slot⟩ w).updGrid grid (fun g => g.placedOn core)
      let s := (s.keepPromises core grid).updCore core ComputeCore.freshCode
      if g.lpb.engine then (s.overlayLoad ⟨core, o.slot⟩).2 else s

/-! ## Completion (13 R367; 01 R52) -/

/-- Whether a workgroup has completed: its waves and its engine job have ended, and every copy it issued has
been performed (13 R367; 16 R415). -/
def Workgroup.complete (w : Workgroup) : Bool :=
  w.waves.all (·.ended) && w.job.all (·.ended) && w.copies.isEmpty

/-- Whether a grid has completed (13 R367; 25 R502). -/
def State.gridComplete (s : State) (g : Grid) : Bool :=
  decide (g.total ≤ g.next) && g.relaunch.isEmpty && s.allWgs.all (fun p => p.2.grid != g.id)
    && s.frames.all (fun p => p.2.wg.grid != g.id)
    && s.cores.all (fun p => p.2.claim.all (fun c => c.1 != g.id) && p.2.reserve.all (fun r => r.grid != g.id))
    && g.stolen.all (fun x => decide (x.2.2.2.length = x.2.2.1))

/-- Buffer entries with REL: WB of each in every core at the grid's completion, before its timeline write (11 R325). -/
def State.releaseBuffers (s : State) (g : Grid) : State :=
  (g.buffers.filter (fun b => b.rel && maintains b.scope)).foldl (fun s b =>
    let p := s.lineOfRange g.ctx b.base b.bytes
    s.coreIds.foldl (fun s c => s.writeBack c p) s) s

/-- A grid's completion, where it has completed (01 R52; 11 R325; 14 R381): the release, the buffers' REL,
the region table, the timeline. It waits while its timeline's walk meets a filling entry. A stolen range has no timeline
of its own (25 R502). -/
def State.tryCompleteGrid (s : State) (id : Nat) : State :=
  match s.grid? id with
  | none => s
  | some g =>
    if !s.gridComplete g then s
    else if g.home.isSome then s.removeGrid id
    else if s.timelineWaits g.ctx g.lpb.tlAddr then s
    else
      let s := (g.cores.foldl (fun s c => s.releaseCore c) s).releaseBuffers g
      let s := s.updContext g.ctx (fun c => { c with regions := c.regions.filter (fun r => r.grid != some id) })
      (s.feTimeline none g.ctx g.lpb.tlAddr false g.lpb.tlVal (.grid id)).removeGrid id

/-- Completes the grids that waited only for their timeline's walk (16 R404). -/
def State.settleGrids (s : State) : State := s.grids.foldl (fun s g => s.tryCompleteGrid g.id) s

/-- Whether an engine job has ended: its contexts have halted, every copy they issued and every ticket has
completed (07 R247). -/
def Job.finished (j : Job) (copies : List Copy) : Bool :=
  j.started && j.intake.halted && j.main.halted && j.outfall.halted && j.open_.isEmpty && j.nest.isNone
    && copies.all (fun c => match c.from_ with
      | .seq _ _ => false
      | .ring _ => true)

/-- A workgroup whose engine job ends where it has finished. -/
def Workgroup.endJob (w : Workgroup) : Workgroup :=
  { w with job := w.job.map (fun j => { j with ended := j.ended || j.finished w.copies }) }

/-- A workgroup's completion, where it has completed: its room frees, a drain's room is promised, a stolen
workgroup is reported (13 R360, R367; 25 R502). -/
def State.tryComplete (s : State) (r : WgRef) : State :=
  let s := s.updWg r Workgroup.endJob
  match s.wg? r with
  | none => s
  | some w =>
    if !w.complete then s
    else
      let room : Occupant := { s.occupant r.slot w with parts := (List.range w.waves.length).map (fun k => (w.part + k) % 6) }
      let s := (s.dropTraps r).dropWg r
      let s := if w.job.isSome then s.dropDemands r.core else s
      let s := match w.preempt with
        | some (.drain _ g) => s.updCore r.core (fun c => { c with promised := c.promised ++ [(g, room)] })
        | _ => s
      let s := s.updGrid w.grid (fun g => { g with completed := g.completed ++ [w.wgl] })
      let s := match (s.grid? w.grid).bind (·.home) with
        | some (m, g) => { s with pod := { s.pod with reports := s.pod.reports ++ [(m, g, w.wgl)] } }
        | none => s
      s.tryCompleteGrid w.grid

end Sys2Proof.Machine
end

