-- ==== Sys2Proof/Machine/Queues.lean ====
section
/-! DEFINITION. The engine queues: the scratchpad bytes that their words read and write (08 R261, R266, R278), the word that
starts next (R261), and what a wave's access to a word's bytes meets (R279). -/

namespace Sys2Proof.Machine

/-! ## Formats (02 R71, R72) -/

/-- The width of an element of a format. -/
def formatBits (fmt : Nat) : Nat := ((tcodeOf fmt).map tcodeBits).getD 0

/-- The bytes that `n` elements of a format take in plain layout (02 R59). -/
def rowBytes (fmt n : Nat) : Nat := (n * formatBits fmt + 7) / 8

/-! ## Words (08 R261, R266, R278) -/

/-- K, N and P of a matrix word. -/
def extK (w : MWord) : Nat := w.kx.toNat + 1

/-- The N extent. -/
def extN (w : MWord) : Nat := w.nx.toNat + 1

/-- The passes or rows. -/
def extP (w : MWord) : Nat := w.px.toNat + 1

/-- The queue that takes a word (07 R238). -/
def queueOf (opx : Nat) : EngineQueue := if opx = 3 ∨ opx = 4 then .drain else .matrix

/-- Whether an operation names a tile (08 R263). -/
def namesTile (opx : Nat) : Bool := 2 ≤ opx && opx ≤ 5

/-- The parts of the activation vector at an offset, head plane first (08 R266). -/
def vectorParts (w : MWord) (v : Nat) : List (Nat × Nat) :=
  (v, 128) :: (List.range (digitPlanes w.fmt.toNat)).map (fun t => (v + 128 + t * w.pstr.toNat, 32))

/-- The rows a word reads or writes in plain layout, as offset and length. -/
def plainRows (base stride rows n : Nat) : List (Nat × Nat) := (List.range rows).map (fun i => (base + i * stride, n))

/-- The fold words of the rows and columns that an MDRAIN converts, in the fold array at an offset (08 R272; 02 R82). -/
def foldRows (w : MWord) (b : Nat) : List (Nat × Nat) := plainRows b 256 (extP w) (4 * extN w)

/-- The scratchpad bytes a word reads; `fold` is the fold array that an MDRAIN takes fold words from (08 R261, R272). -/
def wordReads (opx : Nat) (w : MWord) (fold : Option Nat) : List (Nat × Nat) :=
  match opx with
  | 1 => plainRows w.a.toNat w.astr.toNat (extK w) (rowBytes w.fmt.toNat (extN w))
      ++ (if w.fmt = 0x13 then [(w.b.toNat, 32)] else [])
  | 2 => (List.range (extP w)).flatMap (fun r => vectorParts w (w.a.toNat + r * w.astr.toNat))
  | 3 => (fold.map (foldRows w)).getD []
  | 4 => [(w.b.toNat, 16384)]
  | _ => []

/-- The scratchpad bytes a word writes. -/
def wordWrites (opx : Nat) (w : MWord) (fold : Option Nat) : List (Nat × Nat) :=
  match opx with
  | 3 => plainRows w.b.toNat w.astr.toNat (extP w) (rowBytes w.dfmt.toNat (extN w)) ++ (fold.map (foldRows w)).getD []
  | 4 => [(w.b.toNat, 16384)]
  | _ => []

/-- Whether two lists of byte ranges overlap. -/
def byteRangesMeet (a b : List (Nat × Nat)) : Bool := a.any (fun x => b.any (fun y => overlap x.1 x.2 y.1 y.2))

/-- An accumulator tile of a core. -/
def State.accTile (s : State) (core d : Nat) : Tile := (assoc (s.core core).tiles d).getD .reset

/-- Changes an accumulator tile. -/
def State.updAccTile (s : State) (core d : Nat) (f : Tile → Tile) : State :=
  s.updCore core (fun c => { c with tiles := assocSet c.tiles d (f ((assoc c.tiles d).getD .reset)) })

/-- The fold array whose words an MDRAIN of a tile takes: that of an integer tile (08 R272). -/
def Tile.drainFold (t : Tile) : Option Nat := if t.kind = .int then t.fold else none

/-- What a word of a tile leaves of its kind and its fold array once it has acted (08 R263, R271, R273, R274). -/
def QueueWord.leaves (q : QueueWord) (t : TileKind × Option Nat) : TileKind × Option Nat :=
  match q.opx with
  | 2 => (if t.1 ≠ .empty then t.1 else if intActivation q.w.fmt.toNat then .int else .fp32, t.2)
  | 4 => (t.1, t.2.or (some q.w.b.toNat))
  | 5 => (.empty, none)
  | _ => t

/-- Whether a word was handed over before another. -/
def QueueWord.before (x y : QueueWord) : Bool := decide (x.ticket < y.ticket) || (x.ticket == y.ticket && decide (x.ord < y.ord))

/-- Inserts a word among words in the order they were handed over in. -/
def insertWord (q : QueueWord) (l : List QueueWord) : List QueueWord :=
  l.takeWhile (fun x => x.before q) ++ q :: l.dropWhile (fun x => x.before q)

/-! ## A queue -/

/-- The words of a queue that have not completed. -/
def EngineQ.open_ (q : EngineQ) : List QueueWord := q.finishing.map (·.1) ++ (q.loader.map (·.q)).toList ++ q.words

/-- The words that a queue holds: those that no unit has dequeued (07 R238; 08 R261). -/
def EngineQ.held (q : EngineQ) : Nat :=
  (if q.phase.started then q.words.length - 1 else q.words.length)
    + (if q.loader.any (fun l => !l.phase.started) then 1 else 0)

/-- The word of a queue that starts next, and whether the weight loader runs it: the one after the last that has started,
where its unit runs no other (08 R261). Behind an MSTEP that has stopped for spillway room no word starts (R271). -/
def EngineQ.next? (q : EngineQ) : Option (QueueWord × Bool) :=
  let load (w : QueueWord) : Option (QueueWord × Bool) := if w.opx = 1 then (if q.loader.isNone then some (w, true) else none) else some (w, false)
  match q.loader.filter (fun l => !l.phase.started), q.phase with
  | _, .stopped => none
  | some l, _ => some (l.q, true)
  | none, p =>
    if !p.started then q.words.head?.bind load
    else
      match p, q.words[1]? with
      | .finished, some w => load w
      | .running, some w | .stalled _, some w => if w.opx = 1 then load w else none
      | _, _ => none

/-- Brings the word that starts next to its unit: the loader's slot, or the head behind which a finished word completes. -/
def EngineQ.advance (q : EngineQ) : EngineQ :=
  match q.next? with
  | none => q
  | some (w, true) =>
    if q.loader.isSome then q
    else { q with loader := some { q := w, phase := .waiting, begun := false, latch := none },
                  words := if q.phase.started then q.words.eraseIdx 1 else q.words.drop 1 }
  | some (_, false) =>
    if !q.phase.started then q
    else { q with finishing := q.finishing ++ (q.words.take 1).map (fun w => (w, q.sticky)), words := q.words.drop 1,
                  phase := .waiting, begun := false, pass := 0, sticky := 0 }

/-- A queue whose loader's word has not started: it has had no effect, and it starts anew, behind the words that came before
it (08 R265, R271; 16 R400). -/
def EngineQ.unload (q : EngineQ) : EngineQ :=
  let q : EngineQ := { q with
    started := q.counted
    loader := q.loader.map (fun l => { l with phase := HeadPhase.waiting, begun := false, latch := none }) }
  match q.loader with
  | some l => if q.words.head?.any (fun h => h.before l.q) then { q with loader := none, words := insertWord l.q q.words } else q
  | none => q

/-- How far the word that starts next has come. -/
def EngineQ.nextPhase (q : EngineQ) : HeadPhase :=
  match q.next? with
  | some (_, true) => ((q.loader.filter (fun l => !l.phase.started)).map (·.phase)).getD .waiting
  | _ => if q.phase.started then .waiting else q.phase

/-! ## Waves and the words of the queues (08 R279) -/

/-- The words of a job that have not completed. -/
def Job.openWords (j : Job) : List QueueWord := j.matrixQ.open_ ++ j.drainQ.open_

/-- The fold array that a word takes fold words from: an MDRAIN finds its tile as the words handed over before it leave it, those
that have not completed among them (08 R272, R278). -/
def State.foldOf (s : State) (core : Nat) (j : Job) (q : QueueWord) : Option Nat :=
  if q.opx ≠ 3 then none
  else
    let t := s.accTile core q.w.d.toNat
    let x := ((j.openWords.filter (fun y => y.before q && namesTile y.opx && y.w.d == q.w.d)).foldr insertWord []).foldl
      (fun t y => y.leaves t) (t.kind, t.fold)
    if x.1 = .int then x.2 else none

/-- The engine job of a core, with its place. -/
def State.engineJob? (s : State) (core : Nat) : Option (WgRef × Job) :=
  (s.jobSlot core).bind (fun slot => (s.job? ⟨core, slot⟩).map (fun j => (⟨core, slot⟩, j)))

/-- Whether byte ranges touch an empty line (07 R241). -/
def Workgroup.emptyIn (w : Workgroup) (l : List (Nat × Nat)) : Bool :=
  l.any (fun p => (linesOf p.1 p.2).any w.lineEmpty)

/-- Whether a word of a resident workgroup's job that has not completed writes a byte of its scratchpad: a wave that loads
it meets an unspecified value (08 R279). -/
def State.unsettled (s : State) (r : WgRef) (off : Nat) : Bool :=
  match s.job? r with
  | none => false
  | some j => j.openWords.any (fun q => byteRangesMeet (wordWrites q.opx q.w (s.foldOf r.core j q)) [(off, 1)])

/-- Notes bytes that a wave stores to in the words of a queue that have yet to read them. -/
def EngineQ.race (q : EngineQ) (reads : QueueWord → List (Nat × Nat)) (l : List (Nat × Nat)) : EngineQ :=
  let f (w : QueueWord) : QueueWord :=
    let hit := l.filter (fun p => byteRangesMeet (reads w) [p])
    if hit.isEmpty then w else { w with raced := w.raced ++ hit }
  { q with words := q.words.map f, loader := q.loader.map (fun x => { x with q := f x.q }) }

/-- A wave has stored to byte ranges of a workgroup's scratchpad: the words that have yet to read them read unspecified
values there (08 R279). -/
def State.raceStore (s : State) (r : WgRef) (l : List (Nat × Nat)) : State :=
  match s.job? r with
  | none => s
  | some j =>
    let reads (q : QueueWord) : List (Nat × Nat) := wordReads q.opx q.w (s.foldOf r.core j q)
    if j.openWords.any (fun q => byteRangesMeet (reads q) l) then
      s.updJob r (fun j => { j with matrixQ := j.matrixQ.race reads l, drainQ := j.drainQ.race reads l })
    else s

/-- Scratchpad bytes as a wave loads them, with fresh unspecified values for those that a word writes (08 R279). -/
def State.loadScratch (s : State) (r : WgRef) (g : Workgroup) (off n : Nat) : List Byte × State :=
  (List.range n).foldr (fun i a =>
    if s.unsettled r (off + i) then let f := a.2.free; (f.1.setWidth 8 :: a.1, f.2)
    else (cellAt g.scratch (off + i) :: a.1, a.2)) ([], s)

/-- The values that the lanes of a mask load from scratchpad, at an offset each. -/
def State.loadLanes (s : State) (r : WgRef) (g : Workgroup) (mask : Lanes) (off : Nat → Nat) (size : Nat) : List Nat × State :=
  (List.range 32).foldr (fun i a =>
    if mask.getLsbD i then let x := a.2.loadScratch r g (off i) size; (ofBytes x.1 :: a.1, x.2)
    else (0 :: a.1, a.2)) ([], s)

/-- A byte that a wave loads through a scratchpad window (01 R47; 08 R279). -/
def State.loadWindow (s : State) (core off : Nat) : Byte × State :=
  match s.allocationAt core off with
  | some (r, o) => if s.unsettled r o then let f := s.free; (f.1.setWidth 8, f.2) else (s.windowByte core off, s)
  | none => (0, s)

/-- A byte that a wave stores through a scratchpad window. -/
def State.storeWindow (s : State) (core off : Nat) (b : Byte) : State :=
  match s.allocationAt core off with
  | some (r, o) => (s.writeWindow core off b).raceStore r [(o, 1)]
  | none => s

end Sys2Proof.Machine
end

