-- ==== Sys2Proof/Machine/Sched.lean ====
section
/-! DEFINITION. The scheduler's events: claims, placement, priority tokens, pre-emption, saves, restores and
relaunches, shed marks and the watchdog (13 R347-R367; 16 R393-R402, R415-R419). -/

namespace Sys2Proof.Machine

/-! ## Claims and placement -/

/-- CLAIM (13 R347, R348): the range the grid's turnout counter returns is on its way to the core. -/
def execEvClaim (core grid : Nat) (s : State) : Res :=
  match s.nextSource core, s.grid? grid with
  | some (.claim g), some x =>
    if g = grid then
      let n := min x.lpb.claim (x.total - x.next)
      .next ((s.updGrid grid (fun g => { g with next := g.next + n })).updCore core
        (fun c => { c with claim := some (grid, x.next, n), gang := [] }))
    else .next s
  | _, _ => .next s

/-- Puts a gang reservation on each of a list of cores, for the gang indices from `first` on (13 R352). -/
def State.reserveCores (s : State) (grid : Nat) : List (Nat × Nat × Option Nat) → State
  | [] => s
  | (core, wgl, frame) :: rest =>
    (s.updCore core (fun c => { c with reserve := some ⟨grid, wgl, frame⟩ })).reserveCores grid rest

/-- GANG_CLAIM (13 R352): one gang is on its way to this core, with the eligible cores of the cluster that will hold its
other members. -/
def execEvGangClaim (core grid : Nat) (s : State) : Res :=
  match s.nextSource core, s.grid? grid with
  | some (.gang g), some x =>
    if g = grid then
      let others := s.gangCores x.ctx core (x.lpb.gang - 1)
      .next ((s.updGrid grid (fun g => { g with next := g.next + x.lpb.gang })).updCore core
        (fun c => { c with claim := some (grid, x.next, 1), gang := others }))
    else .next s
  | _, _ => .next s

/-- PLACEMENT (13 R348, R350, R352): the range of a claim starts on its core, in ascending linear index; of a gang the
member of index 0 starts, and the others are then reserved on their cores. -/
def execEvPlacement (core : Nat) (s : State) : Res :=
  match (s.core core).claim with
  | none => .next s
  | some (grid, start, n) =>
    let others := (s.core core).gang
    let s := s.updCore core (fun c => { c with claim := none, gang := [] })
    .next (((List.range n).foldl (fun s i => s.startWg core grid (start + i)) s).reserveCores grid
      (others.zipIdx.map (fun p => (p.1, start + 1 + p.2, none))))

/-! ## Restores (13 R364; 16 R402, R417; 06 R221; 12 R343) -/

/-- A lane as it is restored: one that waited in SLEEP is live (04 R154), and one in TLWAIT tests its condition afresh
(06 R221), but for the TLWAIT.park that a parked workgroup's restore waited for (06 R215). -/
def Lane.restored (parked : Bool) (l : Lane) : Lane :=
  match l.state with
  | .waiting (.sleep _) => { l with state := .live }
  | .waiting (.tlwait a t c p m) => { l with state := .waiting (.tlwait a t c p (m && p && parked)) }
  | _ => l

/-- A wave as it is restored: a word that a fault held is reissued. -/
def Wave.restored (parked : Bool) (w : Wave) : Wave :=
  { w with lanes := w.lanes.map (Lane.restored parked), block := .none, issued := 0 }

/-- A sequencer context as it is restored: a CPY that waits for a slot arrives anew. -/
def SeqState.restored (x : SeqState) : SeqState := { x with trapped := false, issued := 0, copySince := none }

/-- A copy ring as it is restored at a tck: the entries not taken arrive then, in their order (16 R402; assumption log,
entry 65). -/
def CopyRing.restored (q : CopyRing) (tck : Nat) : CopyRing :=
  { q with views := q.views.map (fun v => { v with since := tck }) }

/-- An engine queue as it is restored: the MSTEP that a save stopped counts as started in this residence (16 R400). -/
def EngineQ.restored (q : EngineQ) : EngineQ := { q with trapped := false, started := if q.begun then 1 else 0 }

/-- An engine job as it is restored. -/
def Job.restored (j : Job) : Job :=
  { j with intake := j.intake.restored, main := j.main.restored, outfall := j.outfall.restored,
           matrixQ := j.matrixQ.restored, drainQ := j.drainQ.restored }

/-- Gives the copies that a save stopped copy slots of a core again (18 R435). -/
def State.reslot (s : State) (core : Nat) (cs : List Copy) : List Copy :=
  (cs.foldl (fun (a : List Copy × List Nat) c =>
    if c.stopped && !c.held then
      match s.freeCopySlot core a.2 with
      | some n => (a.1 ++ [{ c with stopped := false, core := core, slot := n }], n :: a.2)
      | none => (a.1 ++ [c], a.2)
    else (a.1 ++ [c], a.2)) ([], [])).1

/-- The tags whose spillway entries on a core leave too few free for a frame's (16 R417). -/
def State.entriesInWay (s : State) (core : Nat) (f : Frame) : List OwnerTag :=
  let l := (s.core core).spw.map (·.owner)
  if l.length + f.entries.length ≤ 4096 then [] else l.eraseDups

/-- A restore that finds too few free spillway entries traps ACC_OWNER against the tags that hold them; the pager frees
them, and the restore is tried again (16 R417). TVAL and TWORD, which the spec does not state here, are free values. -/
def State.trapRestore (s : State) (core fid ctx : Nat) (tags : List OwnerTag) : State :=
  let v := s.free
  let w := v.2.free
  w.2.raiseTrap core
    { record := { TrapRecord.reset with kind := some .accOwner, src := .scheduler, stamp := s.tckOf core }, who := .restore fid,
      ctx := ctx, tval := v.1, word := w.1, needs := tags.map tagNeed }

/-- Moves the tiles that a saved job left on another core into its frame (16 R417). -/
def State.collectTiles (s : State) (core : Nat) (f : Frame) : State :=
  match f.tileCore with
  | some c => if c = core then s else s.saveTiles c ⟨f.wg.ctx, f.wg.slot⟩
  | none => s

/-- Brings a saved job's tiles to the core it is restored on (16 R417): retagged where they stand, or loaded from the
frame, after the tiles of other tags that have their numbers are saved. -/
def State.bringTiles (s : State) (core : Nat) (f : Frame) (slot : Nat) : State :=
  let old : OwnerTag := ⟨f.wg.ctx, f.wg.slot⟩
  let new : OwnerTag := ⟨f.wg.ctx, slot⟩
  let inWay := ((s.core core).tiles.filter (fun p => f.tiles.any (fun q => q.1 == p.1))).filterMap (fun p => p.2.owner)
  let s : State := inWay.foldl (fun s t => s.saveTiles core t) s
  s.updCore core (fun c => { c with
    tiles := f.tiles.foldl (fun ts p => assocSet ts p.1 { p.2 with owner := some new })
      (c.tiles.map (fun p => if f.tileCore = some core ∧ p.2.owner = some old then (p.1, { p.2 with owner := some new }) else p)),
    spw := c.spw.map (fun e => if f.tileCore = some core ∧ e.owner = old then { e with owner := new } else e)
      ++ f.entries.map (fun e => { e with owner := new }) })

/-- Writes TAKEN and DONE of a workgroup's copy ring as the engine holds them (16 R402; 07 R260). -/
def Workgroup.writeRingCounts (w : Workgroup) : Workgroup :=
  if w.ring.tail = 0 then w
  else (w.writeScratch 0x10 (toBytes 8 w.ring.taken)).writeScratch 0x18 (toBytes 8 w.ring.done)

/-- The first copy of a list whose held fault stops the workgroup, with the copies after it: a restore after the verdict
RESUME resumes it (18 R439, R440). -/
def heldFault : List Copy → Option (TrapItem × List Copy)
  | [] => none
  | c :: rest =>
    match c.held, c.fault with
    | true, some t => some (t, { c.ended with detached := false } :: rest)
    | _, _ => (heldFault rest).map (fun p => (p.1, c :: p.2))

/-- A fault of a detached copy that the frame held stops the workgroup before it issues (18 R440). -/
def State.stopForHeldFault (s : State) (r : WgRef) : State :=
  match (s.wg? r).bind (fun w => heldFault w.copies) with
  | some (t, cs) => (s.updWg r (fun w => { w with copies := cs })).beginSave r t.record true none
  | none => s

/-- Spills the registers of a core's partitions that find no physical register after a restore (01 R35). -/
def State.fitPhys (s : State) (core : Nat) : State :=
  (List.range 6).foldl (fun s p => (List.range (s.physInUse core p - 768)).foldl (fun s _ => s.spillOne core p) s) s

/-- A workgroup as it stands on the core it is restored on, at a tck. -/
def Frame.restored (f : Frame) (o : Occupant) (tck : Nat) (copies : List Copy) : Workgroup :=
  { f.wg with
    slot := o.slot, part := o.part, base := o.base, waves := f.wg.waves.map (Wave.restored (f.parked == some .timeline)),
    job := f.wg.job.map Job.restored, ring := f.wg.ring.restored tck, flags := f.wg.flags ||| f.lateFlags, flagTck := none, perfAt := none,
    progressAt := none, estimate := (f.wg.estimate.1, tck), copies := copies,
    started := tck, watchdog := 0, seqc := 0, shed := none, preempt := none }

/-- The restore of a poisoned frame traps POISON (16 R418): the workgroup is killed, or, under STOPALL, enters the fault
list in its frame (16 R393). -/
def State.poisonedFrame (s : State) (core fid : Nat) (f : Frame) : State :=
  if (s.context f.wg.ctx).stopAll then
    s.stopFrame fid { TrapRecord.reset with
      kind := some .poison, src := .scheduler, seqs := f.record.seqs, stamp := s.tckOf core }
  else (s.discardFrame fid).retryOrError f.wg.grid f.wg.wgl

/-- Puts a saved workgroup, whose tiles and spillway entries have room, on its place on a core, with the acquire of
R343. -/
def State.resume (s : State) (core fid : Nat) (f : Frame) (o : Occupant) : State :=
  let s : State := if f.wg.job.isSome then (s.bringTiles core f o.slot).updCore core (fun c =>
      { c with store := f.store ++ c.store.filter (fun x => decide (0xE000 ≤ x.1)) }) else s
  let copies := s.reslot core (f.wg.copies.map (fun c => { c with detached := c.held }))
  let s : State := { s with frames := assocDrop s.frames fid }
  let s := ((s.setWg ⟨core, o.slot⟩ (f.restored o (s.tckOf core) copies).writeRingCounts).acquireCore core).updCore core
    ComputeCore.freshCode
  let s := (s.fitPhys core).updGrid f.wg.grid (fun g => g.placedOn core)
  let s := s.keepPromises core f.wg.grid
  (s.stopForHeldFault ⟨core, o.slot⟩).tryComplete ⟨core, o.slot⟩

/-- Restores a saved workgroup on a core where it fits; its job's tiles and spillway entries come with it, once there is
room for the entries (16 R417). -/
def State.restoreWg (s : State) (core fid : Nat) : State :=
  match s.frame? fid with
  | none => s
  | some f =>
    if f.poisoned then s.poisonedFrame core fid f
    else
      match placeWaves ((s.unpromise core f.wg.grid).heldOccupants core) (s.lpbOf f.wg) f.liveWaves with
      | none => s
      | some o =>
        let s := if f.wg.job.isSome then s.collectTiles core f else s
        match s.frame? fid with
        | none => s
        | some f =>
          let tags := if f.wg.job.isSome then s.entriesInWay core f else []
          if tags.isEmpty then s.resume core fid f o else s.trapRestore core fid f.wg.ctx tags

/-- The cores that the first member of a gang to come back to a core reserves, each with the saved member it is for
(13 R353). -/
def State.gangReservations (s : State) (core ctx grid : Nat) (l : Lpb) (wgl : Nat) : List (Nat × Nat × Option Nat) :=
  if 1 < l.gang ∧ (s.gangHeld grid l wgl).isEmpty = true then
    let rest := s.gangSaved grid l wgl
    ((s.gangCores ctx core rest.length).zip rest).map (fun p => (p.1, p.2.2, some p.2.1))
  else []

/-- RESTORE (13 R354, R364): the saved workgroup that is the core's next source. The first member of a gang
none of whose members is on a core reserves cores for the other saved ones (R353). -/
def execEvRestore (core frame : Nat) (s : State) : Res :=
  match s.nextSource core, s.frame? frame with
  | some (.restore f), some x =>
    if f = frame then
      let t := s.restoreWg core frame
      .next (if (t.frame? frame).isSome then t
        else t.reserveCores x.wg.grid (s.gangReservations core x.wg.ctx x.wg.grid (s.lpbOf x.wg) x.wg.wgl))
    else .next s
  | _, _ => .next s

/-- RESERVED_MEMBER_PLACEMENT (13 R353): the reserved member of a gang starts, or is restored; the reservation stands
while its restore waits for spillway entries. -/
def execEvReservedMemberPlacement (core : Nat) (s : State) : Res :=
  match s.nextSource core, (s.core core).reserve with
  | some .member, some r =>
    let free (s : State) : State := s.updCore core (fun c => { c with reserve := none })
    match r.frame with
    | some f =>
      let t := s.restoreWg core f
      .next (if t.restoreTrapped f then t else free t)
    | none => .next ((free s).startWg core r.grid r.wgl)
  | _, _ => .next s

/-- RELAUNCH (13 R366): the workgroup starts from its kernel's entry with the same index; of a gang it reserves cores as a
restore does (assumption log, entry 65). -/
def execEvRelaunch (core grid : Nat) (s : State) : Res :=
  match s.nextSource core, s.grid? grid with
  | some (.relaunch g wgl), some x =>
    if g = grid then
      .next (((s.updGrid grid (fun g => { g with relaunch := g.relaunch.filter (fun p => p.2 != wgl) })).startWg core grid
        wgl).reserveCores grid (s.gangReservations core x.ctx grid x.lpb wgl))
    else .next s
  | _, _ => .next s

/-! ## Pre-emption (13 R357-R361) -/

/-- Whether a core has copy slots for a frame's stopped copies, apart from those of the workgroups in the slots listed. -/
def State.slotsWithout (s : State) (core : Nat) (without : List Nat) (f : Frame) : Bool :=
  let gone := (s.core core).wgs.flatMap (fun p => if without.contains p.1 then p.2.copies.filter (fun c => c.core == core && !c.stopped) else [])
  decide ((f.wg.copies.filter (·.stopped)).length + (s.copySlotsUsed core).length ≤ 128 + gone.length)

/-- Whether the next unit of a grid fits on a core, apart from the workgroups in the slots listed: the member the core
holds a reservation for, else a saved workgroup whose restore is permitted, else a relaunch, else a claim's unit
(13 R354, R357, R358). -/
def State.unitFits (s : State) (core : Nat) (g : Grid) (without : List Nat) : Bool :=
  let occ := ((s.unpromise core g.id).heldOccupants core).filter (fun o => !without.contains o.slot)
  let fit (n : Nat) : Bool := (placeMany g.lpb n occ).isSome
  let fitSaved (f : Frame) : Bool := (placeWaves occ g.lpb f.liveWaves).isSome && s.slotsWithout core without f
  let saved := s.frames.filter (fun p => p.2.wg.grid == g.id && s.restorable p.2)
  match (s.core core).reserve.filter (fun r => r.grid == g.id) with
  | some r => ((r.frame.bind s.frame?).map fitSaved).getD (fit 1)
  | none =>
    if !saved.isEmpty then saved.any (fun p => fitSaved p.2)
    else if !g.relaunch.isEmpty then fit 1
    else fit g.lpb.unit

/-- Whether a grid is waiting: it has work, and no eligible core has room for its next unit (13 R357). For a
gang whose members are reserved, a reserved core without room makes it wait (R358). -/
def State.waiting (s : State) (g : Grid) : Bool :=
  let reserved := s.cores.any (fun p => p.2.reserve.any (fun r => r.grid == g.id) && !s.unitFits p.1 g [])
  reserved || (s.hasWork g.id && (List.range 768).all (fun c => !(s.eligible g.ctx c && s.unitFits c g [])))

/-- TOKEN_GROWTH (13 R357): T grows by 1 for each 512 fck in which the grid has been waiting. -/
def execEvTokenGrowth (grid : Nat) (s : State) : Res :=
  match s.grid? grid with
  | none => .next s
  | some g =>
    if 512 ≤ g.waited ∧ g.token < 255 then
      .next (s.updGrid grid (fun g => { g with token := g.token + 1, waited := g.waited - 512 }))
    else .next s

/-- The tck of a workgroup's residences since its estimate was set (13 R359; assumption log, entry 65). -/
def Workgroup.estimateAge (w : Workgroup) (tck : Nat) : Nat := w.aged + (tck - w.estimate.2)

/-- The remaining estimate of a workgroup at a tck; none while unknown (13 R359). -/
def Workgroup.remaining (w : Workgroup) (tck : Nat) : Option Nat :=
  if w.estimate.1 = 0 then none else some (max 1 (w.estimate.1 - w.estimateAge tck))

/-- Whether waves of a workgroup have not ended and all their lanes have exited: the exit wins over a pre-emption
(13 R361). -/
def Workgroup.allExited (w : Workgroup) : Bool :=
  w.waves.any (fun v => !v.ended) && w.waves.all (fun v => v.ended || v.lanes.all (fun l => l.state == .exited))

/-- Whether a workgroup may be a victim for a class (13 R358). -/
def State.victimFor (s : State) (cls : Nat) (w : Workgroup) : Bool :=
  decide (cls < (s.lpbOf w).cls) && w.preempt.isNone && !(s.bindOf w.ctx).noVictim

/-- Whether victim `a` ranks before `b`, each at the tck of its own tile: higher class, then larger remaining estimate, unknown
largest (13 R358; 01 R26). -/
def State.ranksBefore (s : State) (ta : Nat) (a : Workgroup) (tb : Nat) (b : Workgroup) : Bool :=
  let ca := (s.lpbOf a).cls
  let cb := (s.lpbOf b).cls
  decide (cb < ca) || (ca == cb && (match a.remaining ta, b.remaining tb with
    | none, some _ => true
    | some x, some y => decide (y < x)
    | _, _ => false))

/-- Inserts a victim behind those that rank before it or with it. -/
def State.rankInsert (s : State) (tck : Nat) (x : Nat × Workgroup) : List (Nat × Workgroup) → List (Nat × Workgroup)
  | [] => [x]
  | y :: rest => if s.ranksBefore tck x.2 tck y.2 then x :: y :: rest else y :: s.rankInsert tck x rest

/-- The victims on a core in their ranking. Workgroups that rank equal stand in an order the spec leaves
open: it is a free value (assumption log, entry 2). -/
def State.victims (s : State) (core cls rot : Nat) : List (Nat × Workgroup) :=
  let l := (s.core core).wgs.filter (fun p => s.victimFor cls p.2)
  let k := rot % (l.length + 1)
  (l.drop k ++ l.take k).foldl (fun acc x => s.rankInsert (s.tckOf core) x acc) []

/-- The core whose best victim ranks first; the higher core index among equals (13 R358). -/
def State.victimCore (s : State) (g : Grid) (rot : Nat) : Option Nat :=
  let cands := (s.coreIds.filter (fun c =>
    s.eligible g.ctx c && (!(s.cores.any (fun p => p.2.reserve.any (fun r => r.grid == g.id)))
      || (s.core c).reserve.any (fun r => r.grid == g.id)))).filterMap (fun c =>
    ((s.victims c g.lpb.cls rot).head?).map (fun v => (c, v.2)))
  (cands.foldl (fun best x =>
    match best with
    | none => some x
    | some b =>
      if s.ranksBefore (s.tckOf b.1) b.2 (s.tckOf x.1) x.2 then some b
      else if s.ranksBefore (s.tckOf x.1) x.2 (s.tckOf b.1) b.2 then some x
      else if b.1 < x.1 then some x else some b) (none : Option (Nat × Workgroup))).map (·.1)

/-- The shortest prefix of the victims without which a unit fits; all of them where none is enough. -/
def State.takeVictims (s : State) (core : Nat) (g : Grid) : List Nat → List (Nat × Workgroup) → List Nat
  | taken, [] => taken
  | taken, v :: rest => if s.unitFits core g taken then taken else s.takeVictims core g (v.1 :: taken) rest

/-- Parks a resident workgroup: a save without a trap behind it (06 R210, R211, R215). -/
def State.parkWg (s : State) (r : WgRef) (p : Park) : State := s.beginSave r TrapRecord.reset false (some p)

/-- Whether a barrier's phase completes: every wave that has not ended has arrived (06 R208). -/
def Workgroup.phaseDue (g : Workgroup) (n : Nat) : Bool :=
  decide (n < 8) && g.waves.any (fun v => !v.ended) && g.everyLane (fun l => l.arrivedIn n ((g.barriers[n]?).getD 0))

/-- Whether the completion of a barrier's phase parks the workgroup (06 R210). -/
def State.phaseParks (s : State) (g : Workgroup) (n : Nat) : Bool :=
  covered s.power.level (s.lpbOf g).cls && g.someWait (fun x => x == .bar n ((g.barriers[n]?).getD 0))

/-- A barrier's phase completes (06 R208, R210): the waves' writes are released, the waiting lanes go on, and a covered
workgroup whose lanes waited in BAR parks. -/
def State.completePhase (s : State) (r : WgRef) (n : Nat) : State :=
  match s.wg? r with
  | none => s
  | some g =>
    let phase := (g.barriers[n]?).getD 0
    let t := (s.drainWg r).updWg r (fun g =>
      { g.release (fun x => x == .bar n phase || x == .waitb n phase) with barriers := setAt g.barriers n (phase + 1) })
    (if s.phaseParks g n then t.parkWg r .shedPoint else t).noteShedPoint r.core

/-- Whether a workgroup parks in TLWAIT.park (06 R215): every lane that has not exited waits, one of them in it; one chosen
for a drain may park too (13 R362). -/
def Workgroup.timelineParkDue (g : Workgroup) : Bool :=
  (match g.preempt with
    | none | some (.drain _ _) => true
    | _ => false)
    && g.everyLane (fun l => match l.state with
      | .waiting _ => true
      | _ => false)
    && g.someWait (fun x => match x with
      | .tlwait _ _ _ park _ => park
      | _ => false)

/-- Takes the park that is due to a workgroup in this tck, if any: it stands before a pre-emption that takes effect in it
(13 R363). -/
def State.takePark (s : State) (r : WgRef) : State :=
  match s.wg? r with
  | none => s
  | some g =>
    match (List.range 8).find? (fun n => g.phaseDue n && s.phaseParks g n) with
    | some n => s.completePhase r n
    | none => if g.timelineParkDue then s.parkWg r .timeline else s

/-- Kill or checkpoint of a victim (13 R359, R360), void where the exit wins (R361) and satisfied by a park of the same
tck (R363). -/
def State.killOrCheckpoint (s : State) (r : WgRef) : State :=
  let s := (s.updWg r (fun w => { w with preempt := none })).takePark r
  match s.wg? r with
  | none => s
  | some w =>
    if w.saving || w.allExited then s
    else if (s.lpbOf w).idem && decide (s.tckOf r.core - w.started < 8192) then s.killRelaunch r
    else s.beginSave r { TrapRecord.reset with src := .scheduler } false none

/-- The choice of R359 for one victim. -/
def State.chooseFor (s : State) (g : Grid) (r : WgRef) : State :=
  match s.wg? r with
  | none => s
  | some w =>
    let window := (256 - g.token) * 64
    match w.remaining (s.tckOf r.core) with
    | some n =>
      if n ≤ window then s.updWg r (fun w => { w with preempt := some (.drain (s.tckOf r.core + window) g.id) })
      else s.killOrCheckpoint r
    | none => s.killOrCheckpoint r

/-- PREEMPTION_DECISION (13 R358, R359): a waiting grid with at least 192 tokens takes victims on the core
that ranks first. -/
def execEvPreemptionDecision (grid : Nat) (s : State) : Res :=
  match s.grid? grid with
  | none => .next s
  | some g =>
    if 192 ≤ g.token ∧ s.waiting g = true then
      let (rot, s) := s.free
      match s.victimCore g rot.toNat with
      | none => .next s
      | some core =>
        .next ((s.takeVictims core g [] (s.victims core g.lpb.cls rot.toNat)).foldl
          (fun s slot => s.chooseFor g ⟨core, slot⟩) s)
    else .next s

/-- DRAIN_TIMEOUT (13 R360): a drained victim that has not completed in its window is chosen for again, its
estimate taken as unknown. -/
def execEvDrainTimeout (r : WgRef) (s : State) : Res :=
  match (s.wg? r).bind (·.preempt) with
  | some (.drain t _) => if t ≤ s.tckOf r.core then .next (s.killOrCheckpoint r) else .next s
  | _ => .next s

/-! ## Shed marks (13 R362; 21 R457, R458) -/

/-- SHED_FORCE (13 R362): a mark whose grace has expired forces a checkpoint with a record of kind
SHED_FORCE. -/
def execEvShedForce (r : WgRef) (s : State) : Res :=
  match s.wg? r with
  | none => .next s
  | some w =>
    match w.shed with
    | some t =>
      if t ≤ s.fck ∧ w.allExited = false then
        .next (((s.takePark r).beginSave r { TrapRecord.reset with kind := some .shedForce, src := .scheduler } false
          none).noteShedPoint r.core)
      else .next s
    | none => .next s

/-! ## The watchdog (16 R419) -/

/-- Whether a lane's wait holds off the watchdog: TLWAIT, ACQ, SLEEP. -/
def Lane.excused (l : Lane) : Bool :=
  match l.state with
  | .waiting (.tlwait _ _ _ _ _) | .waiting (.acq _ _) | .waiting (.sleep _) => true
  | _ => false

/-- Whether a copy of a workgroup writes, delivers or performs: a chunk is in progress, and for a stream copy its next
element can be delivered. -/
def Workgroup.copyWorks (w : Workgroup) (c : Copy) : Bool :=
  !c.running.isEmpty && (copyCmd c.cmd).any (fun k => k.dk != 3 || w.deliverable c k)

/-- Whether a word of a core's engines is in its occupancy: it holds its demand until that ends (08 R276, R277; 16 R419). -/
def State.engineWorks (s : State) (core : Nat) : Bool := (s.tile (tileOf core)).gate.holding.any (fun d => d.core == core)

/-- Whether a tck counts for the watchdog of a workgroup in which no word of it issues: no copy works for it and nothing
excuses its waits. A pending LDS on an empty line, or a RECV without an entry, excuses it. -/
def Workgroup.idle (w : Workgroup) : Bool :=
  w.copies.all (fun c => !w.copyWorks c)
    && w.waves.all (fun v => v.lanes.all (fun l => !l.excused) && v.pending.all w.served)

/-- The watchdog counts of a tile's workgroups after `n` tck in which no word of them issues. -/
def State.countWatchdogs (s : State) (tile n : Nat) : State :=
  { s with cores := s.cores.map (fun p =>
      if tileOf p.1 = tile then
        (p.1, { p.2 with wgs := p.2.wgs.map (fun q =>
          (q.1, { q.2 with watchdog := if q.2.idle && !(q.2.job.isSome && s.engineWorks p.1) then q.2.watchdog + n else 0 })) })
      else p) }

/-- WATCHDOG (16 R419): the count has reached WDLIMIT × 1,024, and the workgroup traps. -/
def execEvWatchdog (r : WgRef) (s : State) : Res :=
  match s.wg? r with
  | none => .next s
  | some w =>
    let limit := (s.context w.ctx).wdLimit.toNat * 1024
    if limit ≠ 0 ∧ limit ≤ w.watchdog then
      .next (s.contain r (s.stampRecord r 1000 { TrapRecord.reset with kind := some .watchdog, src := .scheduler }))
    else .next s

/-! ## Saves (16 R394-R402, R416; 06 R221; 12 R343) -/

/-- Whether the replies that a save still waits for are taken as poisoned: 100 µs after it began (16 R416). -/
def State.repliesLate (s : State) (w : Workgroup) : Bool := decide (w.saveAt + 200000 ≤ s.fck)

/-- Whether a wave of a workgroup holds up a save: a maintenance operation, a reply that is not late, or a word that can
complete (03 R98; 06 R221; 16 R416). -/
def Workgroup.waveHolds (w : Workgroup) (late : Bool) (v : Wave) : Bool :=
  (match v.block with
    | .maintenance => true
    | .hostOp _ => !late
    | _ => false)
    || v.pending.any (fun p => w.served p && !(late && p.reply))

/-- Whether the weight loader's word holds up a save: one whose lines are full completes. -/
def Workgroup.loaderHolds (w : Workgroup) (l : LoaderRun) : Bool :=
  l.begun && !(l.phase == .running && w.emptyIn (wordReads 1 l.q.w none))

/-- Whether an engine queue holds up a save: a word in progress completes, but an MSTEP stops at its next pass boundary
(16 R402). -/
def EngineQ.holdsSave (q : EngineQ) : Bool := q.phase == .finished || !q.finishing.isEmpty

/-- Whether a sequencer context holds up a save: a word that has issued completes, but for a late reply. -/
def SeqState.holdsSave (late : Bool) (x : SeqState) : Bool := !x.ldgs.isEmpty && !late

/-- Whether a copy holds up a save: a copy that touches the scratchpad stops at its next chunk boundary; one that waits for
a stream's lane, which no wave reads now, stops where it stands. -/
def Workgroup.copyHolds (w : Workgroup) (c : Copy) : Bool :=
  (copyCmd c.cmd).any (fun k => k.touchesPad && (k.dk != 3 || w.deliverable c k)) && !c.running.isEmpty && c.fault.isNone

/-- Whether a workgroup's save may complete. -/
def Workgroup.saveReady (w : Workgroup) (late : Bool) : Bool :=
  w.waves.all (fun v => !w.waveHolds late v) && w.copies.all (fun c => !w.copyHolds c)
    && w.job.all (fun j => !j.matrixQ.holdsSave && !j.drainQ.holdsSave
      && j.matrixQ.loader.all (fun l => !w.loaderHolds l)
      && !j.intake.holdsSave late && !j.main.holdsSave late && !j.outfall.holdsSave late && j.ovl.isNone)

/-- An engine queue as it is saved: an MSTEP stops between two passes, a word that waits for a grant gives up its place, and
a load that waits for full lines starts anew (16 R400, R402; 20 R455). -/
def EngineQ.saved (q : EngineQ) : EngineQ :=
  { q.unload with
    trapped := false
    phase := match q.phase with
      | .stopped => .stopped
      | .finished => .finished
      | _ => .waiting }

/-- A copy as it is saved: it stops and gives up its slot, and meets a fault that has not been serviced again; or it runs on
detached, a fault of it still with the pager (16 R402; 17 R423). -/
def Copy.saved (c : Copy) : Copy :=
  if c.stopped then c
  else if (copyCmd c.cmd).any (·.touchesPad) then { c.ended with fetched := [] }
  else { c with detached := true, fault := c.fault.map (fun t => { t with who := .detached c.slot }) }

/-- Whether a fault of a workgroup's copy stays with the pager when the workgroup is saved: the copy runs on. -/
def Workgroup.faultStays (w : Workgroup) (core cs : Nat) : Bool :=
  w.copies.any (fun c => c.inSlot core cs && c.fault.isSome && !(copyCmd c.cmd).any (·.touchesPad))

/-- What a save leaves of a trap of a workgroup: that of a copy that runs on, the copy's own from here (16 R402); the service of
any other is abandoned, and its word or chunk traps afresh (13 R363). -/
def Workgroup.trapAfterSave (w : Workgroup) (r : WgRef) (t : TrapItem) : Option TrapItem :=
  if t.who.slot ≠ r.slot then some t
  else
    match t.who with
    | .copy _ cs => if w.faultStays r.core cs then some { t with who := .detached cs } else none
    | _ => none

/-- The traps of a core once a workgroup's save has completed. -/
def State.leaveTraps (s : State) (r : WgRef) (w : Workgroup) : State :=
  (s.updCore r.core (fun c => { c with
    trapQ := c.trapQ.filterMap (w.trapAfterSave r)
    trap := { c.trap with item := c.trap.item.bind (w.trapAfterSave r) } })).enterTrap r.core

/-- Marks lanes of vector registers as poisoned. -/
def Wave.poisonRegs (v : Wave) (regs : List Nat) (mask : Lanes) : Wave :=
  { v with poison := regs.foldl (fun l n => assocSet l n (((assoc l n).getD 0) ||| mask)) v.poison }

/-- A pending word ends: it leaves its flag. -/
def Wave.complete (w : Wave) (k : Nat) : Wave :=
  match w.pending[k]? with
  | none => w
  | some p => { w with pending := w.pending.eraseIdx k, flags := modAt w.flags p.flag (· - 1) }

/-- A wave whose late replies are taken as poisoned (16 R416): the destination lanes hold poison, and a timeline write in
flight, which has no destination, counts as answered. -/
def Wave.lateReplies (v : Wave) : Wave :=
  let v := ((List.range v.pending.length).reverse).foldl (fun v k =>
    match v.pending[k]? with
    | some p => if p.reply then (v.complete k).poisonRegs p.regs p.mask else v
    | none => v) v
  match v.block with
  | .hostOp _ => { v with done := (v.group.map (·.lanes)).getD 0 }
  | _ => v

/-- A context whose late replies are taken as poisoned: the registers hold poison. -/
def SeqState.lateReplies (x : SeqState) : SeqState :=
  { x with ldgs := [], poison := distinct (x.ldgs.map (·.reg) ++ x.poison) }

/-- An engine job whose late replies are taken as poisoned; the pushes that wait for them are made. -/
def Job.lateReplies (j : Job) : Job :=
  { (j.completePushes (fun p => match p with
      | .ldg c id => (j.ctx c).ldgs.any (fun l => l.id == id)
      | _ => false)) with
    intake := j.intake.lateReplies, main := j.main.lateReplies, outfall := j.outfall.lateReplies }

/-- A workgroup as it is saved at a tck. -/
def Workgroup.saved (w : Workgroup) (tck : Nat) : Workgroup :=
  { w with
    preempt := none, shed := none, aged := w.estimateAge tck,
    waves := w.waves.map (fun v => { v.lateReplies with block := .none }),
    copies := w.copies.map Copy.saved,
    job := (w.job.map Job.lateReplies).map (fun j => { j with
      matrixQ := j.matrixQ.saved, drainQ := j.drainQ.saved, intake := { j.intake with trapped := false },
      main := { j.main with trapped := false }, outfall := { j.outfall with trapped := false } }) }

/-- The tiles of a tag on a core, as TILEMASK (16 R395). -/
def State.tileMask (s : State) (core : Nat) (tag : OwnerTag) : BitVec 8 :=
  BitVec.ofNat 8 ((s.core core).tiles.foldl (fun m p => if p.2.owner = some tag then m + 2 ^ p.1 else m) 0)

/-- The record of the trap of a residency slot that the pager has not serviced, if any. -/
def ComputeCore.trapOf (c : ComputeCore) (slot : Nat) : Option TrapRecord :=
  ((c.trap.item.toList ++ c.trapQ).find? (fun t => t.who.slot == slot)).map (·.record)

/-- The record that a save writes, formed at the save: that of its stop or forced checkpoint, else of the trap that the
workgroup has outstanding, else one of kind 0 (16 R396, R401). -/
def State.saveRecord (s : State) (r : WgRef) (t : TrapRecord) : TrapRecord :=
  s.formRecord r (if t.kind.isNone then ((s.core r.core).trapOf r.slot).getD t else t)

/-- The frame of a workgroup as its save completes (16 R394-R396, R402, R417). -/
def State.frameOf (s : State) (r : WgRef) (w : Workgroup) (t : TrapRecord) (stop : Bool) (park : Option Park) : Frame :=
  let mask := s.tileMask r.core ⟨w.ctx, r.slot⟩
  let tck := s.tckOf r.core
  { record := s.saveRecord r t, lateFlags := 0, tileCore := if mask = 0 then none else some r.core, tileMask := mask,
    wg := w.saved tck, tiles := [], entries := [],
    store := (s.core r.core).store.filter (fun c => decide (c.1 < 0xE000)), stopped := if stop then some s.stops else none,
    core := r.core, since := if park = some .timeline then none else some (s.fck, tck), parked := park, poisoned := false }

/-- SAVE_COMPLETION (13 R360; 16 R394, R402, R416, R417; 12 R343): where the save may complete and a frame is
free, the workgroup's writes are released at .dv, it moves to the lowest free frame, and its core is free.
Where the exit wins, the save is void (13 R361). -/
def execEvSaveCompletion (r : WgRef) (s : State) : Res :=
  match s.wg? r with
  | none => .next s
  | some w =>
    match w.preempt with
    | some (.saving t stop park) =>
      if w.allExited ∧ stop = false then .next (s.updWg r (fun w => { w with preempt := none }))
      else if !w.saveReady (s.repliesLate w) then .next s
      else
        match s.freeFrame, (s.releaseWg r).wg? r with
        | some f, some w =>
          let s := s.releaseWg r
          let x := s.frameOf r w t stop park
          let s := s.leaveTraps r w
          let s := if w.job.isSome then s.dropDemands r.core else s
          let s : State := { s.dropWg r with frames := assocSet s.frames f x, stops := if stop then s.stops + 1 else s.stops }
          .next (if stop then s.updContext w.ctx (fun c => { c with faultList := c.faultList ++ [f] }) else s)
        | _, _ => .next s
    | _ => .next s

end Sys2Proof.Machine
end

