-- ==== Sys2Proof/Machine/Mail.lean ====
section
/-! DEFINITION. Mailbox commands and firmware restart (11 R340-R342, R514; 25 R498): when a command is decided,
its RESULT, and its effect. -/

namespace Sys2Proof.Machine

/-! ## Completion (11 R340, R514) -/

/-- The RESULT codes. -/
inductive MailResult where | ok | badCmd | noResource | denied | badArg
  deriving DecidableEq, Repr

/-- The code of a RESULT (11 R340). -/
def MailResult.code : MailResult → BitVec 8
  | .ok => 0
  | .badCmd => 1
  | .noResource => 2
  | .denied => 3
  | .badArg => 4

/-- A command completes: RESULT, DONE, SEQ and, where it has one, MBRSP0. -/
def State.mailDone (s : State) (f : Nat) (r : MailResult) (rsp : Option Nat) : State :=
  s.updMailbox f (fun m => { m with
    result := r.code, done := true, busy := false, seq := m.seq + 1,
    rsp := match rsp with
      | some v => setAt m.rsp 0 (BitVec.ofNat 64 v)
      | none => m.rsp })

/-- A command completes without effect. -/
def State.mailFail (s : State) (f : Nat) (r : MailResult) : Res := .next (s.mailDone f r none)

/-- A command completes OK. -/
def State.mailOk (s : State) (f : Nat) (rsp : Option Nat) : Res := .next (s.mailDone f .ok rsp)

/-! ## Grants (25 R498) -/

/-- Whether a function may name a context: the physical function any, a virtual function those of its grant
(11 R341, R514; assumption log, entry 17). -/
def State.mayContext (s : State) (f c : Nat) : Bool :=
  f == 0 || (match assoc s.grants f with
    | some g => decide (g.firstC ≤ c) && decide (c < g.firstC + g.countC)
    | none => false)

/-- Whether a function may name a queue. -/
def State.mayQueue (s : State) (f q : Nat) : Bool :=
  f == 0 || (match assoc s.grants f with
    | some g => decide (g.firstQ ≤ q) && decide (q < g.firstQ + g.countQ)
    | none => false)

/-- Whether a context is in some virtual function's grant. -/
def State.granted (s : State) (c : Nat) : Bool :=
  s.grants.any (fun p => decide (p.2.firstC ≤ c) && decide (c < p.2.firstC + p.2.countC))

/-! ## Contexts -/

/-- CREATE_CONTEXT. DENIED is for a virtual function that no GRANT names (R514). -/
def execMbCreateContext (w : MailWord) (s : State) : Res :=
  let f := w.func
  let root := w.a1.toNat
  let usable (c : Nat) : Bool := if f = 0 then !s.granted c else s.mayContext f c
  if f ≠ 0 ∧ (assoc s.grants f).isNone = true then s.mailFail f .denied
  else if root % 65536 ≠ 0 ∨ localBytes < root + 65536 ∨ inPool root 65536 = true ∨ w.a2.toNat % 256 ≠ 0
      ∨ 2 ^ 52 ≤ w.a2.toNat ∨ 65536 < w.a3.toNat then s.mailFail f .badArg
  else
    match (List.range 64).find? (fun c => usable c && !(s.context c).created) with
    | none => s.mailFail f .noResource
    | some c =>
      (s.updContext c (fun x => { x with
        created := true, root := root, ovfBase := w.a2, ovfEnt := w.a3.toNat, ovfHead := 0 })).mailOk f (some c)

/-- A queue as RESET_QUEUE leaves it. -/
def HwQueue.restart (q : HwQueue) : HwQueue :=
  { q with tail := q.head, burst := none, ctxErr := false, ringFault := false, pktErr := false, tailJump := false, halted := false,
           bufs := [], wait := .none }

/-- A queue as UNBIND_QUEUE leaves it. -/
def HwQueue.unbind (q : HwQueue) : HwQueue :=
  { q.restart with bound := false, ctx := 0, log2 := 0, base := 0 }

/-- Changes the queues bound to a context. -/
def State.updBound (s : State) (ctx : Nat) (f : HwQueue → HwQueue) : State :=
  { s with queues := s.queues.map (fun p => if p.2.bound ∧ p.2.ctx = ctx then (p.1, f p.2) else p) }

/-- RESET_CONTEXT. -/
def execMbResetContext (w : MailWord) (s : State) : Res :=
  let c := w.a1.toNat
  if !s.mayContext w.func c then s.mailFail w.func .denied
  else if !(s.context c).created || decide (64 ≤ c) then s.mailFail w.func .badArg
  else
    let s := s.endContextGrids c
    let s := s.updContext c (fun x => { x with
      launchQ := [[], [], [], []], ovf := [], ovfHead := 0, regions := [], refusals := 0, errOffset := 0, errQueue := 0,
      errDevice := false, unreadable := false, retryOut := false, lpbInvalid := false, tlFail := false, err := false })
    (s.updBound c HwQueue.restart).mailOk w.func none

/-- DESTROY_CONTEXT: it waits until every accepted grid of the context has completed; those of a context in
error are ended first. -/
def execMbDestroyContext (w : MailWord) (s : State) : Res :=
  let c := w.a1.toNat
  if !s.mayContext w.func c then s.mailFail w.func .denied
  else if !(s.context c).created || decide (64 ≤ c) then s.mailFail w.func .badArg
  else
    let s := if (s.context c).err then s.endContextGrids c else s
    if s.grids.any (fun g => g.ctx == c) then .next s
    else
      ((s.updBound c HwQueue.unbind).updContext c (fun x => { x with created := false, regions := [] })).mailOk w.func none

/-! ## Queues -/

/-- BIND_QUEUE. That a queue bound to a context in error is not halted is the model's choice (assumption log, entry 68). -/
def execMbBindQueue (w : MailWord) (s : State) : Res :=
  let q := w.a1.toNat
  let c := bits w.a2.toNat 0 6
  let n := bits w.a2.toNat 8 5
  if !s.mayQueue w.func q || !s.mayContext w.func c then s.mailFail w.func .denied
  else if 256 ≤ q ∨ (s.queue q).bound = true ∨ (s.context c).created = false ∨ n < 6 ∨ 20 < n
      ∨ w.a3.toNat % (8 * 2 ^ n) ≠ 0 ∨ 2 ^ 52 ≤ w.a3.toNat ∨ bits w.a2.toNat 6 2 ≠ 0 ∨ bits w.a2.toNat 13 51 ≠ 0 then
    s.mailFail w.func .badArg
  else
    (s.updQueue q (fun x => { x.restart with
      head := 0, tail := 0, bound := true, ctx := c, log2 := n, base := w.a3 })).mailOk w.func none

/-- UNBIND_QUEUE: it waits until every grid accepted from the queue has completed. -/
def execMbUnbindQueue (w : MailWord) (s : State) : Res :=
  let q := w.a1.toNat
  if !s.mayQueue w.func q then s.mailFail w.func .denied
  else if !(s.queue q).bound then s.mailFail w.func .badArg
  else if (s.queue q).grids.isEmpty then (s.updQueue q HwQueue.unbind).mailOk w.func none
  else .next s

/-- RESET_QUEUE. -/
def execMbResetQueue (w : MailWord) (s : State) : Res :=
  let q := w.a1.toNat
  if !s.mayQueue w.func q then s.mailFail w.func .denied
  else if !(s.queue q).bound then s.mailFail w.func .badArg
  else (s.updQueue q HwQueue.restart).mailOk w.func (some (s.queue q).head)

/-! ## The physical function's commands (25 R498) -/

/-- Whether two ranges overlap: an empty one meets none. -/
def rangesMeet (a n b m : Nat) : Bool := decide (0 < n) && decide (0 < m) && decide (a < b + m) && decide (b < a + n)

/-- Whether two grants overlap. -/
def Grant.meets (g h : Grant) : Bool :=
  rangesMeet g.firstQ g.countQ h.firstQ h.countQ || rangesMeet g.firstC g.countC h.firstC h.countC
    || rangesMeet g.base (2 ^ g.log2 * 0x40000000) h.base (2 ^ h.log2 * 0x40000000)

/-- The grant a GRANT command names. -/
def grantOf (w : MailWord) : Grant :=
  let x := w.a2.toNat
  { firstQ := bits x 0 8, countQ := bits x 8 8, firstC := bits x 16 6, countC := bits x 24 6, heads := bit x 30,
    base := bits w.a3.toNat 0 18 * 0x40000000, log2 := bits w.a3.toNat 20 4 }

/-- Whether a grant breaks its limits or meets another function's. -/
def State.grantBad (s : State) (vf : Nat) (g : Grant) : Bool :=
  decide (vf < 1) || decide (16 < vf) || decide (256 < g.firstQ + g.countQ) || decide (64 < g.firstC + g.countC)
    || decide (6 < g.log2) || decide (localBytes < g.base + 2 ^ g.log2 * 0x40000000)
    || s.grants.any (fun p => p.1 != vf && p.2.meets g)

/-- Whether a grid of a queue or context that a grant takes away has not completed. -/
def State.grantWaits (s : State) (vf : Nat) (g : Grant) : Bool :=
  match assoc s.grants vf with
  | none => false
  | some old =>
    let lostC (c : Nat) : Bool := decide (old.firstC ≤ c) && decide (c < old.firstC + old.countC)
      && !(decide (g.firstC ≤ c) && decide (c < g.firstC + g.countC))
    let lostQ (q : Nat) : Bool := decide (old.firstQ ≤ q) && decide (q < old.firstQ + old.countQ)
      && !(decide (g.firstQ ≤ q) && decide (q < g.firstQ + g.countQ))
    s.grids.any (fun x => lostC x.ctx || x.queue.any lostQ)

/-- GRANT. -/
def execMbGrant (w : MailWord) (s : State) : Res :=
  let g := grantOf w
  let vf := w.a1.toNat
  if w.func ≠ 0 then s.mailFail w.func .denied
  else if s.grantBad vf g then s.mailFail w.func .badArg
  else if s.grantWaits vf g then .next s
  else State.mailOk { s with grants := assocSet s.grants vf g } w.func none

/-- POD_PEER: context 0x3F clears the peer. -/
def execMbPodPeer (w : MailWord) (s : State) : Res :=
  let c := w.a1.toNat
  if w.func ≠ 0 then s.mailFail w.func .denied
  else if 64 ≤ c ∨ 64 ≤ w.a2.toNat ∨ 64 ≤ w.a3.toNat then s.mailFail w.func .badArg
  else
    (s.updContext c (fun x => { x with
      peer := if w.a3.toNat = 0x3F then none else some (w.a2.toNat, w.a3.toNat) })).mailOk w.func none

/-- SET_PASID. -/
def execMbSetPasid (w : MailWord) (s : State) : Res :=
  let c := w.a1.toNat
  if w.func ≠ 0 then s.mailFail w.func .denied
  else if 64 ≤ c then s.mailFail w.func .badArg
  else
    (s.updContext c (fun x => { x with
      pasid := if bit w.a2.toNat 31 then some (BitVec.ofNat 20 w.a2.toNat) else none })).mailOk w.func none

/-- Whether copy B of the bring-up record is in force: the copy with the higher sequence number among those whose CRC holds
(25 R505). -/
def ModuleState.copyB (m : ModuleState) : Bool := m.recordB.whole && (!m.recordA.whole || decide (m.recordA.seq < m.recordB.seq))

/-- The copy of the bring-up record in force; an empty one where neither CRC holds (25 R505; assumption log, entry 22). -/
def ModuleState.inForce (m : ModuleState) : BringUpRecord :=
  if m.copyB then m.recordB else if m.recordA.whole then m.recordA else .reset

/-- Writes the next version of the bring-up record, over the copy that is not in force (25 R505); a write that a loss of power
cuts off leaves a copy whose CRC fails. -/
def ModuleState.putRecord (m : ModuleState) (e : List RecEntry) (whole : Bool) : ModuleState :=
  let r : BringUpRecord := ⟨m.inForce.seq + 1, e, whole⟩
  if m.copyB then { m with recordA := r } else { m with recordB := r }

/-- Writes the next version of the bring-up record (25 R505). -/
def ModuleState.writeRecord (m : ModuleState) (e : List RecEntry) : ModuleState := m.putRecord e true

/-- The entries of the bring-up record in force (25 R505). -/
def ModuleState.record (m : ModuleState) : List RecEntry := m.inForce.entries

/-- CLEAR_FENCES (25 R498, R505): every step is marked for a full retry at the next start. -/
def execMbClearFences (w : MailWord) (s : State) : Res :=
  if w.func ≠ 0 then s.mailFail w.func .denied
  else
    State.mailOk { s with modl := s.modl.writeRecord BringUpRecord.reset.entries } w.func none

/-! ## Firmware restart (11 R342; 25 R506) -/

/-- DEGRADED (25 R496). -/
def ModuleState.degraded (m : ModuleState) : Bool :=
  !m.fencedLine.isEmpty || !m.deadLinks.isEmpty || !m.fencedTiles.isEmpty || !m.fencedCores.isEmpty || !m.slowCh.isEmpty

/-- REPLACE follows DEGRADED, FWFAIL and UNCERR (25 R497). -/
def ModuleState.settle (m : ModuleState) : ModuleState :=
  { m with replace := m.replace || m.degraded || m.fwFail || m.uncErr }

/-- FW_RESTART: the policy firmware restarts; the command completes when it runs again. -/
def execMbFwRestart (w : MailWord) (s : State) : Res :=
  if w.func ≠ 0 then s.mailFail w.func .denied
  else .next { s with modl := { s.modl with fwState := 2 } }

end Sys2Proof.Machine
end

