-- ==== Sys2Proof/Machine/Firmware.lean ====
section
/-! DEFINITION. Firmware images and their verification, measurements, and the stored form of the bring-up
record (25 R505-R507). SHA-256 and CRC-32 are those the rules name. -/

namespace Sys2Proof.Machine

/-! ## SHA-256 -/

/-- The round constants. -/
def shaK : List W32 :=
  [0x428A2F98, 0x71374491, 0xB5C0FBCF, 0xE9B5DBA5, 0x3956C25B, 0x59F111F1, 0x923F82A4, 0xAB1C5ED5]
    ++ [0xD807AA98, 0x12835B01, 0x243185BE, 0x550C7DC3, 0x72BE5D74, 0x80DEB1FE, 0x9BDC06A7, 0xC19BF174]
    ++ [0xE49B69C1, 0xEFBE4786, 0x0FC19DC6, 0x240CA1CC, 0x2DE92C6F, 0x4A7484AA, 0x5CB0A9DC, 0x76F988DA]
    ++ [0x983E5152, 0xA831C66D, 0xB00327C8, 0xBF597FC7, 0xC6E00BF3, 0xD5A79147, 0x06CA6351, 0x14292967]
    ++ [0x27B70A85, 0x2E1B2138, 0x4D2C6DFC, 0x53380D13, 0x650A7354, 0x766A0ABB, 0x81C2C92E, 0x92722C85]
    ++ [0xA2BFE8A1, 0xA81A664B, 0xC24B8B70, 0xC76C51A3, 0xD192E819, 0xD6990624, 0xF40E3585, 0x106AA070]
    ++ [0x19A4C116, 0x1E376C08, 0x2748774C, 0x34B0BCB5, 0x391C0CB3, 0x4ED8AA4A, 0x5B9CCA4F, 0x682E6FF3]
    ++ [0x748F82EE, 0x78A5636F, 0x84C87814, 0x8CC70208, 0x90BEFFFA, 0xA4506CEB, 0xBEF9A3F7, 0xC67178F2
  ]

/-- The initial hash. -/
def shaInit : List W32 := [0x6A09E667, 0xBB67AE85, 0x3C6EF372, 0xA54FF53A, 0x510E527F, 0x9B05688C, 0x1F83D9AB, 0x5BE0CD19]

/-- Rotates right. -/
def rotr (x : W32) (n : Nat) : W32 := x.rotateRight n

/-- The 32-bit big-endian words of a block. -/
def shaWords (b : List Byte) : List W32 :=
  (List.range 16).map (fun i => BitVec.ofNat 32 (((b.drop (4 * i)).take 4).foldl (fun n x => n * 256 + x.toNat) 0))

/-- The message schedule: sixteen words, and `n` more. -/
def shaSchedule : Nat → List W32 → List W32
  | 0, w => w
  | n + 1, w =>
    let at_ (k : Nat) : W32 := (w[w.length - k]?).getD 0
    let s0 := rotr (at_ 15) 7 ^^^ rotr (at_ 15) 18 ^^^ (at_ 15 >>> 3)
    let s1 := rotr (at_ 2) 17 ^^^ rotr (at_ 2) 19 ^^^ (at_ 2 >>> 10)
    shaSchedule n (w ++ [at_ 16 + s0 + at_ 7 + s1])

/-- One round. -/
def shaRound (h : List W32) (kw : W32 × W32) : List W32 :=
  match h with
  | [a, b, c, d, e, f, g, i] =>
    let t1 := i + (rotr e 6 ^^^ rotr e 11 ^^^ rotr e 25) + ((e &&& f) ^^^ (~~~e &&& g)) + kw.1 + kw.2
    let t2 := (rotr a 2 ^^^ rotr a 13 ^^^ rotr a 22) + ((a &&& b) ^^^ (a &&& c) ^^^ (b &&& c))
    [t1 + t2, a, b, c, d + t1, e, f, g]
  | x => x

/-- The hash after a block. -/
def shaBlock (h : List W32) (b : List Byte) : List W32 :=
  let r := (shaK.zip (shaSchedule 48 (shaWords b))).foldl shaRound h
  (h.zip r).map (fun p => p.1 + p.2)

/-- The hash after `n` blocks. -/
def shaBlocks : Nat → List W32 → List Byte → List W32
  | 0, h, _ => h
  | n + 1, h, b => shaBlocks n (shaBlock h (b.take 64)) (b.drop 64)

/-- SHA-256 of a message. -/
def sha256 (m : List Byte) : List Byte :=
  let zeros := (119 - m.length % 64) % 64
  let p := m ++ (0x80 :: List.replicate zeros 0) ++ (toBytes 8 (8 * m.length)).reverse
  (shaBlocks (p.length / 64) shaInit p).flatMap (fun w => (toBytes 4 w.toNat).reverse)

/-! ## Images (R506) -/

/-- Whether an image is accepted: its digest matches, its signature of the header's first 128 bytes verifies, and its counter is
not below the fused minimum. The places of a header's fields are not stated (assumption log, entry 19). -/
def imageOk (minCounter : Nat) (img : List Byte) : Bool :=
  img.length ≥ 256 && sha256 (img.drop 256) == Config.headerDigest (img.take 256)
    && Config.verifies (img.take 128) (Config.headerSignature (img.take 256))
    && decide (minCounter ≤ Config.headerCounter (img.take 256))

/-- The image in a slot. -/
def FwSlots.image (f : FwSlots) (b : Bool) : List Byte := if b then f.slotB else f.slotA

/-- The image in use. -/
def FwSlots.current (f : FwSlots) : List Byte := f.image f.useB

/-- Whether the image in a slot is accepted. -/
def FwSlots.ok (f : FwSlots) (b : Bool) : Bool := imageOk f.minCounter (f.image b)

/-- A slot's failure is recorded. -/
def FwSlots.mark (f : FwSlots) (b : Bool) : FwSlots :=
  if b then { f with failedB := true } else { f with failedA := true }

/-- The slots at a start: an update takes effect, and a slot that failed at the start before gives way to the
other (R504, R506). -/
def FwSlots.atStart (f : FwSlots) : FwSlots :=
  let f := if f.updated then { f with useB := !f.useB, updated := false } else f
  let failed := if f.useB then f.failedB else f.failedA
  { f with useB := if failed then !f.useB else f.useB, failedA := false, failedB := false }

/-- The slots of an image. -/
def ModuleState.slots (m : ModuleState) : FwImageId → FwSlots
  | .stage1 => m.stage1
  | .policy => m.policy
  | .pager => m.pager

/-- Replaces the slots of an image. -/
def ModuleState.setSlots (m : ModuleState) (i : FwImageId) (f : FwSlots) : ModuleState :=
  match i with
  | .stage1 => { m with stage1 := f }
  | .policy => { m with policy := f }
  | .pager => { m with pager := f }

/-- PLDM_FIRMWARE_UPDATE (R506): the slot not in use is written, for the next start; what it held before failed no more. -/
def execEvPldmFirmwareUpdate (image : FwImageId) (bytes : List Byte) (s : State) : Res :=
  let f := s.modl.slots image
  let g := if f.useB then { f with slotA := bytes, failedA := false, updated := true }
    else { f with slotB := bytes, failedB := false, updated := true }
  .next { s with modl := s.modl.setSlots image g }

/-- PLDM_ACTIVATION (R506): the fused minimum rises to the counter it names. -/
def execEvPldmActivation (image : FwImageId) (counter : Nat) (s : State) : Res :=
  let f := s.modl.slots image
  .next { s with modl := s.modl.setSlots image { f with minCounter := max f.minCounter counter } }

/-- The image in use after its header, as a memory from `base` on (25 R506; assumption log, entry 9). -/
def FwSlots.loaded (f : FwSlots) (base n : Nat) : List Host.Cell := cellsPut [] base ((f.current.drop 256).take n)

/-- The policy firmware in the policy processor's memory, where it starts (01 R26; 25 R504). -/
def ModuleState.loadPolicy (m : ModuleState) : ModuleState :=
  { m with policyCore := { PolicyCore.reset with mem := m.policy.loaded 0 0x40000 } }

/-! ## The bring-up record in flash (R505) -/

/-- One bit of CRC-32, reflected. -/
def crc32Bit (c : W32) : W32 := if c.getLsbD 0 then (c >>> 1) ^^^ 0xEDB88320 else c >>> 1

/-- CRC-32 of IEEE 802.3. -/
def crc32 (l : List Byte) : W32 :=
  ~~~(l.foldl (fun c b => (List.range 8).foldl (fun c _ => crc32Bit c) (c ^^^ b.setWidth 32)) 0xFFFFFFFF)

/-- The 128 bytes of an entry. -/
def RecEntry.bytes (e : RecEntry) (step : Nat) : List Byte :=
  toBytes 1 step ++ toBytes 1 e.outcome ++ toBytes 2 (min e.failed 65535) ++ toBytes 4 0
    ++ toBytes 96 (e.bitmap.foldl (fun n u => n ||| 2 ^ u) 0) ++ toBytes 24 0

/-- The 3,088 bytes of a copy of the record. -/
def BringUpRecord.bytes (r : BringUpRecord) : List Byte :=
  let body := toBytes 4 0 ++ r.entries.zipIdx.flatMap (fun p => p.1.bytes (p.2 + 1))
  let head := toBytes 8 r.seq
  head ++ toBytes 4 (crc32 (head ++ body)).toNat ++ body

/-! ## Measurements (R507) -/

/-- The five measurements of a module. -/
def ModuleState.measure (m : ModuleState) : List (List Byte) :=
  [sha256 m.stage1.current, sha256 m.policy.current, sha256 m.pager.current,
   sha256 (Config.recordBytes m.config m.podNum m.podRoutes),
   sha256 (Config.fuses m.stage1.minCounter m.policy.minCounter m.pager.minCounter ++ m.inForce.bytes)]

/-- SPDM_MEASUREMENTS (R507): the digest at an index, signed over the requester's nonce. -/
def execEvSpdmMeasurements (index : Nat) (nonce : List Byte) (s : State) : Res :=
  match (if index = 0 then none else s.modl.measured[index - 1]?) with
  | none => .next s
  | some d => .next { s with modl := { s.modl with reply := d ++ Config.signature (d ++ nonce) } }

/-! ## Held requests (11 R342, R514) -/

/-- The request words of a mailbox. -/
def Mailbox.word (m : Mailbox) (i : Nat) : W64 := (m.req[i]?).getD 0

/-- Runs the request of a mailbox: the commands of R341 and R498. -/
def State.runMail (s : State) (f : Nat) : Res :=
  let m := s.mailbox f
  match decodeMail (m.word 0) (m.word 1) (m.word 2) (m.word 3) f with
  | some (.mbCreateContext w) => execMbCreateContext w s
  | some (.mbDestroyContext w) => execMbDestroyContext w s
  | some (.mbBindQueue w) => execMbBindQueue w s
  | some (.mbUnbindQueue w) => execMbUnbindQueue w s
  | some (.mbResetQueue w) => execMbResetQueue w s
  | some (.mbResetContext w) => execMbResetContext w s
  | some (.mbFwRestart w) => execMbFwRestart w s
  | some (.mbGrant w) => execMbGrant w s
  | some (.mbPodPeer w) => execMbPodPeer w s
  | some (.mbSetPasid w) => execMbSetPasid w s
  | some (.mbClearFences w) => execMbClearFences w s
  | _ => s.mailFail f .badCmd

/-- Whether a mailbox holds the FW_RESTART under way. -/
def State.restartsFw (s : State) (f : Nat) : Bool := f == 0 && bits ((s.mailbox f).word 0).toNat 0 8 == 7

/-- MAILBOX_COMPLETION (11 R342, R514): a held or waiting command is decided. The end of a firmware restart
completes FW_RESTART: the firmware is measured, and runs or has failed. -/
def execEvMailboxCompletion (f : Nat) (s : State) : Res :=
  if !(s.mailbox f).busy || !s.modl.ready then .next s
  else
    match s.modl.fwState with
    | 1 => s.runMail f
    | 2 =>
      if !s.restartsFw f then .next s
      else if s.modl.policy.ok s.modl.policy.useB then
        State.mailOk { s with modl := ({ s.modl with fwState := 1 } : ModuleState).loadPolicy } f none
      else
        State.mailFail { s with modl := ({ s.modl with fwState := 3, fwFail := true } : ModuleState).settle } f .noResource
    | 3 => s.mailFail f .noResource
    | _ => .next s

end Sys2Proof.Machine
end

