-- ==== Sys2Proof/Machine/Power.lean ====
section
/-! DEFINITION. The shelf port and the module's shed level (22 R472-R478; 21 R456-R458), tile voltage
(22 R461-R463) and ramp tables (22 R469). One microsecond is 2,000 fck. -/

namespace Sys2Proof.Machine

/-! ## Shelf frames (22 R472-R475) -/

/-- One step of CRC-16 with polynomial x¹⁶ + x¹² + x⁵ + 1, for a bit. -/
def crcBit (c : Nat) (b : Bool) : Nat :=
  let top := bit c 15
  let c := c * 2 % 65536
  if top != b then c ^^^ 0x1021 else c

/-- CRC-16 of bytes, the most significant bit of each first, from 0xFFFF (22 R472). -/
def crc16 (l : List Byte) : Nat :=
  l.foldl (fun c b => (List.range 8).foldl (fun c i => crcBit c (b.getLsbD (7 - i))) c) 0xFFFF

/-- Byte `i` of a frame. -/
def frameByte (f : List Byte) (i : Nat) : Nat := ((f[i]?).getD 0).toNat

/-- Whether a shelf frame is valid (22 R472). -/
def shelfValid (f : List Byte) : Bool :=
  f.length == 12 && frameByte f 0 == 0xA5 && frameByte f 1 == 1 && decide (frameByte f 3 < 4) && frameByte f 8 == 0
    && frameByte f 9 == 0 && frameByte f 10 + 256 * frameByte f 11 == crc16 ((f.drop 1).take 9)

/-- The eight points of a curve: threshold bits and level (22 R478). -/
def curvePoints (l : List W64) : List (Nat × Nat) :=
  l.flatMap (fun w => [(bits w.toNat 0 16, bits w.toNat 16 2), (bits w.toNat 32 16, bits w.toNat 48 2)])

/-- The level the voltage curve gives (22 R474). -/
def vcurveLevel (l : List W64) (v : Nat) : Nat :=
  (((curvePoints l).find? (fun p => decide (p.1 ≤ v))).map (·.2)).getD 3

/-- The level the frequency curve gives (22 R474). -/
def fcurveLevel (l : List W64) (f : Int) : Nat :=
  (((curvePoints l).find? (fun p => decide (signed 16 p.1 ≤ f))).map (·.2)).getD 3

/-- The raw level of the latest readings, or the level of the readings lowered by the bands (22 R474,
R475); a curve without a reading yet gives 0. -/
def PowerPage.rawLevel (p : PowerPage) (lower : Bool) : Nat :=
  let v := match p.vLast with
    | none => 0
    | some v => vcurveLevel p.vcurve (if lower then v - p.vband.toNat else v)
  let f := match p.fLast with
    | none => 0
    | some f => fcurveLevel p.fcurve (if lower then max (-32768) (f - p.fband.toNat) else f)
  max v f

/-- The shelf level after a valid frame at time `now` (22 R475). -/
def PowerPage.evaluate (p : PowerPage) (now : Nat) : PowerPage :=
  let raw := p.rawLevel false
  let low := p.rawLevel true
  if p.slv < raw then { p with slv := raw, window := none }
  else if low < p.slv then
    let w := match p.window with
      | none => (now, low)
      | some (t, x) => (t, max x low)
    if p.rdelay.toNat * 2000 ≤ now - w.1 then { p with slv := w.2, window := none, lastTarget := w.2 }
    else { p with window := some w, lastTarget := w.2 }
  else { p with window := none }

/-- The module level as decided (22 R475). -/
def PowerPage.decidedLevel (p : PowerPage) : Nat := max p.slv p.floor

/-- Queues a decided level where it differs from the last one decided. -/
def PowerPage.decide_ (p : PowerPage) : PowerPage :=
  if (p.decided.getLast?).getD p.level = p.decidedLevel then p else { p with decided := p.decided ++ [p.decidedLevel] }

/-- SHELF_FRAME (22 R472, R474-R476): a frame that is not valid is counted; a valid one clears LOSS, updates
SLV, and a reply falls due. A port that did not start takes none (25 R504). -/
def execEvShelfFrame (bytes : List Byte) (s : State) : Res :=
  let p := s.power
  if s.modl.shelfOff then .next s
  else if !shelfValid bytes then .next { s with power := { p with crcErr := p.crcErr + 1 } }
  else
    let b := frameByte bytes
    let seq := b 2
    let d := (seq + 256 - p.lastSeq.toNat) % 256
    let v := b 4 + 256 * b 5
    let f := b 6 + 256 * b 7
    let p := { p with
      gaps := if p.link && decide (2 ≤ d) then p.gaps + BitVec.ofNat 16 (d - 1) else p.gaps,
      frames := p.frames + 1, link := true, loss := false, arrival := s.fck, lastFlg := BitVec.ofNat 2 (b 3),
      lastSeq := BitVec.ofNat 8 seq, lastDev := BitVec.ofNat 16 f, lastBus := BitVec.ofNat 16 v,
      vLast := if bit (b 3) 0 then some v else p.vLast, fLast := if bit (b 3) 1 then some (signed 16 f) else p.fLast }
    let p := (p.evaluate s.fck).decide_
    .next { s with power := { p with replyDue := some (BitVec.ofNat 8 seq, p.decidedLevel) } }

/-- SHELF_REPLY (22 R473): the 12 bytes of the reply, with the draw and the input voltage as measured. -/
def execEvShelfReply (draw vin : BitVec 16) (s : State) : Res :=
  match s.power.replyDue with
  | none => .next s
  | some (seq, level) =>
    let body : List Byte := [0x81, seq, BitVec.ofNat 8 (level + if s.power.loss then 4 else 0)]
      ++ toBytes 2 draw.toNat ++ toBytes 2 vin.toNat ++ [0, 0]
    .next { s with power := { s.power with
      replyDue := none, draw := draw, reply := 0x5A :: body ++ toBytes 2 (crc16 body) } }

/-- SHELF_LOSS (22 R476). -/
def execEvShelfLoss (s : State) : Res :=
  let p := s.power
  if p.link && !p.loss && p.lossTime != 0 && decide (p.arrival + p.lossTime.toNat * 2000 ≤ s.fck) then
    .next { s with power := ({ p with loss := true, slv := max p.slv p.lossLvl, window := none } : PowerPage).decide_ }
  else .next s

/-- What SHEDCTL_WRITE does (22 R475, R478). -/
def writeShedctl (v : W64) (s : State) : Res :=
  .next { s with power := ({ s.power with
    lossLvl := bits v.toNat 4 2, floor := bits v.toNat 0 2 } : PowerPage).decide_ }

/-- SHEDCTL_WRITE, once the module is ready (25 R495). -/
def execEvShedctlWrite (v : W64) (s : State) : Res := whenReady s (writeShedctl v s)

/-! ## Marks (13 R362; 21 R456-R458) -/

/-- Whether a workgroup's class is covered by a shed level (13 R362). -/
def coveredBy (level cls : Nat) : Bool := decide (1 ≤ level) && decide (level ≤ cls)

/-- The mark of a resident workgroup after a change of level. -/
def remark (old new cls expiry : Nat) (mark : Option Nat) : Option Nat :=
  if !coveredBy new cls then none
  else if coveredBy old cls then mark
  else some expiry

/-- Whether the level in force has decided at a shed point, or at the end of a grace, in the tck in which a tile stands: a
new level takes effect in a later one, since it is applied first in its tck (21 R456, R458). -/
def State.levelUsed (s : State) : Bool := s.cores.any (fun p => p.2.levelAt == some (s.tckOf p.1))

/-- SHED_LEVEL_CHANGE (21 R456-R458): the next level decided comes into force, and marks are set, kept and
removed. -/
def execEvShedLevelChange (s : State) : Res :=
  match s.power.decided with
  | [] => .next s
  | k :: rest =>
    if s.levelUsed then .next s else
    let old := s.power.level
    let expiry := s.fck + s.power.grace * 2000
    .next { s with
      power := { s.power with level := k, decided := rest },
      cores := s.cores.map (fun p => (p.1, { p.2 with wgs := p.2.wgs.map (fun q =>
        (q.1, { q.2 with shed := remark old k (s.lpbOf q.2).cls expiry q.2.shed })) })) }

/-! ## Tile voltage (22 R462, R463) -/

/-- The voltage of a point, in the rail's units of 1/400 mV. -/
def Tile64.volts (t : Tile64) (point : Nat) : Nat := ((t.opTab[point]?).getD (0, 0)).1 * 400

/-- Starts a move to a point, or takes the point at once where the rail stands there. -/
def Tile64.startMove (t : Tile64) (point : Nat) : Tile64 :=
  let t := { t with target := point, pend := none, moving := t.rail != t.volts point }
  { t with lvCap := t.levelCap }

/-- VMBOX_WRITE (22 R462): a write of the policy firmware, which writes nothing unless it runs, and no point but the one it has
chosen (22 R464). -/
def execEvVmboxWrite (tile : Nat) (point : BitVec 4) (s : State) : Res :=
  if s.modl.fwState ≠ 1 ∨ (s.tile tile).wanted ≠ some point.toNat then .next s
  else
    .next (s.updTile tile (fun t =>
      let t := { t with wanted := none }
      if t.moving then { t with pend := some point.toNat }
      else if t.target = point.toNat then t else t.startMove point.toNat))

/-- RAIL_MOVE_COMPLETE (22 R462): the rail stands at its target, and a pending point becomes the target. -/
def execEvRailMoveComplete (tile : Nat) (s : State) : Res :=
  .next (s.updTile tile (fun t =>
    if t.moving && t.rail == t.volts t.target then
      let t := { t with moving := false }
      let t := { t with lvCap := t.levelCap }
      match t.pend with
      | some p => t.startMove p
      | none => t
    else t))

/-- RAIL_PASSES_POINT (22 R463): LVCAP follows the rail. -/
def execEvRailPassesPoint (tile : Nat) (s : State) : Res :=
  .next (s.updTile tile (fun t => { t with lvCap := t.levelCap }))

/-- The rail of a tile after `n` fck: one unit each towards its target. -/
def Tile64.railAfter (t : Tile64) (n : Nat) : Nat :=
  let v := t.volts t.target
  if !t.moving then t.rail
  else if t.rail ≤ v then min v (t.rail + n) else max v (t.rail - n)

/-! ## Ramp tables (22 R469) -/

/-- Whether the headgate is idle (20 R450). -/
def Headgate.idle (g : Headgate) : Bool := g.pos == 0 && g.waiting.isEmpty && g.holding.isEmpty

/-- Whether a ramp table is accepted: from 1 to 255, never falling (22 R469). -/
def rampOk (l : List Nat) : Bool :=
  l.length == 16 && l.all (fun x => decide (1 ≤ x) && decide (x ≤ 255)) && (l.zip (l.drop 1)).all (fun p => decide (p.1 ≤ p.2))

/-- What HGRAMP_WRITE does (22 R469): HGRAMP1 where `n`. -/
def writeHgramp (tile : Nat) (n : Bool) (v : W64) (s : State) : Res :=
  .next (s.updTile tile (fun t =>
    let g := t.gate
    let now := g.pend.getD g.ramp
    let half := (List.range 8).map (fun i => bits v.toNat (8 * i) 8)
    let new := if n then now.take 8 ++ half else half ++ now.drop 8
    { t with gate := if rampOk new then { g with pend := some new } else { g with badRamp := true } }))

/-- HGRAMP_WRITE, once the module is ready (25 R495). -/
def execEvHgrampWrite (tile : Nat) (n : Bool) (v : W64) (s : State) : Res := whenReady s (writeHgramp tile n v s)

/-- RAMP_TABLE_IN_FORCE (22 R469). -/
def execEvRampTableInForce (tile : Nat) (s : State) : Res :=
  .next (s.updTile tile (fun t =>
    match t.gate.pend with
    | some r => if t.gate.idle then { t with gate := { t.gate with ramp := r, pend := none } } else t
    | none => t))

end Sys2Proof.Machine
end

