-- ==== Sys2Proof/Machine/Front.lean ====
section
/-! DEFINITION. The command front end: region table entries, the checks of a launch and its acceptance
(01 R49-R51, R516; 03 R118-R119; 07 R228-R229; 14 R379-R380), device launch queues (11 R336-R338), tail
writes, packets and waits of the hardware queues (11 R318-R332, R513). -/

namespace Sys2Proof.Machine

/-! ## The region table (06 R202, R203; 14 R379-R381) -/

/-- Adds an entry to a region table as BIND does; none where BIND traps PROTECTION. An entry of length 0, or
one already present, is ignored (06 R202). That a misaligned object traps where the length is 0 too is the model's choice
(assumption log, entry 63). -/
def bindRegion (t : List Region) (base len object : Nat) (scope : Scope) (grid : Option Nat) : Option (List Region) :=
  if object % 8 ≠ 0 then none
  else if len = 0 then some t
  else if 2 ^ 52 < base + len then none
  else if t.any (fun r => r.base == base && r.len == len && r.object == object && r.scope == scope) then some t
  else if t.any (fun r => r.object == object && r.scope != scope) then none
  else if 64 ≤ t.length then none
  else some (t ++ [⟨base, len, object, scope, grid⟩])

/-- The entries of a region table image after its header (14 R379), added in order; none where one breaks
its format or could not be added. -/
def addImage (t : List Region) (b : List Byte) (grid : Nat) : Nat → Option (List Region)
  | 0 => some t
  | n + 1 =>
    match addImage t b grid n with
    | none => none
    | some t =>
      let e := (b.drop (32 * n)).take 32
      let base := ofBytes (e.take 8)
      let len := ofBytes ((e.drop 8).take 8)
      let obj := ofBytes ((e.drop 16).take 8)
      let sc := ofBytes ((e.drop 24).take 1)
      if 2 ^ 52 ≤ base ∨ len = 0 ∨ 2 ^ 52 ≤ obj ∨ ofBytes (e.drop 25) ≠ 0 then none
      else
        match scopeOf sc with
        | none => none
        | some scope => bindRegion t base len obj scope (some grid)

/-! ## Launch checks -/

/-- A little-endian field of an image. -/
def field (b : List Byte) (off n : Nat) : Nat := ofBytes ((b.drop off).take n)

/-- The fields of an LPB (01 R49). -/
def parseLpb (b : List Byte) : Lpb :=
  { kimg := BitVec.ofNat 64 (field b 0 8), gridX := field b 8 4, gridY := field b 0x0C 2, gridZ := field b 0x0E 2,
    waves := field b 0x10 1, claim := field b 0x11 1, gang := field b 0x12 1, cls := field b 0x13 1,
    scratch := field b 0x14 4, maxRegs := field b 0x18 2, mode := BitVec.ofNat 8 (field b 0x1A 1),
    estimate := field b 0x1C 4, argBase := BitVec.ofNat 64 (field b 0x20 8),
    regTab := BitVec.ofNat 64 (field b 0x28 8), tlAddr := BitVec.ofNat 64 (field b 0x30 8),
    tlVal := BitVec.ofNat 64 (field b 0x38 8), lstkBase := BitVec.ofNat 64 (field b 0x40 8),
    lstkStride := field b 0x48 4, seqImg := BitVec.ofNat 64 (field b 0x50 8) }

/-- The first nonzero byte of a reserved range, as the offsets of failing checks (01 R516). -/
def reservedBytes (b : List Byte) (off n : Nat) : List Nat :=
  (((List.range n).map (fun i => off + i)).filter (fun i => field b i 1 != 0)).take 1

/-- The offsets at which the LPB alone fails its checks (01 R49, R50, R516; 07 R229; 18 R432). -/
def lpbFailures (b : List Byte) : List Nat :=
  let l := parseLpb b
  let no (bad : Bool) (off : Nat) : List Nat := if bad then [off] else []
  no (l.kimg.toNat == 0 || l.kimg.toNat % 256 != 0) 0x00 ++ no (l.gridX == 0) 0x08 ++ no (l.gridY == 0) 0x0C
    ++ no (l.gridZ == 0) 0x0E ++ no (l.waves == 0 || 32 < l.waves) 0x10 ++ no (l.claim == 0 || 16 < l.claim) 0x11
    ++ no (l.gang == 0 || 4 < l.gang || l.gridX * l.gridY * l.gridZ % l.gang != 0) 0x12 ++ no (3 < l.cls) 0x13
    ++ no (786432 < l.scratch || l.scratch % 128 != 0 || (2 ≤ l.gang && l.scratch < 2048)) 0x14
    ++ no (l.maxRegs == 0 || 256 < l.maxRegs || 896 < (l.waves + 5) / 6 * l.maxRegs) 0x18
    ++ no (64 ≤ l.mode.toNat) 0x1A ++ reservedBytes b 0x1B 1 ++ no (l.regTab.toNat % 64 != 0) 0x28
    ++ no (l.tlAddr.toNat % 8 != 0) 0x30 ++ no (l.lstkStride % 256 != 0) 0x48 ++ reservedBytes b 0x4C 4
    ++ no ((l.seqImg == 0) == l.engine || l.seqImg.toNat % 64 != 0) 0x50 ++ reservedBytes b 0x58 168

/-- The offsets at which a launch fails against its kernel image header (03 R118, R119; 01 R50). -/
def kernelFailures (l : Lpb) (k : List Byte) : List Nat :=
  let no (bad : Bool) (off : Nat) : List Nat := if bad then [off] else []
  no (field k 0 4 != 0x4B593901 || field k 4 2 != 1 || 4 ≤ field k 6 2 || field k 0x20 224 != 0) 0x00
    ++ no (l.scratch < field k 0x14 4) 0x14 ++ no (l.maxRegs < field k 0x10 2) 0x18
    ++ no (l.engine != bit (field k 6 2) 0 || (l.idem && !bit (field k 6 2) 1)) 0x1A

/-- Whether a sequencer image header is refused (07 R228, R229). -/
def imageBad (h : List Byte) : Bool :=
  let len := field h 8 4
  let pc (off : Nat) : Bool := field h off 2 % 4 != 0 || len ≤ field h off 2
  field h 0 4 != 0x53513901 || field h 4 2 != 1 || field h 6 2 != 0 || len < 8 || 0xE000 < len || len % 8 != 0
    || pc 0x0C || pc 0x0E || pc 0x10 || field h 0x12 46 != 0

/-- What the front end's read of a span meets. -/
def State.feSpan (s : State) (ctx va n : Nat) : Xlat :=
  (pagesOf va n).foldl (fun r p => r.worse (s.translateFe ctx p .read)) (.ok 0)

/-- The spans that the checks of a launch read beside its LPB (01 R50; 07 R229; 14 R379). -/
def State.launchSpans (s : State) (ctx : Nat) (b : List Byte) : List (Nat × Nat) :=
  let l := parseLpb b
  let own := lpbFailures b
  let headed (a : Nat) (n : List Byte → Nat) : List (Nat × Nat) :=
    (a, 64) :: ((s.readFe ctx a 64).map (fun h => (a + 64, n h))).toList
  (if own.contains 0x00 then [] else [(l.kimg.toNat, 256)])
    ++ (if !l.engine || own.contains 0x50 then []
      else headed l.seqImg.toNat (fun h => if imageBad h then 0 else field h 8 4))
    ++ (if l.regTab == 0 || own.contains 0x28 then []
      else headed l.regTab.toNat (fun h => if 64 < field h 0 8 ∨ field h 8 56 ≠ 0 then 0 else 32 * field h 0 8))

/-- Whether the checks of a launch must wait: a span they read meets a filling entry (16 R404). -/
def State.launchWaits (s : State) (ctx : Nat) (b : List Byte) : Bool :=
  (s.launchSpans ctx b).any (fun p => s.feSpan ctx p.1 p.2 == .wait)

/-- Records the reads of a launch's checks, where they stray (16 R414). -/
def State.noteLaunch (s : State) (ctx : Nat) (b : List Byte) : State :=
  (s.launchSpans ctx b).foldl (fun s p => s.noteFe ctx p.1 p.2) s

/-- The verdict on a launch: accepted with its parameters, entry point and the context's region table with
its entries added, or refused at an offset, by an unreadable image or not. -/
inductive Verdict where
  | accept (l : Lpb) (entry : W64) (regions : List Region)
  | refuse (offset : Nat) (unreadable : Bool)

/-- The lowest of the failing offsets (01 R516), each marked where its image could not be read (11 R330). -/
def lowestFailure (l : List (Nat × Bool)) : Option (Nat × Bool) :=
  l.foldl (fun best x =>
    match best with
    | none => some x
    | some b => if x.1 < b.1 then some x else if x.1 = b.1 then some (b.1, b.2 || x.2) else some b) none

/-- The checks of a launch on its LPB image, for the grid that would take number `id`. -/
def State.checkLaunch (s : State) (ctx : Nat) (b : List Byte) (id : Nat) : Verdict :=
  let l := parseLpb b
  let own := lpbFailures b
  let k := if own.contains 0x00 then some [] else s.readFe ctx l.kimg.toNat 256
  let kf : List (Nat × Bool) :=
    match k with
    | none => [(0x00, true)]
    | some [] => []
    | some k => (kernelFailures l k).map (fun o => (o, false))
  let sf : List (Nat × Bool) :=
    if !l.engine || own.contains 0x50 then []
    else
      match s.readFe ctx l.seqImg.toNat 64 with
      | none => [(0x50, true)]
      | some h =>
        if imageBad h then [(0x50, false)]
        else if (s.readFe ctx (l.seqImg.toNat + 64) (field h 8 4)).isNone then [(0x50, true)] else []
  let table := (s.context ctx).regions
  let rt : List (Nat × Bool) × List Region :=
    if l.regTab = 0 ∨ own.contains 0x28 = true then ([], table)
    else
      match s.readFe ctx l.regTab.toNat 64 with
      | none => ([(0x28, true)], table)
      | some h =>
        if 64 < field h 0 8 ∨ field h 8 56 ≠ 0 then ([(0x28, false)], table)
        else
          match s.readFe ctx (l.regTab.toNat + 64) (32 * field h 0 8) with
          | none => ([(0x28, true)], table)
          | some e =>
            match addImage table e id (field h 0 8) with
            | none => ([(0x28, false)], table)
            | some t => ([], t)
  match lowestFailure (own.map (fun o => (o, false)) ++ kf ++ sf ++ rt.1) with
  | some (o, u) => .refuse o u
  | none => .accept l (l.kimg + BitVec.ofNat 64 (field (k.getD []) 8 8)) rt.2

/-- Records a refused launch in CTXERR: the first since a clear with its place, later ones only counted
(11 R330, R334). -/
def State.refuseLaunch (s : State) (ctx : Nat) (lpb : W64) (offset : Nat) (unreadable : Bool) (queue : Nat)
    (device : Bool) : State :=
  s.updContext ctx (fun c =>
    let n := min 65535 (c.refusals + 1)
    if c.lpbInvalid || c.retryOut then { c with refusals := n, lpbInvalid := true }
    else { c with refusals := n, lpbInvalid := true, unreadable := unreadable, errOffset := offset,
                  errQueue := queue, errDevice := device, errAddr := lpb })

/-- An accepted grid (13 R347, R357). -/
def newGrid (id ctx : Nat) (queue : Option Nat) (lpb : W64) (l : Lpb) (entry : W64) (after : List Nat)
    (buffers : List BufferEntry) : Grid :=
  { id := id, ctx := ctx, queue := queue, lpbAddr := lpb, lpb := l, entry := entry, next := 0,
    total := l.gridX * l.gridY * l.gridZ, first := 0, token := 64 * (3 - l.cls), waited := 0, gen := 0, cores := [],
    completed := [], relaunch := [], retries := [], after := after, buffers := buffers, acquired := false,
    stolen := [], home := none }

/-- Accepts or refuses a launch whose LPB bytes are `b`; none could be read where `b` is none (01 R50, R51;
11 R330). -/
def State.acceptLaunch (s : State) (ctx : Nat) (lpb : W64) (b : Option (List Byte)) (queue : Nat) (device : Bool)
    (waitPrev : Bool) (buffers : List BufferEntry) : State :=
  match b with
  | none => s.refuseLaunch ctx lpb 0 true queue device
  | some b =>
    let s := s.noteLaunch ctx b
    match s.checkLaunch ctx b s.accepts with
    | .refuse o u => s.refuseLaunch ctx lpb o u queue device
    | .accept l entry regions =>
      let after := if waitPrev && !device then (s.queue queue).grids else []
      let g := newGrid s.accepts ctx (if device then none else some queue) lpb l entry after buffers
      let s : State := { s with grids := s.grids ++ [g], accepts := s.accepts + 1 }
      let s := s.updContext ctx (fun c => { c with regions := regions })
      if device then s else s.updQueue queue (fun q => { q with grids := q.grids ++ [g.id] })

/-! ## Device launch queues (11 R336, R337) -/

/-- Places an LPB image in the context's launch queue of its class, or at the tail of the overflow ring;
none where both are full, or the context is in error (11 R335, R336). The ring's slot must already be
known to translate; a core writes it. -/
def State.enqueueLaunch (s : State) (core ctx : Nat) (lpb : W64) (b : List Byte) (slot : Option Nat) : Option State :=
  let c := s.context ctx
  let cls := field b 0x13 1 % 4
  if c.err then none
  else if !(c.ovf.any (fun e => e.1 == cls)) && decide (((c.launchQ[cls]?).getD []).length < 64) then
    some (s.updContext ctx (fun c => { c with launchQ := modAt c.launchQ cls (fun q => q ++ [(lpb, b)]) }))
  else if c.ovf.length < c.ovfEnt then
    match slot with
    | some a => some ((s.putPhys core ctx a b).updContext ctx (fun c => { c with ovf := c.ovf ++ [(cls, lpb)] }))
    | none => none
  else none

/-- The address of entry `j` of a context's overflow ring. -/
def Context.ovfSlot (c : Context) (j : Nat) : Nat := c.ovfBase.toNat + 256 * ((c.ovfHead + j) % max 1 c.ovfEnt)

/-- OVERFLOW_MOVE (11 R336): the head entry of the overflow ring moves into its class queue where that has
room. An entry that cannot be read is a refusal (R330). That it moves while the context is in error too is the model's choice
(assumption log, entry 68). -/
def execEvOverflowMove (ctx : Nat) (s : State) : Res :=
  let c := s.context ctx
  match c.ovf with
  | [] => .next s
  | (cls, lpb) :: rest =>
    if 64 ≤ ((c.launchQ[cls]?).getD []).length then .next s
    else
      let a := c.ovfSlot 0
      let take (s : State) : State :=
        s.updContext ctx (fun c => { c with ovf := rest, ovfHead := (c.ovfHead + 1) % max 1 c.ovfEnt })
      match s.feSpan ctx a 256 with
      | .wait => .next s
      | _ =>
        match s.readFe ctx a 256 with
        | none => .next ((take s).refuseLaunch ctx lpb 0 true cls true)
        | some b =>
          .next (((take s).noteFe ctx a 256).updContext ctx (fun c => { c with launchQ := modAt c.launchQ cls (fun q => q ++ [(lpb, b)]) }))

/-- The non-empty launch queues of contexts that are not in error: class and context. -/
def State.launchCands (s : State) : List (Nat × Nat) :=
  s.contexts.flatMap (fun p =>
    if p.2.err then []
    else (List.range 4).filterMap (fun k => if ((p.2.launchQ[k]?).getD []).isEmpty then none else some (k, p.1)))

/-- DEVICE_LAUNCH_DEQUEUE (11 R337): the context's launch queue whose turn it is in the round, lowest class
first, gives its head to the front end, which waits while its checks meet a filling entry (16 R404). -/
def execEvDeviceLaunchDequeue (ctx : Nat) (s : State) : Res :=
  let all := s.launchCands
  let left := all.filter (fun x => !s.served.contains x)
  let s : State := if left.isEmpty then { s with served := [] } else s
  let left := if left.isEmpty then all else left
  let cls := left.foldl (fun m x => min m x.1) 4
  if left.contains (cls, ctx) then
    match (((s.context ctx).launchQ[cls]?).getD []) with
    | [] => .next s
    | (lpb, b) :: rest =>
      if s.launchWaits ctx b then .next s else
      let s : State := { s with served := (cls, ctx) :: s.served }
      let s := s.updContext ctx (fun c => { c with launchQ := setAt c.launchQ cls rest })
      .next (s.acceptLaunch ctx lpb (some b) cls true false [])
  else .next s

/-! ## Hardware queues (11 R318-R321) -/

/-- A queue after one write to its tail (11 R320). -/
def HwQueue.writeTail (x : HwQueue) (v : Nat) : HwQueue :=
  if !x.bound || x.halted then x
  else if v ≤ x.tail then x
  else if 2 ^ x.log2 < v - x.head then { x with tailJump := true, halted := true }
  else { x with tail := v }

/-- The writes to a queue's tail that have arrived in an fck so far: none, where the record is of another fck. -/
def HwQueue.burstIn (x : HwQueue) (fck : Nat) : TailBurst :=
  let new : TailBurst := { fck := fck, tail := x.tail, values := [] }
  match x.burst with
  | some b => if b.fck = fck then b else new
  | none => new

/-- A queue after one more write of an fck: the fck's writes are processed in ascending order of value (11 R320). A
queue that something else has halted ignores it. -/
def HwQueue.arriveTail (x : HwQueue) (fck v : Nat) : HwQueue :=
  let b := x.burstIn fck
  if x.halted && (!x.tailJump || b.values.isEmpty) then x
  else
    let all := b.values.filter (fun y => decide (y ≤ v)) ++ v :: b.values.filter (fun y => decide (v < y))
    let from_ : HwQueue := if b.values.isEmpty then x else { x with tail := b.tail, tailJump := false, halted := false }
    { all.foldl HwQueue.writeTail from_ with burst := some { b with values := all } }

/-- What QTAIL_WRITE does (11 R320). -/
def writeQtail (q : Nat) (v : W64) (s : State) : Res :=
  .next (s.updQueue q (fun x => x.arriveTail s.fck v.toNat))

/-- QTAIL_WRITE, once the module is ready (25 R495). -/
def execEvQtailWrite (q : Nat) (v : W64) (s : State) : Res := whenReady s (writeQtail q v s)

/-- Halts a queue at the packet under way: QERRPOS names its top-level header (11 R328, R329, R513). -/
def HwQueue.halt (x : HwQueue) (ring : Bool) : HwQueue :=
  { x with halted := true, ringFault := x.ringFault || ring, pktErr := x.pktErr || !ring, errPos := x.head, bufs := [],
           wait := .none }

/-- Leaves the indirect buffers that have been read to their end; QHEAD passes a top-level INDIRECT then
(11 R326). -/
def HwQueue.unwind (head : Nat) : List BufferPos → List BufferPos × Nat
  | [] => ([], head + 3)
  | b :: rest => if b.len ≤ b.next then HwQueue.unwind head rest else (b :: rest, head)

/-- Goes past a packet of `n` words. -/
def HwQueue.advance (x : HwQueue) (n : Nat) : HwQueue :=
  match x.bufs with
  | [] => { x with head := x.head + n, wait := .none }
  | b :: rest =>
    let u := HwQueue.unwind x.head ({ b with next := b.next + n } :: rest)
    { x with bufs := u.1, head := u.2, wait := .none }

/-- Goes past a packet of a queue. -/
def State.nextPacket (s : State) (q n : Nat) : State := s.updQueue q (fun x => x.advance n)

/-- Runs a packet of the queue the front end parses; none where no queue is current. -/
def onQueue (s : State) (f : Nat → HwQueue → Res) : Res :=
  match s.cur with
  | .packet q => f q (s.queue q)
  | _ => .next s

/-- The halt of a malformed packet (11 R329). -/
def State.badPacket (s : State) (q : Nat) : Res := .next (s.updQueue q (fun x => x.halt false))

/-- A body word of a packet. -/
def bodyWord (w : PacketWord) (i : Nat) : Nat := ((w.body[i]?).getD 0).toNat

/-- An address of a packet that is misaligned or has bits 63:52 set. -/
def badAddress (a align : Nat) : Bool := decide (2 ^ 52 ≤ a) || a % align != 0

/-- Scopes a packet may name: .dv, .sy, .pd (11 R323). -/
def packetScope (n : Nat) : Option Scope :=
  match n with
  | 3 => some .dv
  | 4 => some .sy
  | 5 => some .pd
  | _ => none

/-- NOP_PACKET (11 R324): parsed and discarded. -/
def execPkNop (w : PacketWord) (s : State) : Res :=
  onQueue s (fun q _ => if w.len = 0 then s.badPacket q else .next (s.nextPacket q w.len))

/-- A buffer entry of LAUNCH_GRID (11 R325); none where a field breaks its limits. -/
def bufferEntry (a b : Nat) : Option BufferEntry :=
  match packetScope (bits b 42 3) with
  | some sc =>
    if 2 ^ 52 ≤ a ∨ bits b 45 19 ≠ 0 ∨ bits b 0 40 = 0 then none
    else some { base := a, bytes := bits b 0 40, scope := sc, rel := bit b 41, acq := bit b 40 }
  | none => none

/-- The buffer entries of a LAUNCH_GRID body from entry `i` on. -/
def bufferEntries (w : PacketWord) : Nat → Option (List BufferEntry)
  | 0 => some []
  | n + 1 =>
    match bufferEntries w n, bufferEntry (bodyWord w (1 + 2 * n)) (bodyWord w (2 + 2 * n)) with
    | some l, some e => some (l ++ [e])
    | _, _ => none

/-- LAUNCH_GRID (11 R324, R325, R330). -/
def execPkLaunchGrid (w : PacketWord) (s : State) : Res :=
  onQueue s (fun q x =>
    let n := (w.len - 2) / 2
    match bufferEntries w n with
    | none => s.badPacket q
    | some bs =>
      let a := bodyWord w 0
      if w.len < 2 ∨ w.len % 2 ≠ 0 ∨ 64 < n ∨ 2 ≤ w.tspec.toNat ∨ badAddress a 64 = true then s.badPacket q
      else
        let b := s.readFe x.ctx a 256
        if s.feSpan x.ctx a 256 == .wait || b.any (s.launchWaits x.ctx) then .next s
        else
          .next (((s.noteFe x.ctx a 256).acceptLaunch x.ctx (BitVec.ofNat 64 a) b q false (w.tspec == 1) bs).nextPacket q w.len))

/-- INDIRECT (11 R324, R326): its buffer is parsed before the next word. -/
def execPkIndirect (w : PacketWord) (s : State) : Res :=
  onQueue s (fun q x =>
    let n := bodyWord w 1
    if w.len ≠ 3 ∨ w.tspec ≠ 0 ∨ badAddress (bodyWord w 0) 8 = true ∨ n = 0 ∨ 2 ^ 20 < n ∨ 3 ≤ x.bufs.length then s.badPacket q
    else
      .next (s.updQueue q (fun x => { x with
        bufs := ⟨bodyWord w 0, n, 0⟩ :: (match x.bufs with
          | [] => []
          | b :: rest => { b with next := b.next + 3 } :: rest) })))

/-- Whether parsing must wait for the queue's earlier grids, and the wait (11 R324). -/
def State.waitGrids (s : State) (q : Nat) : Option State :=
  if (s.queue q).grids.isEmpty then none
  else some (s.updQueue q (fun x => { x with wait := .grids x.grids }))

/-- A timeline write packet (11 R324, R513; 06 R213). -/
def timelinePacket (add : Bool) (w : PacketWord) (s : State) : Res :=
  onQueue s (fun q x =>
    match packetScope (bits w.tspec.toNat 0 3) with
    | none => s.badPacket q
    | some _ =>
      let a := BitVec.ofNat 64 (bodyWord w 0)
      let v := BitVec.ofNat 64 (bodyWord w 1)
      if w.len ≠ 3 ∨ 16 ≤ w.tspec.toNat ∨ badAddress (bodyWord w 0) 8 = true then s.badPacket q
      else
        match (if bit w.tspec.toNat 3 then s.waitGrids q else none) with
        | some s => .next s
        | none =>
          match s.translateFe x.ctx (bodyWord w 0) .atomic with
          | .ok d =>
            match timelinePlace d with
            | .slice => .next ((s.performTimeline x.ctx a d add v).nextPacket q 3)
            | .host =>
              .next ((s.sendHostOp x.ctx a d add v (.queue q)).updQueue q (fun x => { x with wait := .hostOp s.hostOpId }))
            | .nowhere => .next ((s.timelineFail x.ctx).nextPacket q 3)
          | .wait => .next s
          | _ => .next (s.updQueue q (fun x => x.halt true)))

/-- TL_ADD. -/
def execPkTlAdd (w : PacketWord) (s : State) : Res := timelinePacket true w s

/-- TL_SET. -/
def execPkTlSet (w : PacketWord) (s : State) : Res := timelinePacket false w s

/-- BARRIER (11 R324). -/
def execPkBarrier (w : PacketWord) (s : State) : Res :=
  onQueue s (fun q _ =>
    if w.len ≠ 1 ∨ w.tspec ≠ 0 then s.badPacket q
    else
      match s.waitGrids q with
      | some s => .next s
      | none => .next (s.nextPacket q 1))

/-- PARSING_RESUMES (11 R324): the grids a packet waited for have completed, and it is parsed again. -/
def execEvParsingResumes (q : Nat) (s : State) : Res :=
  match (s.queue q).wait with
  | .grids [] => .next (s.updQueue q (fun x => { x with wait := .none }))
  | _ => .next s

/-! ## Context error status (11 R331, R334) -/

/-- What CTXERR_WRITE does (11 R334): writing 1 to LPB_INVALID clears it with REFUSALS, OFFSET, QUEUE and DEVICE;
UNREADABLE and TLFAIL clear by writing 1. -/
def writeCtxerr (ctx : Nat) (v : W64) (s : State) : Res :=
  .next (s.updContext ctx (fun c =>
    let c := if v.getLsbD 2 then { c with lpbInvalid := false, refusals := 0, errOffset := 0, errQueue := 0, errDevice := false } else c
    { c with unreadable := c.unreadable && !v.getLsbD 4, tlFail := c.tlFail && !v.getLsbD 1 }))

/-- CTXERR_WRITE, once the module is ready (25 R495). -/
def execEvCtxerrWrite (ctx : Nat) (v : W64) (s : State) : Res := whenReady s (writeCtxerr ctx v s)

end Sys2Proof.Machine
end

