-- ==== Sys2Proof/Machine/Present.lean ====
section
/-! DEFINITION. The presentation machine's heads: frame descriptors and their handover (23 R479; 24 R489),
RUN and its checks (24 R484, R485, R494), beam lines (23 R480; 24 R486), pose records (23 R481; 09 R300),
bands (24 R487, R488), guard points and the bypass (24 R491, R515), capture (24 R494). -/

namespace Sys2Proof.Machine

/-! ## Frame descriptors (23 R479) -/

/-- First byte of the presentation partition (01 R46). -/
def presBase : Nat := 0x004200000000
/-- The presentation partition's size. -/
def presBytes : Nat := 0x4000000

/-- Whether a plane keeps its limits. -/
def planeOk (off str size w h : Nat) : Bool :=
  off % 64 == 0 && decide (size * w ≤ str) && str % size == 0 && decide (off + (h - 1) * str + size * w ≤ presBytes)

/-- The frame a descriptor gives; none where it breaks its table. -/
def parseDesc (b : List Byte) : Option FrameDesc :=
  let d : FrameDesc :=
    { width := field b 0 2, height := field b 2 2, colOff := field b 8 4, colStr := field b 0x0C 4,
      depOff := field b 0x10 4, depStr := field b 0x14 4, motOff := field b 0x18 4, motStr := field b 0x1C 4 }
  if 1 ≤ d.width ∧ d.width ≤ 8192 ∧ 1 ≤ d.height ∧ d.height ≤ 8192 ∧ field b 4 4 = 0 ∧ field b 0x20 32 = 0
      ∧ planeOk d.colOff d.colStr 8 d.width d.height = true ∧ planeOk d.depOff d.depStr 4 d.width d.height = true
      ∧ planeOk d.motOff d.motStr 4 d.width d.height = true then some d
  else none

/-- PRESENT (11 R324, R513; 24 R489): it waits for the queue's grids, whose completion has released their
writes at .dv (01 R52); the descriptor becomes pending at each head named. -/
def execPkPresent (w : PacketWord) (s : State) : Res :=
  onQueue s (fun q x =>
    let b := bodyWord w 0
    if w.len ≠ 3 ∨ w.tspec ≠ 0 ∨ bit b 3 = true ∨ bits b 8 56 ≠ 0 ∨ badAddress (bodyWord w 1) 64 = true then s.badPacket q
    else
      match s.waitGrids q with
      | some s => .next s
      | none =>
        match s.feSpan x.ctx (bodyWord w 1) 64 with
        | .wait => .next s
        | _ =>
          match s.readFe x.ctx (bodyWord w 1) 64 with
          | none => .next (s.updQueue q (fun x => x.halt true))
          | some d =>
            let s := s.noteFe x.ctx (bodyWord w 1) 64
            let slot := bits b 0 3
            let s := ((List.range 4).filter (fun h => bit b (4 + h))).foldl (fun s h =>
              s.updHead h (fun x => { x with
                pending := (x.pending.filter (fun p => p.1 != slot)) ++ [(slot, parseDesc d)] })) s
            .next (s.nextPacket q 3))

/-! ## Views (24 R489, R490) -/

/-- The view with one pending PRESENT in force. -/
def View.take (v : View) (p : Nat × Option FrameDesc) : View := { slots := setAt v.slots p.1 p.2, cur := some p.1 }

/-- The frame a view holds in a slot. -/
def View.slot (v : View) (n : Nat) : Option FrameDesc := ((v.slots[n]?).getD none)

/-- The frame in a view's current slot. -/
def View.current (v : View) : Option FrameDesc := v.cur.bind v.slot

/-- The view in force for a frame. -/
def Head.viewOf (x : Head) (f : Nat) : View := ((x.frames.find? (fun y => y.frame == f)).map (·.view)).getD x.view

/-- The view point of a frame: the PRESENTs handed over come into force for it (24 R489). -/
def Head.viewPoint (x : Head) (f : Nat) : Head :=
  if x.frames.any (fun y => y.frame == f) then x
  else
    let v := x.pending.foldl View.take x.view
    { x with pending := [], view := v, frames := x.frames ++ [⟨f, v, 0⟩] }

/-- Lines of a presented frame. -/
def Head.total (x : Head) : Nat := x.vtot + 1

/-- Whether a presented frame is unfinished (24 R490). -/
def State.unfinished (s : State) (h : Nat) (f : HeadFrame) : Bool :=
  let x := s.head h
  decide (0 < f.bands) && (decide (x.line ≤ f.frame * x.total + x.vact)
    || s.lineCores.any (fun p => p.2.band.any (fun b => b.head == h && b.frame == f.frame)))

/-- SLOTUSE (24 R490). -/
def State.slotUse (s : State) : Nat :=
  (List.range 4).foldl (fun n h =>
    let x := s.head h
    x.frames.foldl (fun n f =>
      if s.unfinished h f then
        let cur := f.view.cur
        let prev := ((x.frames.find? (fun y => y.frame + 1 == f.frame)).bind (fun y => y.view.cur))
        [cur, prev].foldl (fun n c => match c with
          | some k => n ||| 2 ^ (8 * k + h)
          | none => n) n
      else n) n) 0

/-! ## Pose records (23 R481; 09 R300) -/

/-- The record published by the end of the fck before `fck`. -/
def Head.record (x : Head) (fck : Nat) : List W32 := if x.publishedAt < fck then x.published else x.before

/-- Latches the next target line's record. -/
def Head.latchOne (x : Head) : Head :=
  { x with latched := ((x.latchedTo, x.snap) :: x.latched).take 256, latchedTo := x.latchedTo + 1 }

/-- Latches `n` target lines. -/
def Head.latchMany (x : Head) : Nat → Head
  | 0 => x
  | n + 1 => x.latchOne.latchMany n

/-- The record latched for a line; the oldest record kept for an older one. -/
def Head.recordOf (x : Head) (l : Int) : List W32 :=
  match x.latched.find? (fun p => (p.1 : Int) == l) with
  | some p => p.2
  | none => ((x.latched.getLast?).map (·.2)).getD (List.replicate 16 0)

/-- The line a 32-bit beam line count names, by signed difference from LCNT (09 R299). -/
def Head.unwrap (x : Head) (l : W32) : Int := x.line + signed 32 (l - BitVec.ofNat 32 x.line).toNat

/-! ## Pixels (09 R313; 24 R491) -/

/-- The component codes' largest value. -/
def Head.maxCode (x : Head) : Nat := 2 ^ (8 + 2 * x.depth) - 1

/-- The code of an f32 component at `n` bits, whose largest code is `top` (09 R313). -/
def componentCode (top : Nat) (v : W32) : Nat :=
  match f32.value v.toNat with
  | .nan _ => 0
  | .inf neg => if neg then 0 else top
  | .fin neg m e =>
    if neg || m == 0 then 0
    else if FVal.lt (.fin false 1 0) (.fin neg m e) then top
    else (finToInt .rn false (m * top) e).1.toNat

/-- An f16 bit pattern as f32 (02 R65: exact). -/
def halfToF32 (x : Nat) : W32 := BitVec.ofNat 32 (convFF f32 .rn false (f16.value x)).1

/-- floor of a value, clamped to 0 and `n` − 1; an infinity takes the edge (24 R491). -/
def clampFloor (n : Nat) (v : FVal) : Nat :=
  match v with
  | .nan _ => 0
  | .inf neg => if neg then 0 else n - 1
  | .fin neg m e => (max 0 (min ((finToInt .rd neg m e).1) ((n : Int) - 1))).toNat

/-- A shift of the bypass: a pose word as f32, NaN counting as 0. -/
def shiftVal (on : Bool) (w : W32) : FVal :=
  if on then (match f32.value w.toNat with
    | .nan _ => .fin false 0 0
    | v => v) else .fin false 0 0

/-- x + 0.5 + shift. -/
def centred (x : Nat) (v : FVal) : FVal := (FVal.add .rn (.fin false (2 * x + 1) (-1)) v).1

/-- The bypass's pixel for column `x` of row `r` of frame `f`, line `l` (24 R491). -/
def State.bypassPixel (s : State) (h f l r x : Nat) : Nat × Nat × Nat :=
  let hd := s.head h
  let cfg := hd.bypCfg.toNat
  let top := hd.maxCode
  match (if bit cfg 0 then (hd.viewOf f).current else none) with
  | none => (min (bits cfg 16 12) top, min (bits cfg 28 12) top, min (bits cfg 40 12) top)
  | some d =>
    let rec_ := hd.recordOf l
    let i := clampFloor d.width (centred x (shiftVal (bit cfg 1) ((rec_[bits cfg 4 4]?).getD 0)))
    let j := clampFloor d.height (centred r (shiftVal (bit cfg 2) ((rec_[bits cfg 8 4]?).getD 0)))
    let t := s.readMem (presBase + d.colOff + j * d.colStr + i * 8) 6
    let c (k : Nat) : Nat := componentCode top (halfToF32 (field t (2 * k) 2))
    (c 0, c 1, c 2)

/-! ## Capture (24 R494) -/

/-- The bytes a captured line writes: R, G, B and 0 for each pixel. -/
def captureBytes (px : List (Nat × Nat × Nat)) : List Byte :=
  px.flatMap (fun p => toBytes 2 p.1 ++ toBytes 2 p.2.1 ++ toBytes 2 p.2.2 ++ toBytes 2 0)

/-- Performs the capture writes of the oldest `n` lines in the path, those in local memory. -/
def State.drainCapture (s : State) (h n : Nat) : State :=
  let q := (s.head h).capQ
  let s := (q.take n).foldl (fun s e => if e.2.1 + e.2.2.length ≤ localBytes then s.writeMem e.2.1 e.2.2 else s) s
  s.updHead h (fun x => { x with capQ := q.drop n })

/-- A presented line enters the capture path, or is dropped where the path holds 16 lines (24 R494). How many
of the lines in the path have been written by then is a free value (assumption log, entry 2). -/
def State.captureLine (s : State) (h f r : Nat) (px : List (Nat × Nat × Nat)) : State :=
  let hd := s.head h
  if !hd.capEn then s
  else
    let (v, s) := s.free
    let s := s.drainCapture h (v.toNat % (hd.capQ.length + 1))
    let a := hd.capBase + ((f % (hd.capN + 1)) * (hd.vact + 1) + r) * hd.capStr.toNat
    s.updHead h (fun x =>
      let x := if 16 ≤ x.capQ.length then { x with capDrop := x.capDrop + 1 } else { x with capQ := x.capQ ++ [(f, a, captureBytes px)] }
      if r = x.vact then { x with capDone := x.capDone ++ [f] } else x)

/-- CAPTURE_FRAME_DONE (24 R494): a frame's capture writes have all been performed, up to the last line of it in the
path, and CAPCNT advances. -/
def execEvCaptureFrameDone (head : Nat) (s : State) : Res :=
  match (s.head head).capDone with
  | [] => .next s
  | f :: rest =>
    let q := (s.head head).capQ
    let s := s.drainCapture head (q.length - (q.reverse.takeWhile (fun e => e.1 != f)).length)
    .next (s.updHead head (fun x => { x with capDone := rest, capCnt := x.capCnt + 1 }))

/-! ## Guard points (24 R491, R515) -/

/-- Closes the next line: unwritten pixels of a visible line are filled by the bypass, and the line is
captured. A line at or beyond the one at which a cleared RUN stops the head is never presented (24 R485): nothing of
it is filled or captured. -/
def State.closeLine (s : State) (h : Nat) : State :=
  let hd := s.head h
  let l := hd.closedTo
  let f := l / hd.total
  let r := l % hd.total
  let s := s.updHead h (fun x => { x with closedTo := l + 1 })
  if hd.vact < r || hd.stopAt.any (fun n => decide (n ≤ l)) then s
  else
    let s := s.updHead h (fun x => x.viewPoint f)
    let mine := hd.fifo.filter (fun p => p.1 == l)
    let gaps := (List.range (hd.hact + 1)).filter (fun x => mine.all (fun p => p.2.1 != x))
    let fill := gaps.map (fun x => (l, x, s.bypassPixel h f l r x))
    let s := s.updHead h (fun x => { x with
      fifo := x.fifo ++ fill, bypass := x.bypass + BitVec.ofNat 32 gaps.length,
      bypLines := if gaps.isEmpty then x.bypLines else x.bypLines + 1 })
    let all := (s.head h).fifo.filter (fun p => p.1 == l)
    s.captureLine h f r ((List.range (hd.hact + 1)).map (fun x =>
      ((all.find? (fun p => p.2.1 == x)).map (fun p => p.2.2)).getD (0, 0, 0)))

/-- Closes `n` lines. -/
def State.closeLines (s : State) (h : Nat) : Nat → State
  | 0 => s
  | n + 1 => (s.closeLine h).closeLines h n

/-- The first line whose guard point has not come once LCNT stands at its line (24 R491). -/
def Head.closeEnd (x : Head) : Nat := x.line + x.guard + 1

/-- GUARD_POINT (24 R491): LCNT has become L − GUARD, and line L is closed. -/
def execEvGuardPoint (head : Nat) (s : State) : Res :=
  let x := s.head head
  if x.running && decide (x.closedTo < x.closeEnd) then .next (s.closeLine head) else .next s

/-- POSE_LATCH (23 R481): LCNT has become L − LATCH, and the record for line L is latched. -/
def execEvPoseLatch (head : Nat) (s : State) : Res :=
  let x := s.head head
  if x.running && decide (x.latchedTo < x.line + x.latch + 1) then .next (s.updHead head Head.latchOne) else .next s

/-! ## Starting and stopping (24 R484, R485) -/

/-- The line cores assigned to a head, in ascending number. -/
def Head.assigned (x : Head) : List Nat := (List.range 16).filter (fun c => x.cores.getLsbD c)

/-- Whether the stream of a head fits its DisplayPort link (24 R485, R494): the bits of a line's pixels against
what the lanes carry in a line's time, after the link's coding (assumption log, entry 18). -/
def Head.streamFits (x : Head) : Bool :=
  let lanes := 2 ^ x.lanesDp.toNat
  let bpp16 := if x.dsc then x.bpp16.toNat else 48 * (8 + 2 * x.depth)
  let need := (x.hact + 1) * bpp16 * 512
  let okDsc := !x.dsc || (decide (128 ≤ x.bpp16.toNat) && decide (x.bpp16.toNat ≤ 384))
  okDsc &&
    (match x.rate.toNat with
     | 3 => decide (need * 100 ≤ 16 * lanes * 81 * 8 * x.linePer)
     | r => decide (need * 1320 ≤ 16 * lanes * (if r = 0 then 100 else if r = 1 then 135 else 200) * 128 * x.linePer))

/-- Whether a CAPCFG or a CAPGEO that was written while CAPEN was 1 breaks its limits (24 R494); the limits are those
of the registers at the RUN write, which the rule leaves open (assumption log, entry 69). -/
def Head.captureBad (x : Head) : Bool :=
  (x.cfgHeld && x.capBase % 256 != 0)
    || (x.geoHeld && (x.capStr.toNat % 256 != 0 || decide (x.capStr.toNat < 8 * (x.hact + 1))))

/-- Whether a head refuses to run with the registers it holds (24 R485, R494; 25 R504 steps 15 and 17). -/
def State.runRefused (s : State) (h : Nat) : Bool :=
  let x := s.head h
  x.cores == 0 || (List.range 4).any (fun k => k != h && (s.head k).run && (s.head k).cores &&& x.cores != 0)
    || x.depth == 3 || decide (x.vtot ≤ x.vact) || decide (x.latch ≤ x.guard) || decide (x.linePer < 32 * (x.hact + 1))
    || x.bandLines == 0 || x.guard == 0 || x.running || x.lpAddr % 16 != 0
    || decide (localBytes < x.lpAddr + 16 * (x.lpLen + 1)) || x.lanesDp == 3 || (x.dpEn && !x.streamFits) || x.captureBad
    || s.modl.presOff || s.modl.deadHeads.contains h

/-- The bundles of a line program at an address. -/
def State.loadBundles (s : State) (a n : Nat) : List (BitVec 128) :=
  (List.range n).map (fun i => BitVec.ofNat 128 (ofBytes (s.readMem (a + 16 * i) 16)))

/-- Starts a line core on a head's program (09 R290); its fault status keeps its value. -/
def LineCore.begin (c : LineCore) (h : Nat) (store : List (BitVec 128)) : LineCore :=
  { LineCore.reset with
    faultPc := c.faultPc, faultSlots := c.faultSlots, faultCode := c.faultCode, faultValid := c.faultValid,
    store := store, head := some h }

/-- A line leaves the line FIFO for the link as its scan begins (24 R486). -/
def Head.scanLine (x : Head) (n : Nat) : Head :=
  { x with scan := (x.fifo.filter (fun p => p.1 == n)).map (fun p => p.2), fifo := x.fifo.filter (fun p => n < p.1) }

/-- Starts a head (24 R485; R515; 23 R481). -/
def State.startHead (s : State) (h : Nat) : State :=
  let x := s.head h
  let store := s.loadBundles x.lpAddr (x.lpLen + 1)
  let s := x.assigned.foldl (fun s c => s.updLineCore c (fun l => l.begin h store)) s
  let s := s.updHead h (fun x =>
    ({ x with run := true, running := true, start := s.lck, line := 0, stopAt := none, snap := x.record s.fck,
              latchedTo := 0, closedTo := 0, latched := [], frames := [],
              next := (List.range x.assigned.length).map (fun r => (0, r)), fifo := [], scan := [] } : Head).latchMany x.latch)
  (s.closeLines h x.guard).updHead h (fun x => x.scanLine 0)

/-- The fields of HCTL but RUN. -/
def Head.setControl (x : Head) (v : Nat) : Head :=
  { x with cores := BitVec.ofNat 16 (bits v 16 16), capEn := bit v 4, dpEn := bit v 3, depth := bits v 1 2 }

/-- A write of HCTL (24 R484, R485). -/
def State.writeHctl (s : State) (h : Nat) (v : W64) : State :=
  let x := s.head h
  let s := if x.run || x.running then s else s.updHead h (fun x => x.setControl v.toNat)
  if v.getLsbD 0 && !x.run then
    if s.runRefused h then s.updHead h (fun x => { x with cfgErr := true }) else s.startHead h
  else if !v.getLsbD 0 && x.run then
    s.updHead h (fun x => { x with run := false, stopAt := some ((x.line / x.total + 1) * x.total) })
  else s

/-- What RUN_SET does (24 R485): a write of HCTL that sets RUN. -/
def setRun (head : Nat) (v : W64) (s : State) : Res :=
  if v.getLsbD 0 && !(s.head head).run then .next (s.writeHctl head v) else .next s

/-- RUN_SET, once the module is ready (25 R495). -/
def execEvRunSet (head : Nat) (v : W64) (s : State) : Res := whenReady s (setRun head v s)

/-- What RUN_CLEAR does (24 R485): a write of HCTL that clears RUN. -/
def clearRun (head : Nat) (v : W64) (s : State) : Res :=
  if !v.getLsbD 0 && (s.head head).run then .next (s.writeHctl head v) else .next s

/-- RUN_CLEAR, once the module is ready (25 R495). -/
def execEvRunClear (head : Nat) (v : W64) (s : State) : Res := whenReady s (clearRun head v s)

/-- Whether the beam has reached the start of the line after the one being scanned (24 R486). -/
def Head.lineDue (x : Head) (lck : Nat) : Bool := decide ((x.line + 1) * x.linePer ≤ (lck - x.start) * 256)

/-! ## Lines and bands -/

/-- Bands of a presented frame (24 R487). -/
def Head.bandCount (x : Head) : Nat := (x.vact + x.bandLines) / x.bandLines

/-- The next band of a rank after band `k` of frame `f`, `n` line cores sharing. -/
def Head.bandAfter (x : Head) (n rank f k : Nat) : Nat × Nat := if k + n < x.bandCount then (f, k + n) else (f + 1, rank)

/-- Whether a rank's next band may be dispatched now (24 R487, R488, R485). -/
def State.bandReady (s : State) (h rank core : Nat) : Option (Nat × Nat) :=
  let x := s.head h
  let c := s.lineCore core
  match x.next[rank]? with
  | none => none
  | some (f, k) =>
    if x.running && x.stopAt.isNone && c.head == some h && c.band.isNone && !c.stopped
        && !s.modl.fencedLine.contains core && decide (rank < x.bandCount)
        && decide (f * x.total + k * x.bandLines ≤ x.line + x.lead) then some (f, k) else none

/-- Whether a line core's band is to be aborted: LCNT has reached its last line + 1 (24 R488). -/
def State.overdue (s : State) (c : LineCore) : Bool :=
  match c.band with
  | some b => (s.head b.head).running && decide (b.first + b.lines ≤ (s.head b.head).line)
  | none => false

/-- The assigned line core whose next band is due, of lowest rank: its number, its rank, and the band's frame and
number (24 R487). -/
def State.dueBand (s : State) (h : Nat) : Option (Nat × Nat × Nat × Nat) :=
  (s.head h).assigned.zipIdx.findSome? (fun p => (s.bandReady h p.2 p.1).map (fun b => (p.1, p.2, b.1, b.2)))

/-- Whether all that the line being scanned makes due has happened: the latch (23 R481), the guard point (24 R491), the
aborts (R488) and the dispatches (R487). -/
def State.lineSettled (s : State) (h : Nat) : Bool :=
  let x := s.head h
  x.latchedTo == x.line + x.latch + 1 && x.closedTo == x.closeEnd
    && s.lineCores.all (fun p => !(p.2.head == some h && s.overdue p.2)) && (s.dueBand h).isNone

/-- HEAD_STOP (24 R485): the frame in which RUN was cleared has ended. -/
def execEvHeadStop (head : Nat) (s : State) : Res :=
  let x := s.head head
  if x.running && x.stopAt == some (x.line + 1) && x.lineDue s.lck && s.lineSettled head then
    let s := s.updHead head (fun x => { x with running := false, stopAt := none, frames := [], fifo := [], scan := [] })
    .next { s with lineCores := s.lineCores.map (fun p =>
      (p.1, if p.2.head = some head then { p.2 with head := none, band := none, stopped := true } else p.2)) }
  else .next s

/-- LINE_START (23 R480; 24 R486): the next line is scanned. It waits for all that the line before makes due. -/
def execEvLineStart (head : Nat) (s : State) : Res :=
  let x := s.head head
  if x.running && x.stopAt != some (x.line + 1) && x.lineDue s.lck && s.lineSettled head then
    let n := x.line + 1
    let s := s.updHead head (fun x => ({ x with line := n, snap := x.record s.fck } : Head).scanLine n)
    let now := n / x.total
    .next (s.updHead head (fun x => { x with
      frames := x.frames.filter (fun f => decide (now < f.frame + 2) || s.unfinished head f
        || x.frames.any (fun g => g.frame == f.frame + 1 && s.unfinished head g)) }))
  else .next s

/-- BAND_DISPATCH (24 R487, R489): the lowest rank whose next band is due takes it. -/
def execEvBandDispatch (head : Nat) (s : State) : Res :=
  let x := s.head head
  match s.dueBand head with
  | none => .next s
  | some (core, rank, f, k) =>
    let first := f * x.total + k * x.bandLines
    let rows := min x.bandLines (x.vact + 1 - k * x.bandLines)
    let s := s.updHead head (fun x =>
      let x := x.viewPoint f
      { x with next := setAt x.next rank (x.bandAfter x.assigned.length rank f k),
               frames := x.frames.map (fun g => if g.frame = f then { g with bands := g.bands + 1 } else g) })
    .next (s.updLineCore core (fun c => { c with
      pc := 0, band := some ⟨head, f, first, rows⟩,
      results := c.results,
      k := setAt (setAt (setAt c.k 1 (BitVec.ofNat 32 first)) 2 (BitVec.ofNat 32 rows)) 3 (BitVec.ofNat 32 rank) }))

/-- Whether an EMIT is for a visible row of a head that scans (23 R480): one for a blanking line is ignored, and so is one
whose line lies before line 0 (assumption log, entry 69). -/
def Head.showsEmit (x : Head) (e : LineEmit) : Bool :=
  x.running && decide (0 ≤ e.line) && decide (e.line.toNat % x.total ≤ x.vact)

/-- Counts EMITs that are ignored because they come late (24 R491). -/
def State.countLate (s : State) (h n : Nat) : State :=
  s.updHead h (fun x => { x with late := x.late + BitVec.ofNat 32 n })

/-- An EMIT reaches the scan FIFO (09 R313; 24 R491, R515): it is late from the fck in which LCNT becomes L − GUARD on,
also before the line's guard point has been taken in that fck. -/
def State.emitArrives (s : State) (h : Nat) (e : LineEmit) : State :=
  let x := s.head h
  let l := e.line.toNat
  if !x.showsEmit e then s
  else if l < x.closedTo ∨ l < x.closeEnd then s.countLate h 1
  else
    s.updHead h (fun x => { x with
      fifo := x.fifo.filter (fun p => !(p.1 == l && e.pixels.any (fun q => q.1 == p.2.1))) ++ e.pixels.map (fun q => (l, q)) })

/-- Aborts the band of a line core where it is overdue (24 R488): the EMITs still in flight count as late, and the other
results in flight will be written. -/
def State.abortBand (s : State) (lc : Nat) : State :=
  let c := s.lineCore lc
  match c.band with
  | some b =>
    if s.overdue c then
      let lost := (c.results.filterMap (·.emit)).filter (s.head b.head).showsEmit
      let s := s.updLineCore lc (fun c => { c with band := none, results := c.results.filter (fun r => r.emit.isNone) })
      (s.updHead b.head (fun x => { x with overrun := x.overrun + 1 })).countLate b.head lost.length
    else s
  | none => s

/-- BAND_ABORT (24 R488). -/
def execEvBandAbort (lc : Nat) (s : State) : Res := .next (s.abortBand lc)

/-- What POSECOMMIT does (23 R481; 00 R9): bits 63:1 must be 0; bit 0 publishes the staged record. -/
def commitPose (head : Nat) (v : W64) (s : State) : Res :=
  if v ≠ 1 then .next s
  else
    .next (s.updHead head (fun x => { x with
      before := x.record s.fck, publishedAt := s.fck, poseSeq := x.poseSeq + 1,
      published := x.poseW.flatMap (fun w => [w.setWidth 32, BitVec.ofNat 32 (w.toNat / 2 ^ 32)]) }))

/-- POSECOMMIT, once the module is ready (25 R495). -/
def execEvPosecommit (head : Nat) (v : W64) (s : State) : Res := whenReady s (commitPose head v s)

end Sys2Proof.Machine
end

