-- ==== Sys2Proof/Machine/Mmio.lean ====
section
/-! DEFINITION. The device register block: its pages, what each register reads, what a write does, who may
reach it (00 R7-R10, R509; 11 R317, R318, R331-R341; 13 R345; 14 R385; 16 R406-R407, R411, R414; 22 R459, R468-R470,
R478; 24 R483-R494; 23 R481; 25 R495-R497), and the host's accesses to memory (14 R388; 25 R499). -/

namespace Sys2Proof.Machine

/-! ## Pages -/

/-- A page of the register block (11 R317; 13 R345; 16 R414; 22 R459; 24 R483). -/
inductive RegPage where
  | mailbox (f : Nat)
  | queue (q : Nat)
  | context (c : Nat)
  | slots
  | core (n : Nat)
  | power
  | tile (t : Nat)
  | pres
  | head (h : Nat)
  | none
  deriving DecidableEq, Repr

/-- The page of an offset in the block. -/
def regPage (off : Nat) : RegPage :=
  let p := off / 0x1000
  if p < 17 then .mailbox p
  else if 0x100 ≤ p ∧ p < 0x200 then .queue (p - 0x100)
  else if 0x200 ≤ p ∧ p < 0x240 then .context (p - 0x200)
  else if p = 0x300 then .slots
  else if 0x400 ≤ p ∧ p < 0x700 then .core (p - 0x400)
  else if p = 0x800 then .power
  else if 0x810 ≤ p ∧ p < 0x850 then .tile (p - 0x810)
  else if p = 0x900 then .pres
  else if 0x910 ≤ p ∧ p < 0x914 then .head (p - 0x910)
  else .none

/-- A field at its place in a register. -/
def fieldAt (v lo : Nat) : Nat := v * 2 ^ lo
/-- A flag at its place. -/
def flagAt (b : Bool) (lo : Nat) : Nat := b.toNat * 2 ^ lo

/-! ## Reads -/

/-- HEALTH (25 R496). -/
def ModuleState.health (m : ModuleState) : Nat :=
  let cores := (List.range 768).filter (fun c => m.fencedCores.contains c || m.fencedTiles.contains (tileOf c))
  fieldAt m.fencedLine.length 59 + fieldAt m.deadLinks.length 55 + fieldAt m.fencedTiles.length 33
    + fieldAt cores.length 23 + fieldAt m.slowCh.length 16 + fieldAt m.failStep 8 + flagAt m.uncErr 4
    + flagAt m.fwFail 3 + flagAt m.degraded 2 + flagAt m.replace 1 + flagAt m.ready 0

/-- Registers of a mailbox page (11 R340; 25 R496). -/
def State.readMailbox (s : State) (f off : Nat) : Nat :=
  let m := s.mailbox f
  if off < 0x40 then ((m.req[off / 8]?).getD 0).toNat
  else if off < 0x80 then ((m.rsp[off / 8 - 8]?).getD 0).toNat
  else match off with
    | 0x088 => fieldAt m.seq.toNat 32 + fieldAt m.result.toNat 8 + fieldAt s.modl.fwState 4 + flagAt m.done 1 + flagAt m.busy 0
    | 0x100 => ((assoc s.ferr f).getD 0).toNat
    | 0x108 => s.modl.health
    | _ => 0

/-- WAITING of QSTAT: parsing waits on a TL_WAIT, a BARRIER or a drain (11 R318). -/
def QueueWait.waiting : QueueWait → Bool
  | .timeline _ _ _ _ | .grids _ => true
  | .none | .hostOp _ => false

/-- Registers of a queue page (11 R318). -/
def State.readQueue (s : State) (q off : Nat) : Nat :=
  let x := s.queue q
  match off with
  | 0x00 => x.tail % 2 ^ 64
  | 0x08 => x.head % 2 ^ 64
  | 0x10 => x.base.toNat % 2 ^ 52
  | 0x18 => flagAt x.bound 31 + fieldAt x.log2 16 + fieldAt x.ctx 8
  | 0x20 => flagAt (!x.bound || (x.head == x.tail && x.bufs.isEmpty && x.wait == .none)) 6 + flagAt x.wait.waiting 5
      + flagAt x.ctxErr 4 + flagAt x.ringFault 3 + flagAt x.pktErr 2 + flagAt x.tailJump 1 + flagAt x.halted 0
  | 0x28 => x.errPos % 2 ^ 64
  | _ => 0

/-- Registers of a context page (11 R331, R333, R334, R338; 14 R385; 16 R407). -/
def State.readContext (s : State) (c off : Nat) : Nat :=
  let x := s.context c
  let cnt (k : Nat) : Nat := ((x.launchQ[k]?).getD []).length
  match off with
  | 0x00 => fieldAt x.refusals 48 + fieldAt x.errOffset 24 + fieldAt x.errQueue 16 + flagAt x.errDevice 15
      + flagAt x.unreadable 4 + flagAt x.retryOut 3 + flagAt x.lpbInvalid 2 + flagAt x.tlFail 1 + flagAt x.err 0
  | 0x08 => x.errAddr.toNat
  | 0x10 => x.evtAddr.toNat + flagAt x.rewound 1 + flagAt x.saturated 0
  | 0x18 => fieldAt x.ovf.length 32 + fieldAt (cnt 3) 24 + fieldAt (cnt 2) 16 + fieldAt (cnt 1) 8 + cnt 0
  | 0x20 => x.ovfBase.toNat
  | 0x28 => x.ovfEnt
  | 0x30 => x.flowMode.toNat
  | 0x38 => (match x.faultList with
      | f :: _ => 2 ^ 63 + f
      | [] => 0)
  | 0x48 => poolBase
  | 0x58 => flagAt (!x.tlbInv.isEmpty) 0
  | 0x60 => x.wdLimit.toNat
  | 0x68 => flagAt x.stopAll 0
  | _ => 0

/-- Words of the slot table (13 R345). -/
def State.readSlots (s : State) (off : Nat) : Nat :=
  let b := s.bindOf (off / 32)
  if 64 ≤ off / 32 then 0
  else match off % 32 with
    | 0x00 => b.tileMask.toNat
    | 0x08 => fieldAt b.maxCores 32 + fieldAt b.perfCeil 24 + flagAt b.noVictim 1 + flagAt b.valid 0
    | 0x10 => (s.residentCores (off / 32)).length
    | _ => 0

/-- Registers of a core's counter page (16 R414). -/
def State.readCore (s : State) (n off : Nat) : Nat :=
  let c := s.core n
  match off with
  | 0x00 => c.spillCnt.toNat
  | 0x08 => c.refillCnt.toNat
  | 0x10 => c.tlbMiss.toNat
  | 0x18 => c.pfCount.toNat
  | 0x20 => fieldAt c.strayBy.toNat 32 + flagAt c.more 1 + flagAt c.stray 0
  | _ => 0

/-- Registers of the module power page (22 R478). -/
def State.readPower (s : State) (off : Nat) : Nat :=
  let p := s.power
  if 0x28 ≤ off ∧ off < 0x48 then ((p.vcurve[(off - 0x28) / 8]?).getD 0).toNat
  else if 0x48 ≤ off ∧ off < 0x68 then ((p.fcurve[(off - 0x48) / 8]?).getD 0).toNat
  else match off with
    | 0x00 => fieldAt p.lossLvl 4 + p.floor
    | 0x08 => flagAt p.link 9 + flagAt p.loss 8 + fieldAt p.lastTarget 6 + flagAt p.window.isSome 4 + fieldAt p.slv 2 + p.level
    | 0x10 => fieldAt p.lastFlg.toNat 56 + fieldAt p.lastSeq.toNat 48 + fieldAt p.lastDev.toNat 16 + p.lastBus.toNat
    | 0x18 => fieldAt p.frames.toNat 32 + fieldAt p.crcErr.toNat 16 + p.gaps.toNat
    | 0x20 => p.draw.toNat
    | 0x68 => fieldAt p.fband.toNat 16 + p.vband.toNat
    | 0x70 => fieldAt p.lossTime.toNat 32 + fieldAt p.grace 16 + p.rdelay.toNat
    | 0x78 => fieldAt p.paceDrain.toNat 32 + fieldAt p.paceMatrix.toNat 16 + p.paceCopy.toNat
    | _ => 0

/-- Eight ramp entries as a register. -/
def rampWord (l : List Nat) : Nat := l.zipIdx.foldl (fun n p => n + p.1 * 2 ^ (8 * p.2)) 0

/-- Registers of a tile page (22 R468-R470). -/
def State.readTile (s : State) (t off : Nat) : Nat :=
  let x := s.tile t
  let g := x.gate
  let ramp := g.pend.getD g.ramp
  let point (j : Nat) : Nat × Nat := (x.opTab[j]?).getD (0, 0)
  if 0x10 ≤ off ∧ off < 0x30 then
    (List.range 4).foldl (fun n k =>
      let p := point (4 * ((off - 0x10) / 8) + k)
      n + (p.2 * 1024 + p.1) * 2 ^ (16 * k)) 0
  else if 0x38 ≤ off ∧ off < 0x50 then
    let c := 3 * t + (off - 0x38) / 8
    fieldAt (patternOf (s.levelInForce c)).toNat 16 + fieldAt (s.levelInForce c) 8 + s.requestOf c
  else match off with
    | 0x00 => fieldAt x.mhz 32 + fieldAt (x.rail / 400) 16 + fieldAt x.target 12 + fieldAt (x.pend.getD 0) 8
        + flagAt x.pend.isSome 7 + flagAt x.moving 6 + x.lvCap
    | 0x30 => x.perfCap
    | 0x50 => rampWord (ramp.take 8)
    | 0x58 => rampWord (ramp.drop 8)
    | 0x60 => fieldAt g.rot 24 + fieldAt g.pos 20 + flagAt g.idle 19 + flagAt g.badRamp 18 + flagAt g.pend.isSome 17
        + fieldAt g.load 8 + min 255 g.waiting.length
    | 0x68 => g.fill.toNat
    | _ => 0

/-- LCFAULT of a line core (09 R314). -/
def LineCore.faultWord (c : LineCore) : Nat :=
  fieldAt c.faultPc 32 + fieldAt c.faultSlots.toNat 8 + fieldAt c.faultCode 1 + flagAt c.faultValid 0

/-- Registers of a head page (24 R484, R492, R494; 23 R481). -/
def State.readHead (s : State) (h off : Nat) : Nat :=
  let x := s.head h
  let v := x.viewOf (x.line / x.total)
  if 0x100 ≤ off ∧ off < 0x140 then ((x.poseW[(off - 0x100) / 8]?).getD 0).toNat
  else match off with
    | 0x00 => fieldAt x.cores.toNat 16 + flagAt x.capEn 4 + flagAt x.dpEn 3 + fieldAt x.depth 1 + flagAt x.run 0
    | 0x08 => fieldAt x.vtot 32 + fieldAt x.vact 16 + x.hact
    | 0x10 => fieldAt x.lead 56 + fieldAt x.bandLines 48 + fieldAt x.guard 40 + fieldAt x.latch 32 + x.linePer
    | 0x18 => fieldAt x.lpLen 48 + x.lpAddr
    | 0x20 => flagAt x.cfgErr 37 + flagAt x.running 36 + flagAt v.current.isSome 35 + fieldAt (v.cur.getD 0) 32 + x.line % 2 ^ 32
    | 0x28 => fieldAt x.bypass.toNat 32 + x.late.toNat
    | 0x30 => fieldAt x.capDrop.toNat 48 + fieldAt x.overrun.toNat 32 + x.bypLines.toNat
    | 0x38 => x.bypCfg.toNat
    | 0x40 => fieldAt x.capN 48 + x.capBase
    | 0x48 => fieldAt x.capCnt.toNat 32 + x.capStr.toNat
    | 0x50 => fieldAt x.bpp16.toNat 8 + flagAt x.dsc 4 + fieldAt x.rate.toNat 2 + x.lanesDp.toNat
    | 0x148 => x.poseSeq.toNat
    | _ => 0

/-- The value of the register at an offset of the block; a reserved offset reads 0. -/
def State.readReg (s : State) (off : Nat) : Nat :=
  let o := off % 0x1000
  match regPage off with
  | .mailbox f => s.readMailbox f o
  | .queue q => s.readQueue q o
  | .context c => s.readContext c o
  | .slots => s.readSlots o
  | .core n => s.readCore n o
  | .power => s.readPower o
  | .tile t => s.readTile t o
  | .pres =>
    if 0x100 ≤ o ∧ o < 0x180 then (s.lineCore ((o - 0x100) / 8)).faultWord
    else if o = 0 then s.presv else if o = 8 then s.slotUse else 0
  | .head h => s.readHead h o
  | .none => 0

/-! ## Commands of a context page (16 R406, R407, R411) -/

/-- What FRESUME_RESUME does (16 R406): the oldest stopped workgroup becomes a saved one whose restore is permitted. A fault of a
detached copy that its frame still holds stops it at its restore (18 R440). -/
def fresumeResume (ctx frame : Nat) (s : State) : Res :=
  if (s.context ctx).faultList.head? = some frame then
    .next ((s.updContext ctx (fun c => { c with faultList := c.faultList.drop 1 })).updFrame frame
      (fun f => { f with stopped := none }))
  else .next s

/-- FRESUME_RESUME, once the module is ready (25 R495). -/
def execEvFresumeResume (ctx frame : Nat) (s : State) : Res := whenReady s (fresumeResume ctx frame s)

/-- What FRESUME_KILL does (16 R406): containment without STOPALL. -/
def fresumeKill (ctx frame : Nat) (s : State) : Res :=
  if (s.context ctx).faultList.head? = some frame then
    match s.frame? frame with
    | some f => .next ((s.discardFrame frame).retryOrError f.wg.grid f.wg.wgl)
    | none => .next s
  else .next s

/-- FRESUME_KILL, once the module is ready (25 R495). -/
def execEvFresumeKill (ctx frame : Nat) (s : State) : Res := whenReady s (fresumeKill ctx frame s)

/-- What TLBINV does (16 R407, R411): an invalidation starts; a write with a bit set that must be 0, or N above 40, is
ignored as a whole. -/
def writeTlbinv (ctx : Nat) (v : W64) (s : State) : Res :=
  let n := bits v.toNat 0 6
  if bits v.toNat 6 6 ≠ 0 ∨ bits v.toNat 52 12 ≠ 0 ∨ 40 < n then .next s
  else .next (s.updContext ctx (fun c => { c with tlbInv := c.tlbInv ++ [(bits v.toNat 12 40 * 4096, n)] }))

/-- TLBINV, once the module is ready (25 R495). -/
def execEvTlbinv (ctx : Nat) (v : W64) (s : State) : Res := whenReady s (writeTlbinv ctx v s)

/-- TLBINV_COMPLETE (16 R411, R412): no TLB and no walk cache of the module holds a translation of the range. -/
def execEvTlbinvComplete (ctx : Nat) (s : State) : Res :=
  match (s.context ctx).tlbInv with
  | [] => .next s
  | (va, n) :: rest =>
    let keep (e : TlbEntry) : Bool := !(e.ctx == ctx && rangesMeet va (2 ^ n * 4096) e.va e.size)
    let s : State := { s with
      cores := s.cores.map (fun p => (p.1, { p.2 with tlb := p.2.tlb.filter keep })),
      l2tlb := s.l2tlb.filter (fun p => keep p.2),
      walkCache := s.walkCache.filter (fun p =>
        !(p.2.ctx == ctx && rangesMeet va (2 ^ n * 4096) p.2.va (levelSize (p.2.level - 1)))) }
    .next (s.updContext ctx (fun c => { c with tlbInv := rest }))

/-- What CERR_WRITE does (16 R414). -/
def writeCerr (core : Nat) (v : W64) (s : State) : Res :=
  .next (s.updCore core (fun c =>
    let c := if v.getLsbD 0 then { c with stray := false, strayBy := 0 } else c
    if v.getLsbD 1 then { c with more := false } else c))

/-- CERR_WRITE, once the module is ready (25 R495). -/
def execEvCerrWrite (core : Nat) (v : W64) (s : State) : Res := whenReady s (writeCerr core v s)

/-! ## Writes -/

/-- The state of an outcome that is a next state. -/
def stateOf (s : State) (r : Res) : State :=
  match r with
  | .next t => t
  | _ => s

/-- A write to a mailbox page. That GO leaves the DONE of the request before set is the model's choice (assumption log, entry
68). -/
def State.writeMailbox (s : State) (f off : Nat) (v : W64) : State :=
  if off < 0x40 then s.updMailbox f (fun m => if m.busy then m else { m with req := setAt m.req (off / 8) v })
  else match off with
    | 0x080 => s.updMailbox f (fun m => if v.getLsbD 0 then { m with busy := true } else m)
    | 0x088 => s.updMailbox f (fun m => if v.getLsbD 1 then { m with done := false } else m)
    | 0x100 => { s with ferr := assocSet s.ferr f ((assoc s.ferr f).getD 0 &&& ~~~(v.setWidth 2)) }
    | 0x108 => if v.getLsbD 4 then { s with modl := { s.modl with uncErr := false } } else s
    | _ => s

/-- A write to a context page. A TLEVT bit that is set in the fck of the clearing write stays set (11 R331). -/
def State.writeContext (s : State) (c off : Nat) (v : W64) : State :=
  let n := v.toNat
  match off with
  | 0x00 => stateOf s (writeCtxerr c v s)
  | 0x10 => s.updContext c (fun x => { x with
      rewound := x.rewound && (!v.getLsbD 1 || (x.eventsIn s.fck).1)
      saturated := x.saturated && (!v.getLsbD 0 || (x.eventsIn s.fck).2) })
  | 0x30 => s.updContext c (fun x => { x with flowMode := v.setWidth 4 })
  | 0x40 =>
    if bits n 14 2 ≠ 0 ∨ bits n 17 47 ≠ 0 then s
    else if bit n 16 then stateOf s (fresumeKill c (bits n 0 14) s)
    else stateOf s (fresumeResume c (bits n 0 14) s)
  | 0x50 => stateOf s (writeTlbinv c v s)
  | 0x60 => s.updContext c (fun x => { x with wdLimit := v.setWidth 32 })
  | 0x68 => s.updContext c (fun x => { x with stopAll := v.getLsbD 0 })
  | _ => s

/-- A write to the slot table by the policy processor. -/
def State.writeSlots (s : State) (off : Nat) (v : W64) : State :=
  let c := off / 32
  let n := v.toNat
  if 64 ≤ c then s
  else match off % 32 with
    | 0x00 => { s with bind := assocSet s.bind c { s.bindOf c with tileMask := v } }
    | 0x08 => { s with bind := assocSet s.bind c { s.bindOf c with
        maxCores := bits n 32 10, perfCeil := bits n 24 5, noVictim := bit n 1, valid := bit n 0 } }
    | _ => s

/-- A write to the module power page (22 R478). -/
def State.writePower (s : State) (off : Nat) (v : W64) : State :=
  let n := v.toNat
  if 0x28 ≤ off ∧ off < 0x48 then
    { s with power := { s.power with vcurve := setAt s.power.vcurve ((off - 0x28) / 8) (v &&& 0x0003FFFF0003FFFF) } }
  else if 0x48 ≤ off ∧ off < 0x68 then
    { s with power := { s.power with fcurve := setAt s.power.fcurve ((off - 0x48) / 8) (v &&& 0x0003FFFF0003FFFF) } }
  else match off with
    | 0x00 => stateOf s (writeShedctl v s)
    | 0x68 => { s with power := { s.power with fband := BitVec.ofNat 16 (n / 65536), vband := BitVec.ofNat 16 n } }
    | 0x70 => { s with power := { s.power with
        lossTime := BitVec.ofNat 16 (n / 2 ^ 32), grace := min 900 (bits n 16 10), rdelay := BitVec.ofNat 16 n } }
    | 0x78 => { s with power := { s.power with
        paceDrain := BitVec.ofNat 16 (n / 2 ^ 32), paceMatrix := BitVec.ofNat 16 (n / 65536), paceCopy := BitVec.ofNat 16 n } }
    | _ => s

/-- A write to a tile page (22 R468-R470); VMBOX and PERFCAP are the policy processor's. -/
def State.writeTile (s : State) (t off : Nat) (v : W64) (policy : Bool) : State :=
  match off with
  | 0x08 => if policy then stateOf s (execEvVmboxWrite t (v.setWidth 4) s) else s
  | 0x30 => if policy then s.updTile t (fun x => { x with perfCap := bits v.toNat 0 5 }) else s
  | 0x50 => stateOf s (writeHgramp t false v s)
  | 0x58 => stateOf s (writeHgramp t true v s)
  | 0x60 => s.updTile t (fun x => { x with gate := { x.gate with badRamp := x.gate.badRamp && !v.getLsbD 18 } })
  | _ => s

/-- A write to a head page (24 R484, R492, R494; 23 R481). HTIM0, HTIM1 and HLP hold while the head runs. -/
def State.writeHead (s : State) (h off : Nat) (v : W64) : State :=
  let x := s.head h
  let n := v.toNat
  let held := x.run || x.running
  if 0x100 ≤ off ∧ off < 0x140 then s.updHead h (fun x => { x with poseW := setAt x.poseW ((off - 0x100) / 8) v })
  else match off with
    | 0x00 => s.writeHctl h v
    | 0x08 => if held then s else s.updHead h (fun x => { x with
        vtot := bits n 32 13, vact := bits n 16 13, hact := bits n 0 13 })
    | 0x10 => if held then s else s.updHead h (fun x => { x with
        lead := bits n 56 8, bandLines := bits n 48 8, guard := bits n 40 4, latch := bits n 32 8, linePer := bits n 0 32 })
    | 0x18 => if held then s else s.updHead h (fun x => { x with lpLen := bits n 48 13, lpAddr := bits n 0 48 })
    | 0x20 => if bit n 37 then s.updHead h (fun x => { x with cfgErr := false }) else s
    | 0x38 => s.updHead h (fun x => { x with bypCfg := v &&& 0x000FFFFFFFFF0FF7 })
    | 0x40 => s.updHead h (fun x => { x with capN := bits n 48 4, capBase := bits n 0 48, cfgHeld := x.capEn })
    | 0x48 => s.updHead h (fun x => { x with capStr := v.setWidth 32, geoHeld := x.capEn })
    | 0x50 => s.updHead h (fun x => { x with
        bpp16 := BitVec.ofNat 12 (n / 256), dsc := bit n 4, rate := BitVec.ofNat 2 (n / 4), lanesDp := v.setWidth 2 })
    | 0x140 => stateOf s (commitPose h v s)
    | _ => s

/-- A write of the register at an offset of the block, by the policy processor or by another writer. -/
def State.writeReg (s : State) (off : Nat) (v : W64) (policy : Bool) : State :=
  let o := off % 0x1000
  match regPage off with
  | .mailbox f => s.writeMailbox f o v
  | .queue q => if o = 0 then stateOf s (writeQtail q v s) else s
  | .context c => s.writeContext c o v
  | .slots => if policy then s.writeSlots o v else s
  | .core n => if o = 0x20 then stateOf s (writeCerr n v s) else s
  | .power => s.writePower o v
  | .tile t => s.writeTile t o v policy
  | .pres =>
    if 0x100 ≤ o ∧ o < 0x180 then
      s.updLineCore ((o - 0x100) / 8) (fun c => { c with faultValid := c.faultValid && !v.getLsbD 0 })
    else if o = 0 then { s with presv := min 16 (bits v.toNat 0 5) } else s
  | .head h => s.writeHead h o v
  | .none => s

/-! ## Who may reach a page (11 R317; 25 R495, R496, R498) -/

/-- Whether a page is granted to a function: the physical function reaches all, a virtual function its own
mailbox page and what its grant holds. -/
def State.pageGranted (s : State) (f : Nat) (p : RegPage) : Bool :=
  f == 0 || (match p with
    | .mailbox g => g == f
    | .queue q => s.mayQueue f q
    | .context c => s.mayContext f c
    | .head _ => ((assoc s.grants f).map (·.heads)).getD false
    | _ => false)

/-- Whether a device agent's mapping reaches a page: queue and context pages (11 R317); the other pages are
reached through BAR 0 (assumption log, entry 20). -/
def devicePage : RegPage → Bool
  | .queue _ | .context _ => true
  | _ => false

/-- Whether an access is of the width and alignment of every register (00 R10). -/
def regAligned (off size : Nat) : Bool := size == 8 && off % 8 == 0

/-- A device agent's read of the register block (00 R10, R509). -/
def State.deviceRead (s : State) (ctx off size : Nat) : Nat × State :=
  if !regAligned off size then (0, s.setFerr (s.funcOf ctx) 1)
  else (if devicePage (regPage off) then s.readReg off else 0, s)

/-- A device agent's write of the register block. -/
def State.deviceWrite (s : State) (ctx off size : Nat) (v : W64) : State :=
  if !regAligned off size then s.setFerr (s.funcOf ctx) 1
  else if devicePage (regPage off) then s.writeReg off v false else s

/-- The bits of FERR that a function's access through its BAR 0 sets: DENIED of a page not granted, MMIO_WIDTH of a wrong width
or alignment (00 R10; 25 R496). -/
def State.accessFault (s : State) (f off size : Nat) : BitVec 2 :=
  (if s.pageGranted f (regPage off) then 0 else 2) ||| (if regAligned off size then 0 else 1)

/-- The number that stands for the policy processor as the writer of a register (assumption log, entry 21). -/
def policyWriter : Nat := 17

/-- REGISTER_WRITE (00 R7-R10; 25 R495, R496): a write through a function's BAR 0, or of the policy
processor. A page that is not granted sets DENIED, a wrong width or alignment MMIO_WIDTH, and an access that is both sets both. -/
def execEvRegisterWrite (f dpa size : Nat) (v : W64) (s : State) : Res :=
  match place dpa with
  | .regs off =>
    if f = policyWriter then .next (if s.modl.fwState = 1 ∧ regAligned off size = true then s.writeReg off v true else s)
    else if 17 < f then .next s
    else if !s.modl.ready ∧ regPage off ≠ .mailbox 0 then .next s
    else
      match s.accessFault f off size with
      | 0 => .next (s.writeReg off v false)
      | b => .next (s.setFerr f b)
  | _ => .next s

/-- A host read through a function's BAR 0: the value, and the state with FERR marked where the access is
refused (00 R10; 25 R496). -/
def State.hostRegRead (s : State) (f off size : Nat) : Nat × State :=
  if 16 < f ∨ (!s.modl.ready) && regPage off != .mailbox 0 then (0, s)
  else
    match s.accessFault f off size with
    | 0 => (s.readReg off, s)
    | b => (0, s.setFerr f b)

/-- A host read of a register: its bytes go to the host. -/
def State.answerRegRead (s : State) (f dpa size : Nat) : State :=
  match place dpa with
  | .regs off =>
    let r := s.hostRegRead f off size
    { r.2 with modl := { r.2.modl with reply := toBytes size r.1 } }
  | _ => s

/-! ## The host's accesses to memory (14 R388; 25 R499) -/

/-- The device physical address of an offset in a function's BAR 2; none outside its window. -/
def State.bar2 (s : State) (f off : Nat) : Option Nat :=
  if f = 0 then (if off < min localBytes (2 ^ s.modl.bar2Log * 0x40000000) then some off else none)
  else
    match assoc s.grants f with
    | some g => if off < 2 ^ g.log2 * 0x40000000 then some (g.base + off) else none
    | none => none

/-- The host resizes BAR 2 of the physical function, from 16 GiB to 256 GiB (25 R499). -/
def State.resizeBar (s : State) (log : Nat) : State :=
  if 4 ≤ log ∧ log ≤ 8 then { s with modl := { s.modl with bar2Log := log } } else s

/-- HOST_POSTED_WRITE (14 R388): a posted write through BAR 2 is performed at .dv; the save pool takes none
(16 R394). -/
def execEvHostPostedWrite (f offset : Nat) (bytes : List Byte) (s : State) : Res :=
  if !s.modl.ready then .next s
  else
    let s := bytes.zipIdx.foldl (fun s p =>
      match s.bar2 f (offset + p.2) with
      | some a => if inPool a 1 then s else s.writeMem a [p.1]
      | none => s) s
    .next (match s.bar2 f offset with
      | some a => s.noteWrite a bytes.length
      | none => s)

/-- The fixed part of a frame (16 R395). -/
def Frame.bytes (f : Frame) : List Byte :=
  f.record.bytes ++ toBytes 8 f.lateFlags.toNat
    ++ toBytes 8 (f.tileCore.getD 0x3FF + f.tileMask.toNat * 65536) ++ toBytes 112 0

/-- A byte that the host reads at an address: a frame's fixed part; the rest of the pool is in a layout of the
device's own, a free value (16 R395). -/
def State.hostByte (s : State) (a i : Nat) : Byte :=
  if inPool a 1 then
    let o := (a - poolBase) % 0x200000
    match s.frame? ((a - poolBase) / 0x200000) with
    | some f => if o < 256 then (f.bytes[o]?).getD 0 else (Config.freeValue (s.freeCount + i)).setWidth 8
    | none => (Config.freeValue (s.freeCount + i)).setWidth 8
  else cellAt s.mem a

/-- HOST_MEMORY_READ (14 R388): the bytes go to the host. -/
def execEvHostMemoryRead (f offset size : Nat) (s : State) : Res :=
  let b := (List.range size).map (fun i =>
    match (if s.modl.ready then s.bar2 f (offset + i) else none) with
    | some a => s.hostByte a i
    | none => 0)
  .next { s with modl := { s.modl with reply := b }, freeCount := s.freeCount + size }

end Sys2Proof.Machine
end

