-- ==== Sys2Proof/Machine/Operands.lean ====
section
/-! DEFINITION. Reading the operands of a wave word and writing its destinations: every class of 03 R87-R91,
stream registers (18 R430-R431), last use, renaming and the backing area (01 R33-R35), poison (16 R418),
predicates (01 R31), the lanes that are active (00 R12), and going on to the next word (03 R94-R95). -/

namespace Sys2Proof.Machine

/-! ## The wave a word runs on -/

/-- What a wave word runs on: its wave, workgroup and lane group, and its active lanes. -/
structure WaveCtx where
  r   : WaveRef
  wg  : Workgroup
  wv  : Wave
  g   : Group
  act : Lanes
  deriving DecidableEq, Repr

/-- A predicate register; p0 reads all-ones (01 R31). -/
def Wave.pred (w : Wave) (n : Nat) : Lanes := if n = 0 then BitVec.allOnes 32 else (w.preds[n]?).getD 0

/-- The lanes a guard gives a 1 (00 R12). -/
def Wave.guard (w : Wave) (p : BitVec 3) (pn : Bool) : Lanes :=
  if pn then ~~~(w.pred p.toNat) else w.pred p.toNat

/-- The lanes of a wave that have not exited. -/
def Wave.liveMask (w : Wave) : Lanes :=
  maskOf (fun i => match w.lanes[i]? with
    | some l => l.state != .exited
    | none => false)

/-- The lanes of a wave in the live state. -/
def Wave.readyMask (w : Wave) : Lanes :=
  maskOf (fun i => match w.lanes[i]? with
    | some l => l.state == .live
    | none => false)

/-- The context of a wave word: none where no wave of `cur` has a group in the middle of a clause. -/
def State.waveCtx? (s : State) (w : WWord) : Option WaveCtx :=
  match s.cur with
  | .wave r =>
    match s.wg? (wgOf r) with
    | some wg =>
      match wg.waves[r.wave]? with
      | some wv =>
        match wv.group with
        | some g => some ⟨r, wg, wv, g, g.lanes &&& wv.guard w.p w.pn⟩
        | none => none
      | none => none
    | none => none
  | _ => none

/-- The number of words of a group's clause (03 R93). -/
def Group.words (g : Group) : Nat := bits g.head.toNat 31 3 + 1

/-- The address of the group's current word. -/
def Group.wordAddr (g : Group) : W64 := g.pc + BitVec.ofNat 64 (8 + 8 * g.ix)

/-- The address just past the group's clause (03 R95). -/
def Group.nextClause (g : Group) : W64 := g.pc + BitVec.ofNat 64 (8 + 8 * g.words)

/-- The words an instruction occupies in its clause: itself and its literal. -/
def wordLen (w : WWord) : Nat := 1 + ((literalsOf w).take 1).length

/-- Moves a group past `n` words; at the end of its clause its lanes' PCs move to the next one and the
group is dissolved (03 R95; 04 R147). -/
def Wave.pass (w : Wave) (n : Nat) : Wave :=
  match w.group with
  | none => w
  | some g =>
    if g.ix + n < g.words then { w with done := 0, group := some { g with ix := g.ix + n } }
    else { w with
      done := 0
      group := none
      lanes := w.lanes.mapIdx (fun i l => if g.lanes.getLsbD i then { l with pc := g.nextClause, ix := 0 } else l) }

/-- Goes on to the next word. -/
def State.nextWord (s : State) (r : WaveRef) (n : Nat) : State := s.updWave r (fun w => w.pass n)

/-- Counts an issued word, which also ends an idle stretch for the watchdog (16 R400, R419). -/
def State.countIssue (s : State) (r : WaveRef) : State :=
  (s.updWave r (fun w => { w with issued := w.issued + 1 })).updWg (wgOf r) (fun g => { g with watchdog := 0 })

/-- A trap of the group's current word, without an address, for the lanes given. -/
def State.trapMask (s : State) (c : WaveCtx) (k : TrapKind) (mask : Lanes) : State :=
  s.trapWave c.r k 0 0 c.g.wordAddr 0 mask []

/-- The same for every lane of the group. -/
def State.trapHere (s : State) (c : WaveCtx) (k : TrapKind) : State := s.trapMask c k c.g.lanes

/-! ## Vector registers (01 R33-R35) -/

/-- 32 zero lanes. -/
def zeroLanes : List W32 := List.replicate 32 0

/-- A vector register; an unmapped one reads 0 in every lane. -/
def Wave.vreg (w : Wave) (n : Nat) : List W32 := (assoc w.vregs n).getD zeroLanes

/-- Gives a register of a wave a physical register: maps it, or refills it from the backing area. That a wave may map more than
its MAXREGS registers is the model's choice: the spec says nothing of such a wave (assumption log, entry 43). -/
def State.ensurePhys (s : State) (r : WaveRef) (n : Nat) : State :=
  match s.wg? (wgOf r) with
  | none => s
  | some g =>
    match g.waves[r.wave]? with
    | none => s
    | some w =>
      let mapped := (assoc w.vregs n).isSome
      if mapped && !w.spilled.contains n then s
      else
        let part := (g.part + r.wave) % 6
        let s := if 768 ≤ s.physInUse r.core part then s.spillOne r.core part else s
        if mapped then
          (s.updWave r (fun w => { w with spilled := w.spilled.filter (fun x => x != n) })).updCore r.core
            (fun c => { c with refillCnt := c.refillCnt + 1 })
        else s.updWave r (fun w => { w with vregs := assocSet w.vregs n zeroLanes })

/-- Lanes of `new` where the mask has a 1, lanes of `old` elsewhere. -/
def mergeLanes (mask : Lanes) (old new : List W32) : List W32 :=
  (List.range 32).map (fun i => if mask.getLsbD i then (new[i]?).getD 0 else (old[i]?).getD 0)

/-- Writes lanes of a vector register (01 R33). -/
def State.writeVec (s : State) (r : WaveRef) (n : Nat) (mask : Lanes) (vals : List W32) : State :=
  if mask = 0 then s else
  (s.ensurePhys r n).updWave r (fun w => { w with
    vregs := assocSet w.vregs n (mergeLanes mask (w.vreg n) vals)
    poison := (w.poison.map (fun p => if p.1 = n then (p.1, p.2 &&& ~~~mask) else p)).filter (fun p => p.2 != 0) })

/-- The image of an n-bit value in a wider destination: sign-extended for .s types, zero-extended
otherwise (04 R122; 05 R160). -/
def extendTo (t : WType) (width v : Nat) : Nat :=
  if isSigned t then wrap width (signed (wtypeBits t) v) else v % 2 ^ wtypeBits t

/-- Writes typed lane values to a vector destination: one register, or a pair (04 R121, R122). -/
def State.writeTyped (s : State) (r : WaveRef) (t : WType) (d : Nat) (mask : Lanes) (vals : List Nat) : State :=
  if isWide t then
    (s.writeVec r d mask (vals.map (fun v => BitVec.ofNat 32 v))).writeVec r (d + 1) mask
      (vals.map (fun v => BitVec.ofNat 32 (v / 2 ^ 32)))
  else s.writeVec r d mask (vals.map (fun v => BitVec.ofNat 32 (extendTo t 32 v)))

/-- Writes a scalar register, which then holds no poison (16 R418). -/
def State.writeS (s : State) (r : WaveRef) (n v : Nat) : State :=
  s.updWave r (fun w => { w with
    sregs := setAt w.sregs n (BitVec.ofNat 64 v), spoison := w.spoison.filter (fun m => m != n) })

/-- Writes lanes of a predicate; a write to p0 is ignored (01 R31). -/
def State.writeP (s : State) (r : WaveRef) (n : Nat) (mask bits_ : Lanes) : State :=
  if n = 0 then s else
  s.updWave r (fun w => { w with preds := modAt w.preds n (fun p => (p &&& ~~~mask) ||| (bits_ &&& mask)) })

/-! ## Special registers (01 R37) -/

/-- A workgroup's index packed as WGID (01 R28, R37). -/
def wgidOf (l : Lpb) (wgl : Nat) : Nat :=
  wgl % l.gridX + wgl / l.gridX % l.gridY * 2 ^ 32 + wgl / (l.gridX * l.gridY) * 2 ^ 48

/-- The value of special register 0x10 + k for a lane. -/
def State.special (s : State) (c : WaveCtx) (k lane : Nat) : Nat :=
  let l := s.lpbOf c.wg
  match k with
  | 0 => lane
  | 1 => c.r.wave
  | 2 => wgidOf l c.wg.wgl
  | 3 => l.gridX + l.gridY * 2 ^ 32 + l.gridZ * 2 ^ 48
  | 4 => c.wg.wgl % l.gang
  | 5 => c.r.core
  | 6 => clusterOf c.r.core
  | 7 => tileOf c.r.core
  | 8 => l.cls
  | 9 => s.power.level
  | 10 => s.levelInForce (clusterOf c.r.core)
  | 11 => (c.wg.flagsRead (s.tckOf c.r.core)).toNat
  | 12 => c.wv.lstk.toNat
  | _ => s.tckOf c.r.core

/-! ## Streams (18 R430, R431) -/

/-- Whether some bound copy still owes an element to a lane of a stream register (18 R431). -/
def Workgroup.owed (g : Workgroup) (wave stream lane : Nat) : Bool :=
  g.copies.any (fun c => match copyCmd c.cmd with
    | some k => k.owes wave stream c.sent lane
    | none => false)

/-- The stream registers a word's operands name, in the order a, b, c. -/
def streamsOf (w : WWord) : List Nat :=
  [w.a, w.b, w.c].filterMap (fun o => match o with
    | .sq n => some n.toNat
    | _ => none)

/-- Whether every active lane has the elements a word takes, or is owed none (18 R431). -/
def WaveCtx.streamsReady (c : WaveCtx) (w : WWord) : Bool :=
  (streamsOf w).all (fun n =>
    let need := ((streamsOf w).filter (fun m => m == n)).length
    (lanesOf c.act).all (fun l =>
      decide (need ≤ ((c.wv.stream n).lane l).length) || !c.wg.owed c.r.wave n l))

/-- Takes one element per active lane from the streams named. -/
def Wave.takeStreams (w : Wave) (act : Lanes) (names : List Nat) : Wave :=
  names.foldl (fun w n => { w with streams := modAt w.streams n (fun q =>
    { held := (q.held.map (fun p => if act.getLsbD p.1 then (p.1, p.2.drop 1) else p)).filter
        (fun p => !p.2.isEmpty) }) }) w

/-! ## Reading operands -/

/-- An integer immediate in a type: the integer itself, or that integer as a float (03 R88; 05 R161). -/
def immValue (t : TCode) (i : Int) : Nat :=
  match t with
  | .t .f16x2 => let x := f16.ofInt i; x + 65536 * x
  | .t .bf16x2 => let x := bf16.ofInt i; x + 65536 * x
  | _ =>
    match tcodeFmt t with
    | some f => f.ofInt i
    | none => wrap (tcodeBits t) i

/-- The lane values of an operand of a type, each in the low bits of its width (04 R121-R124; 05 R160).
`before` are the streams that operands before it in the word name; a lane owed nothing reads a free value
numbered from `s.freeCount` on. -/
def WaveCtx.read (s : State) (c : WaveCtx) (before : List Nat) (t : TCode) (o : Operand) : List Nat :=
  let n := tcodeBits t
  let all (v : Nat) : List Nat := List.replicate 32 (v % 2 ^ n)
  match o with
  | .v r =>
    let lo := c.wv.vreg r.toNat
    if n = 64 then
      let hi := c.wv.vreg (r.toNat + 1)
      (lo.zip hi).map (fun p => p.1.toNat + p.2.toNat * 2 ^ 32)
    else lo.map (fun v => v.toNat % 2 ^ n)
  | .s r => all ((c.wv.sregs[r.toNat]?).getD 0).toNat
  | .sq q =>
    let k := (before.filter (fun m => m == q.toNat)).length
    (List.range 32).map (fun l =>
      match ((c.wv.stream q.toNat).lane l)[k]? with
      | some v => v.toNat % 2 ^ n
      | none => (Config.freeValue (s.freeCount + 32 * before.length + l)).toNat % 2 ^ n)
  | .sp k => (List.range 32).map (fun l => s.special c k.toNat l % 2 ^ n)
  | .imm x => all (immValue t (signed 8 x.toNat))
  | .lit x => all x.toNat
  | .pair x => all (wrap n (signed 16 x.toNat))
  | .ctl _ => all 0

/-- The type an operand form reads its operand in. -/
def OpForm.ty : OpForm → TCode
  | .value t _ _ _ _ _ => t
  | .addr | .quad => .t .b64
  | .special _ _ _ => .t .b64
  | _ => .t .b32

/-- The lane values of operands a, b and c of a word in its form. -/
def WaveCtx.sources (s : State) (c : WaveCtx) (f : WaveForm) (w : WWord) : List Nat × List Nat × List Nat :=
  let sa := match w.a with
    | .sq n => [n.toNat]
    | _ => []
  let sb := match w.b with
    | .sq n => sa ++ [n.toNat]
    | _ => sa
  (c.read s [] f.a.ty w.a, c.read s sa f.b.ty w.b, c.read s sb f.c.ty w.c)

/-- The value of a uniform operand. -/
def uniform (l : List Nat) : Nat := at_ l 0

/-! ## What a word's registers are -/

/-- The vector registers an operand of a form names. -/
def operandRegs (f : OpForm) (o : Operand) : List Nat :=
  match o with
  | .v n => (List.range (formRegs f)).map (fun i => n.toNat + i)
  | _ => []

/-- The vector registers a destination names. -/
def dstRegs (f : DstForm) (d : BitVec 8) : List Nat :=
  match f with
  | .vec n => (List.range n).map (fun i => d.toNat + i)
  | _ => []

/-- The vector registers a word reads. -/
def readRegs (f : WaveForm) (w : WWord) : List Nat :=
  operandRegs f.a w.a ++ operandRegs f.b w.b ++ operandRegs f.c w.c ++ (if f.readsD then dstRegs f.dst w.d else [])

/-- The scalar registers an operand of a form names; a base is chosen from at run time (04 R138). -/
def operandScalars (f : OpForm) (o : Operand) : List Nat :=
  match o with
  | .s n => match f with
    | .sbase => []
    | .quad | .evenScalar => [n.toNat, n.toNat + 1]
    | _ => [n.toNat]
  | _ => []

/-- The scalar registers a word reads. -/
def readScalars (f : WaveForm) (w : WWord) : List Nat :=
  operandScalars f.a w.a ++ operandScalars f.b w.b ++ operandScalars f.c w.c
    ++ (if f.readsD && f.dst == .sca then [w.d.toNat] else [])

/-- Whether a word reads SHEDLV (01 R37). -/
def readsLevel (w : WWord) : Bool := [w.a, w.b, w.c].any (fun o => match o with
  | .sp k => k.toNat == 9
  | _ => false)

/-- The registers that last-use bits free when the word issues for every lane that has not exited
(01 R34). -/
def WaveCtx.lastUses (c : WaveCtx) (f : WaveForm) (w : WWord) : List Nat :=
  if c.wv.liveMask &&& ~~~c.g.lanes = 0 then
    (if w.l.getLsbD 2 then operandRegs f.a w.a else []) ++ (if w.l.getLsbD 1 then operandRegs f.b w.b else [])
      ++ (if w.l.getLsbD 0 then operandRegs f.c w.c else [])
  else []

/-- Frees registers: they become unmapped. -/
def Wave.freeRegs (w : Wave) (l : List Nat) : Wave :=
  if l.isEmpty then w else
  { w with vregs := w.vregs.filter (fun p => !l.contains p.1), spilled := w.spilled.filter (fun n => !l.contains n),
           poison := w.poison.filter (fun p => !l.contains p.1) }

/-- What reading a word's registers and streams does: spilled registers refill, streams give up their elements, last uses
free their registers. -/
def State.takeOperands (s : State) (c : WaveCtx) (f : WaveForm) (w : WWord) : State :=
  let s := if c.wv.spilled.isEmpty then s
    else ((readRegs f w).filter (fun n => c.wv.spilled.contains n)).foldl (fun s n => s.ensurePhys c.r n) s
  let names := streamsOf w
  let s := if names.isEmpty then s
    else { s.updWave c.r (fun v => v.takeStreams c.act names) with freeCount := s.freeCount + 96 }
  let l := c.lastUses f w
  if l.isEmpty then s else s.updWave c.r (fun v => v.freeRegs l)

/-- What reading a word's operands does; a shedding level that has been read stays for its tck (21 R456). -/
def State.consume (s : State) (c : WaveCtx) (f : WaveForm) (w : WWord) : State :=
  (if readsLevel w && c.act != 0 then s.noteShedPoint c.r.core else s).takeOperands c f w

/-- The lanes of those given that read poisoned data: in a vector register of a list, or, all of them, in a scalar register of
another (16 R416, R418). -/
def WaveCtx.poisonedLanes (c : WaveCtx) (regs scalars : List Nat) (lanes : Lanes) : Lanes :=
  if scalars.any (fun n => c.wv.spoison.contains n) then lanes
  else maskOf (fun i => lanes.getLsbD i && c.wv.poison.any (fun p => regs.contains p.1 && p.2.getLsbD i))

/-- Whether an active lane reads poisoned data in such registers. -/
def WaveCtx.poisonIn (c : WaveCtx) (regs scalars : List Nat) : Bool :=
  c.act != 0 && scalars.any (fun n => c.wv.spoison.contains n) || c.wv.poison.any (fun p => regs.contains p.1 && p.2 &&& c.act != 0)

/-- Whether a word's registers hold poisoned data that an active lane reads. -/
def WaveCtx.poisonHit (c : WaveCtx) (f : WaveForm) (w : WWord) : Bool := c.poisonIn (readRegs f w) (readScalars f w)

/-- POISON of the active lanes that read poisoned data in registers of the lists. -/
def State.trapPoison (s : State) (c : WaveCtx) (regs scalars : List Nat) : State :=
  s.trapMask c .poison (c.poisonedLanes regs scalars c.act)

/-! ## Words that touch the destination of a pending word (03 R99) -/

/-- Whether a pending word's destination meets registers and lanes. -/
def Pending.touches (p : Pending) (l : List Nat) (act : Lanes) : Bool :=
  p.regs.any (fun n => l.contains n) && p.mask &&& act != 0

/-- Gives the destinations of pending words that lanes of registers read or written meet unspecified values, now
and at the completion (03 R99). -/
def State.spoilRegs (s : State) (c : WaveCtx) (regs : List Nat) (lanes : Lanes) : State :=
  if c.wv.pending.any (fun p => p.touches regs lanes) then
    c.wv.pending.foldl (fun s p =>
      if p.touches regs lanes then
        p.regs.foldl (fun s n => let v := s.freeLanes 32; v.2.writeVec c.r n p.mask v.1) s
      else s)
      (s.updWave c.r (fun v => { v with pending := v.pending.map (fun p =>
        if p.touches regs lanes then { p with spoiled := true } else p) }))
  else s

/-- The same for the registers a word names, in its active lanes. -/
def State.spoil (s : State) (c : WaveCtx) (f : WaveForm) (w : WWord) : State :=
  s.spoilRegs c (readRegs f w ++ dstRegs f.dst w.d) c.act

/-- The context of a word as the state now has it. -/
def WaveCtx.now (c : WaveCtx) (s : State) (w : WWord) : WaveCtx := (s.waveCtx? w).getD c

/-! ## Accesses that wait (06 R194, R206) -/

/-- What accesses a wave word makes: `some true` for a store or an atomic, `some false` for a load or for a word that drops
lines of the L1 (06 R196, R206; 14 R377), none for a word that accesses neither memory nor scratchpad. CALL and RET access
their spill area only where they are deep. -/
def wordAccess (op : Nat) (w : WWord) : Option Bool :=
  match op with
  | 0xA0 | 0xA2 | 0xA5 | 0xA8 | 0xAE | 0xB8 => some false
  | 0xA1 | 0xA3 | 0xA4 | 0xA9 | 0xAA | 0xAB | 0xAF | 0xB6 | 0xB7 | 0xB9 => some true
  | 0xB0 => match w.m, w.c with
    | 1, .ctl k => if k.order == .rel then none else some false
    | _, _ => none
  | _ => none

/-- Whether a pending word that has not been performed holds back an access. -/
def Pending.holdsBack (p : Pending) (write : Bool) : Bool :=
  match p.kind, p.holds with
  | .result _, _ | _, .nothing => false
  | _, .writes => write
  | _, .accesses => true

/-- Whether some earlier access of the wave holds back one made now. -/
def WaveCtx.accessWaits (c : WaveCtx) (write : Bool) : Bool := c.act != 0 && c.wv.pending.any (·.holdsBack write)

/-- Whether the accesses of a word wait. -/
def WaveCtx.heldBack (c : WaveCtx) (op : Nat) (w : WWord) : Bool :=
  match wordAccess op w with
  | some write => c.accessWaits write
  | none => false

/-! ## Running a wave word -/

/-- Whether a word that was tried in a context still waits to issue: its wave stands where it stood, and neither trapped nor
sent anything off. -/
def WaveCtx.stillWaits (c : WaveCtx) (t : State) : Bool :=
  match t.wg? (wgOf c.r), t.wave? c.r with
  | some g, some v => !g.saving && v.group == c.wv.group && v.issued == c.wv.issued && v.block == .none
  | _, _ => false

/-- The registers and pending words of the wave as a context found them: a word that only waited has read and written nothing
(03 R99). -/
def State.unspoil (t : State) (c : WaveCtx) : State :=
  t.updWave c.r (fun v => { v with vregs := c.wv.vregs, spilled := c.wv.spilled, poison := c.wv.poison, pending := c.wv.pending })

/-- Whether a word names the destination of a pending word in its active lanes (03 R99). -/
def WaveCtx.meetsPending (c : WaveCtx) (f : WaveForm) (w : WWord) : Bool :=
  c.wv.pending.any (fun p => p.touches (readRegs f w ++ dstRegs f.dst w.d) c.act)

/-- A word whose form fits and whose stream elements are there: poisoned operands trap (16 R418), its accesses wait for the
earlier ones that hold them back (06 R194, R206), and its body gets its form, its context and the state. -/
def issueTry (op : Nat) (w : WWord) (f : WaveForm) (body : WaveForm → WaveCtx → State → State) (c : WaveCtx) (s : State) : State :=
  if c.poisonHit f w then s.trapPoison c (readRegs f w) (readScalars f w)
  else if c.heldBack op w then s
  else body f c s

/-- Runs a wave word of an opcode: its form is checked (ILLEGAL_WORD, 03 R86-R92), it waits for its stream
elements (01 R32), and it is tried; where it names the destination of a pending word, on unspecified values, which stand where
it does issue (03 R99). The body counts the issue where the word does issue. That a word whose registers hold poison traps POISON
before what its body checks is the model's choice (assumption log, entry 63). -/
def rawWord (op : Nat) (w : WWord) (s : State) (body : WaveForm → WaveCtx → State → State) : Res :=
  match s.waveCtx? w with
  | none => .next s
  | some c =>
    match waveForm op w with
    | none => .next (s.trapHere c .illegalWord)
    | some f =>
      if !fieldsFit op f w then .next (s.trapHere c .illegalWord)
      else if !c.streamsReady w then .next s
      else if c.meetsPending f w then
        let z := s.spoil c f w
        let t := issueTry op w f body (c.now z w) z
        .next (if c.stillWaits t then t.unspoil c else t)
      else .next (issueTry op w f body c s)

/-- A wave word that issues whenever its body is reached. -/
def waveWord (op : Nat) (w : WWord) (s : State) (body : WaveForm → WaveCtx → State → State) : Res :=
  rawWord op w s (fun f c s => body f c (s.countIssue c.r))

/-- A word that always completes: its operands are read and consumed, its effect takes place, and the group
goes on. -/
def plainWord (op : Nat) (w : WWord) (s : State)
    (body : WaveForm → WaveCtx → List Nat × List Nat × List Nat → State → State) : Res :=
  waveWord op w s (fun f c s => (body f c (c.sources s f w) (s.consume c f w)).nextWord c.r (wordLen w))

/-- A function of three operands in every active lane, with flags: the lane values and all flags raised. -/
def laneMap (act : Lanes) (src : List Nat × List Nat × List Nat) (f : Nat → Nat → Nat → Nat × BitVec 6) :
    List Nat × BitVec 6 :=
  let out := (List.range 32).map (fun i =>
    if act.getLsbD i then f (at_ src.1 i) (at_ src.2.1 i) (at_ src.2.2 i) else (0, 0))
  (out.map (·.1), out.foldl (fun a p => a ||| p.2) 0)

/-- A vector word: a function of its operands in every active lane, written in type `t`. -/
def vecWord (op : Nat) (w : WWord) (t : WType) (s : State) (f : Nat → Nat → Nat → Nat × BitVec 6) : Res :=
  plainWord op w s (fun _ c src s =>
    let o := laneMap c.act src f
    (s.writeTyped c.r t w.d.toNat c.act o.1).raise (wgOf c.r) o.2)

/-- A scalar form: evaluated once on uniform values, and only if a lane is active (04 R123). -/
def scaWord (op : Nat) (w : WWord) (t : WType) (s : State) (f : Nat → Nat → Nat → Nat × BitVec 6) : Res :=
  plainWord op w s (fun _ c src s =>
    if c.act = 0 then s
    else
      let o := f (uniform src.1) (uniform src.2.1) (uniform src.2.2)
      (s.writeS c.r w.d.toNat (extendTo t 64 o.1)).raise (wgOf c.r) o.2)

/-- A predicate-writing word: one bit per active lane. -/
def predWord (op : Nat) (w : WWord) (s : State) (f : Nat → Nat → Bool × BitVec 6) : Res :=
  plainWord op w s (fun _ c src s =>
    let o := laneMap c.act src (fun x y _ => let r := f x y; (r.1.toNat, r.2))
    (s.writeP c.r w.d.toNat c.act (maskOf (fun i => at_ o.1 i == 1))).raise (wgOf c.r) o.2)

end Sys2Proof.Machine
end

