-- ==== Sys2Proof/Machine/WaveAccess.lean ====
section
/-! DEFINITION. The memory accesses of a wave's lanes: translation of every active lane before any of them
performs (16 R397), reads and writes through the L1, the write-combining buffers, windows and the register
block (06 R190; 14 R376; 01 R47; 00 R509); and the binding of long-latency words to flags (03 R97-R99).
All accesses of a word are performed when it issues (assumption log, entry 7). -/

namespace Sys2Proof.Machine

/-! ## Translation of lanes -/

/-- A lane's translated access: the physical address of each of its bytes. -/
structure LaneAcc where
  lane : Nat
  va   : Nat
  dpas : List Nat
  deriving DecidableEq, Repr

/-- What the translation of a word's lanes gives. -/
inductive LaneMap where
  | ok (l : List LaneAcc)
  /-- the kind raised, its ACC bits, the lowest faulting lane's address, the lanes that raised it, the addresses they
  need (16 R396, R397, R399). -/
  | fault (k : TrapKind) (acc : BitVec 5) (va : Nat) (mask : Lanes) (needs : List Nat)
  /-- a filling entry, or a gang member that has not started: the word waits (16 R404; 01 R47). -/
  | wait
  deriving DecidableEq, Repr

/-- The trap kind of a failed translation. -/
def Xlat.kind : Xlat → TrapKind
  | .pageFault => .pageFault
  | .poison => .poison
  | _ => .protection

/-- Translates one access of at most two pages. -/
def State.mapAccess (s : State) (core ctx va size : Nat) (acc : AccKind) : (Xlat × List Nat) × State :=
  let a := s.translate core ctx va acc
  let room := 4096 - va % 4096
  if size ≤ room then
    match a.1 with
    | .ok d => ((a.1, (List.range size).map (fun i => d + i)), a.2)
    | x => ((x, []), a.2)
  else
    let b := a.2.translate core ctx (va + room) acc
    match a.1, b.1 with
    | .ok d, .ok e =>
      ((a.1, (List.range room).map (fun i => d + i) ++ (List.range (size - room)).map (fun i => e + i)), b.2)
    | x, y => ((x.worse y, []), b.2)

/-- The places in the address space that accesses of some lanes name: each access's first byte, and the first byte of
a second page it may span, in ascending order of lanes. -/
def lanePlaces (size : Nat) (l : List (Nat × Nat)) : List Nat := l.flatMap (fun p => pagesOf p.2 size)

/-- The lookup that holds an address, among those made. -/
def lookupOf (t : List Lookup) (va : Nat) : Option Lookup := t.find? (fun k => decide (k.va ≤ va) && decide (va < k.va + k.size))

/-- The coalescer's lookups: one for each page that the places named reach, in ascending order of each page's lowest
lane (16 R413). -/
def State.mapPages (s : State) (core ctx : Nat) (places : List Nat) : List Lookup × State :=
  places.foldl (fun a va =>
    match lookupOf a.1 va with
    | some _ => a
    | none =>
      let k := a.2.lookup core ctx va
      (a.1 ++ [k.1], k.2)) ([], s)

/-- What the lookups give for an address. -/
def State.pageAt (s : State) (t : List Lookup) (va : Nat) (acc : AccKind) : Xlat :=
  match lookupOf t va with
  | some k => k.at_ s va acc
  | none => .protection

/-- What the lookups give for an access of at most two pages: the result, and the address of each byte. -/
def State.accessAt (s : State) (t : List Lookup) (va size : Nat) (acc : AccKind) : Xlat × List Nat :=
  let room := 4096 - va % 4096
  match s.pageAt t va acc with
  | .ok d =>
    if size ≤ room then (.ok d, (List.range size).map (fun i => d + i))
    else
      match s.pageAt t (va + room) acc with
      | .ok e => (.ok d, (List.range room).map (fun i => d + i) ++ (List.range (size - room)).map (fun i => e + i))
      | x => (x, [])
  | x => if size ≤ room then (x, []) else (x.worse (s.pageAt t (va + room) acc), [])

/-- The accesses of lanes with what the translation of each gives, and PROTECTION for those that `bad` names. -/
def State.lanesAt (s : State) (t : List Lookup) (acc : AccKind) (size : Nat) (bad : LaneAcc → Bool) (l : List (Nat × Nat)) :
    List (LaneAcc × Xlat) :=
  l.map (fun p =>
    let x := s.accessAt t p.2 size acc
    let a : LaneAcc := { lane := p.1, va := p.2, dpas := x.2 }
    (a, if bad a then .protection else x.1))

/-- The fault of the lanes given, in ascending order. -/
def laneFault (k : TrapKind) (acc : BitVec 5) (size : Nat) (l : List LaneAcc) : LaneMap :=
  .fault k acc (((l.head?).map (·.va)).getD 0) (maskOf (fun i => l.any (fun a => a.lane == i)))
    (l.flatMap (fun a => pagesOf a.va size))

/-- What the lanes of a word come to (16 R397): the worst of their results names the kind, and the lanes that gave it
raise it; a walk that met poison adds ACC bit 4 (assumption log, entry 40). Where all translate, one that reads
poisoned bytes consumes them (16 R418), and a place of a gang member that is not on its core makes the word wait. -/
def State.judgeLanes (s : State) (g : Workgroup) (acc : AccKind) (size : Nat) (l : List (LaneAcc × Xlat)) : LaneMap :=
  match l.foldl (fun (w : Xlat) p => w.worse p.2) (.ok 0) with
  | .ok _ =>
    let hit := (l.map (·.1)).filter (fun a => acc != .write && a.dpas.any s.poisonedByte)
    if !hit.isEmpty then laneFault .poison (accBits acc) size hit
    else if l.any (fun p => p.1.dpas.any (s.awaitsMember g)) then .wait
    else .ok (l.map (·.1))
  | .wait => .wait
  | x => laneFault x.kind (accBits acc ||| (if x = .poison then 16 else 0)) size ((l.filter (fun p => p.2 == x)).map (·.1))

/-- Translates the accesses of lanes, given as lane and address, with one lookup a page, and lists the lanes in
ascending order (16 R397, R413). The lanes that `bad` names raise PROTECTION. -/
def State.mapLanesBut (s : State) (r : WaveRef) (g : Workgroup) (acc : AccKind) (size : Nat) (bad : LaneAcc → Bool)
    (l : List (Nat × Nat)) : LaneMap × State :=
  let m := s.mapPages r.core g.ctx (lanePlaces size l)
  (m.2.judgeLanes g acc size (m.2.lanesAt m.1 acc size bad l), m.2)

/-- The same where no lane is barred. -/
def State.mapLanes (s : State) (r : WaveRef) (g : Workgroup) (acc : AccKind) (size : Nat) (l : List (Nat × Nat)) :
    LaneMap × State :=
  s.mapLanesBut r g acc size (fun _ => false) l

/-- A trap of the group's current word for an access of some lanes, with its ACC bits. -/
def State.trapAccess (s : State) (c : WaveCtx) (k : TrapKind) (acc : BitVec 5) (va : Nat) (mask : Lanes)
    (needs : List Nat) : State :=
  s.trapWave c.r k acc 0 c.g.wordAddr (BitVec.ofNat 64 va) mask
    (match k with
      | .pageFault => needs
      | _ => [])

/-- The same for a kind of access. -/
def State.trapLanes (s : State) (c : WaveCtx) (k : TrapKind) (acc : AccKind) (va : Nat) (mask : Lanes)
    (needs : List Nat) : State :=
  s.trapAccess c k (accBits acc) va mask needs

/-- Translates lanes and goes on, traps or waits. -/
def State.withLanes (s : State) (c : WaveCtx) (acc : AccKind) (size : Nat) (l : List (Nat × Nat))
    (f : List LaneAcc → State → State) : State :=
  let m := s.mapLanes c.r c.wg acc size l
  match m.1 with
  | .ok a => f a m.2
  | .wait => m.2
  | .fault k b va mask needs => m.2.trapAccess c k b va mask needs

/-- The lanes of some accesses that are not naturally aligned. -/
def misaligned (size : Nat) (l : List (Nat × Nat)) : List (Nat × Nat) := l.filter (fun p => p.2 % size != 0)

/-- The mask of the lanes of some accesses. -/
def accMask (l : List (Nat × Nat)) : Lanes := maskOf (fun i => l.any (fun p => p.1 == i))

/-- PROTECTION for the lanes given, where there are any; otherwise goes on. -/
def State.protectLanes (s : State) (c : WaveCtx) (acc : AccKind) (bad : List (Nat × Nat)) (f : State → State) : State :=
  match bad with
  | [] => f s
  | p :: _ => s.trapLanes c .protection acc p.2 (accMask bad) []

/-! ## Bytes -/

/-- How a wave reads bytes. -/
inductive ReadMode where
  /-- through the L1. -/
  | plain
  /-- beyond the L1, which keeps its dirty bytes and takes the rest anew: LD.acq (assumption log, entry 7). -/
  | fresh
  /-- beyond the L1 without allocating: LD.nt, and the reads of waits (06 R190; 14 R377). -/
  | around
  deriving DecidableEq, Repr

/-- How a wave writes bytes. -/
inductive WriteMode where
  /-- a plain local store stays in the L1 (14 R376). -/
  | plain
  /-- into the write-combining buffers (00 R23). -/
  | combine
  /-- beyond the L1. -/
  | through
  deriving DecidableEq, Repr

/-- Performs a line of a wave's write-combining buffers, whole, so that no other write falls between the bytes of a store in it
(14 R369). -/
def State.flushLine (s : State) (r : WaveRef) (d : Nat) : State :=
  match s.wave? r with
  | none => s
  | some w =>
    let mine := w.wc.filter (fun c => lineOfAddr c.1 == lineOfAddr d)
    if mine.isEmpty then s
    else (mine.foldl (fun s c => s.performCell r.core c) s).updWave r (fun w => { w with
      wc := w.wc.filter (fun c => lineOfAddr c.1 != lineOfAddr d) })

/-- A byte as a wave reads it: its own buffered write first (06 R192). -/
def State.readByte (s : State) (r : WaveRef) (ctx : Nat) (mode : ReadMode) (d : Nat) : Byte × State :=
  match (s.wave? r).bind (fun w => assoc w.wc d) with
  | some b => (b, s)
  | none =>
    match place d with
    | .window core off => s.loadWindow core off
    | .regs _ => (0, s.setFerr (s.funcOf ctx) 1)
    | .dram | .pres _ =>
      match mode with
      | .plain => s.readL1 r.core d false
      | .fresh => s.readL1 r.core d true
      | .around => s.readBeyond r.core d
    | _ => (cellAt s.mem d, s)

/-- A byte as a wave writes it. -/
def State.writeByte (s : State) (r : WaveRef) (ctx : Nat) (mode : WriteMode) (d : Nat) (b : Byte) : State :=
  match place d, mode with
  | .regs _, _ => s.setFerr (s.funcOf ctx) 1
  | .window core off, _ => s.storeWindow core off b
  | _, .combine => s.updWave r (fun w => { w with wc := assocSet w.wc d b })
  | .dram, .plain | .pres _, .plain => (s.flushLine r d).writeL1 r.core d b
  | _, _ => (s.flushLine r d).writeThrough r.core d b

/-! ## Lanes -/

/-- A lane's value, read; the register block is read as a whole (00 R10, R509). -/
def State.readLane (s : State) (r : WaveRef) (ctx : Nat) (mode : ReadMode) (a : LaneAcc) : Nat × State :=
  match (a.dpas.head?).map place with
  | some (.regs off) => s.deviceRead ctx off a.dpas.length
  | _ =>
    let out := a.dpas.foldl (fun (x : List Byte × State) d =>
      let y := x.2.readByte r ctx mode d
      (y.1 :: x.1, y.2)) ([], s)
    (ofBytes out.1.reverse, out.2.noteStray a.dpas (BitVec.ofNat 10 r.core))

/-- Writes a lane's value. -/
def State.writeLane (s : State) (r : WaveRef) (ctx : Nat) (mode : WriteMode) (a : LaneAcc) (v : Nat) : State :=
  match (a.dpas.head?).map place with
  | some (.regs off) => s.deviceWrite ctx off a.dpas.length (BitVec.ofNat 64 v)
  | _ =>
    ((a.dpas.zip (toBytes a.dpas.length v)).foldl (fun (s : State) p => s.writeByte r ctx mode p.1 p.2) s).noteStray
      a.dpas (BitVec.ofNat 10 r.core)

/-- Reads lanes in ascending order; the values stand at their lanes. -/
def State.readLanes (s : State) (r : WaveRef) (ctx : Nat) (mode : ReadMode) (l : List LaneAcc) : List Nat × State :=
  let out := l.foldl (fun (x : List (Nat × Nat) × State) a =>
    let y := x.2.readLane r ctx mode a
    ((a.lane, y.1) :: x.1, y.2)) ([], s)
  ((List.range 32).map (fun i => (assoc out.1 i).getD 0), out.2)

/-- Writes lanes in ascending order: the highest lane's byte stands (06 R187). -/
def State.writeLanes (s : State) (r : WaveRef) (ctx : Nat) (mode : WriteMode) (l : List LaneAcc) (vals : List Nat) :
    State :=
  l.foldl (fun s a => s.writeLane r ctx mode a (at_ vals a.lane)) s

/-- Performs every earlier write of the wave beyond its L1 that bytes of it hold: what an atomic or a
synchronisation store to those bytes comes after (06 R192). -/
def State.settleByte (s : State) (r : WaveRef) (d : Nat) : State := (s.flushLine r d).settleL1 r.core d

/-- One atomic of a lane (06 R197): the old value, and the new one written at the point of coherence. -/
def State.atomicLane (s : State) (r : WaveRef) (a : LaneAcc) (f : Nat → Nat) : Nat × State :=
  let s := a.dpas.foldl (fun s d => s.settleByte r d) s
  let d := (a.dpas.head?).getD 0
  let old := ofBytes (s.readMem d a.dpas.length)
  let new := f old
  let s := ((a.dpas.zip (toBytes a.dpas.length new)).foldl (fun s p => s.writeThrough r.core p.1 p.2) s)
  (old, s.noteWrite d a.dpas.length)

/-- One compare and swap of a lane (06 R199): a comparison that fails only reads; one that succeeds is a write with
the release of its order. -/
def State.casLane (s : State) (r : WaveRef) (a : LaneAcc) (before : State → State) (cmp new : Nat) : Nat × State :=
  let t := a.dpas.foldl (fun s d => s.settleByte r d) s
  let old := ofBytes (t.readMem ((a.dpas.head?).getD 0) a.dpas.length)
  if old = cmp then (before t).atomicLane r a (fun _ => new) else (old, t)

/-- The release before a write: of its own order, or of a FENCE before it (06 R190; 14 R375). -/
def State.beforeWrite (s : State) (r : WaveRef) (order : MOrder) : State :=
  let own := match order with
    | .rel | .ar => true
    | _ => false
  if own || ((s.wave? r).bind (·.fence)).isSome then (s.releaseWave r).updWave r (fun w => { w with fence := none })
  else s

/-! ## Binding long-latency words (03 R97) -/

/-- Whether a wave word selects the literal of its clause (03 R88). -/
def selectsLit (x : Nat) : Bool :=
  let op := bits x 56 8
  let kb := bits x 4 2
  let kc := bits x 2 2
  let pair := twoSource op && kb == 3 && kc == 3
  (bits x 6 2 == 3 && bits x 24 8 == 0x80)
    || (!pair && kb == 3 && modeB op == .plain && bits x 16 8 == 0x80)
    || (!pair && kc == 3 && modeC op == .plain && bits x 8 8 == 0x80)

/-- The 8 bytes that a wave of a core fetches at a physical address: from a line that the core's instruction caches hold, or from
beyond every L1 (01 R25; assumption log, entry 7). -/
def State.fetchAt (s : State) (core ctx d : Nat) : Nat :=
  match place d with
  | .window c off => ofBytes ((List.range 8).map (fun i => s.windowByte c (off + i)))
  | .regs off => (s.deviceRead ctx off 8).1
  | _ =>
    match (s.core core).icache.find? (fun x => x.line == lineOfAddr d) with
    | some x => ofBytes ((x.bytes.drop (d % 128)).take 8)
    | none => s.readWord d

/-- A core's instruction caches take a line of memory, as it stands beyond every L1. -/
def State.fillCode (s : State) (core line : Nat) : State :=
  if cacheable (line * 128) then
    s.updCore core (fun c => { c with
      icache := ⟨line, s.readMem (line * 128) 128⟩ :: c.icache.filter (fun x => x.line != line) })
  else s

/-- A core's instruction caches drop a line. -/
def State.dropCode (s : State) (core line : Nat) : State :=
  s.updCore core (fun c => { c with icache := c.icache.filter (fun x => x.line != line) })

/-- What a fetch through a scratchpad window leaves: a record where it strays (01 R47). -/
def State.noteFetch (s : State) (core d : Nat) : State :=
  s.noteStray ((List.range 8).map (fun i => d + i)) (BitVec.ofNat 10 core)

/-- A word of a wave's code, where its address translates. -/
def State.codeWord (s : State) (core ctx va : Nat) : Option Nat :=
  match (s.translate core ctx va .fetch).1 with
  | .ok d => some (s.fetchAt core ctx d)
  | _ => none

/-- Whether a long-latency word stands before the group's position in its clause; from position `i` on, with
`fuel` positions to look at. -/
def State.longBefore (s : State) (c : WaveCtx) : Nat → Nat → Bool
  | 0, _ => false
  | fuel + 1, i =>
    if c.g.ix ≤ i then false
    else
      match s.codeWord c.r.core c.wg.ctx (c.g.pc.toNat + 8 + 8 * i) with
      | none => false
      | some x => longLatency (bits x 56 8) || s.longBefore c fuel (i + if selectsLit x then 2 else 1)

/-- The flag the group's current word binds: none where the header names none (03 R97). -/
def State.boundFlag (s : State) (c : WaveCtx) : Option Nat :=
  let h := c.g.head.toNat
  let a := bits h 40 4
  let b := bits h 35 4
  match bit h 39, bit h 34 with
  | true, true => some (if s.longBefore c 8 0 then b else a)
  | true, false => some a
  | false, true => some b
  | false, false => none

/-- Runs a long-latency word: without a flag it traps ILLEGAL_WORD when it is reached, before it waits for anything
(03 R97, R101); with 255 bound it waits. The body gets the flag. -/
def longWord (op : Nat) (w : WWord) (s : State) (body : Nat → WaveForm → WaveCtx → State → State) : Res :=
  match s.waveCtx? w with
  | none => .next s
  | some c =>
    if (s.boundFlag c).isNone then .next (s.trapHere c .illegalWord)
    else
      rawWord op w s (fun f c s =>
        match s.boundFlag c with
        | none => s.trapHere c .illegalWord
        | some k => if 255 ≤ (c.wv.flags[k]?).getD 0 then s else body k f c s)

/-- Binds a pending word; one without active lanes binds and completes at once (03 R97). -/
def State.bindPending (s : State) (c : WaveCtx) (p : Pending) : State :=
  if c.act = 0 then s
  else s.updWave c.r (fun w => { w with flags := modAt w.flags p.flag (· + 1), pending := w.pending ++ [p] })

/-- Typed lane values as the vectors of their destination registers (04 R121, R122). -/
def regVectors (t : WType) (vals : List Nat) : List (List W32) :=
  if isWide t then [vals.map (fun v => BitVec.ofNat 32 v), vals.map (fun v => BitVec.ofNat 32 (v / 2 ^ 32))]
  else [vals.map (fun v => BitVec.ofNat 32 (extendTo t 32 v))]

/-- Typed 128-bit lane values as four registers (06 R185). -/
def quadVectors (vals : List Nat) : List (List W32) :=
  (List.range 4).map (fun i => vals.map (fun v => BitVec.ofNat 32 (v / 2 ^ (32 * i))))

/-- A pending word whose result is known. -/
def resultPending (c : WaveCtx) (flag : Nat) (t : WType) (d : Nat) (vals : List (List W32)) (sticky : BitVec 6) :
    Pending :=
  { kind := .result vals, flag := flag, ty := t, mask := c.act, regs := (List.range vals.length).map (fun i => d + i),
    sticky := sticky, spoiled := false, reply := false, holds := .nothing, pc := c.g.wordAddr }

/-- A pending word whose result comes in a reply from beyond the core (16 R416). -/
def replyPending (c : WaveCtx) (flag : Nat) (t : WType) (d : Nat) (vals : List (List W32)) (sticky : BitVec 6) :
    Pending :=
  { resultPending c flag t d vals sticky with reply := true }

/-- Writes a pending word's result, unspecified values where its destination was touched (03 R99), and raises
its flags (05 R162). -/
def State.finishPending (s : State) (r : WaveRef) (k : Nat) (p : Pending) (vals : List (List W32)) : State :=
  let s := (p.regs.zip vals).foldl (fun s x =>
    if p.spoiled then
      let v := s.freeLanes 32
      v.2.writeVec r x.1 p.mask v.1
    else s.writeVec r x.1 p.mask x.2) s
  (s.raise (wgOf r) p.sticky).updWave r (fun w => w.complete k)

end Sys2Proof.Machine
end

