-- ==== Sys2Proof/Machine/WaveControl.lean ====
section
/-! DEFINITION. Wave control: choosing a lane group and starting a clause (03 R93-R96; 04 R145-R147),
branches, calls and returns (04 R148-R153), exit, traps and waiting (04 R155-R159), the completion of
long-latency words (03 R97-R99; 06 R191, R194) and the end of a wave (04 R155). -/

namespace Sys2Proof.Machine

/-! ## Moving lanes -/

/-- Moves every lane of the group out of its clause: lane `l` to the address given, with a change of its
own (03 R95). -/
def Wave.leave (w : Wave) (target : Nat → W64) (f : Nat → Lane → Lane) : Wave :=
  match w.group with
  | none => w
  | some g => { w with
      done := 0
      group := none
      lanes := w.lanes.mapIdx (fun i l =>
        if g.lanes.getLsbD i then { (f i l) with pc := target i, ix := 0 } else l) }

/-- Whether a word that must stand last in its clause does (03 R95). -/
def WaveCtx.isLast (c : WaveCtx) (w : WWord) : Bool := c.g.ix + wordLen w == c.g.words

/-- A lane's target address under a control word: the active lanes' own, the next clause for the others
(04 R149). -/
def WaveCtx.target (c : WaveCtx) (vals : Nat → Nat) (i : Nat) : W64 :=
  if c.act.getLsbD i then BitVec.ofNat 64 (vals i) else c.g.nextClause

/-- Whether every lane of the group has the same PC after the word (04 R150). -/
def WaveCtx.uniformTarget (c : WaveCtx) (t : Nat → W64) : Bool :=
  match lanesOf c.g.lanes with
  | [] => true
  | l :: rest => rest.all (fun i => t i == t l)

/-- Runs a control word that must stand last: otherwise it traps ILLEGAL_WORD. -/
def lastWord (op : Nat) (w : WWord) (s : State) (body : WaveForm → WaveCtx → State → State) : Res :=
  rawWord op w s (fun f c s => if c.isLast w then body f c s else s.trapHere c .illegalWord)

/-- The targets of a relative control word: header address plus 8 × the signed offset (04 R149). -/
def relTarget (c : WaveCtx) (vals : List Nat) (i : Nat) : Nat := (c.g.pc.toNat + 8 * at_ vals i) % 2 ^ 64

/-- A jump of the active lanes, asserted uniform under U (04 R149, R150). -/
def jumpWord (op : Nat) (w : WWord) (s : State) (relative : Bool) : Res :=
  lastWord op w s (fun f c s =>
    let a := (c.sources s f w).1
    let t := c.target (fun i => if relative then relTarget c a i else at_ a i)
    if w.u && !c.uniformTarget t then s.trapHere c .uniformity
    else ((s.consume c f w).countIssue c.r).updWave c.r (fun v => v.leave t (fun _ l => l)))

/-- BRA (04 R149). -/
def execWBra (w : WWord) (s : State) : Res := jumpWord 0x30 w s true
/-- BRX (04 R149). -/
def execWBrx (w : WWord) (s : State) : Res := jumpWord 0x31 w s false

/-! ## The call stack (04 R151-R153) -/

/-- The depth of a group: that of each of its lanes (04 R146). -/
def WaveCtx.depth (c : WaveCtx) : Nat :=
  match lowLane c.g.lanes with
  | some l => ((c.wv.lanes[l]?).map (·.depth)).getD 0
  | none => 0

/-- The address of entry `j` of a lane's spill area (04 R151). -/
def Wave.spillAddr (w : Wave) (j lane : Nat) : Nat := (w.lstk.toNat / 8 * 8 + 256 * j + 8 * lane) % 2 ^ 64

/-- A lane's stack with a return address pushed: at most four stay on chip (04 R151). -/
def Lane.push (l : Lane) (ret : W64) : Lane := { l with stack := (ret :: l.stack).take 4, depth := l.depth + 1 }

/-- The accesses of the active lanes to entry `j`. -/
def WaveCtx.spillAccesses (c : WaveCtx) (j : Nat) : List (Nat × Nat) :=
  (lanesOf c.act).map (fun i => (i, c.wv.spillAddr j i))

/-- CALL and CALLX: the uniformity check, the spill of the oldest entries where they are deep, which is the wave's next
write for a FENCE before it (14 R375), the push and the jump (04 R150, R151, R153). -/
def callWord (op : Nat) (w : WWord) (s : State) (relative : Bool) : Res :=
  lastWord op w s (fun f c s =>
    let a := (c.sources s f w).1
    let t := c.target (fun i => if relative then relTarget c a i else at_ a i)
    let go (s : State) : State := ((s.consume c f w).countIssue c.r).updWave c.r (fun v =>
      v.leave t (fun i l => if c.act.getLsbD i then l.push c.g.nextClause else l))
    if w.u && !c.uniformTarget t then s.trapHere c .uniformity
    else if c.act = 0 ∨ c.depth < 4 then go s
    else if c.accessWaits true then s
    else
      let j := c.depth - 4
      if (s.lpbOf c.wg).lstkStride / 256 ≤ j then
        s.trapWave c.r .callSpillFault 0 0 c.g.wordAddr 0 c.act []
      else
        let old := (List.range 32).map (fun i => (((c.wv.lanes[i]?).bind (·.stack.getLast?)).getD 0).toNat)
        s.withLanes c .write 8 (c.spillAccesses j) (fun l s =>
          go ((s.beforeWrite c.r .rlx).writeLanes c.r c.wg.ctx .plain l old)))

/-- CALL (04 R151). -/
def execWCall (w : WWord) (s : State) : Res := callWord 0x32 w s true
/-- CALLX (04 R151). -/
def execWCallx (w : WWord) (s : State) : Res := callWord 0x33 w s false

/-- A lane's stack with its newest entry popped, and the refilled one under the rest (04 R152). -/
def Lane.pop (l : Lane) (refill : Option W64) : Lane :=
  { l with stack := l.stack.drop 1 ++ refill.toList, depth := l.depth - 1 }

/-- RET (04 R150, R152, R153). A return address that is missing at depth 0 counts as 0 in the comparison of U, which
comes before CALL_SPILL_FAULT: the model's choice (assumption log, entry 63). -/
def execWRet (w : WWord) (s : State) : Res :=
  lastWord 0x34 w s (fun f c s =>
    let top (i : Nat) : Nat := (((c.wv.lanes[i]?).bind (·.stack.head?)).getD 0).toNat
    let t := c.target top
    let go (refill : Nat → Option W64) (s : State) : State := ((s.consume c f w).countIssue c.r).updWave c.r (fun v =>
      v.leave t (fun i l => if c.act.getLsbD i then l.pop (refill i) else l))
    if w.u && !c.uniformTarget t then s.trapHere c .uniformity
    else if c.act = 0 then go (fun _ => none) s
    else if c.depth = 0 then s.trapWave c.r .callSpillFault 0 0 c.g.wordAddr 0 c.act []
    else if c.depth - 1 < 4 then go (fun _ => none) s
    else if c.accessWaits false then s
    else
      s.withLanes c .read 8 (c.spillAccesses (c.depth - 1 - 4)) (fun l s =>
        let r := s.readLanes c.r c.wg.ctx .plain l
        go (fun i => some (BitVec.ofNat 64 (at_ r.1 i))) r.2))

/-! ## Traps, NOP (04 R156, R157); EXIT stands in WaveMem.lean -/

/-- TRAP and BREAK: the lanes stand at the next clause, and the trap is raised once if a lane is active
(04 R156). -/
def stopWord (op : Nat) (kind : TrapKind) (w : WWord) (s : State) : Res :=
  lastWord op w s (fun f c s =>
    let code := uniform (c.sources s f w).1
    let s := ((s.consume c f w).countIssue c.r).updWave c.r (fun v => v.leave (fun _ => c.g.nextClause) (fun _ l => l))
    if c.act = 0 then s else s.trapWave c.r kind 0 (BitVec.ofNat 32 code) c.g.nextClause 0 c.act [])

/-- TRAP (04 R156). -/
def execWTrap (w : WWord) (s : State) : Res := stopWord 0x36 .trap w s
/-- BREAK (04 R156). -/
def execWBreak (w : WWord) (s : State) : Res := stopWord 0x37 .brk w s

/-- NOP (04 R157). -/
def execWNop (w : WWord) (s : State) : Res := plainWord 0x38 w s (fun _ _ _ s => s)
/-- YIELD: no architectural effect; the order of moves is the agenda's (04 R157). -/
def execWYield (w : WWord) (s : State) : Res := plainWord 0x39 w s (fun _ _ _ s => s)

/-! ## Blocking words (04 R147) -/

/-- Makes lanes of the group wait, each at its resume point: the next instruction word, or the next clause;
the other lanes go on as one group (04 R147). -/
def Wave.hold (v : Wave) (len : Nat) (mask : Lanes) (wait : Nat → LaneWait) : Wave :=
  match v.group with
  | none => v
  | some g =>
    let at_ := if g.ix + len < g.words then (g.pc, g.ix + len) else (g.nextClause, 0)
    let lanes := v.lanes.mapIdx (fun i l =>
      if mask.getLsbD i then { l with pc := at_.1, ix := at_.2, state := .waiting (wait i) } else l)
    let rest := g.lanes &&& ~~~mask
    if rest = 0 then { v with lanes := lanes, group := none, done := 0 }
    else { v with lanes := lanes, group := some { g with lanes := rest } }.pass len

/-- A blocking word: the lanes it makes wait, and what each waits for. -/
def State.holdLanes (s : State) (c : WaveCtx) (w : WWord) (mask : Lanes) (wait : Nat → LaneWait) : State :=
  s.updWave c.r (fun v => v.hold (wordLen w) mask wait)

/-- SLEEP (04 R158). -/
def execWSleep (w : WWord) (s : State) : Res :=
  waveWord 0x3A w s (fun f c s =>
    let n := uniform (c.sources s f w).1
    let s := s.consume c f w
    s.holdLanes c w (if n = 0 then 0 else c.act) (fun _ => .sleep (s.tckOf c.r.core + n)))

/-- Whether every flag a mask names is clear (04 R159). -/
def Wave.flagsClear (v : Wave) (mask : Nat) : Bool := (v.flags.zipIdx).all (fun p => p.1 == 0 || !bit mask p.2)

/-- WAITF (04 R159). -/
def execWWaitf (w : WWord) (s : State) : Res :=
  waveWord 0x3B w s (fun f c s =>
    let m := uniform (c.sources s f w).1 % 4096
    let s := s.consume c f w
    s.holdLanes c w (if c.wv.flagsClear m then 0 else c.act) (fun _ => .waitf (BitVec.ofNat 12 m)))

/-- SLEEP_EXPIRY (04 R158). -/
def execEvSleepExpiry (r : WaveRef) (s : State) : Res :=
  .next (s.updWave r (fun v => v.release (fun x => match x with
    | .sleep t => decide (t ≤ s.tckOf r.core)
    | _ => false)))

/-- WAITF_RELEASE (04 R159). -/
def execEvWaitfRelease (r : WaveRef) (s : State) : Res :=
  .next (s.updWave r (fun v => v.release (fun x => match x with
    | .waitf m => v.flagsClear m.toNat
    | _ => false)))

/-! ## The start of a clause (04 R146, R147; 03 R93-R96) -/

/-- The greatest of some numbers, 0 for none. -/
def greatest (l : List Nat) : Nat := l.foldl max 0

/-- The lane group a wave chooses: its lanes, and the resume point (04 R146). -/
def Wave.chooseGroup (v : Wave) : Option (Lanes × W64 × Nat) :=
  let live := (v.lanes.zipIdx).filter (fun p => p.1.state == .live)
  let d := greatest (live.map (·.1.depth))
  let deep := live.filter (fun p => p.1.depth == d)
  match leastBy (fun p => p.1.pc.toNat * 16 + p.1.ix) deep with
  | none => none
  | some p => some (maskOf (fun i => deep.any (fun q => q.2 == i && q.1.pc == p.1.pc && q.1.ix == p.1.ix)), p.1.pc, p.1.ix)

/-- Whether a clause header is well formed (03 R93). -/
def headerOk (h : Nat) : Bool :=
  bits h 0 30 == 0 && (bit h 39 || bits h 40 4 == 0) && (bit h 34 || bits h 35 4 == 0)
    && (!bit h 39 || decide (bits h 40 4 < 12)) && (!bit h 34 || decide (bits h 35 4 < 12))

/-- A trap at the start of a clause, naming the header's address (03 R95; 04 R149). -/
def State.trapFetch (s : State) (r : WaveRef) (k : TrapKind) (pc : W64) (mask : Lanes) : State :=
  match k with
  | .pageFault => s.trapWave r k (accBits .fetch) 0 pc pc mask [pc.toNat]
  | .protection | .poison => s.trapWave r k (accBits .fetch) 0 pc pc mask []
  | _ => s.trapWave r k 0 0 pc 0 mask []

/-- The trap of a fetch that did not translate; a walk that met poison adds ACC bit 4 (assumption log, entry 40). -/
def State.trapXlat (s : State) (r : WaveRef) (x : Xlat) (pc : W64) (mask : Lanes) : State :=
  match x with
  | .poison => s.trapWave r .poison (accBits .fetch ||| 16) 0 pc pc mask []
  | x => s.trapFetch r x.kind pc mask

/-- CLAUSE_START (03 R96; 04 R146, R147): the wave `cur` names chooses its next lane group, which starts its
clause once the flags of W are clear, or goes on at its resume point. -/
def execEvClauseStart (s : State) : Res :=
  match s.cur with
  | .wave r =>
    match s.wg? (wgOf r), s.wave? r with
    | some g, some v =>
      if v.group.isSome ∨ v.block ≠ .none then .next s
      else
        match v.chooseGroup with
        | none => .next s
        | some (lanes, pc, ix) =>
          if 2 ^ 52 ≤ pc.toNat then .next (s.trapFetch r .protection pc lanes)
          else if pc.toNat % 8 ≠ 0 then .next (s.trapFetch r .illegalWord pc lanes)
          else
            let x := s.translate r.core g.ctx pc.toNat .fetch
            match x.1 with
            | .ok d =>
              if s.awaitsMember g d then .next x.2
              else if (List.range 8).any (fun i => s.poisonedByte (d + i)) then .next (x.2.trapFetch r .poison pc lanes)
              else
                let h := s.fetchAt r.core g.ctx d
                let t := x.2.noteFetch r.core d
                if bits h 56 8 ≠ 0xFF ∨ headerOk h = false then .next (t.trapFetch r .illegalWord pc lanes)
                else if ix = 0 ∧ v.flagsClear (bits h 44 12) = false then .next t
                else
                  .next (t.updWave r (fun v => { v with
                    done := 0, group := some { lanes := lanes, pc := pc, head := BitVec.ofNat 64 h, ix := ix } }))
            | .wait => .next x.2
            | k => .next (x.2.trapXlat r k pc lanes)
    | _, _ => .next s
  | _ => .next s

/-! ## Completion of long-latency words -/

/-- Returns one free-entry count for a workgroup's queue to the member that sent an entry (18 R433, R434). -/
def State.returnCredit (s : State) (r : WgRef) (sender : Nat) : State :=
  match s.wg? r with
  | none => s
  | some g =>
    let l := s.lpbOf g
    let me := g.wgl % l.gang
    s.updGang g.grid l g.wgl (fun m =>
      if m.wgl % l.gang = sender then { m with credits := assocSet m.credits me ((assoc m.credits me).getD 0 + 1) } else m)

/-- The offset at which the entry at the head of a gang receive queue stands (18 R432). -/
def Workgroup.headEntry (g : Workgroup) (scratch : Nat) : Nat :=
  scratch - 2048 + 128 * ((g.appended - g.queue.length) % 16)

/-- The lanes of a mask whose bytes of scratchpad, at an offset each, hold poison. -/
def Workgroup.poisonedLanes (g : Workgroup) (mask : Lanes) (off : Nat → Nat) (size : Nat) : Lanes :=
  maskOf (fun i => mask.getLsbD i && g.poison.any (fun b => decide (off i ≤ b) && decide (b < off i + size)))

/-- POISON of a pending word that reads scratchpad, for the lanes given, naming the lowest one's offset
(16 R396, R418; assumption log, entry 25). -/
def State.trapPending (s : State) (r : WaveRef) (p : Pending) (mask : Lanes) (off : Nat → Nat) : State :=
  s.trapWave r .poison (accBits .read) 0 p.pc (BitVec.ofNat 64 (((lowLane mask).map off).getD 0)) mask []

/-- LONG_LATENCY_COMPLETION (03 R97, R99; 06 R191, R194; 18 R432): the `k`-th pending word of a wave completes, where
it can: an LDS once its lines are full, a RECV once an entry is there and every earlier RECV has its own. -/
def execEvLongLatencyCompletion (r : WaveRef) (k : Nat) (s : State) : Res :=
  match s.wg? (wgOf r), (s.wave? r).bind (fun v => v.pending[k]?) with
  | some g, some p =>
    match p.kind with
    | .result vals => .next (s.finishPending r k p vals)
    | .lds offs size =>
      let hit := g.poisonedLanes p.mask (at_ offs) size
      if !g.served p then .next s
      else if hit ≠ 0 then .next (s.trapPending r p hit (at_ offs))
      else
        let v := s.loadLanes (wgOf r) g p.mask (at_ offs) size
        .next (v.2.finishPending r k p (if size = 16 then quadVectors v.1 else regVectors p.ty v.1))
    | .recv n =>
      let earlier := g.waves.any (fun v => v.pending.any (fun q => match q.kind with
        | .recv m => decide (m < n)
        | _ => false))
      match g.queue with
      | [] => .next s
      | m :: rest =>
        let at0 := g.headEntry (s.lpbOf g).scratch
        let hit := g.poisonedLanes p.mask (fun i => at0 + 4 * i) 4
        if earlier then .next s
        else if hit ≠ 0 then .next (s.trapPending r p hit (fun i => at0 + 4 * i))
        else
          let v := s.loadLanes (wgOf r) g p.mask (fun i => at0 + 4 * i) 4
          let s := v.2.updWg (wgOf r) (fun g => { g with queue := rest })
          let s := s.returnCredit (wgOf r) m.sender
          .next (s.finishPending r k p [v.1.map (BitVec.ofNat 32)])
  | _, _ => .next s

/-- REPLY_TAKEN_AS_POISONED (16 R416): a reply still missing 100 µs after a save began is taken as poisoned. -/
def execEvReplyTakenAsPoisoned (r : WaveRef) (k : Nat) (s : State) : Res :=
  match s.wg? (wgOf r), (s.wave? r).bind (fun v => v.pending[k]?) with
  | some g, some p =>
    .next (if g.saving && p.reply && s.repliesLate g then
        s.updWave r (fun v => (v.complete k).poisonRegs p.regs p.mask)
      else s)
  | _, _ => .next s

/-- WAVE_END (04 R155; 13 R367): a wave with no lane that has not exited ends once its bound instructions have
completed and its timeline writes are answered; its stores take effect, and its registers are freed. -/
def execEvWaveEnd (r : WaveRef) (s : State) : Res :=
  match s.wave? r with
  | none => .next s
  | some v =>
    if v.ended ∨ v.liveMask ≠ 0 ∨ !v.pending.isEmpty ∨ v.block ≠ .none ∨ v.group.isSome then .next s
    else
      let s := (s.drainWc r).updWave r (fun v => { v with ended := true, vregs := [], spilled := [], poison := [], spoison := [] })
      .next (s.tryComplete (wgOf r))

end Sys2Proof.Machine
end

