-- ==== Sys2Proof/Machine/WaveFloat.lean ====
section
/-! DEFINITION. Wave instructions: floating point, conversion, packing, dot products, reductions, selection,
ballot and vote (05 R160-R182). The arithmetic itself stands in Float.lean and Transc.lean. -/

namespace Sys2Proof.Machine

/-! ## Arithmetic, comparison, rounding (05 R164-R168) -/

/-- A word of one float operand, elementwise. -/
def flt1 (op : Nat) (w : WWord) (s : State) (f : Fmt → Nat → Nat × BitVec 6) : Res :=
  vecWord op w w.t s (fun x _ _ => elementwise (isPacked w.t) (f (wtypeFmt w.t)) x)

/-- A word of two float operands, elementwise. -/
def flt2 (op : Nat) (w : WWord) (s : State) (f : Fmt → Nat → Nat → Nat × BitVec 6) : Res :=
  vecWord op w w.t s (fun x y _ => elementwise2 (isPacked w.t) (f (wtypeFmt w.t)) x y)

/-- A word of three float operands, elementwise. -/
def flt3 (op : Nat) (w : WWord) (s : State) (f : Fmt → Nat → Nat → Nat → Nat × BitVec 6) : Res :=
  vecWord op w w.t s (fun x y z => elementwise3 (isPacked w.t) (f (wtypeFmt w.t)) x y z)

/-- FADD (05 R164). -/
def execWFadd (w : WWord) (s : State) : Res := flt2 0x80 w s (fun f => f.add w.rnd (w.m == 8))
/-- FSUB (05 R164). -/
def execWFsub (w : WWord) (s : State) : Res := flt2 0x81 w s (fun f => f.sub w.rnd (w.m == 8))
/-- FMUL (05 R164). -/
def execWFmul (w : WWord) (s : State) : Res := flt2 0x82 w s (fun f => f.mul w.rnd (w.m == 8))
/-- FFMA (05 R164). -/
def execWFfma (w : WWord) (s : State) : Res := flt3 0x83 w s (fun f => f.fma w.rnd (w.m == 8))
/-- FMIN (05 R165). -/
def execWFmin (w : WWord) (s : State) : Res := flt2 0x84 w s (fun f => f.select false)
/-- FMAX (05 R165). -/
def execWFmax (w : WWord) (s : State) : Res := flt2 0x85 w s (fun f => f.select true)

/-- FCMP (05 R166). -/
def execWFcmp (w : WWord) (s : State) : Res := predWord 0x86 w s (fun x y => (wtypeFmt w.t).compare w.m.toNat x y)
/-- FCLASS (05 R167). -/
def execWFclass (w : WWord) (s : State) : Res :=
  predWord 0x87 w s (fun x y => (bit y ((wtypeFmt w.t).class_ x), 0))

/-- FRND (05 R168). -/
def execWFrnd (w : WWord) (s : State) : Res := flt1 0x88 w s (fun f => f.frnd w.rnd)
/-- FRACT (05 R168). -/
def execWFract (w : WWord) (s : State) : Res := flt1 0x89 w s (fun f => f.fract)

/-! ## Functions (05 R169, R170): long-latency -/

/-- A long-latency word whose result is a function of its first operand; it reads its sources at issue and
writes at completion (03 R99). -/
def funcWord (op : Nat) (fn : Func) (w : WWord) (s : State) : Res :=
  longWord op w s (fun k f c s =>
    let out := laneMap c.act (c.sources s f w) (fun x _ _ =>
      elementwise (isPacked w.t) ((wtypeFmt w.t).func fn w.rnd (w.m == 8)) x)
    (((s.consume c f w).countIssue c.r).bindPending c
      (resultPending c k w.t w.d.toNat (regVectors w.t out.1) out.2)).nextWord c.r (wordLen w))

/-- RCP (05 R169). -/
def execWRcp (w : WWord) (s : State) : Res := funcWord 0x8A .rcp w s
/-- RSQ (05 R169). -/
def execWRsq (w : WWord) (s : State) : Res := funcWord 0x8B .rsq w s
/-- SQRT (05 R169). -/
def execWSqrt (w : WWord) (s : State) : Res := funcWord 0x8C .sqrt w s
/-- EXP2 (05 R169). -/
def execWExp2 (w : WWord) (s : State) : Res := funcWord 0x8D .exp2 w s
/-- LOG2 (05 R169). -/
def execWLog2 (w : WWord) (s : State) : Res := funcWord 0x8E .log2 w s
/-- SIN (05 R169). -/
def execWSin (w : WWord) (s : State) : Res := funcWord 0x8F .sin w s
/-- COS (05 R169). -/
def execWCos (w : WWord) (s : State) : Res := funcWord 0x90 .cos w s
/-- TANH (05 R169). -/
def execWTanh (w : WWord) (s : State) : Res := funcWord 0x91 .tanh w s

/-! ## Conversion (05 R171, R172) -/

/-- A source value as CVT takes it: an integer, or a float value. -/
inductive CvtSrc where
  | int (i : Int)
  | flt (v : FVal)
  deriving DecidableEq, Repr

/-- Whether a type code is a signed integer type. -/
def tcodeSigned : TCode → Bool
  | .t x => isSigned x
  | .s4 => true
  | _ => false

/-- Reads a source value; a cb4 code is already its bf16 entry. -/
def cvtSrc (st : TCode) (x : Nat) : CvtSrc :=
  match st with
  | .cb4 => .flt (bf16.value x)
  | _ =>
    match tcodeFmt st with
    | some f => .flt (f.value x)
    | none => .int (if tcodeSigned st then signed (tcodeBits st) x else (x : Int))

/-- Converts a value, in the width of the destination (05 R171; 02 R65-R68). -/
def cvtVal (dt : TCode) (rnd : Rnd) (sat : Bool) (v : CvtSrc) : Nat × BitVec 6 :=
  let n := tcodeBits dt
  match tcodeFmt dt, v with
  | some f, .flt x => convFF f rnd sat x
  | some f, .int i => convIF f rnd sat i
  | none, .flt x =>
    let r := convFI (intLo (tcodeSigned dt) n) (intHi (tcodeSigned dt) n) rnd sat x
    (wrap n r.1, r.2)
  | none, .int i => convII (tcodeSigned dt) n sat i

/-- A converted value as it is written to its register: an integer extended by R122, a float with zeros
above it. -/
def cvtImage (dt : TCode) (v : Nat) : Nat :=
  if tcodeSigned dt then wrap (if tcodeBits dt = 64 then 64 else 32) (signed (tcodeBits dt) v) else v

/-- Entry `i` of the codebook that stands in four scalars from `s(4j)` (05 R172). -/
def codebookEntry (sregs : List W64) (j i : Nat) : Nat :=
  bits ((sregs[4 * j + i / 4]?).getD 0).toNat (16 * (i % 4)) 16

/-- The type code an operand carries. -/
def opCode (o : Operand) : TCode := (tcodeOf (immCode o)).getD .s4

/-- CVT (05 R171). -/
def execWCvt (w : WWord) (s : State) : Res :=
  let dt := opCode w.b
  let st := opCode w.c
  plainWord 0x92 w s (fun _ c src s =>
    let out := laneMap c.act src (fun x _ _ =>
      let x := if st = .cb4 then codebookEntry c.wv.sregs (w.m.toNat % 8) (x % 16) else x
      let r := cvtVal dt w.rnd (w.m.toNat / 8 == 1) (cvtSrc st x)
      (cvtImage dt r.1, r.2))
    (s.writeTyped c.r (if tcodeBits dt = 64 then .b64 else .b32) w.d.toNat c.act out.1).raise (wgOf c.r) out.2)

/-! ## Packing (05 R173, R174) -/

/-- PACK (05 R173). -/
def execWPack (w : WWord) (s : State) : Res :=
  let sat := w.m.toNat / 8 == 1
  plainWord 0x93 w s (fun _ c src s =>
    let old := (c.wv.vreg w.d.toNat).map (fun v => v.toNat)
    let src : List Nat × List Nat × List Nat := (src.1, src.2.1, old)
    let out := laneMap c.act src (fun x y d =>
      match w.m.toNat % 8 with
      | 0 =>
        let f := wtypeFmt w.t
        let lo := convFF f w.rnd sat (f32.value x)
        let hi := convFF f w.rnd sat (f32.value y)
        (lo.1 + 65536 * hi.1, lo.2 ||| hi.2)
      | 1 => (x % 65536 + 65536 * (y % 65536), 0)
      | _ =>
        let k := y % 4
        let r := cvtVal (opCode w.c) w.rnd sat (.flt (f32.value x))
        (d - bits d (8 * k) 8 * 2 ^ (8 * k) + r.1 * 2 ^ (8 * k), r.2))
    (s.writeTyped c.r .b32 w.d.toNat c.act out.1).raise (wgOf c.r) out.2)

/-- UNPACK (05 R174). -/
def execWUnpack (w : WWord) (s : State) : Res :=
  plainWord 0x94 w s (fun _ c src s =>
    let out := laneMap c.act src (fun x y _ =>
      match w.m.toNat with
      | 0 => convFF f32 .rn false ((wtypeFmt w.t).value (half x (y % 2)))
      | 1 => (half x (y % 2), 0)
      | 2 => cvtVal (.t .f32) .rn false (cvtSrc (opCode w.c) (bits x (8 * (y % 4)) 8))
      | _ => cvtVal (.t .f32) .rn false (cvtSrc .s4 (bits x (4 * (y % 8)) 4)))
    (s.writeTyped c.r .b32 w.d.toNat c.act out.1).raise (wgOf c.r) (out.2 &&& flagIV))

/-! ## Dot products (05 R175) -/

/-- The float dot product of element pairs added to z, with one rounding; infinite terms of opposite signs set IV,
whether or not a NaN stands beside them. -/
def dotFloat (f : Fmt) (width n : Nat) (rnd : Rnd) (sat : Bool) (x y z : Nat) : Nat × BitVec 6 :=
  let ps := (List.range n).map (fun e => (f.value (bits x (width * e) width)).mul (f.value (bits y (width * e) width)))
  let l := f32.value z :: ps.map (·.1)
  let v := FVal.sum rnd l
  let r := f32.round rnd sat v.1
  (r.1, r.2 ||| v.2 ||| ps.foldl (fun a p => a ||| p.2) (ivIf (l.contains (.inf false) && l.contains (.inf true))))

/-- DOT2 (05 R175). -/
def execWDot2 (w : WWord) (s : State) : Res :=
  let f := if w.m.toNat % 2 = 0 then f16 else bf16
  vecWord 0x95 w .f32 s (fun x y z => dotFloat f 16 2 w.rnd (w.m.toNat / 8 == 1) x y z)

/-- The integer dot product of four bytes added to z. -/
def dotInt (sgn sat : Bool) (x y z : Nat) : Nat × BitVec 6 :=
  let e (v i : Nat) : Int := if sgn then signed 8 (bits v (8 * i) 8) else (bits v (8 * i) 8 : Nat)
  let v := (List.range 4).foldl (fun a i => a + e x i * e y i) (signed 32 z)
  convII true 32 sat v

/-- DOT4 (05 R175). -/
def execWDot4 (w : WWord) (s : State) : Res :=
  let sat := w.m.toNat / 8 == 1
  vecWord 0x96 w .b32 s (fun x y z =>
    match w.m.toNat % 4 with
    | 0 => dotInt true sat x y z
    | 1 => dotInt false sat x y z
    | 2 => dotFloat e4m3 8 4 w.rnd sat x y z
    | _ => dotFloat e5m2 8 4 w.rnd sat x y z)

/-! ## Reductions and scans (05 R176, R177) -/

/-- Combines two present values of a reduction: integers exactly, floats and raw values as their bits. -/
def joinVal (t : WType) (k : Nat) (rnd : Rnd) (x y : Int) : Int × BitVec 6 :=
  if isFloat t then
    let f := wtypeFmt t
    let r := match k with
      | 0 => f.add rnd false x.toNat y.toNat
      | 1 => f.select false x.toNat y.toNat
      | _ => f.select true x.toNat y.toNat
    ((r.1 : Int), r.2)
  else
    (match k with
      | 0 => x + y
      | 1 => min x y
      | 2 => max x y
      | 3 => ((x.toNat &&& y.toNat : Nat) : Int)
      | 4 => ((x.toNat ||| y.toNat : Nat) : Int)
      | _ => ((x.toNat ^^^ y.toNat : Nat) : Int), 0)

/-- Joins two places, either of which may be absent. -/
def joinOpt (t : WType) (k : Nat) (rnd : Rnd) (x y : Option Int) : Option Int × BitVec 6 :=
  match x, y with
  | some a, some b => let r := joinVal t k rnd a b; (some r.1, r.2)
  | some a, none => (some a, 0)
  | none, y => (y, 0)

/-- What an absent result gives (05 R177). -/
def reduceIdentity (t : WType) (k : Nat) : Nat :=
  let n := wtypeBits t
  match k with
  | 1 => if isFloat t then (wtypeFmt t).infinity false else wrap n (intHi (isSigned t) n)
  | 2 => if isFloat t then (wtypeFmt t).infinity true else wrap n (intLo (isSigned t) n)
  | 3 => 2 ^ n - 1
  | _ => 0

/-- The result a lane receives (05 R177). One that is a NaN, a value that met no other among them, is the canonical NaN
(02 R57; assumption log, entry 64). -/
def finishVal (t : WType) (k : Nat) (sat : Bool) (v : Option Int) : Nat × BitVec 6 :=
  match v with
  | none => (reduceIdentity t k, 0)
  | some x =>
    if isInt t then convII (isSigned t) (wtypeBits t) (sat && k == 0) x
    else if isFloat t then
      (if ((wtypeFmt t).value x.toNat).isNaN then (wtypeFmt t).canonNaN else x.toNat, 0)
    else (x.toNat, 0)

/-- A lane's value as a reduction takes it. -/
def reduceVal (t : WType) (x : Nat) : Int := if isInt t then toInt t x else (x : Int)

/-- IV where an active lane hands a reduction a signalling NaN, whether or not it meets another value (02 R57;
assumption log, entry 64). -/
def reduceIV (t : WType) (act : Lanes) (x : List Nat) : BitVec 6 :=
  ivIf (isFloat t && (lanesOf act).any (fun i => ((wtypeFmt t).value (at_ x i)).snan))

/-- One level of the tree: neighbours are joined. -/
def treeLevel (t : WType) (k : Nat) (rnd : Rnd) : List (Option Int) → List (Option Int) × BitVec 6
  | x :: y :: rest =>
    let r := joinOpt t k rnd x y
    let q := treeLevel t k rnd rest
    (r.1 :: q.1, r.2 ||| q.2)
  | l => (l, 0)

/-- The tree over the 32 lane positions (05 R177). -/
def reduceTree (t : WType) (k : Nat) (rnd : Rnd) (l : List (Option Int)) : Option Int × BitVec 6 :=
  let r := (List.range 5).foldl (fun (a : List (Option Int) × BitVec 6) _ =>
    let q := treeLevel t k rnd a.1
    (q.1, a.2 ||| q.2)) (l, 0)
  ((r.1.head?).getD none, r.2)

/-- REDUCE (05 R176, R177). -/
def execWReduce (w : WWord) (s : State) : Res :=
  let k := w.m.toNat % 8
  plainWord 0x98 w s (fun _ c src s =>
    let l := (List.range 32).map (fun i => if c.act.getLsbD i then some (reduceVal w.t (at_ src.1 i)) else none)
    let r := reduceTree w.t k w.rnd l
    let v := finishVal w.t k (w.m.toNat / 8 == 1) r.1
    (s.writeTyped c.r w.t w.d.toNat c.act (List.replicate 32 v.1)).raise (wgOf c.r)
      (if c.act = 0 then 0 else r.2 ||| v.2 ||| reduceIV w.t c.act src.1))

/-- SCAN over the active lanes in ascending order: each lane's result, and the flags (05 R177). -/
def scanLanes (t : WType) (k : Nat) (rnd : Rnd) (sat excl : Bool) (x : List Nat) :
    List Nat → Option Int → List (Nat × Nat) × BitVec 6
  | [], _ => ([], 0)
  | i :: rest, acc =>
    let j := joinOpt t k rnd acc (some (reduceVal t (at_ x i)))
    let v := finishVal t k sat (if excl then acc else j.1)
    let r := scanLanes t k rnd sat excl x rest j.1
    ((i, v.1) :: r.1, j.2 ||| v.2 ||| r.2)

/-- SCAN (05 R176, R177). -/
def execWScan (w : WWord) (s : State) : Res :=
  plainWord 0x99 w s (fun _ c src s =>
    let r := scanLanes w.t (w.m.toNat % 8) w.rnd (w.m.toNat / 8 == 1) (immCode w.b == 1) src.1 (lanesOf c.act) none
    (s.writeTyped c.r w.t w.d.toNat c.act ((List.range 32).map (fun i => (assoc r.1 i).getD 0))).raise (wgOf c.r)
      (r.2 ||| reduceIV w.t c.act src.1))

/-! ## Top-k (05 R178, R179) -/

/-- A candidate: score, index, lane. -/
structure Cand where
  score : Nat
  idx   : Nat
  lane  : Nat
  deriving DecidableEq, Repr

/-- Whether a score is better than another: NaNs rank below every number (05 R179). -/
def betterScore (t : WType) (smallest : Bool) (x y : Nat) : Bool :=
  if isFloat t then
    let a := (wtypeFmt t).value x
    let b := (wtypeFmt t).value y
    if a.isNaN then false
    else if b.isNaN then true
    else if smallest then a.lt b else b.lt a
  else if smallest then decide (toInt t x < toInt t y) else decide (toInt t y < toInt t x)

/-- Whether a candidate ranks before another. -/
def Cand.before (t : WType) (smallest : Bool) (x y : Cand) : Bool :=
  if betterScore t smallest x.score y.score then true
  else if betterScore t smallest y.score x.score then false
  else if x.idx = y.idx then decide (x.lane < y.lane) else decide (x.idx < y.idx)

/-- Puts a candidate in its place. -/
def candInsert (t : WType) (smallest : Bool) (x : Cand) : List Cand → List Cand
  | [] => [x]
  | y :: rest => if x.before t smallest y then x :: y :: rest else y :: candInsert t smallest x rest

/-- TOPK: long-latency (05 R178, R179). -/
def execWTopk (w : WWord) (s : State) : Res :=
  let pair := w.m.getLsbD 0
  let smallest := w.m.getLsbD 1
  longWord 0x9A w s (fun k f c s =>
    let src := c.sources s f w
    let lanes := lanesOf c.act
    let cand := lanes.foldl (fun l i => candInsert w.t smallest
      { score := at_ src.1 i, idx := if w.m.getLsbD 2 then at_ src.2.2 i else i, lane := i } l) []
    let n := min (uniform src.2.1) 32
    let at? (i : Nat) : Option Cand := (findIx (fun l => l == i) lanes).bind (fun j => if j < n then cand[j]? else none)
    let idx := (List.range 32).map (fun i => ((at? i).map (fun x => BitVec.ofNat 32 x.idx)).getD (BitVec.allOnes 32))
    let score := (List.range 32).map (fun i => ((at? i).map (fun x => BitVec.ofNat 32 x.score)).getD (BitVec.allOnes 32))
    (((s.consume c f w).countIssue c.r).bindPending c
      (resultPending c k .b32 w.d.toNat (if pair then [idx, score] else [idx]) 0)).nextWord c.r (wordLen w))

/-! ## Ballot and vote (05 R180, R181) -/

/-- The predicate number an operand names. -/
def predNumber : Operand → Nat
  | .v n => n.toNat
  | _ => 0

/-- BALLOT (05 R180). -/
def execWBallot (w : WWord) (s : State) : Res :=
  plainWord 0x9B w s (fun _ c src s =>
    if c.act = 0 then s
    else
      let m := if w.m = 0 then c.wv.pred (predNumber w.a) else maskOf (fun i => at_ src.1 i != 0)
      s.writeS c.r w.d.toNat (m &&& c.act).toNat)

/-- VOTE (05 R181). -/
def execWVote (w : WWord) (s : State) : Res :=
  plainWord 0x9C w s (fun _ c src s =>
    let p := c.wv.pred (predNumber w.a)
    let same := match lanesOf c.act with
      | [] => true
      | i :: rest => rest.all (fun j => at_ src.1 j == at_ src.1 i)
    let b := match w.m.toNat with
      | 0 => c.act &&& ~~~p == 0
      | 1 => c.act &&& p != 0
      | 2 => c.act &&& p == 0 || c.act &&& ~~~p == 0
      | _ => same
    s.writeP c.r w.d.toNat c.act (if b then BitVec.allOnes 32 else 0))

end Sys2Proof.Machine
end

