-- ==== Sys2Proof/Machine/WaveMem.lean ====
section
/-! DEFINITION. Wave instructions: loads and stores, scratchpad, gang messages, cache maintenance, atomics,
entry consistency, fences, barriers, timelines, launch, performance and rendezvous (06 R183-R221, R511), and
the events that end their waits. -/

namespace Sys2Proof.Machine

/-! ## Shared parts -/

/-- The control byte of a word's operand c. -/
def ctlOperand : Operand → Ctl
  | .ctl c => c
  | _ => { scope := .dv, order := .rlx, hint := .plain }

/-- A word's control byte. -/
def wordCtl (w : WWord) : Ctl := ctlOperand w.c

/-- Whether a word moves 128 bits a lane (06 R185). -/
def isX2 (w : WWord) : Bool := w.m == 1

/-- The bytes of an LD, ST, LDS or STS (06 R186). -/
def accessBytes (w : WWord) : Nat := if isX2 w then 16 else wtypeBits w.t / 8

/-- The 128-bit lane values of a data operand (06 R185). -/
def WaveCtx.quad (c : WaveCtx) (o : Operand) : List Nat :=
  match o with
  | .v n => (List.range 32).map (fun l =>
      (List.range 4).foldl (fun a i => a + (((c.wv.vreg (n.toNat + i))[l]?).getD 0).toNat * 2 ^ (32 * i)) 0)
  | .s n => List.replicate 32 (((c.wv.sregs[n.toNat]?).getD 0).toNat + ((c.wv.sregs[n.toNat + 1]?).getD 0).toNat * 2 ^ 64)
  | .imm x => List.replicate 32 (wrap 128 (signed 8 x.toNat))
  | .lit x => List.replicate 32 (wrap 128 (signed 64 x.toNat))
  | _ => zeroLanes.map (fun v => v.toNat)

/-- The data of a store, lane by lane. -/
def storeData (c : WaveCtx) (w : WWord) (src : List Nat × List Nat × List Nat) : List Nat :=
  if isX2 w then c.quad w.b else src.2.1

/-- The registers of a load's result. -/
def loadVectors (w : WWord) (vals : List Nat) : List (List W32) :=
  if isX2 w then quadVectors vals else regVectors w.t vals

/-- The active lanes with an address each. -/
def WaveCtx.accesses (c : WaveCtx) (f : Nat → Nat) : List (Nat × Nat) := (lanesOf c.act).map (fun i => (i, f i))

/-- Counts a word as issued and consumes its operands. -/
def State.issueWord (s : State) (c : WaveCtx) (f : WaveForm) (w : WWord) : State :=
  (s.consume c f w).countIssue c.r

/-- Ends a word: the group goes on with the next one. -/
def State.endWord (s : State) (c : WaveCtx) (w : WWord) : State := s.nextWord c.r (wordLen w)

/-- Runs a word whose operands are uniform: with no active lane it is ignored (06 R185). -/
def uniformWord (op : Nat) (w : WWord) (s : State) (body : WaveForm → WaveCtx → Nat → Nat → State → State) : Res :=
  rawWord op w s (fun f c s =>
    if c.act = 0 then (s.issueWord c f w).endWord c w
    else
      let src := c.sources s f w
      body f c (uniform src.1) (uniform src.2.1) s)

/-- The one access of a uniform word, named by its lowest active lane. -/
def WaveCtx.single (c : WaveCtx) (a : Nat) : List (Nat × Nat) := [((lowLane c.act).getD 0, a)]

/-- PROTECTION for every active lane of a uniform word. -/
def State.protectUniform (s : State) (c : WaveCtx) (acc : AccKind) (a : Nat) : State :=
  s.trapLanes c .protection acc a c.act []

/-- As `withLanes` for one uniform access: every active lane raises its trap. -/
def State.withUniform (s : State) (c : WaveCtx) (acc : AccKind) (size a : Nat) (f : List LaneAcc → State → State) :
    State :=
  let m := s.mapLanes c.r c.wg acc size (c.single a)
  match m.1 with
  | .ok l => f l m.2
  | .wait => m.2
  | .fault k b va _ needs => m.2.trapAccess c k b va c.act needs

/-! ## LD and ST (06 R190) -/

/-- Whether an operand is uniform (06 R185). -/
def isUniform : Operand → Bool
  | .s _ | .imm _ | .lit _ => true
  | _ => false

/-- The accesses that a word performs: one per issue where its operands are all uniform (06 R185). -/
def performed (w : WWord) (l : List LaneAcc) : List LaneAcc := if isUniform w.a && isUniform w.b then l.take 1 else l

/-- The lane values that a word's accesses give: every lane's is that of the one access where the operands are all uniform. -/
def spread (w : WWord) (l : List LaneAcc) (vals : List Nat) : List Nat :=
  if isUniform w.a && isUniform w.b then List.replicate 32 (at_ vals (((l.head?).map (·.lane)).getD 0)) else vals

/-- How an LD reads. -/
def loadMode (k : Ctl) : ReadMode :=
  match k.hint, k.order with
  | .nt, _ => .around
  | _, .acq => if maintains k.scope then .fresh else .plain
  | _, _ => .plain

/-- LD (06 R190). -/
def execWLd (w : WWord) (s : State) : Res :=
  longWord 0xA0 w s (fun k f c s =>
    let src := c.sources s f w
    let l := c.accesses (fun i => wrap 64 ((at_ src.1 i : Int) + signed 32 (at_ src.2.1 i)))
    s.withLanes c .read (accessBytes w) l (fun l s =>
      let r := (s.issueWord c f w).readLanes c.r c.wg.ctx (loadMode (wordCtl w)) (performed w l)
      (r.2.bindPending c (replyPending c k w.t w.d.toNat (loadVectors w (spread w l r.1)) 0)).endWord c w))

/-- How an ST writes (00 R23; 14 R376). A store with .rel and .wc is performed at once, as every release is: the
model's choice (assumption log, entry 54). -/
def storeMode (k : Ctl) : WriteMode :=
  match k.order, k.hint with
  | .rel, _ => .through
  | _, .wc => .combine
  | _, .nt => .through
  | _, _ => .plain

/-- ST (06 R190). -/
def execWSt (w : WWord) (s : State) : Res :=
  rawWord 0xA1 w s (fun f c s =>
    let src := c.sources s f w
    let data := storeData c w src
    let k := wordCtl w
    s.withLanes c .write (accessBytes w) (c.accesses (at_ src.1)) (fun l s =>
      let s := s.issueWord c f w
      let s := if c.act = 0 then s else s.beforeWrite c.r k.order
      (s.writeLanes c.r c.wg.ctx (storeMode k) (performed w l) data).endWord c w))

/-! ## Scratchpad (06 R191) -/

/-- The lanes of scratchpad accesses that lie at or beyond SCRATCH, or are not naturally aligned (06 R186,
R191). -/
def State.badScratch (s : State) (c : WaveCtx) (size : Nat) (l : List (Nat × Nat)) : List (Nat × Nat) :=
  let n := (s.lpbOf c.wg).scratch
  l.filter (fun p => p.2 % size != 0 || decide (n < p.2 + size))

/-- Whether an access touches a gang receive queue (18 R432). -/
def State.inQueue (s : State) (g : Workgroup) (off size : Nat) : Bool :=
  let l := s.lpbOf g
  decide (2 ≤ l.gang) && decide (l.scratch < off + size + 2048)

/-- An LDS or STS of the queue's bytes: its entries then hold unspecified values (18 R432). -/
def State.spoilQueue (s : State) (r : WgRef) (size : Nat) (l : List (Nat × Nat)) : State :=
  match s.wg? r with
  | none => s
  | some g =>
    if l.any (fun p => s.inQueue g p.2 size) then
      let v := s.freeBytes 2048
      v.2.updWg r (fun x => x.writeScratch ((s.lpbOf g).scratch - 2048) v.1)
    else s

/-- LDS: it completes at once where its lines are full, otherwise once they are (06 R191). -/
def execWLds (w : WWord) (s : State) : Res :=
  let size := accessBytes w
  longWord 0xA2 w s (fun k f c s =>
    let src := c.sources s f w
    let l := c.accesses (fun i => wrap 64 ((at_ src.1 i : Int) + signed 32 (at_ src.2.1 i)))
    s.protectLanes c .read (s.badScratch c size l) (fun s =>
      let g := c.wg
      let offset := fun i => (assoc l i).getD 0
      let hit := g.poisonedLanes c.act offset size
      if hit ≠ 0 then s.trapLanes c .poison .read (((lowLane hit).map offset).getD 0) hit []
      else
        let s := (s.issueWord c f w).spoilQueue (wgOf c.r) size l
        if l.any (fun p => (linesOf p.2 size).any g.lineEmpty) then
          let p : Pending :=
            { kind := .lds ((List.range 32).map offset) size, flag := k, ty := w.t, mask := c.act,
              regs := (List.range (if isX2 w then 4 else if isWide w.t then 2 else 1)).map (fun i => w.d.toNat + i),
              sticky := 0, spoiled := false, reply := false, holds := .nothing, pc := c.g.wordAddr }
          (s.bindPending c p).endWord c w
        else
          let v := s.loadLanes (wgOf c.r) ((s.wg? (wgOf c.r)).getD g) c.act offset size
          (v.2.bindPending c (resultPending c k w.t w.d.toNat (loadVectors w v.1) 0)).endWord c w))

/-- The header of a copy ring is malformed (07 R512). -/
def ringHeaderBad (g : Workgroup) (l : Lpb) : Bool :=
  let base := ofBytes (g.readScratch 8 4)
  let n := ofBytes (g.readScratch 12 2)
  let tl := ofBytes (g.readScratch 32 8)
  let limit := if 2 ≤ l.gang then l.scratch - 2048 else l.scratch
  base % 32 != 0 || decide (base < 0x40) || n == 0 || decide (1024 < n) || n &&& (n - 1) != 0
    || decide (limit < base + 32 * n) || (g.readScratch 0x28 24).any (fun b => b != 0)
    || (tl != 0 && (tl % 8 != 0 || decide (2 ^ 52 ≤ tl)))

/-- A ring that stops: the workgroup traps, the record naming a copy's source: ILLEGAL_WORD of a malformed header or entry,
POISON of a poisoned one (07 R259; 16 R418). -/
def State.stopRing (s : State) (r : WgRef) (k : TrapKind) : State :=
  (s.updWg r (fun g => { g with ring := { g.ring with stopped := true } })).contain r
    (s.stampRecord r 1000 { TrapRecord.reset with kind := some k, src := .copy })

/-- Whether bytes of a workgroup's scratchpad hold poison. -/
def Workgroup.padPoisoned (g : Workgroup) (off n : Nat) : Bool := g.poison.any (fun b => decide (off ≤ b) && decide (b < off + n))

/-- What the engine does on a notification (07 R259, R512). -/
def State.notifyRing (s : State) (r : WgRef) : State :=
  match s.wg? r with
  | none => s
  | some g =>
    let t := ofBytes (g.readScratch 0 8)
    let n := ofBytes (g.readScratch 12 2)
    if g.ring.stopped then s
    else if g.padPoisoned 14 2 then s.stopRing r .poison
    else if ofBytes (g.readScratch 14 2) ≠ 0xC0B1 then s
    else if g.padPoisoned 0 8 then s.stopRing r .poison
    else if t ≤ g.ring.tail then s
    else if g.padPoisoned 8 6 ∨ g.padPoisoned 0x20 32 = true then s.stopRing r .poison
    else if n < t - g.ring.taken ∨ ringHeaderBad g (s.lpbOf g) = true then s.stopRing r .illegalWord
    else
      let v : RingView := { upto := t, base := ofBytes (g.readScratch 8 4), entries := n,
                            timeline := BitVec.ofNat 64 (ofBytes (g.readScratch 32 8)), since := s.tckOf r.core }
      s.updWg r (fun g => { g with ring := { g.ring with tail := t, views := g.ring.views ++ [v] } })

/-- STS (06 R191; 07 R259): a write of the wave, so that it acts as the release of a FENCE before it (14 R375). -/
def execWSts (w : WWord) (s : State) : Res :=
  let size := accessBytes w
  rawWord 0xA3 w s (fun f c s =>
    let src := c.sources s f w
    let data := storeData c w src
    let l := c.accesses (at_ src.1)
    s.protectLanes c .write (s.badScratch c size l) (fun s =>
      let s := s.issueWord c f w
      let s := (if c.act = 0 then s else s.beforeWrite c.r .rlx).endWord c w
      let s := l.foldl (fun s p => s.updWg (wgOf c.r) (fun g => g.writeScratch p.2 (toBytes size (at_ data p.1)))) s
      let s := (s.spoilQueue (wgOf c.r) size l).raceStore (wgOf c.r) (l.map (fun p => (p.2, size)))
      if l.any (fun p => decide (p.2 < 8)) then s.notifyRing (wgOf c.r) else s))

/-! ## Gang messages (06 R193, R194; 18 R432, R433) -/

/-- A workgroup as it appends an entry to its queue: the entry's bytes stand in the last 2,048 of its
allocation. -/
def Workgroup.append (g : Workgroup) (scratch sender : Nat) (values : List W32) : Workgroup :=
  let b := values.flatMap (fun v => toBytes 4 v.toNat)
  { (g.writeScratch (scratch - 2048 + 128 * (g.appended % 16)) b) with
    queue := g.queue ++ [⟨sender⟩], appended := g.appended + 1 }

/-- SEND (06 R193): it waits for a member that is not on its core, whether it has not started or is saved (13 R353),
and for a free entry; to a member that has completed it is ignored. -/
def execWSend (w : WWord) (s : State) : Res :=
  rawWord 0xA4 w s (fun f c s =>
    if c.act = 0 then (s.issueWord c f w).endWord c w
    else
      let src := c.sources s f w
      let m := uniform src.1
      let l := s.lpbOf c.wg
      let me := c.wg.wgl % l.gang
      if 4 ≤ m ∨ m = me ∨ l.gang ≤ m then s.protectUniform c .write m
      else
        let target := c.wg.wgl / l.gang * l.gang + m
        let mine (g : Workgroup) : Bool := g.grid == c.wg.grid && g.wgl == target
        if ((s.grid? c.wg.grid).map (fun g => g.completed.contains target)).getD false then
          (s.issueWord c f w).endWord c w
        else if !s.allWgs.any (fun p => mine p.2) then s
        else
          match (assoc c.wg.credits m).getD 0 with
          | 0 => s
          | n + 1 =>
            let vals := (List.range 32).map (fun i =>
              if c.act.getLsbD i then BitVec.ofNat 32 (at_ src.2.1 i) else 0)
            let s := ((s.issueWord c f w).beforeWrite c.r (wordCtl w).order).updWg (wgOf c.r) (fun g =>
              { g with credits := assocSet g.credits m n })
            (s.updGang c.wg.grid l c.wg.wgl (fun g => if mine g then g.append l.scratch me vals else g)).endWord c w)

/-- RECV (06 R194): it completes when an entry is present; with .acq it holds back the wave's later accesses until
then. -/
def execWRecv (w : WWord) (s : State) : Res :=
  longWord 0xA5 w s (fun k f c s =>
    let s := s.issueWord c f w
    if c.act = 0 then s.endWord c w
    else
      let p : Pending := { kind := .recv c.wg.recvs, flag := k, ty := .b32, mask := c.act, regs := [w.d.toNat],
                           sticky := 0, spoiled := false, reply := false, pc := c.g.wordAddr,
                           holds := if (wordCtl w).order == .acq then .accesses else .nothing }
      ((s.updWg (wgOf c.r) (fun g => { g with recvs := g.recvs + 1 })).bindPending c p).endWord c w)

/-! ## Hints and maintenance (06 R195, R196, R207) -/

/-- PREF: it changes no architectural state (06 R195). -/
def execWPref (w : WWord) (s : State) : Res := plainWord 0xA6 w s (fun _ _ _ s => s)

/-- Holds the wave back from its next clause until MAINTENANCE_PERFORMED (06 R196). -/
def State.awaitMaintenance (s : State) (r : WaveRef) : State := s.updWave r (fun v => { v with block := .maintenance })

/-- WB and INV on a range, in the L1 of the issuing core (06 R196). -/
def maintainWord (op : Nat) (inv : Bool) (w : WWord) (s : State) : Res :=
  uniformWord op w s (fun f c a b s =>
    if !maintains (wordCtl w).scope || b == 0 then (s.issueWord c f w).endWord c w
    else if 2 ^ 52 < a + b then s.protectUniform c (if inv then .read else .write) a
    else
      let p := s.lineOfRange c.wg.ctx a b
      let s := s.issueWord c f w
      let s := if inv then s.invalidate c.r.core p else s.writeBack c.r.core p
      (s.awaitMaintenance c.r).endWord c w)

/-- WB (06 R196). -/
def execWWb (w : WWord) (s : State) : Res := maintainWord 0xA7 false w s
/-- INV (06 R196). -/
def execWInv (w : WWord) (s : State) : Res := maintainWord 0xA8 true w s

/-- MAINTENANCE_PERFORMED (06 R196, R204, R207): the wave's group may start its next clause. -/
def execEvMaintenancePerformed (r : WaveRef) (s : State) : Res :=
  .next (s.updWave r (fun v => match v.block with
    | .maintenance => { v with block := .none }
    | _ => v))

/-- OPFENCE (06 R207): the wave's earlier writes stand where the copy engine, the array and the sequencer
read, beyond every L1. -/
def execWOpfence (w : WWord) (s : State) : Res :=
  uniformWord 0xB5 w s (fun f c _ _ s =>
    ((((s.issueWord c f w).drainWc c.r).releaseCore c.r.core).awaitMaintenance c.r).endWord c w)

/-! ## Atomics (06 R197-R201) -/

/-- Where an atomic may be performed: `toHost` says that the operation travels as a PCIe AtomicOp (06 R201). -/
def atomicPlaceOk (toHost : Bool) (d : Nat) : Bool :=
  match timelinePlace d with
  | .slice => true
  | .host => toHost
  | .nowhere => false

/-- Whether an access is one that an atomic may not perform: misaligned, or at a place where there is no atomic
(06 R186, R201). -/
def badAtomic (size : Nat) (toHost : Bool) (a : LaneAcc) : Bool :=
  a.va % size != 0 || !a.dpas.all (atomicPlaceOk toHost)

/-- Runs an atomic word's accesses: translation, natural alignment and the place of each lane, of which the last two raise
PROTECTION, then the lanes' operations (06 R186, R197, R201; 16 R397). -/
def State.withAtomics (s : State) (c : WaveCtx) (size : Nat) (toHost : Bool) (l : List (Nat × Nat))
    (f : List LaneAcc → State → State) : State :=
  let m := s.mapLanesBut c.r c.wg .atomic size (badAtomic size toHost) l
  match m.1 with
  | .ok a => f a m.2
  | .wait => m.2
  | .fault k b va mask needs => m.2.trapAccess c k b va mask needs

/-- Performs a lane's atomic on its old value, in ascending lanes: old values by lane, and the flags. -/
def State.atomicLanes (s : State) (r : WaveRef) (f : Nat → Nat → Nat × BitVec 6) :
    List LaneAcc → List (Nat × Nat) × BitVec 6 → (List (Nat × Nat) × BitVec 6) × State
  | [], acc => (acc, s)
  | a :: rest, acc =>
    let old := s.atomicLane r a (fun x => (f a.lane x).1)
    old.2.atomicLanes r f rest ((a.lane, old.1) :: acc.1, acc.2 ||| (f a.lane old.1).2)

/-- Whether an ATOM or RED travels to host memory: integer .add, and .exch (06 R201). -/
def atomToHost (t : WType) (m : Nat) : Bool := (m == 0 && isInt t) || m == 6

/-- The old values of an ATOM, by lane: every lane's is that of the one evaluation where its operands are all
uniform (06 R185). -/
def atomResults (w : WWord) (olds : List (Nat × Nat)) : List Nat :=
  (List.range 32).map (fun i =>
    if isUniform w.a && isUniform w.b then ((olds.head?).map (·.2)).getD 0 else (assoc olds i).getD 0)

/-- ATOM (06 R197, R198). -/
def execWAtom (w : WWord) (s : State) : Res :=
  let m := w.m.toNat
  longWord 0xA9 w s (fun k f c s =>
    let src := c.sources s f w
    s.withAtomics c (wtypeBits w.t / 8) (atomToHost w.t m) (c.accesses (at_ src.1)) (fun l s =>
      let s := s.issueWord c f w
      let s := if c.act = 0 then s else s.beforeWrite c.r (wordCtl w).order
      let o := s.atomicLanes c.r (fun i x => atomOp w.t m w.rnd x (at_ src.2.1 i)) (performed w l) ([], 0)
      (o.2.bindPending c (replyPending c k w.t w.d.toNat (regVectors w.t (atomResults w o.1.1)) o.1.2)).endWord c w))

/-- RED: an ATOM without a result; its flags reach the workgroup as it is performed (06 R198). -/
def execWRed (w : WWord) (s : State) : Res :=
  let m := w.m.toNat
  rawWord 0xAB w s (fun f c s =>
    let src := c.sources s f w
    s.withAtomics c (wtypeBits w.t / 8) (atomToHost w.t m) (c.accesses (at_ src.1)) (fun l s =>
      let s := s.issueWord c f w
      let s := if c.act = 0 then s else s.beforeWrite c.r (wordCtl w).order
      let o := s.atomicLanes c.r (fun i x => atomOp w.t m w.rnd x (at_ src.2.1 i)) (performed w l) ([], 0)
      (o.2.raise (wgOf c.r) o.1.2).endWord c w))

/-- The compare and swaps of an ATOMCAS in ascending lanes: the old values by lane (06 R199). -/
def State.casLanes (s : State) (r : WaveRef) (order : MOrder) (cmp new : List Nat) :
    List LaneAcc → List (Nat × Nat) → List (Nat × Nat) × State
  | [], acc => (acc, s)
  | a :: rest, acc =>
    let old := s.casLane r a (fun s => s.beforeWrite r order) (at_ cmp a.lane) (at_ new a.lane)
    old.2.casLanes r order cmp new rest ((a.lane, old.1) :: acc)

/-- ATOMCAS (06 R199): a lane whose comparison fails only reads. -/
def execWAtomcas (w : WWord) (s : State) : Res :=
  longWord 0xAA w s (fun k f c s =>
    let src := c.sources s f w
    let cmp := c.read s [] (.t w.t) (.v w.d)
    s.withAtomics c (wtypeBits w.t / 8) true (c.accesses (at_ src.1)) (fun l s =>
      let s := s.issueWord c f w
      let o := s.casLanes c.r (wordCtl w).order cmp src.2.1 l []
      let vals := (List.range 32).map (fun i => (assoc o.1 i).getD 0)
      (o.2.bindPending c (replyPending c k w.t w.d.toNat (regVectors w.t vals) 0)).endWord c w))

/-! ## Entry consistency (06 R202-R205) -/

/-- The scalar register an operand names. -/
def scalarNumber : Operand → Nat
  | .s n => n.toNat
  | _ => 0

/-- BIND (06 R202). -/
def execWBind (w : WWord) (s : State) : Res :=
  uniformWord 0xAC w s (fun f c _ b s =>
    let n := scalarNumber w.a
    let base := ((c.wv.sregs[n]?).getD 0).toNat
    let len := ((c.wv.sregs[n + 1]?).getD 0).toNat
    match bindRegion (s.context c.wg.ctx).regions base len b (wordCtl w).scope none with
    | none => s.protectUniform c .read base
    | some t => ((s.issueWord c f w).updContext c.wg.ctx (fun x => { x with regions := t })).endWord c w)

/-- UNBIND (06 R203). -/
def execWUnbind (w : WWord) (s : State) : Res :=
  uniformWord 0xAD w s (fun f c a b s =>
    ((s.issueWord c f w).updContext c.wg.ctx (fun x => { x with
      regions := x.regions.filter (fun r => !(r.base == a && r.object == b)) })).endWord c w)

/-- The entries bound to an object (06 R204). -/
def State.boundTo (s : State) (ctx object : Nat) : List Region :=
  (s.context ctx).regions.filter (fun r => r.object == object)

/-- Acquires on an object: every line of its regions leaves the core's L1 (06 R205). -/
def State.acquireObject (s : State) (core ctx object : Nat) : State :=
  (s.boundTo ctx object).foldl (fun s r =>
    if maintains r.scope then s.invalidate core (s.lineOfRange ctx r.base r.len) else s) s

/-- ACQ (06 R205). -/
def execWAcq (w : WWord) (s : State) : Res :=
  uniformWord 0xAE w s (fun f c a b s =>
    if a % 8 ≠ 0 then s.protectUniform c .read a
    else s.withUniform c .read 8 a (fun l s =>
      let s := s.issueWord c f w
      let v := s.readLanes c.r c.wg.ctx .around l
      if b ≤ at_ v.1 ((lowLane c.act).getD 0) then (v.2.acquireObject c.r.core c.wg.ctx a).endWord c w
      else v.2.holdLanes c w c.act (fun _ => .acq (BitVec.ofNat 64 a) (BitVec.ofNat 64 b))))

/-- REL (06 R204): the write-backs, then the store of the value as a release. -/
def execWRel (w : WWord) (s : State) : Res :=
  uniformWord 0xAF w s (fun f c a b s =>
    if a % 8 ≠ 0 then s.protectUniform c .write a
    else s.withUniform c .write 8 a (fun l s =>
      let s := s.issueWord c f w
      let s := (s.boundTo c.wg.ctx a).foldl (fun s r =>
        if maintains r.scope then s.writeBack c.r.core (s.lineOfRange c.wg.ctx r.base r.len) else s) s
      let s := s.beforeWrite c.r .rel
      ((s.writeLanes c.r c.wg.ctx .through l (List.replicate 32 b)).awaitMaintenance c.r).endWord c w))

/-- A 64-bit word as a wave's wait reads it, beyond the L1 (14 R377), with what the read leaves; none where it does not
translate, holds poison, or lies at the place of a gang member that is not on its core (01 R47; 16 R418). -/
def State.waitRead (s : State) (r : WaveRef) (ctx a : Nat) : Option Nat × State :=
  match (s.translate r.core ctx a .read).1 with
  | .ok d =>
    if (s.wg? (wgOf r)).any (fun g => s.awaitsMember g d) || (List.range 8).any (fun i => s.poisonedByte (d + i)) then (none, s)
    else
      let v := s.readLanes r ctx .around [{ lane := 0, va := a, dpas := (List.range 8).map (fun i => d + i) }]
      (some (at_ v.1 0), v.2)
  | _ => (none, s)

/-- The value alone. -/
def State.waitValue (s : State) (r : WaveRef) (ctx a : Nat) : Option Nat := (s.waitRead r ctx a).1

/-- What the reads that end the waits of a wave's lanes leave, for the addresses given. -/
def State.waitReads (s : State) (r : WaveRef) (ctx : Nat) (l : List Nat) : State :=
  l.foldl (fun s a => (s.waitRead r ctx a).2) s

/-- The address that a lane's wait reads again. -/
def LaneWait.polls : LaneWait → Option Nat
  | .acq o _ => some o.toNat
  | .tlwait a _ _ _ m => if m then none else some a.toNat
  | _ => none

/-- Whether the word at an address that a wait reads again holds poison. -/
def State.pollPoison (s : State) (r : WaveRef) (ctx a : Nat) : Bool :=
  match (s.translate r.core ctx a .read).1 with
  | .ok d => (List.range 8).any (fun i => s.poisonedByte (d + i))
  | _ => false

/-- A lane whose wait reads poison again. -/
def State.laneReadsPoison (s : State) (r : WaveRef) (ctx : Nat) (l : Lane) : Bool :=
  match l.state with
  | .waiting x => x.polls.any (s.pollPoison r ctx)
  | _ => false

/-- A wave's waits read their words again: lanes that find poison trap POISON, at the last word before the place where they
resume (16 R418; assumption log, entry 66); otherwise goes on. -/
def State.pollOr (s : State) (r : WaveRef) (g : Workgroup) (v : Wave) (f : State) : State :=
  let hit := maskOf (fun i => (v.lanes[i]?).any (s.laneReadsPoison r g.ctx))
  match v.lanes.find? (s.laneReadsPoison r g.ctx) with
  | none => f
  | some l =>
    let va := match l.state with
      | .waiting x => x.polls.getD 0
      | _ => 0
    s.trapWave r .poison (accBits .read) 0 (if l.ix = 0 then l.pc - 8 else l.pc + BitVec.ofNat 64 (8 * l.ix))
      (BitVec.ofNat 64 va) hit []

/-- ACQ_RELEASE (06 R205): lanes whose condition holds acquire and become live. -/
def execEvAcqRelease (r : WaveRef) (s : State) : Res :=
  match s.wg? (wgOf r), s.wave? r with
  | some g, some v =>
    let held (x : LaneWait) : Bool := match x with
      | .acq o t => (s.waitValue r g.ctx o.toNat).any (fun y => decide (t.toNat ≤ y))
      | _ => false
    let objects := v.lanes.filterMap (fun l => match l.state with
      | .waiting (.acq o t) => if held (.acq o t) then some o.toNat else none
      | _ => none)
    .next (s.pollOr r g v ((objects.foldl (fun s o => s.acquireObject r.core g.ctx o) (s.waitReads r g.ctx objects)).updWave r
      (fun v => v.release held)))
  | _, _ => .next s

/-! ## Fences (06 R206) -/

/-- What a FENCE makes the pending words of a wave hold back: the reads they still owe are earlier accesses. -/
def Wave.fenced (v : Wave) (h : Holds) : Wave :=
  { v with pending := v.pending.map (fun p => match p.holds, h with
      | .accesses, _ | _, .nothing => p
      | _, h => { p with holds := h }) }

/-- FENCE (06 R206; 14 R375): its release part makes the wave's next write a release, its acquire part holds back every
later access until the pending reads are performed; .ar performs the wave's earlier writes; .all writes back, and then
invalidates, the core's L1. -/
def execWFence (w : WWord) (s : State) : Res :=
  let k := wordCtl w
  let rel := k.order == .rel || k.order == .ar
  let acq := k.order == .acq || k.order == .ar
  uniformWord 0xB0 w s (fun f c _ _ s =>
    let s := s.issueWord c f w
    let s := if rel then s.updWave c.r (fun v => { v with fence := some k.scope }) else s
    let s := s.updWave c.r (fun v => v.fenced (if acq then .accesses else if rel then .writes else .nothing))
    let s := if rel && acq then s.drainWc c.r else s
    let s := if rel && w.m == 1 then (s.drainWc c.r).releaseCore c.r.core else s
    let s := if acq && w.m == 1 then s.acquireCore c.r.core else s
    s.endWord c w)

/-! ## Barriers (06 R208-R211) -/

/-- Whether some active lane has arrived at a barrier in its uncompleted phase: the word stalls (06 R209). -/
def WaveCtx.arrivedAlready (c : WaveCtx) (n : Nat) : Bool :=
  (lanesOf c.act).any (fun i => (c.wv.lanes[i]?).any (fun l => l.arrivedIn n ((c.wg.barriers[n]?).getD 0)))

/-- Marks lanes as arrived. -/
def Wave.arrive (v : Wave) (mask : Lanes) (n phase : Nat) : Wave :=
  { v with lanes := v.lanes.mapIdx (fun i l =>
      if mask.getLsbD i then { l with arrived := setAt l.arrived n (phase + 1) } else l) }

/-- BAR (06 R209). -/
def execWBar (w : WWord) (s : State) : Res :=
  rawWord 0xB1 w s (fun f c s =>
    let n := uniform (c.sources s f w).1 % 8
    let phase := (c.wg.barriers[n]?).getD 0
    if c.arrivedAlready n then s
    else ((s.issueWord c f w).updWave c.r (fun v => v.arrive c.act n phase)).holdLanes c w c.act (fun _ => .bar n phase))

/-- ARRIVE (06 R209). -/
def execWArrive (w : WWord) (s : State) : Res :=
  rawWord 0xB3 w s (fun f c s =>
    let n := uniform (c.sources s f w).1 % 8
    if c.arrivedAlready n then s
    else ((s.issueWord c f w).updWave c.r (fun v => v.arrive c.act n ((c.wg.barriers[n]?).getD 0))).endWord c w)

/-- WAITB (06 R209): the lanes whose latest arrival's phase has not completed wait. -/
def execWWaitb (w : WWord) (s : State) : Res :=
  waveWord 0xB4 w s (fun f c s =>
    let n := uniform (c.sources s f w).1 % 8
    let phase := (c.wg.barriers[n]?).getD 0
    let m := maskOf (fun i => c.act.getLsbD i && (c.wv.lanes[i]?).any (fun l => l.arrivedIn n phase))
    (s.consume c f w).holdLanes c w m (fun _ => .waitb n phase))

/-- BARRIER_PHASE_COMPLETION (06 R208, R210): every wave has arrived; the phase completes, and a covered
workgroup whose lanes waited in BAR parks. -/
def execEvBarrierPhaseCompletion (r : WgRef) (n : Nat) (s : State) : Res :=
  match s.wg? r with
  | none => .next s
  | some g => .next (if g.phaseDue n then s.completePhase r n else s)

/-- Whether some workgroup of a grid has not started, or is queued for relaunch (06 R211). -/
def State.gridUnstarted (s : State) (g : Grid) : Bool :=
  decide (g.next < g.total) || !g.relaunch.isEmpty
    || s.cores.any (fun p => p.2.reserve.any (fun x => x.grid == g.id && x.frame.isNone) || p.2.claim.any (fun x => x.1 == g.id))

/-- A workgroup arrives at GBAR once all its lanes have executed it or exited; it parks under shedding, or
where some workgroup of the grid has not started (06 R211). -/
def State.gbarArrive (s : State) (r : WgRef) : State :=
  match s.wg? r with
  | none => s
  | some g =>
    if g.gbar || !g.someWait (fun x => x == .gbar) || !g.everyLane (fun l => l.state == .waiting .gbar) then s
    else
      let s := (s.updWg r (fun g => { g with gbar := true })).noteShedPoint r.core
      if covered s.power.level (s.lpbOf g).cls || ((s.grid? g.grid).map s.gridUnstarted).getD false then s.parkWg r .shedPoint else s

/-- GBAR (06 R211). -/
def execWGbar (w : WWord) (s : State) : Res :=
  waveWord 0xB2 w s (fun _ c s => (s.holdLanes c w c.act (fun _ => .gbar)).gbarArrive (wgOf c.r))

/-- EXIT (04 R155): the active lanes exit, which may be their workgroup's arrival at GBAR (06 R211). -/
def execWExit (w : WWord) (s : State) : Res :=
  lastWord 0x35 w s (fun _ c s =>
    ((s.countIssue c.r).updWave c.r (fun v =>
      v.leave (fun _ => c.g.nextClause)
        (fun i l => if c.act.getLsbD i then { l with state := .exited } else l))).gbarArrive (wgOf c.r))

/-- Whether every lane of every wave of a workgroup has exited: it has arrived at GBAR without executing it
(06 R211). -/
def Workgroup.lanesExited (g : Workgroup) : Bool := g.everyLane (fun _ => false)

/-- A tile's rotation after a GBAR of a grid completes in a tck: of several grids that complete in one tck, the one
accepted last sets it (20 R453). -/
def Headgate.rotated (g : Headgate) (tck grid gen : Nat) : Headgate :=
  if g.rotBy.any (fun p => p.1 == tck && decide (grid < p.2)) then g else { g with rot := gen % 3, rotBy := some (tck, grid) }

/-- GBAR_COMPLETION (06 R211; 20 R453): every workgroup of the grid has arrived or completed, and some of them waits
there; its waves' writes are released and its cores acquire at .dv, the generation advances, and the tiles that hold a resident member
take their rotation from it. -/
def execEvGbarCompletion (grid : Nat) (s : State) : Res :=
  match s.grid? grid with
  | none => .next s
  | some g =>
    let res := s.allWgs.filter (fun p => p.2.grid == grid)
    let saved := s.frames.filter (fun p => p.2.wg.grid == grid)
    let all := res.map (·.2) ++ saved.map (·.2.wg)
    if s.gridUnstarted g || !all.any (·.gbar) || !all.all (fun x => x.gbar || x.lanesExited)
        || !g.stolen.all (fun x => x.2.2.2.length == x.2.2.1) then .next s
    else
      let s := res.foldl (fun s p => s.drainWg p.1) s
      let s := g.cores.foldl (fun s c => s.releaseCore c) s
      let s := res.foldl (fun s p => s.acquireCore p.1.core) s
      let s := s.updGrid grid (fun g => { g with gen := g.gen + 1 })
      let go (w : Workgroup) : Workgroup := { w.release (fun x => x == .gbar) with gbar := false }
      let s := res.foldl (fun s p => s.updWg p.1 go) s
      let s := saved.foldl (fun s p => s.updFrame p.1 (fun f => { f with wg := go f.wg })) s
      .next (res.foldl (fun s p => s.updGate (tileOf p.1.core)
        (fun h => h.rotated (s.tckOf p.1.core) grid (g.gen + 1))) s)

/-! ## Timelines (06 R212-R215) -/

/-- TLADD and TLSET, evaluated once per issue (06 R185, R212, R213): at the slice, or as a PCIe AtomicOp whose
answer the wave waits for; the word is then issued again and ends. -/
def timelineWord (op : Nat) (add : Bool) (w : WWord) (s : State) : Res :=
  uniformWord op w s (fun f c a b s =>
    if c.wv.done ≠ 0 then (s.issueWord c f w).endWord c w
    else if a % 8 ≠ 0 then s.protectUniform c .atomic a
    else s.withUniform c .atomic 8 a (fun l s =>
      let d := ((l.head?).bind (·.dpas.head?)).getD 0
      match timelinePlace d with
      | .nowhere => s.protectUniform c .atomic a
      | .slice =>
        let s := (s.issueWord c f w).beforeWrite c.r (wordCtl w).order
        ((s.flushLine c.r d).performTimelineOf (some c.r.core) c.wg.ctx (BitVec.ofNat 64 a) d add (BitVec.ofNat 64 b)).endWord c w
      | .host =>
        let s := s.beforeWrite c.r (wordCtl w).order
        (s.sendHostOp c.wg.ctx (BitVec.ofNat 64 a) d add (BitVec.ofNat 64 b)
          (.wave c.r ((lowLane c.act).getD 0) s.hostOpId)).updWave c.r (fun v => { v with block := .hostOp s.hostOpId })))

/-- TLADD (06 R212). -/
def execWTladd (w : WWord) (s : State) : Res := timelineWord 0xB6 true w s
/-- TLSET (06 R212). -/
def execWTlset (w : WWord) (s : State) : Res := timelineWord 0xB7 false w s

/-- TLWAIT (06 R214). -/
def execWTlwait (w : WWord) (s : State) : Res :=
  uniformWord 0xB8 w s (fun f c a b s =>
    if a % 8 ≠ 0 then s.protectUniform c .read a
    else s.withUniform c .read 8 a (fun l s =>
      let s := s.issueWord c f w
      let v := s.readLanes c.r c.wg.ctx .around l
      if b ≤ at_ v.1 ((lowLane c.act).getD 0) then v.2.endWord c w
      else v.2.holdLanes c w c.act
        (fun _ => .tlwait (BitVec.ofNat 64 a) (BitVec.ofNat 64 b) (wordCtl w) (w.m == 1) false)))

/-- The timelines that lanes of a wave wait for. -/
def Wave.timelines (v : Wave) : List Nat :=
  v.lanes.filterMap (fun l => match l.state with
    | .waiting (.tlwait a _ _ _ _) => some a.toNat
    | _ => none)

/-- TLWAIT_RELEASE (06 R214): lanes whose timeline has reached their threshold become live. -/
def execEvTlwaitRelease (r : WaveRef) (s : State) : Res :=
  match s.wg? (wgOf r), s.wave? r with
  | some g, some v =>
    .next (s.pollOr r g v ((s.waitReads r g.ctx v.timelines).updWave r (fun v => v.release (fun x => match x with
      | .tlwait a t _ _ m => m || (s.waitValue r g.ctx a.toNat).any (fun y => decide (t.toNat ≤ y))
      | _ => false))))
  | _, _ => .next s

/-- TIMELINE_POLL (06 R213): a timeline of a waiter is read again, wherever it lies. -/
def execEvTimelinePoll (r : WaveRef) (s : State) : Res :=
  match s.wg? (wgOf r), s.wave? r with
  | some g, some v =>
    .next (s.pollOr r g v (s.updWave r (fun v => { v with lanes := v.lanes.map (fun l => match l.state with
      | .waiting (.tlwait a t c p m) =>
        { l with state := .waiting (.tlwait a t c p (m || (s.waitValue r g.ctx a.toNat).any (fun y => decide (t.toNat ≤ y)))) }
      | _ => l) })))
  | _, _ => .next s

/-- TLWAIT_PARK (06 R215): every lane that has not exited waits, one of them in TLWAIT.park; a workgroup chosen for a
drain may park too (13 R362). -/
def execEvTlwaitPark (r : WgRef) (s : State) : Res :=
  match s.wg? r with
  | none => .next s
  | some g =>
    .next (if g.timelineParkDue then s.parkWg r .timeline else s)

/-! ## Launch (06 R216) -/

/-- LAUNCH (06 R216; 11 R336): the wave's writes are released, the LPB is copied into the context's launch
queue of its class or the overflow ring, and pd tells whether there was room. -/
def execWLaunch (w : WWord) (s : State) : Res :=
  uniformWord 0xB9 w s (fun f c a _ s =>
    if a % 64 ≠ 0 then s.protectUniform c .read a
    else s.withUniform c .read 256 a (fun l s0 =>
      let s := (s0.drainWc c.r).releaseCore c.r.core
      let x := s.readLane c.r c.wg.ctx .around ((l.head?).getD ⟨0, 0, []⟩)
      let b := toBytes 256 x.1
      let s := x.2
      let done (ok : Bool) (s : State) : State :=
        ((s.issueWord c f w).writeP c.r w.d.toNat c.act (if ok then BitVec.allOnes 32 else 0)).endWord c w
      let k := s.context c.wg.ctx
      let cls := field b 0x13 1 % 4
      let direct := !(k.ovf.any (fun e => e.1 == cls)) && decide (((k.launchQ[cls]?).getD []).length < 64)
      let put (slot : Option Nat) (s : State) : State :=
        match s.enqueueLaunch c.r.core c.wg.ctx (BitVec.ofNat 64 a) b slot with
        | some s => done true s
        | none => done false s
      if direct || decide (k.ovfEnt ≤ k.ovf.length) || k.err then put none s
      else s.withUniform c .write 256 (k.ovfSlot k.ovf.length) (fun l s => put ((l.head?).bind (·.dpas.head?)) s)))

/-! ## Performance level, progress, rendezvous (06 R218-R220) -/

/-- The value that stands in a tck: the larger where one of the same tck stands already (06 R218, R219). -/
def standing (at_ : Option Nat) (tck old new : Nat) : Nat := if at_ = some tck then max old new else new

/-- SETPERF (06 R218): the greatest request of the active lanes. -/
def execWSetperf (w : WWord) (s : State) : Res :=
  plainWord 0xBA w s (fun _ c src s =>
    if c.act = 0 then s
    else
      let m := (lanesOf c.act).foldl (fun m i => max m (at_ src.1 i)) 0
      let tck := s.tckOf c.r.core
      s.updWg (wgOf c.r) (fun g => { g with perf := standing g.perfAt tck g.perf (min 16 (max 1 m)), perfAt := some tck }))

/-- PROGRESS (06 R219). -/
def execWProgress (w : WWord) (s : State) : Res :=
  uniformWord 0xBB w s (fun f c a _ s =>
    let tck := s.tckOf c.r.core
    ((s.issueWord c f w).updWg (wgOf c.r) (fun g =>
      { g with estimate := (standing g.progressAt tck g.estimate.1 (a % 2 ^ 32), tck), aged := 0, progressAt := some tck })).endWord c w)

/-- RDV (06 R220). -/
def execWRdv (w : WWord) (s : State) : Res :=
  rawWord 0xBC w s (fun f c s =>
    if c.wg.job.isNone then s.trapHere c .illegalWord
    else (s.issueWord c f w).holdLanes c w c.act (fun _ => .rdv))

/-- Writes a register of a sequencer context, which then holds no poison; g0 ignores writes (07 R231; 16 R418). -/
def SeqState.setG (x : SeqState) (n : Nat) (v : W64) : SeqState :=
  if n = 0 then x else { x with g := setAt x.g n v, poison := x.poison.filter (fun m => m != n) }

/-- A context at the completion of its rendezvous (07 R245). -/
def SeqState.met (x : SeqState) (argBase : W64) (wgl : Nat) : SeqState :=
  match x.rdv with
  | none => x
  | some w =>
    let x := { x with rdv := none, rdvs := x.rdvs + 1 }
    if w.d = 0 then x else (x.setG w.d.toNat argBase).setG (w.d.toNat + 1) (BitVec.ofNat 64 wgl)

/-- RENDEZVOUS_COMPLETION (06 R220; 07 R245). -/
def execEvRendezvousCompletion (r : WgRef) (s : State) : Res :=
  match s.wg? r with
  | none => .next s
  | some g =>
    match g.job with
    | none => .next s
    | some j =>
      let here (x : SeqState) : Bool := x.halted || x.rdv.isSome
      let any := g.someWait (fun x => x == .rdv) || j.intake.rdv.isSome || j.main.rdv.isSome || j.outfall.rdv.isSome
      if any && here j.intake && here j.main && here j.outfall && g.everyLane (fun l => l.state == .waiting .rdv) then
        let base := (s.lpbOf g).argBase
        let k (x : SeqState) : Nat := x.rdvs
        let s := (s.drainWg r).releaseCore r.core
        .next (s.updWg r (fun g => { g.release (fun x => x == .rdv) with
          rdvs := g.rdvs + 1
          job := g.job.map (fun j =>
            { (j.completePushes (fun p => match p with
                | .rdv c n => n == k (j.ctx c) && (j.ctx c).rdv.isSome
                | _ => false)) with
              intake := j.intake.met base g.wgl, main := j.main.met base g.wgl, outfall := j.outfall.met base g.wgl }) }))
      else .next s

end Sys2Proof.Machine
end

