-- ==== Sys2Proof/Machine/Copies.lean ====
section
/-! DEFINITION. The copy engine: acceptance from a wave ring, chunks with their faults, stream delivery and
completion (07 R236, R241, R251-R260, R512; 18 R427-R444; 17 R421-R423; 16 R402). A chunk performs its bytes
when it starts; it is complete at its completion event. -/

namespace Sys2Proof.Machine

/-! ## Finding a copy -/

/-- Whose copy it is: a resident workgroup's, or a saved one's, for which it runs detached. -/
inductive CopyOwner where
  | wg (r : WgRef)
  | frame (f : Nat)
  deriving DecidableEq, Repr

/-- A copy with its owner. -/
structure CopyRef where
  owner : CopyOwner
  wg    : Workgroup
  copy  : Copy
  cmd   : CopyCmd
  deriving DecidableEq, Repr

/-- The copy of a slot, in a workgroup. -/
def Workgroup.copyIn (w : Workgroup) (core slot : Nat) : Option (Copy × CopyCmd) :=
  (w.copies.find? (fun c => c.inSlot core slot)).bind (fun c => (copyCmd c.cmd).map (fun k => (c, k)))

/-- The copy in a slot of a core. -/
def State.copyAt? (s : State) (core slot : Nat) : Option CopyRef :=
  match s.allWgs.findSome? (fun p => (p.2.copyIn core slot).map (fun c => CopyRef.mk (.wg p.1) p.2 c.1 c.2)) with
  | some x => some x
  | none => s.frames.findSome? (fun p => (p.2.wg.copyIn core slot).map (fun c => CopyRef.mk (.frame p.1) p.2.wg c.1 c.2))

/-- Changes the workgroup that owns a copy. -/
def State.updOwner (s : State) (o : CopyOwner) (f : Workgroup → Workgroup) : State :=
  match o with
  | .wg r => s.updWg r f
  | .frame n => s.updFrame n (fun x => { x with wg := f x.wg })

/-- Changes a copy. -/
def State.updCopy (s : State) (x : CopyRef) (f : Copy → Copy) : State :=
  s.updOwner x.owner (fun w => { w with copies := w.copies.map (fun c =>
    if c.inSlot x.copy.core x.copy.slot then f c else c) })

/-! ## Acceptance (07 R255, R258-R260) -/

/-- A copy as it is accepted. -/
def newCopy (cmd : List W64) (from_ : CopyFrom) (timeline : W64) (core slot : Nat) : Copy :=
  { cmd := cmd, from_ := from_, timeline := timeline, core := core, slot := slot, done := 0, running := [],
    marks := [], sent := 0, fetched := [], fault := none, stopped := false, detached := false, sticky := 0 }

/-- Puts an accepted copy in a workgroup: its destination lines are empty from here (18 R427). -/
def Workgroup.accept (w : Workgroup) (c : Copy) : Workgroup := { w with copies := w.copies ++ [c], seqc := w.seqc + 1 }

/-- The place of a command in the order of arrival: in one tck a CPY comes first, then the wave rings in ascending residency
slot (07 R236; 18 R435). -/
def arrivalKey (tck : Nat) (ring : Option Nat) : Nat :=
  tck * 32 + (match ring with
    | none => 0
    | some slot => slot + 1)

/-- The entry of a ring's next command, and its arrival: none where it takes no command. -/
def Workgroup.ringWaiting (w : Workgroup) (slot : Nat) : List Nat :=
  if w.ring.stopped || w.saving then []
  else (List.range (w.ring.tail - w.ring.taken)).filterMap (fun i =>
    (w.ring.views.find? (fun v => decide (w.ring.taken + i < v.upto))).map (fun v => arrivalKey v.since (some slot)))

/-- The commands that wait for a copy slot of a core, by arrival. -/
def State.copyArrivals (s : State) (core : Nat) : List Nat :=
  (s.core core).wgs.flatMap (fun p =>
    p.2.ringWaiting p.1 ++ (match p.2.job with
      | some j => ([j.intake, j.main, j.outfall].filterMap (·.copySince)).map (fun t => arrivalKey t none)
      | none => []))

/-- The slot that a command takes which has arrived so: none while those before it take the free ones. -/
def State.copySlotFor (s : State) (core key : Nat) : Option Nat :=
  if (s.copySlotsUsed core).length + ((s.copyArrivals core).filter (fun k => decide (k < key))).length < 128 then
    s.freeCopySlot core []
  else none

/-- COPY_ACCEPTANCE (07 R259, R260; 17 R421, R422; 18 R435): the next published entry of a workgroup's copy ring is
read and takes a slot in its order of arrival; a malformed entry, or a poisoned one, stops the ring. TAKEN then covers
it. -/
def execEvCopyAcceptance (r : WgRef) (s : State) : Res :=
  match s.wg? r with
  | none => .next s
  | some w =>
    let k := w.ring.taken
    match w.ring.views.find? (fun v => decide (k < v.upto)) with
    | none => .next s
    | some v =>
      match s.copySlotFor r.core (arrivalKey v.since (some r.slot)) with
      | none => .next s
      | some slot =>
        if w.ring.stopped || w.saving || decide (w.ring.tail ≤ k) then .next s
        else
          let at_ := v.base + 32 * (k % v.entries)
          let b := w.readScratch at_ 32
          let cmd := (List.range 4).map (fun i => BitVec.ofNat 64 (ofBytes ((b.drop (8 * i)).take 8)))
          if w.padPoisoned at_ 32 then .next (s.stopRing r .poison)
          else if (copyCmd cmd).isNone then .next (s.stopRing r .illegalWord)
          else
            .next (s.updWg r (fun w =>
              ({ w with ring := { w.ring with taken := k + 1 } }.accept
                (newCopy cmd (.ring k) v.timeline r.core slot)).writeScratch 0x10 (toBytes 8 (k + 1))))

/-! ## Where an element lies -/

/-- Bytes of an element's source or destination. -/
inductive Spot where
  | none
  | pad (off n : Nat)
  | mem (dpas : List Nat)
  deriving DecidableEq, Repr

/-- The core through whose L1 a copy's workgroup reads: the copy observes what its waves have published to it, and its
writes reach them (14 R376, R377, R382). -/
def CopyRef.home (x : CopyRef) : Nat :=
  match x.owner with
  | .wg r => r.core
  | .frame _ => x.copy.core

/-- A place of an element: translated, or with its fault. Reads of poisoned bytes fault POISON; the place of a
gang member that is not on its core is waited for (01 R47). -/
def State.spot (s : State) (x : CopyRef) (pad : Bool) (a n : Nat) (acc : AccKind) : (Xlat × Spot) × State :=
  if pad then
    if (s.lpbOf x.wg).scratch < a + n then ((.protection, .none), s)
    else if acc = .read ∧ x.wg.padPoisoned a n = true then ((.poison, .pad a n), s)
    else ((.ok 0, .pad a n), s)
  else
    let m := s.mapAccess x.copy.core x.wg.ctx a n acc
    if acc ≠ .write ∧ m.1.2.any s.poisonedByte = true then ((.poison, .mem m.1.2), m.2)
    else if m.1.2.any (s.awaitsMember x.wg) then ((.wait, .none), m.2)
    else ((m.1.1, .mem m.1.2), m.2)

/-- The source address agent of CERR for a copy's window accesses. -/
def copySource (x : CopyRef) : BitVec 10 := BitVec.ofNat 10 x.copy.core

/-- Reads a place, beyond every L1 but for the bytes that the workgroup's own core holds dirty; the register block is read element by element (00 R509). -/
def State.readSpot (s : State) (x : CopyRef) (p : Spot) : List Byte × State :=
  match p with
  | .none => ([], s)
  | .pad o n => (x.wg.readScratch o n, s)
  | .mem l =>
    match (l.head?).map place with
    | some (.regs off) => let r := s.deviceRead x.wg.ctx off l.length; (toBytes l.length r.1, r.2)
    | _ =>
      let r := l.foldl (fun (a : List Byte × State) d =>
        match place d with
        | .window core off => (a.2.windowByte core off :: a.1, a.2)
        | _ => (a.2.readAround x.home d :: a.1, a.2)) ([], s)
      (r.1.reverse, r.2.noteStray l (copySource x))

/-- Writes a place: its bytes are performed beyond every L1 (14 R376). -/
def State.writeSpot (s : State) (x : CopyRef) (p : Spot) (b : List Byte) : State :=
  match p with
  | .none => s
  | .pad o _ => s.updOwner x.owner (fun w => w.writeScratch o b)
  | .mem l =>
    match (l.head?).map place with
    | some (.regs off) => s.deviceWrite x.wg.ctx off l.length (BitVec.ofNat 64 (ofBytes b))
    | _ => ((l.zip b).foldl (fun (s : State) p =>
        match place p.1 with
        | .window core off => s.writeWindow core off p.2
        | _ => s.writeThrough x.home p.1 p.2) s).noteStray l (copySource x)

/-- A fresh unspecified byte. -/
def State.freeByte (s : State) : Byte × State := let f := s.free; (f.1.setWidth 8, f.2)

/-- Fresh unspecified bytes where a predicate holds of the position. -/
def State.freeWhere (s : State) (p : Nat → Bool) : Nat → List Byte → List Byte × State
  | _, [] => ([], s)
  | i, b :: rest =>
    let h := if p i then s.freeByte else (b, s)
    let t := h.2.freeWhere p (i + 1) rest
    (h.1 :: t.1, t.2)

/-- The index list of a GATHER or SCATTER (07 R252). -/
def CopyRef.list (x : CopyRef) (r : Nat) : Nat := ofBytes (x.wg.readScratch (x.cmd.idx + 4 * r) 4)

/-- The source ranges of a copy, as start and length (07 R252). -/
def CopyRef.sourceRanges (x : CopyRef) : List (Nat × Nat) :=
  let c := x.cmd
  match c.op with
  | .fill => []
  | .gather => (List.range c.n1).map (fun r => (c.srcOf x.list (r * c.n0), c.n0 * c.size))
  | .bitplane => (List.range c.n1).map (fun r => (c.srcOf x.list (r * c.n0), if c.aux = 16 then (c.n0 + 1) / 2 else c.n0 * c.size))
  | .tensor2 | .tensor3 =>
    if c.ds then [(c.src, c.count * c.size)]
    else (List.range (c.n1 * c.n2)).map (fun r => (c.srcOf x.list (r * c.n0), c.n0 * c.size))
  | _ => [(c.src, c.count * c.size)]

/-- The physical address of a byte of the workgroup's scratchpad, as its core's window shows it (01 R46, R47). -/
def CopyRef.padAddr (x : CopyRef) (off : Nat) : Nat := 0x004000000000 + x.home * 0x100000 + x.wg.base + off

/-- The physical bytes of a copy's source, as base and length: an alias of a byte is the same byte (07 R254). -/
def State.ownSource (s : State) (x : CopyRef) : List (Nat × Nat) :=
  if x.cmd.srcPad then x.sourceRanges.map (fun p => (x.padAddr p.1, p.2))
  else x.sourceRanges.flatMap (fun p => s.segments 4 0 (s.context x.wg.ctx).root p.1 (p.1 + p.2))

/-- Whether a physical byte lies in some ranges: the copy's own source. -/
def inOwn (own : List (Nat × Nat)) (d : Nat) : Bool := own.any (fun p => decide (p.1 ≤ d) && decide (d < p.1 + p.2))

/-- The physical address of byte `j` of a place. -/
def CopyRef.byteOf (x : CopyRef) (p : Spot) (j : Nat) : Nat :=
  match p with
  | .pad o _ => x.padAddr (o + j)
  | .mem l => (l[j]?).getD 0
  | .none => 0

/-- Whether a scratchpad source line must be waited for: another copy leaves it empty, and this one does not
write it (18 R428). -/
def CopyRef.sourceWaits (x : CopyRef) (off n : Nat) : Bool :=
  (linesOf off n).any (fun l => !x.cmd.writesPad 0 (128 * l) 128 && x.wg.lineEmpty l)

/-- The bytes of a scratchpad source as the copy reads them: unspecified on lines it writes itself. -/
def State.readSource (s : State) (x : CopyRef) (p : Spot) : List Byte × State :=
  let r := s.readSpot x p
  match p with
  | .pad o _ => r.2.freeWhere (fun i => x.cmd.writesPad 0 ((o + i) / 128 * 128) 128) 0 r.1
  | _ => r

/-! ## A chunk -/

/-- The faults of a chunk's elements, in element order. -/
inductive ChunkMap where
  | ok (l : List (Nat × Spot × Spot))
  | fault (k : Xlat) (va : Nat) (acc : BitVec 5)
  | wait
  deriving DecidableEq, Repr

/-- An element's accesses: source and destination, each as pad or memory, address and length (07 R252). -/
structure ElemAcc where
  src : Option (Bool × Nat × Nat)
  dst : Option (Bool × Nat × Nat)
  deriving DecidableEq, Repr

/-- The accesses of element `i`, BITPLANE's vectors apart. -/
def CopyRef.elem (x : CopyRef) (i : Nat) : ElemAcc :=
  let c := x.cmd
  { src := if c.op = .fill then none
      else if c.op = .bitplane ∧ c.aux = 16 then some (c.srcPad, c.src + i / c.n0 * c.s1 + i % c.n0 / 2, 1)
      else some (c.srcPad, c.srcOf x.list i, c.size),
    dst := if c.dk = 2 ∨ c.dk = 3 then none else some (c.dk == 1, c.dstOf x.list i, c.size) }

/-- How the destination is accessed. -/
def CopyCmd.dstAcc (c : CopyCmd) : AccKind := if c.op = .reduce then .atomic else .write

/-- Whether a REDUCE may be performed at a place (07 R256). -/
def CopyCmd.reduceOk (c : CopyCmd) (p : Spot) : Bool :=
  let t := wtypeOf (c.aux / 8)
  match p with
  | .mem l => l.all (atomicPlaceOk (c.aux % 8 == 0 && isInt t))
  | _ => true

/-- ACC of a copy's fault: bit 4 where a walk met the poison, and the place has none of its own (16 R396; assumption log,
entry 40). -/
def faultBits (k : Xlat) (p : Spot) (acc : AccKind) : BitVec 5 := accBits acc ||| (if k = .poison ∧ p = .none then 16 else 0)

/-- What reading the index list for element `i` gives, and the entry's offset (07 R252, R254). -/
def State.listAt (s : State) (x : CopyRef) (i : Nat) : Xlat × Nat :=
  if x.cmd.op = .gather ∨ x.cmd.op = .scatter then
    let o := x.cmd.idx + 4 * (i / x.cmd.n0)
    (if (s.lpbOf x.wg).scratch < o + 4 then .protection
     else if x.wg.padPoisoned o 4 then .poison
     else if x.sourceWaits o 4 then .wait else .ok 0, o)
  else (.ok 0, 0)

/-- Maps the elements of a chunk in order, to the first that faults or waits. -/
def State.mapElems (s : State) (x : CopyRef) : List Nat → ChunkMap × State
  | [] => (.ok [], s)
  | i :: rest =>
    match s.listAt x i with
    | (.wait, _) => (.wait, s)
    | (.protection, o) => (.fault .protection o (accBits .read), s)
    | (.poison, o) => (.fault .poison o (accBits .read), s)
    | _ =>
    let e := x.elem i
    let a : (Xlat × Spot) × State := match e.src with
      | some (pad, a, n) => if pad && x.sourceWaits a n then ((.wait, .none), s) else s.spot x pad a n .read
      | none => ((.ok 0, .none), s)
    match a.1.1 with
    | .ok _ =>
      let b : (Xlat × Spot) × State := match e.dst with
        | some (pad, d, n) => a.2.spot x pad d n x.cmd.dstAcc
        | none => ((.ok 0, .none), a.2)
      match b.1.1 with
      | .ok _ =>
        if x.cmd.op = .reduce ∧ x.cmd.reduceOk b.1.2 = false then
          (.fault .protection ((e.dst.map (·.2.1)).getD 0) (accBits .atomic), b.2)
        else
          let r := b.2.mapElems x rest
          match r.1 with
          | .ok l => (.ok ((i, a.1.2, b.1.2) :: l), r.2)
          | y => (y, r.2)
      | .wait => (.wait, b.2)
      | k => (.fault k ((e.dst.map (·.2.1)).getD 0) (faultBits k b.1.2 x.cmd.dstAcc), b.2)
    | .wait => (.wait, a.2)
    | k => (.fault k ((e.src.map (·.2.1)).getD 0) (faultBits k a.1.2 .read), a.2)

/-- Maps the bytes of BITPLANE's vectors in the scratchpad (18 R442): the first byte beyond SCRATCH faults. -/
def State.planeFault (s : State) (x : CopyRef) (rows : List Nat) : Option Nat :=
  let n := (s.lpbOf x.wg).scratch
  let c := x.cmd
  rows.findSome? (fun r =>
    let v := c.dst + r * c.vstr
    if n < v + 128 then some v
    else ((List.range (digitPlanes c.aux)).map (fun t => v + 128 + t * c.pstr)).find? (fun a => decide (n < a + 32)))

/-- The head entry and the significand image of an element (08 R266; 18 R442). -/
def planeImage (fmt x : Nat) : Nat × Nat :=
  match tcodeOf fmt with
  | none => (0, 0)
  | some t =>
    match tcodeFmt t with
    | some f =>
      let e := bits x f.fb f.eb
      let sig := bits x 0 f.fb + (if e = 0 then 0 else 2 ^ f.fb)
      (bits x (f.eb + f.fb) 1 * 2 ^ 15 + e, sig * 2 ^ (4 * digitPlanes fmt - (f.fb + 1)))
    | none =>
      let v := signed (tcodeBits t) x
      ((if v < 0 then 2 ^ 15 else 0), v.natAbs)

/-- The bytes of a vector in bit-plane layout, as offset and bytes for each part (08 R266). -/
def planeParts (c : CopyCmd) (elems : List Nat) : List (Nat × List Byte) :=
  let d := digitPlanes c.aux
  let im := (List.range 64).map (fun i => match elems[i]? with
    | some x => planeImage c.aux x
    | none => (0, 0))
  let digit (t i : Nat) : Nat := bits (((im[i]?).getD (0, 0)).2) (4 * d - 4 - 4 * t) 4
  (0, im.flatMap (fun p => toBytes 2 p.1))
    :: (List.range d).map (fun t => (128 + t * c.pstr,
      (List.range 32).map (fun j => BitVec.ofNat 8 (digit t (2 * j) + 16 * digit t (2 * j + 1)))))

/-- Whether a byte of vector `r`'s layout lies in another vector's too (18 R442). -/
def CopyCmd.planeOverlap (c : CopyCmd) (r a : Nat) : Bool :=
  decide (c.vstr < 128 + digitPlanes c.aux * c.pstr) && (List.range c.n1).any (fun q =>
    let v := c.dst + q * c.vstr
    q != r && (overlap v 128 a 1 || (List.range (digitPlanes c.aux)).any (fun t => overlap (v + 128 + t * c.pstr) 32 a 1)))

/-- Writes one vector in bit-plane layout. -/
def State.writePlanes (s : State) (x : CopyRef) (own : List (Nat × Nat)) (r : Nat) (elems : List Nat) : State :=
  (planeParts x.cmd elems).foldl (fun s p =>
    let at0 := x.cmd.dst + r * x.cmd.vstr + p.1
    let b := s.freeWhere (fun i => inOwn own (x.padAddr (at0 + i)) || x.cmd.planeOverlap r (at0 + i)) 0 p.2
    b.2.updOwner x.owner (fun w => w.writeScratch at0 b.1)) s

/-- Writes an element, unspecified where it overlaps the copy's own source (07 R254). -/
def State.writeElem (s : State) (x : CopyRef) (own : List (Nat × Nat)) (p : Spot) (b : List Byte) : State :=
  let b := s.freeWhere (fun j => inOwn own (x.byteOf p j)) 0 b
  b.2.writeSpot x p b.1

/-- One REDUCE element (07 R256; 18 R444): a RED at its place, after a dirty byte of it that the workgroup's core holds
(14 R369), its flags kept with the copy. -/
def State.reduceElem (s : State) (x : CopyRef) (own : List (Nat × Nat)) (i : Nat) (p : Spot) (v : Nat) : State :=
  if x.copy.marks.contains i then s
  else
    match p with
    | .mem l =>
      let t := wtypeOf (x.cmd.aux / 8)
      let old := (l.foldl (fun s d => s.settleL1 x.home d) s).readSpot x p
      let r := atomOp t (x.cmd.aux % 8) .rn (ofBytes old.1) v
      let s := old.2.writeElem x own p (toBytes x.cmd.size r.1)
      let s := s.updCopy x (fun c => { c with sticky := c.sticky ||| r.2, marks := i :: c.marks })
      s.noteWrite ((l.head?).getD 0) l.length
    | _ => s

/-- The value FILL writes: the low bytes of W3. -/
def CopyCmd.fillBytes (c : CopyCmd) : List Byte := toBytes c.size (c.w3 % 2 ^ (8 * c.size))

/-- Performs the mapped elements of a chunk in element order; a stream takes those it has not been sent (18 R439). -/
def State.performElems (s : State) (x : CopyRef) (own : List (Nat × Nat)) (l : List (Nat × Spot × Spot)) : State :=
  (if x.cmd.dk = 3 then l.filter (fun e => decide (x.copy.sent ≤ e.1)) else l).foldl (fun s e =>
    let v := match x.cmd.op with
      | .fill => (x.cmd.fillBytes, s)
      | _ => s.readSource x e.2.1
    match x.cmd.op with
    | .reduce => v.2.reduceElem x own e.1 e.2.2 (ofBytes v.1)
    | _ =>
      if x.cmd.dk = 3 then v.2.updCopy x (fun c => { c with fetched := c.fetched ++ [BitVec.ofNat 32 (ofBytes v.1)] })
      else v.2.writeElem x own e.2.2 v.1) s

/-- Performs the vectors of a BITPLANE chunk. -/
def State.performPlanes (s : State) (x : CopyRef) (own : List (Nat × Nat)) (rows : List Nat) (l : List (Nat × Spot × Spot)) : State :=
  rows.foldl (fun s r =>
    let mine := l.filter (fun e => e.1 / x.cmd.n0 == r)
    let out := mine.foldl (fun (a : List Nat × State) e =>
      let v := a.2.readSource x e.2.1
      let n := ofBytes v.1
      ((if x.cmd.aux = 16 then bits n (4 * (e.1 % x.cmd.n0 % 2)) 4 else n) :: a.1, v.2)) ([], s)
    out.2.writePlanes x own r out.1.reverse) s

/-! ## Faults of a copy (18 R438-R440) -/

/-- The trap item of a copy at a chunk: of a copy that runs on its workgroup's core, or of one that outlived its workgroup's
residence there. -/
def State.copyItem (s : State) (x : CopyRef) (chunk : Nat) (k : TrapKind) (acc : BitVec 5) (va : Nat) : TrapItem × State :=
  match x.owner with
  | .wg r =>
    let t := s.copyTrap r x.wg.ctx x.copy.slot chunk k acc va
    (if r.core = x.copy.core then t.1 else { t.1 with who := .detached x.copy.slot }, t.2)
  | .frame _ =>
    let word := s.free
    ({ record := { TrapRecord.reset with
         kind := some k, src := .copy, acc := acc, va := BitVec.ofNat 64 va, resume := chunk,
         slot := x.copy.slot, seqs := 0 :: x.wg.seqCounts, stamp := s.tckOf x.copy.core },
       who := .detached x.copy.slot, ctx := x.wg.ctx, tval := BitVec.ofNat 64 va, word := word.1, needs := [va] }, word.2)

/-- The fault of a copy at a chunk, which waits from there: its trap waits in the queue of the core it runs on
(07 R248; 16 R404). -/
def State.copyFault (s : State) (x : CopyRef) (chunk : Nat) (k : Xlat) (va : Nat) (acc : BitVec 5) : State :=
  let t := s.copyItem x chunk k.kind acc va
  (t.2.updCopy x (fun c => { c with done := chunk, running := [], fault := some t.1 })).raiseTrap x.copy.core t.1

/-! ## Chunk events -/

/-- The next chunk of a copy: the lowest that is neither complete nor in progress; at most eight are in
progress, and those of a stream copy one at a time (18 R436). -/
def CopyRef.nextChunk (x : CopyRef) : Option Nat :=
  let k := x.copy.done + x.copy.running.length
  if x.cmd.chunks ≤ k ∨ 8 ≤ x.copy.running.length ∨ (x.cmd.dk = 3 ∧ x.copy.running ≠ []) then none else some k

/-- Whether the owner is being saved: a copy that touches its scratchpad starts no chunk then (16 R402). -/
def CopyRef.held (x : CopyRef) : Bool :=
  x.copy.fault.isSome || (x.cmd.touchesPad && x.wg.saving)

/-- COPY_CHUNK_START (18 R436-R439): the chunk's elements are translated; a fault leaves it unwritten, and
otherwise its bytes are performed. Scratchpad sources and index lists wait for full lines. -/
def execEvCopyChunkStart (core slot : Nat) (s : State) : Res :=
  match s.copyAt? core slot with
  | none => .next s
  | some x =>
    match x.nextChunk with
    | none => .next s
    | some k =>
      if x.held then .next s
      else if x.cmd.dk = 3 ∧ x.wg.waves.length ≤ x.cmd.aux / 8 then
        .next (s.copyFault x k .protection x.cmd.dst (accBits .write))
      else
        let g := x.cmd.chunkRange k
        let m := s.mapElems x ((List.range (g.2 - g.1)).map (fun i => g.1 + i))
        let rows := if x.cmd.op = .bitplane then
            (List.range (g.2 / x.cmd.n0 - g.1 / x.cmd.n0)).map (fun i => g.1 / x.cmd.n0 + i) else []
        match m.1 with
        | .wait => .next m.2
        | .fault e va acc => .next (m.2.copyFault x k e va acc)
        | .ok l =>
          match m.2.planeFault x rows with
          | some va => .next (m.2.copyFault x k .protection va (accBits .write))
          | none =>
            let own := m.2.ownSource x
            let s := m.2.updCopy x (fun c => { c with running := c.running ++ [k] })
            .next (if x.cmd.op = .bitplane then s.performPlanes x own rows l else s.performElems x own l)

/-- COPY_CHUNK_COMPLETION (18 R436, R437): chunks complete in ascending order; a stream copy's once its
elements are delivered. -/
def execEvCopyChunkCompletion (core slot : Nat) (s : State) : Res :=
  match s.copyAt? core slot with
  | none => .next s
  | some x =>
    match x.copy.running with
    | [] => .next s
    | k :: rest =>
      if x.cmd.dk = 3 ∧ x.copy.sent < (x.cmd.chunkRange k).2 then .next s
      else
        let g := x.cmd.chunkRange k
        .next (s.updCopy x (fun c => { c with
          done := k + 1, running := rest, marks := c.marks.filter (fun i => decide (g.2 ≤ i)) }))

/-- A wave with one element more in a lane of a stream register. -/
def Wave.deliver (w : Wave) (q lane : Nat) (v : W32) : Wave :=
  { w with streams := modAt w.streams q (fun x => { held := assocSet x.held lane (x.lane lane ++ [v]) }) }

/-- STREAM_DELIVERY (18 R430, R431): the copy's next element goes to its lane, where the lane has room and no
earlier copy owes it an element; an exited lane's element is discarded. -/
def execEvStreamDelivery (core slot : Nat) (s : State) : Res :=
  match s.copyAt? core slot with
  | none => .next s
  | some x =>
    match x.owner, x.copy.fetched with
    | .wg r, v :: rest =>
      if !x.wg.deliverable x.copy x.cmd then .next s
      else
        let (wave, q, lane) := x.copy.nextLane x.cmd
        let gone := (x.wg.waves[wave]?).any (fun w => w.laneGone lane)
        let s := if gone then s else s.updWave ⟨r.core, r.slot, wave⟩ (fun w => w.deliver q lane v)
        .next (s.updCopy x (fun c => { c with sent := c.sent + 1, fetched := rest }))
    | _, _ => .next s

/-! ## Completion (07 R236, R241, R258-R260; 06 R511) -/

/-- The counts of a copy ring after its entry `k` has completed (07 R260): DONE covers the completed prefix. -/
def CopyRing.finish (q : CopyRing) (k : Nat) : CopyRing :=
  let ahead := k :: q.ahead
  let n := ((List.range ahead.length).takeWhile (fun i => ahead.contains (q.done + i))).length
  { q with done := q.done + n, ahead := ahead.filter (fun i => decide (q.done + n ≤ i)) }

/-- A workgroup after one of its copies has completed: the copy leaves its slot, pushes that wait on it are
made, or its ring's DONE moves. -/
def Workgroup.copyDone (w : Workgroup) (c : Copy) : Workgroup :=
  let w := { w with copies := w.copies.filter (fun y => !y.inSlot c.core c.slot) }
  match c.from_ with
  | .seq ctx n => { w with job := w.job.map (fun j => j.completePushes (fun p => p == .copy ctx n)) }
  | .ring k =>
    let q := w.ring.finish k
    if q.done = w.ring.done then { w with ring := q }
    else { w with ring := q }.writeScratch 0x18 (toBytes 8 q.done)

/-- COPY_COMPLETION (07 R236, R241; 16 R404, R415): every chunk complete, and no walk of its timeline waiting; its flags arrive, its timeline advances,
and its workgroup may complete. -/
def execEvCopyCompletion (core slot : Nat) (s : State) : Res :=
  match s.copyAt? core slot with
  | none => .next s
  | some x =>
    if x.copy.done < x.cmd.chunks ∨ x.copy.fault.isSome ∨ s.timelineWaits x.wg.ctx x.copy.timeline = true then .next s
    else
      let s := s.raiseLate x.wg.grid x.wg.wgl x.copy.sticky
      let s := s.feTimeline (some x.home) x.wg.ctx x.copy.timeline true 1 (.copy x.wg.ctx)
      let s := s.updOwner x.owner (fun w => w.copyDone x.copy)
      match x.owner with
      | .wg r => .next (s.tryComplete r)
      | .frame _ => .next s

end Sys2Proof.Machine
end

