-- ==== Sys2Proof/Machine/FrontWait.lean ====
section
/-! DEFINITION. TL_WAIT of the front end: the wait of a hardware queue on a timeline (11 R324, R332). -/

namespace Sys2Proof.Machine

/-- An aligned 64-bit word as the front end reads it, wherever it lies: a register of the block, a scratchpad through its
window, or memory (01 R46, R47; 11 R319, R332; 16 R414), with what the read leaves. -/
def State.feWord (s : State) (ctx va : Nat) : (Xlat × Nat) × State :=
  match s.translateFe ctx va .read with
  | .ok d =>
    match place d with
    | .regs off => let r := s.deviceRead ctx off 8; ((.ok d, r.1), r.2)
    | _ =>
      let l := (List.range 8).map (d + ·)
      if l.any s.poisonedByte then ((.poison, 0), s) else ((.ok d, ofBytes (l.map s.feByte)), s.noteStray l 0x3FF)
  | x => ((x, 0), s)

/-- The value of a timeline as the front end reads it (11 R332). -/
def State.feTimelineValue (s : State) (ctx va : Nat) : Xlat × Nat := (s.feWord ctx va).1

/-- What the front end's read of a timeline leaves. -/
def State.feTimelineRead (s : State) (ctx va : Nat) : State := (s.feWord ctx va).2

/-- TL_WAIT (11 R324, R332, R513). -/
def execPkTlWait (w : PacketWord) (s : State) : Res :=
  onQueue s (fun q x =>
    match packetScope w.tspec.toNat with
    | none => s.badPacket q
    | some sc =>
      if w.len ≠ 3 ∨ badAddress (bodyWord w 0) 8 = true then s.badPacket q
      else
        match s.feTimelineValue x.ctx (bodyWord w 0) with
        | (.ok _, v) =>
          let s := s.feTimelineRead x.ctx (bodyWord w 0)
          if bodyWord w 1 ≤ v then .next (s.nextPacket q 3)
          else .next (s.updQueue q (fun x => { x with
            wait := .timeline (BitVec.ofNat 64 (bodyWord w 0)) (BitVec.ofNat 64 (bodyWord w 1)) sc false }))
        | (.wait, _) => .next s
        | _ => .next (s.updQueue q (fun x => x.halt true)))

/-- TL_WAIT_RELEASE (11 R320, R332): a value of the timeline has reached the threshold, and parsing resumes, at once where a
write has ended the wait; a halted queue's wait never ends. -/
def execEvTlWaitRelease (q : Nat) (s : State) : Res :=
  let x := s.queue q
  if x.halted then .next s else
  match x.wait with
  | .timeline a t _ met =>
    if met then .next (s.nextPacket q 3) else
    match s.feTimelineValue x.ctx a.toNat with
    | (.ok _, v) =>
      let s := s.feTimelineRead x.ctx a.toNat
      .next (if t.toNat ≤ v then s.nextPacket q 3 else s)
    | (.wait, _) => .next s
    | _ => .next (s.updQueue q (fun x => x.halt true))
  | _ => .next s

end Sys2Proof.Machine
end

