-- ==== Sys2Proof/Machine/Matrix.lean ====
section
/-! DEFINITION. The matrix words and the engine queues (08 R261-R285; 02 R71-R84): order and start checks,
WLOAD, MSTEP with its passes and the spillway, MDRAIN, MFOLD, MCLR, MFILL, MNOP, completion, the expansion
of loop nests. The array runs one word at a time, the weight loader one WLOAD beside it; a word's effects
are performed when it starts, an MSTEP's passes up to one that must wait (assumption log, entry 24). -/

namespace Sys2Proof.Machine

/-! ## Formats (02 R71-R73) -/

/-- The alignment of elements of a format. -/
def formatAlign (fmt : Nat) : Nat := max 1 (formatBits fmt / 8)

/-- The chain of a weight and an activation format (02 R71). -/
def chainOf (wf af : Nat) : Option TileKind :=
  if wf = 0x0D then (if af = 0x0D then some .fp64 else none)
  else if intActivation wf then (if intActivation af then some .int else none)
  else if [0x0C, 0x0A, 0x0B, 0x11, 0x12].contains af then some .fp32 else none

/-- Cells per weight (02 R73). -/
def cellsPerWeight (fmt : Nat) : Nat :=
  match fmt with
  | 0x0D => 4
  | 0x0C => 2
  | _ => 1

/-! ## Words in their queues (08 R261, R278) -/

/-- Whether an earlier word of the job holds a word back (08 R261, R278). `blocked` tells whether the matrix
queue's head is an MSTEP waiting or stopped under R269 to R271. -/
def State.holdsBack (s : State) (core : Nat) (j : Job) (blocked : Bool) (x q : QueueWord) : Bool :=
  let sameTile := namesTile x.opx && namesTile q.opx && x.w.d == q.w.d
  x.before q
    && ((sameTile && queueOf x.opx == .matrix && (q.opx == 3 || (q.opx == 4 && !blocked)))
      || (sameTile && queueOf x.opx == .drain)
      || ((x.opx == 1 && q.opx == 2 || x.opx == 2 && q.opx == 1) && x.w.c == q.w.c)
      || byteRangesMeet (wordWrites x.opx x.w (s.foldOf core j x)) (wordReads q.opx q.w (s.foldOf core j q))
      || byteRangesMeet (wordWrites x.opx x.w (s.foldOf core j x)) (wordWrites q.opx q.w (s.foldOf core j q))
      || byteRangesMeet (wordReads x.opx x.w (s.foldOf core j x)) (wordWrites q.opx q.w (s.foldOf core j q)))

/-- Whether the head of a matrix queue is an MSTEP waiting or stopped for spillway room. -/
def EngineQ.roomBlocked (q : EngineQ) : Bool :=
  match q.phase with
  | .stalled _ | .stopped => true
  | _ => false

/-- Whether the unit that runs the next word of a queue has ended the occupancy of the word before (08 R261, R276). -/
def State.unitFree (s : State) (core : Nat) (eq : EngineQueue) (loader : Bool) : Bool :=
  !(s.tile (tileOf core)).gate.holding.any (fun d => d.core == core && d.q == eq && d.loader == loader)

/-- Whether the word of a queue that starts next has met its start conditions but for its headgate demand (08 R261, R262,
R278): no trap of an engine is serviced, no nest has earlier words to generate, no earlier word of the job holds it back.
An MFOLD goes before the matrix words from an MSTEP on that waits or has stopped for spillway room. -/
def State.mayBegin (s : State) (r : WgRef) (j : Job) (eq : EngineQueue) : Bool :=
  match (j.queue eq).next? with
  | none => false
  | some (q, _) =>
    !j.matrixQ.trapped && !j.drainQ.trapped && j.nest.all (fun n => decide (q.ticket ≤ n.ticket))
      && j.openWords.all (fun x => !s.holdsBack r.core j
        (j.matrixQ.roomBlocked && !j.matrixQ.finishing.any (fun y => y.1 == x)) x q)

/-- A word's demand (08 R277). A word whose slot holds no latch counts one cell per weight. -/
def Job.demand (j : Job) (q : QueueWord) : Nat :=
  let area (g : Nat) : Nat := (16 * extK q.w * extN q.w * g + 4095) / 4096
  match q.opx with
  | 1 => max q.w.hg.toNat 2
  | 2 => max q.w.hg.toNat (area (match (j.slots[q.w.c.toNat]?).join with
      | some l => cellsPerWeight l.fmt
      | none => 1))
  | 3 | 4 => max q.w.hg.toNat 1
  | 6 => max q.w.hg.toNat (area 1)
  | _ => 0

/-- A word with a demand of 0 starts without a grant; the others start granted (20 R452). -/
def Job.headReady (j : Job) (eq : EngineQueue) : Bool :=
  match (j.queue eq).next?, (j.queue eq).nextPhase with
  | some (q, _), .waiting => j.demand q == 0
  | some _, .granted => true
  | _, _ => false

/-- The tck that a word occupies its unit, an MSTEP for the passes that remain (08 R276; 02 R72). -/
def occupancy (q : QueueWord) (pass : Nat) : Nat :=
  match q.opx with
  | 1 => extK q.w
  | 2 => (extP q.w - pass) * digitPlanes q.w.fmt.toNat
  | 3 | 6 => extP q.w
  | 4 => 64
  | _ => 0

/-- The tck of its occupancy that a started word has before it whatever time passes: those of an MSTEP's passes to come, which
its stalls put off (08 R276). -/
def Job.owes (j : Job) (eq : EngineQueue) (loader : Bool) : Nat :=
  if loader then 0
  else
    match (j.queue eq).words, (j.queue eq).phase with
    | q :: _, .running | q :: _, .stalled _ => occupancy q (j.queue eq).pass
    | _, _ => 0

/-! ## The head word of a queue -/

/-- The head word that an agent runs, with its place. -/
structure HeadCtx where
  r    : WgRef
  wg   : Workgroup
  job  : Job
  eq   : EngineQueue
  q    : QueueWord
  /-- the weight loader runs it. -/
  loader : Bool
  deriving DecidableEq, Repr

/-- The owner tag of a workgroup's engine job (01 R41). -/
def HeadCtx.tag (c : HeadCtx) : OwnerTag := ⟨c.wg.ctx, c.r.slot⟩

/-- A word of an engine queue of a core, as `pick` finds it, with its place. -/
def State.queueWord? (s : State) (core : Nat) (eq : EngineQueue) (pick : EngineQ → Option (QueueWord × Bool)) :
    Option HeadCtx :=
  match s.jobSlot core with
  | none => none
  | some slot =>
    match s.wg? ⟨core, slot⟩ with
    | none => none
    | some w =>
      match w.job with
      | none => none
      | some j => (pick (j.queue eq)).map (fun q => { r := ⟨core, slot⟩, wg := w, job := j, eq := eq, q := q.1, loader := q.2 })

/-- The head word of an engine queue of a core: the array's or the drain unit's. -/
def State.headWord? (s : State) (core : Nat) (eq : EngineQueue) : Option HeadCtx :=
  s.queueWord? core eq (fun q => q.words.head?.map (fun w => (w, false)))

/-- The weight loader's word. -/
def State.loaderWord? (s : State) (core : Nat) : Option HeadCtx :=
  s.queueWord? core .matrix (fun q => q.loader.map (fun l => (l.q, true)))

/-- The word of an engine queue that starts next. -/
def State.startWord? (s : State) (core : Nat) (eq : EngineQueue) : Option HeadCtx := s.queueWord? core eq EngineQ.next?

/-- Changes the queue of a head word. -/
def State.updHead' (s : State) (c : HeadCtx) (f : EngineQ → EngineQ) : State := s.updJob c.r (fun j => j.updQueue c.eq f)

/-- How far a word has come, in its unit. -/
def State.setPhase (s : State) (c : HeadCtx) (p : HeadPhase) : State :=
  s.updHead' c (fun q => if c.loader then { q with loader := q.loader.map (fun l => { l with phase := p }) } else { q with phase := p })

/-- Releases a unit's demand at the headgate (20 R455). -/
def State.releaseDemand (s : State) (core : Nat) (eq : EngineQueue) (loader : Bool) : State :=
  let mine (d : Demand) : Bool := d.core == core && d.q == eq && d.loader == loader
  s.updGate (tileOf core) (fun g => { g with
    waiting := g.waiting.filter (fun d => !mine d), holding := g.holding.filter (fun d => !mine d) })

/-- A trap of a head word at its start or in a pass: the record names the pass that it resumes at, and the job's words that have
yet to start give up their grants. -/
def State.trapHead (s : State) (c : HeadCtx) (kind : TrapKind) (needs : List Nat) : State :=
  (s.giveUpGrants c.r).trapEngine c.r c.eq kind c.q.ticket
    ((((s.job? c.r).bind (·.matrixQ.inStep)).filter (fun _ => c.q.opx == 2)).map (·.2) |>.getD 0)
    (if namesTile c.q.opx then c.q.w.d.toNat else 0) needs

/-- Whether byte ranges stay below SCRATCH. -/
def inScratch (n : Nat) (l : List (Nat × Nat)) : Bool := l.all (fun p => decide (p.1 + p.2 ≤ n))

/-- Whether byte ranges of a workgroup's scratchpad hold poisoned bytes. -/
def Workgroup.poisonedIn (w : Workgroup) (l : List (Nat × Nat)) : Bool :=
  l.any (fun p => w.poison.any (fun b => decide (p.1 ≤ b) && decide (b < p.1 + p.2)))

/-- The checks of a word at its start that depend on its operation (08 R265, R267, R272, R273): the trap it
raises. -/
def State.operationCheck (s : State) (c : HeadCtx) : Option TrapKind :=
  let w := c.q.w
  let n := (s.lpbOf c.wg).scratch
  let t := s.accTile c.r.core w.d.toNat
  let reads := wordReads c.q.opx w t.drainFold
  let writes := wordWrites c.q.opx w t.drainFold
  let poisoned : Option TrapKind := if c.q.opx ≠ 2 ∧ c.wg.poisonedIn reads then some .poison else none
  match c.q.opx with
  | 1 =>
    let al := formatAlign w.fmt.toNat
    if w.a.toNat % al ≠ 0 ∨ w.astr.toNat % al ≠ 0 ∨ (w.fmt = 0x13 ∧ w.b.toNat % 32 ≠ 0) then some .illegalWord
    else if !inScratch n reads then some .protection else poisoned
  | 2 =>
    match (c.job.slots[w.c.toNat]?).join with
    | none => some .illegalWord
    | some l =>
      match chainOf l.fmt w.fmt.toNat with
      | none => some .illegalWord
      | some k =>
        if l.k < extK w ∨ l.n < extN w ∨ (t.kind ≠ .empty ∧ t.kind ≠ k) ∨ w.a.toNat % 16 ≠ 0 ∨ w.astr.toNat % 16 ≠ 0
            ∨ w.pstr.toNat % 16 ≠ 0 ∨ w.pstr.toNat < 32 then some .illegalWord else none
  | 3 =>
    let al := formatAlign w.dfmt.toNat
    if (t.kind = .fp64 ∧ 15 < w.nx.toNat) ∨ w.b.toNat % al ≠ 0 ∨ w.astr.toNat % al ≠ 0 then some .illegalWord
    else if !inScratch n (writes ++ reads) then some .protection else poisoned
  | 4 =>
    if w.b.toNat % 128 ≠ 0 ∨ t.kind = .fp32 ∨ t.kind = .fp64 ∨ t.fold.any (fun b => b != w.b.toNat) = true then some .illegalWord
    else if !inScratch n writes then some .protection else poisoned
  | _ => none

/-- Whether a used offset lies at or beyond SCRATCH (03 R108; 08 R262). -/
def offsetBeyond (n opx : Nat) (w : MWord) : Bool :=
  let a := opx == 1 || opx == 2
  let b := opx == 3 || opx == 4 || (opx == 1 && w.fmt == 0x13)
  (a && decide (n ≤ w.a.toNat)) || (b && decide (n ≤ w.b.toNat))

/-- The trap of a word at its start, with the tag that ACC_OWNER names (08 R262, R263, R285). Which one is taken where checks
of several kinds fail together the spec leaves open: the model takes them in the order written here (assumption log,
entry 63). -/
def State.startCheck (s : State) (c : HeadCtx) : Option (TrapKind × List Nat) :=
  let owner := (s.accTile c.r.core c.q.w.d.toNat).owner
  if c.q.nest ∧ matrixOk c.q.opx c.q.w = false then some (.illegalWord, [])
  else if c.q.astray ∨ offsetBeyond (s.lpbOf c.wg).scratch c.q.opx c.q.w then some (.protection, [])
  else match (if namesTile c.q.opx then owner.filter (fun t => t != c.tag) else none) with
    | some t => some (.accOwner, [tagNeed t])
    | none => (s.operationCheck c).map (fun k => (k, []))

/-- Whether an earlier word of a word's queue has not completed: SPILLWAY_FULL waits for it, and so does ACC_OWNER in a pass or
of a word of a nest (08 R271, R285). -/
def State.earlierOpen (s : State) (c : HeadCtx) : Bool :=
  (s.job? c.r).any (fun j => (j.queue c.eq).open_.any (fun x => x.before c.q))

/-- A word starts: it is counted once, a tile it names is its job's, and it ends an idle stretch for the watchdog (08 R263;
16 R400, R419). -/
def State.beginWord (s : State) (c : HeadCtx) : State :=
  let count (begun : Bool) (n : Nat) : Nat := if begun then n else n + 1
  let s := s.updHead' c (fun q =>
    if c.loader then { q with loader := q.loader.map (fun l => { l with phase := .running, begun := true }),
                              started := count (q.loader.any (·.begun)) q.started }
    else { q with phase := .running, begun := true, started := count q.begun q.started })
  let s := s.updWg c.r (fun g => { g with watchdog := 0 })
  if namesTile c.q.opx then s.updAccTile c.r.core c.q.w.d.toNat (fun t => { t with owner := some c.tag }) else s

/-- A word's effects are done: its completion remains. -/
def State.wordDone (s : State) (c : HeadCtx) (f : BitVec 6) : State :=
  (s.updHead' c (fun q => { q with sticky := q.sticky ||| f })).setPhase c .finished

/-- A workgroup's scratchpad as a word reads it: bytes that a wave has stored to since the word was accepted hold
unspecified values (08 R279). -/
def State.raceView (s : State) (c : HeadCtx) : HeadCtx × State :=
  c.q.raced.foldl (fun a p => (List.range p.2).foldl (fun a i =>
    let f := a.2.free
    ({ a.1 with wg := { a.1.wg with scratch := cellPut a.1.wg.scratch (p.1 + i) (f.1.setWidth 8) } }, f.2)) a) (c, s)

/-- Runs the word of the issuing agent, a WLOAD in the weight loader and any other at the head of its queue: checks at its
start, then the operation on the scratchpad as it reads it. `opx` and `w` are the word's own. -/
def engineWord (opx : Nat) (w : MWord) (s : State) (body : HeadCtx → State → State) : Res :=
  match s.cur with
  | .engine core eq =>
    match (if opx = 1 then s.loaderWord? core else s.headWord? core eq) with
    | none => .next s
    | some c =>
      if c.q.opx ≠ opx ∨ c.q.w ≠ w then .next s
      else
        match s.startCheck c with
        | some (k, needs) =>
          .next (if k = .accOwner ∧ c.q.nest = true ∧ s.earlierOpen c = true then s.giveUpGrants c.r else s.trapHead c k needs)
        | none => let x := s.raceView c; .next (body x.1 x.2)
  | _ => .next s

/-! ## WLOAD (08 R264, R265) -/

/-- Element `j` of a row of bytes in plain layout (02 R59). -/
def plainElem (fmt : Nat) (row : List Byte) (j : Nat) : Nat :=
  if formatBits fmt = 4 then bits (((row[j / 2]?).getD 0).toNat) (4 * (j % 2)) 4
  else ofBytes ((row.drop (j * (formatBits fmt / 8))).take (formatBits fmt / 8))

/-- The latch a WLOAD fills (08 R265). -/
def loadLatch (g : Workgroup) (w : MWord) : Latch :=
  let f := w.fmt.toNat
  { fmt := f, k := extK w, n := extN w,
    weights := (List.range (extK w)).map (fun i =>
      let row := g.readScratch (w.a.toNat + i * w.astr.toNat) (rowBytes f (extN w))
      (List.range (extN w)).map (plainElem f row)),
    codebook := if f = 0x13 then (List.range 16).map (fun i => ofBytes (g.readScratch (w.b.toNat + 2 * i) 2)) else [] }

/-- WLOAD (08 R265; 07 R241): it starts, waits in the loader for full lines, and loads a latch, which replaces that of slot c
at its completion. -/
def execMWload (w : MWord) (s : State) : Res :=
  engineWord 1 w s (fun c s =>
    let s := s.beginWord c
    if c.wg.emptyIn (wordReads 1 w none) then s
    else (s.updHead' c (fun q => { q with
      loader := q.loader.map (fun l => { l with latch := some (loadLatch c.wg w) }) })).wordDone c 0)

/-! ## MSTEP (08 R266-R271; 02 R74-R81) -/

/-- Weight (i, j) of a latch as raw bits, with the type it has in arithmetic (02 R60). -/
def Latch.weight (l : Latch) (i j : Nat) : Nat :=
  let x := ((((l.weights[i]?).getD [])[j]?).getD 0)
  if l.fmt = 0x13 then (l.codebook[x]?).getD 0 else x

/-- The float format of a format code; cb4 weights are bf16. -/
def floatFmt (fmt : Nat) : Fmt := ((tcodeOf fmt).bind tcodeFmt).getD bf16

/-- The activation elements of a vector (08 R266): head entry and significand image. -/
def readVector (g : Workgroup) (w : MWord) (v : Nat) : List (Nat × Nat) :=
  let d := digitPlanes w.fmt.toNat
  let head := g.readScratch v 128
  let planes := (List.range d).map (fun t => g.readScratch (v + 128 + t * w.pstr.toNat) 32)
  (List.range (extK w)).map (fun i =>
    (ofBytes ((head.drop (2 * i)).take 2),
     planes.foldl (fun m p => m * 16 + bits (((p[i / 2]?).getD 0).toNat) (4 * (i % 2)) 4) 0))

/-- A float activation as an encoding of its format: sign, exponent field, and the fraction from its image;
the hidden position and the padding are ignored (08 R266). -/
def activationBits (fmt : Nat) (e : Nat × Nat) : Nat :=
  let f := floatFmt fmt
  let frac := bits (e.2 / 2 ^ (4 * digitPlanes fmt - (f.fb + 1))) 0 f.fb
  bits e.1 15 1 * 2 ^ (f.eb + f.fb) + bits e.1 0 f.eb * 2 ^ f.fb + frac

/-- An integer activation: sign × magnitude (08 R266). -/
def activationInt (e : Nat × Nat) : Int := if bit e.1 15 then -(e.2 : Int) else e.2

/-- Adds a product to a chain's value, rounding to the chain's format (02 R75, R78). -/
def chainAdd (f : Fmt) (a : Nat × BitVec 6) (p : FVal) : Nat × BitVec 6 :=
  let t := (f.value a.1).add .rn p
  let r := f.round .rn false t.1
  (r.1, a.2 ||| t.2 ||| r.2)

/-- The foot addition of two chains, one of which may be absent (02 R76, R77). -/
def footAdd (f : Fmt) (a b : Option (Nat × BitVec 6)) : Option (Nat × BitVec 6) :=
  match a, b with
  | some x, some y =>
    let r := f.add .rn false x.1 y.1
    some (r.1, x.2 ||| y.2 ||| r.2)
  | some x, none => some x
  | none, y => y

/-- The result of an element's pass from its accumulator and its products in row order (02 R75-R77). -/
def chainResult (f : Fmt) (spl acc : Nat) (ps : List FVal) : Nat × BitVec 6 :=
  let chain (lo n start : Nat) (first : Bool) : Option (Nat × BitVec 6) :=
    if !first && decide (ps.length ≤ lo) then none else some (((ps.drop lo).take n).foldl (chainAdd f) (start, 0))
  let out := match spl with
    | 1 => footAdd f (chain 0 32 acc true) (chain 32 32 0 false)
    | 2 => footAdd f (footAdd f (chain 0 16 acc true) (chain 16 16 0 false))
        (footAdd f (chain 32 16 0 false) (chain 48 16 0 false))
    | _ => chain 0 64 acc true
  out.getD (acc, 0)

/-- An element of a tile (08 R263). -/
def Tile.elem (t : Tile) (i : Nat) : W32 := (assoc t.elems i).getD 0

/-- Writes an element of a tile; elements that hold 0 are not listed. -/
def Tile.setElem (t : Tile) (i : Nat) (v : W32) : Tile :=
  { t with elems := if v = 0 then assocDrop t.elems i else assocSet t.elems i v }

/-- The value of column j in row r of a float tile (02 R79). -/
def Tile.floatAt (t : Tile) (r j : Nat) : Nat :=
  if t.kind = .fp64 then (t.elem (64 * r + 2 * j)).toNat + 2 ^ 32 * (t.elem (64 * r + 2 * j + 1)).toNat
  else (t.elem (64 * r + j)).toNat

/-- Writes it. -/
def Tile.setFloat (t : Tile) (r j v : Nat) : Tile :=
  if t.kind = .fp64 then
    (t.setElem (64 * r + 2 * j) (BitVec.ofNat 32 v)).setElem (64 * r + 2 * j + 1) (BitVec.ofNat 32 (v / 2 ^ 32))
  else t.setElem (64 * r + j) (BitVec.ofNat 32 v)

/-- The narrow accumulator of an element (02 R79, R80). -/
def Tile.narrow (t : Tile) (i : Nat) : Int := signed 24 (t.elem i).toNat

/-- Writes it: bits 31:24 equal bit 23. -/
def Tile.setNarrow (t : Tile) (i : Nat) (v : Int) : Tile := t.setElem i (BitVec.ofInt 32 v)

/-- One float pass over the columns of a row (08 R268). -/
def floatPass (l : Latch) (w : MWord) (t : Tile) (r : Nat) (x : List (Nat × Nat)) : Tile × BitVec 6 :=
  let f := if t.kind = .fp64 then f64 else f32
  let xs := x.map (fun e => (floatFmt w.fmt.toNat).value (activationBits w.fmt.toNat e))
  (List.range (extN w)).foldl (fun (a : Tile × BitVec 6) j =>
    let ps := xs.zipIdx.map (fun e => ((floatFmt l.fmt).value (l.weight e.2 j)).mul e.1)
    let out := chainResult f w.spl.toNat (t.floatAt r j) (ps.map (·.1))
    (a.1.setFloat r j out.1, a.2 ||| out.2 ||| ps.foldl (fun g p => g ||| p.2) 0)) (t, 0)

/-- The entry sum of an element (02 R81). -/
def entrySum (l : List SpwEntry) (tag : OwnerTag) (tile i : Nat) : Int :=
  l.foldl (fun n e => if e.owner = tag ∧ e.tile = tile ∧ e.elem = i then (if e.neg then n - 1 else n + 1) else n) 0

/-- Drops the first entry that a predicate picks; none where it picks none. -/
def dropEntry (p : SpwEntry → Bool) : List SpwEntry → Option (List SpwEntry)
  | [] => none
  | e :: rest => if p e then some rest else (dropEntry p rest).map (e :: ·)

/-- Emits an entry; one of the opposite sign for the element annihilates with it (02 R81). -/
def emitSpill (l : List SpwEntry) (e : SpwEntry) : List SpwEntry :=
  (dropEntry (fun x => x.owner == e.owner && x.tile == e.tile && x.elem == e.elem && x.neg != e.neg) l).getD (l ++ [e])

/-- The free entries of a core's spillway (07 R242). -/
def State.spwFree (s : State) (core : Nat) : Nat := 4096 - (s.core core).spw.length

/-- The pass sums of an integer pass (02 R80), by column. -/
def passSums (l : Latch) (w : MWord) (x : List (Nat × Nat)) : List Int :=
  (List.range (extN w)).map (fun j =>
    x.zipIdx.foldl (fun n e => n + signed (formatBits l.fmt) (l.weight e.2 j) * activationInt e.1) 0)

/-- The narrow update of one element (02 R80): its new value, and the sign of the entry it emits. -/
def narrowUpdate (n s : Int) : Int × Option Bool :=
  let t := n + s
  if 2 ^ 23 ≤ t then (t - 2 ^ 24, some false)
  else if t < -(2 ^ 23) then (t + 2 ^ 24, some true)
  else (t, none)

/-- The updates of an integer pass: element, new value, entry. -/
def passUpdates (t : Tile) (r : Nat) (sums : List Int) : List (Nat × Int × Option Bool) :=
  sums.zipIdx.map (fun p => let u := narrowUpdate (t.narrow (64 * r + p.2)) p.1; (64 * r + p.2, u.1, u.2))

/-- The entries a pass needs room for: those that find no entry of the opposite sign (08 R269). -/
def roomNeeded (l : List SpwEntry) (tag : OwnerTag) (tile : Nat) (us : List (Nat × Int × Option Bool)) : Nat :=
  (us.filter (fun u => match u.2.2 with
    | some neg => !(if neg then decide (0 < entrySum l tag tile u.1) else decide (entrySum l tag tile u.1 < 0))
    | none => false)).length

/-- Commits an integer pass (02 R80, R81). -/
def State.commitInt (s : State) (c : HeadCtx) (us : List (Nat × Int × Option Bool)) : State :=
  let d := c.q.w.d.toNat
  let s := s.updAccTile c.r.core d (fun t => us.foldl (fun t u => t.setNarrow u.1 u.2.1) t)
  let put (l : List SpwEntry) (u : Nat × Int × Option Bool) : List SpwEntry :=
    match u.2.2 with
    | some neg => emitSpill l { owner := c.tag, tile := d, elem := u.1, neg := neg }
    | none => l
  s.updCore c.r.core (fun x => { x with spw := us.foldl put x.spw })

/-- No later word of a matrix queue has started: the one in the loader, which has had no effect, goes back to its place, and
gives up its demand (08 R271; assumption log, entry 24). -/
def State.unloadLater (s : State) (c : HeadCtx) : State := (s.updHead' c EngineQ.unload).releaseDemand c.r.core c.eq true

/-- SPILLWAY_FULL (08 R270, R271): the MSTEP stops before its pass and releases its demand; the trap waits for
main's next word boundary. -/
def State.spillwayFull (s : State) (c : HeadCtx) : State :=
  let pass := ((s.job? c.r).map (fun j => (j.queue c.eq).pass)).getD 0
  let s := ((s.unloadLater c).updHead' c (fun q => { q with phase := .stopped })).releaseDemand c.r.core c.eq false
  s.updJob c.r (fun j => { j with
    spwStop := some { tval := engineTval c.q.w.d.toNat pass c.q.ticket, delivered := false, drain := none } })

/-- A pass without room (08 R269-R271): ACC_OWNER against the tag of the lowest tile that other tags' entries
name; else it stalls or stops by its mode. -/
def State.noRoom (s : State) (c : HeadCtx) (w : MWord) : State :=
  let others := (s.core c.r.core).spw.filter (fun e => e.owner != c.tag)
  match leastBy (·.tile) others with
  | some e =>
    let s := s.updHead' c (fun q => { q with phase := .running })
    if s.earlierOpen c then s else (s.unloadLater c).trapHead c .accOwner [tagNeed e.owner]
  | none =>
    let trap : Bool := match w.spm.toNat with
      | 1 => false
      | 2 => true
      | _ => (s.lpbOf c.wg).spwTrap
    if trap ∧ s.earlierOpen c = false then s.spillwayFull c
    else if trap then s.setPhase c .running
    else s.updHead' c (fun q => { q with phase := match q.phase with
      | .stalled n => .stalled n
      | _ => .stalled 0 })

/-- The pass of an MSTEP is done: the next one follows. -/
def State.passDone (s : State) (c : HeadCtx) (f : BitVec 6) : State :=
  s.updHead' c (fun q => { q with phase := .running, pass := q.pass + 1, sticky := q.sticky ||| f })

/-- Tries the next pass of an MSTEP: whether it committed (08 R268, R269). A vector that reaches SCRATCH or beyond traps at
its own pass, with the passes before it committed: the spec does not say whether it traps at the word's start (assumption
log, entry 63). -/
def State.tryPass (s : State) (c : HeadCtx) : Bool × State :=
  let w := c.q.w
  let d := w.d.toNat
  match s.job? c.r, (c.job.slots[w.c.toNat]?).join with
  | some j, some l =>
    let r := j.matrixQ.pass
    let v := w.a.toNat + r * w.astr.toNat
    let parts := vectorParts w v
    if !inScratch (s.lpbOf c.wg).scratch parts then (false, s.trapHead c .protection [])
    else if c.wg.poisonedIn parts then (false, s.trapHead c .poison [])
    else if c.wg.emptyIn parts then (false, s.updHead' c (fun q => { q with phase := .running }))
    else
      let x := readVector c.wg w v
      let t := s.accTile c.r.core d
      if intActivation w.fmt.toNat then
        let us := passUpdates t r (passSums l w x)
        if roomNeeded (s.core c.r.core).spw c.tag d us ≤ s.spwFree c.r.core then (true, (s.commitInt c us).passDone c 0)
        else (false, s.noRoom c w)
      else
        let out := floatPass l w t r x
        (true, (s.updAccTile c.r.core d (fun _ => out.1)).passDone c out.2)
  | _, _ => (false, s)

/-- A word's context as it stands now, with its races. -/
def State.refresh (s : State) (c : HeadCtx) : HeadCtx × State :=
  match s.wg? c.r with
  | some w => s.raceView { c with wg := w, job := w.job.getD c.job }
  | none => (c, s)

/-- Runs the passes of an MSTEP that remain, up to one that must wait; `fuel` bounds them. -/
def State.runPasses (s : State) (c : HeadCtx) : Nat → State
  | 0 => s
  | fuel + 1 =>
    let done := decide (extP c.q.w ≤ ((s.job? c.r).map (fun j => j.matrixQ.pass)).getD 0)
    if done then s.wordDone c 0
    else
      let x := s.refresh c
      match x.2.tryPass x.1 with
      | (true, s) => s.runPasses c fuel
      | (false, s) => s

/-- MSTEP (08 R267-R269): its first pass into an EMPTY tile sets the kind; the passes take effect in order. -/
def execMStep (w : MWord) (s : State) : Res :=
  engineWord 2 w s (fun c s =>
    let s := s.beginWord c
    let kind := (((c.job.slots[w.c.toNat]?).join).bind (fun l => chainOf l.fmt w.fmt.toNat)).getD .empty
    let s := s.updAccTile c.r.core w.d.toNat (fun t => if t.kind = .empty then { t with kind := kind, elems := [] } else t)
    s.runPasses c 65)

/-- PASS_COMMIT (08 R268, R269): an MSTEP that waits for room or for an operand line tries its pass again; under a save it
has stopped at this pass's boundary (16 R402). -/
def execEvPassCommit (core : Nat) (s : State) : Res :=
  match s.headWord? core .matrix with
  | none => .next s
  | some c =>
    let waits := match c.job.matrixQ.phase with
      | .running | .stalled _ => true
      | _ => false
    if c.q.opx = 2 ∧ waits = true ∧ c.job.matrixQ.trapped = false ∧ c.wg.saving = false then
      .next (s.runPasses c 65)
    else .next s

/-- Whether a tck counts towards R270: the drain queue holds no MDRAIN or MFOLD able to start, and no nest of
the job has one still to hand over. -/
def State.stallCounts (s : State) (r : WgRef) (j : Job) : Bool := j.nest.isNone && !s.mayBegin r j .drain

/-- The counts of R270 of a tile's jobs after `n` tck. -/
def State.countStalls (s : State) (tile n : Nat) : State :=
  (s.allWgs.filter (fun p => tileOf p.1.core == tile)).foldl (fun s p =>
    s.updJob p.1 (fun j => j.updQueue .matrix (fun q => { q with phase := match q.phase with
      | .stalled k => .stalled (if s.stallCounts p.1 j then k + n else 0)
      | x => x }))) s

/-- SPILLWAY_STALL_EXPIRY (08 R270): a STALL-mode wait that has counted 4,096 tck ends in SPILLWAY_FULL. -/
def execEvSpillwayStallExpiry (core : Nat) (s : State) : Res :=
  match s.headWord? core .matrix with
  | none => .next s
  | some c =>
    match c.job.matrixQ.phase with
    | .stalled n => if 4096 ≤ n ∧ s.earlierOpen c = false then .next (s.spillwayFull c) else .next s
    | _ => .next s

/-! ## MDRAIN, MFOLD, MCLR, MFILL, MNOP (08 R272-R275; 02 R82, R83) -/

/-- Frees the entries of an element. -/
def freeEntries (l : List SpwEntry) (tag : OwnerTag) (tile i : Nat) : List SpwEntry :=
  l.filter (fun e => !(e.owner == tag && e.tile == tile && e.elem == i))

/-- The wide value of an element bounded to its range, and SA where it was outside (02 R82). -/
def wideValue (n e f : Int) : Int × BitVec 6 := clampInt (-(2 ^ 47)) (2 ^ 47 - 1) (n + 2 ^ 24 * (e + f))

/-- Writes element `j` of a plain row (02 R59); the other half of a byte of 4-bit elements stays. -/
def Workgroup.writePlain (g : Workgroup) (fmt row j v : Nat) : Workgroup :=
  if formatBits fmt = 4 then
    let old := ((g.readScratch (row + j / 2) 1).head?.getD 0).toNat
    let new := if j % 2 = 0 then old / 16 * 16 + v % 16 else old % 16 + 16 * (v % 16)
    g.writeScratch (row + j / 2) [BitVec.ofNat 8 new]
  else g.writeScratch (row + j * (formatBits fmt / 8)) (toBytes (formatBits fmt / 8) v)

/-- A fold word as the drain unit reads it: an unspecified value where a wave has stored to it since (08 R279). -/
def State.foldWord (s : State) (c : HeadCtx) (off : Nat) : Int × State :=
  if byteRangesMeet c.q.raced [(off, 4)] then let f := s.free; (signed 32 (f.1.toNat % 2 ^ 32), f.2)
  else (signed 32 (ofBytes (((s.wg? c.r).getD c.wg).readScratch off 4)), s)

/-- Drains one element: it is converted, written and cleared (08 R272). -/
def State.drainElem (s : State) (c : HeadCtx) (w : MWord) (r j : Nat) : BitVec 6 × State :=
  let d := w.d.toNat
  let t := s.accTile c.r.core d
  let i := 64 * r + j
  let row := w.b.toNat + r * w.astr.toNat
  let dt := (tcodeOf w.dfmt.toNat).getD .s4
  if t.kind = .int then
    let fold : Int × State := match t.fold with
      | some b => s.foldWord c (b + 4 * i)
      | none => (0, s)
    let s := fold.2
    let wide := wideValue (t.narrow i) (entrySum (s.core c.r.core).spw c.tag d i) fold.1
    let q := cvtVal dt w.drnd w.dsat (.int wide.1)
    let s := s.updAccTile c.r.core d (fun t => t.setElem i 0)
    let s := s.updCore c.r.core (fun x => { x with spw := freeEntries x.spw c.tag d i })
    (wide.2 ||| q.2, s.updWg c.r (fun g =>
      let g := match t.fold with
        | some b => g.writeScratch (b + 4 * i) (toBytes 4 0)
        | none => g
      g.writePlain w.dfmt.toNat row j q.1))
  else
    let v := if t.kind = .fp64 then f64.value (t.floatAt r j) else f32.value (t.floatAt r j)
    let q := cvtVal dt w.drnd w.dsat (.flt v)
    (q.2, (s.updAccTile c.r.core d (fun t => t.setFloat r j 0)).updWg c.r (fun g => g.writePlain w.dfmt.toNat row j q.1))

/-- MDRAIN (08 R272). -/
def execMDrain (w : MWord) (s : State) : Res :=
  engineWord 3 w s (fun c s =>
    let cells := (List.range (extP w)).flatMap (fun r => (List.range (extN w)).map (fun j => (r, j)))
    let out := cells.foldl (fun (a : BitVec 6 × State) p =>
      let x := a.2.drainElem c w p.1 p.2
      (a.1 ||| x.1, x.2)) (0, s.beginWord c)
    out.2.wordDone c out.1)

/-- Folds one element's entry sum into its fold word, saturating to s32 (02 R83); a word whose sum is 0 is written as it is
read. The read does not wait for a line that a
copy leaves empty: the spec states that wait for matrix operand fetches alone (07 R241; assumption log, entry 63). -/
def State.foldElem (s : State) (c : HeadCtx) (base d i : Nat) : BitVec 6 × State :=
  let e := entrySum (s.core c.r.core).spw c.tag d i
  let old := s.foldWord c (base + 4 * i)
  let new := clampInt (-(2 ^ 31)) (2 ^ 31 - 1) (old.1 + e)
  (new.2, old.2.updWg c.r (fun g => g.writeScratch (base + 4 * i) (toBytes 4 (wrap 32 new.1))))

/-- The elements of a tile that have entries of a tag, once for each entry. -/
def entryElems (l : List SpwEntry) (tag : OwnerTag) (tile : Nat) : List Nat :=
  (l.filter (fun e => e.owner == tag && e.tile == tile)).map (·.elem)

/-- The elements whose fold words a wave has stored to since the word was accepted (08 R279). -/
def racedElems (l : List (Nat × Nat)) (base : Nat) : List Nat :=
  l.flatMap (fun p => (List.range p.2).filterMap (fun k =>
    if base ≤ p.1 + k ∧ p.1 + k < base + 16384 then some ((p.1 + k - base) / 4) else none))

/-- MFOLD (08 R273; 02 R83): the fold words take the entry sums, the entries are freed, the tile is bound. -/
def execMFold (w : MWord) (s : State) : Res :=
  engineWord 4 w s (fun c s =>
    let d := w.d.toNat
    let b := w.b.toNat
    let s := s.beginWord c
    let out := ((entryElems (s.core c.r.core).spw c.tag d ++ racedElems c.q.raced b).eraseDups).foldl (fun (a : BitVec 6 × State) i =>
      let x := a.2.foldElem c b d i
      (a.1 ||| x.1, x.2)) (0, s)
    let s := out.2.updCore c.r.core (fun x => { x with spw := x.spw.filter (fun e => !(e.owner == c.tag && e.tile == d)) })
    (s.updAccTile c.r.core d (fun t => { t with fold := some b })).wordDone c out.1)

/-- MCLR (08 R274). -/
def execMClr (w : MWord) (s : State) : Res :=
  engineWord 5 w s (fun c s =>
    let d := w.d.toNat
    let s := s.beginWord c
    let s := s.updCore c.r.core (fun x => { x with spw := x.spw.filter (fun e => !(e.owner == c.tag && e.tile == d)) })
    (s.updAccTile c.r.core d (fun t => { t with kind := .empty, elems := [], fold := none })).wordDone c 0)

/-- MFILL (08 R275): it occupies the array and changes nothing. -/
def execMFill (w : MWord) (s : State) : Res := engineWord 6 w s (fun c s => (s.beginWord c).wordDone c 0)

/-- MNOP (08 R275). -/
def execMNop (w : MWord) (s : State) : Res := engineWord 0 w s (fun c s => (s.beginWord c).wordDone c 0)

/-! ## Completion (07 R240; 08 R261; 02 R78; 16 R403) -/

/-- Takes one word off its ticket. -/
def Job.finishWord (j : Job) (ticket : Nat) : Job :=
  { j with open_ := j.open_.map (fun p => if p.1 = ticket then (p.1, p.2 - 1) else p) }

/-- Closes the tickets that owe no word and whose nest, if any, has ended, and makes the pushes that wait on
them (07 R225, R240). -/
def Job.closeTickets (j : Job) : Job :=
  let closed (p : Nat × Nat) : Bool := p.2 == 0 && j.nest.all (fun n => n.ticket != p.1)
  let done := j.open_.filter closed
  { (j.completePushes (fun p => match p with
      | .ticket n => done.any (fun x => x.1 == n)
      | _ => false)) with open_ := j.open_.filter (fun p => !closed p) }

/-- The stop for SPILLWAY_FULL after a drain word of a ticket has completed: its return (16 R403). -/
def Job.spwReturn (j : Job) (q : QueueWord) : Job :=
  match j.spwStop with
  | some x =>
    if x.drain = some q.ticket ∧ q.nest = false then
      { j with spwStop := none, matrixQ := { j.matrixQ with phase := .waiting } }
    else j
  | none => j

/-- Where a finished word that completes stands. -/
inductive DoneAt where | behind (k : Nat) | loader | head
  deriving DecidableEq, Repr

/-- Whether a finished word may complete: an MNOP completes in order (08 R275), and a WLOAD behind an MSTEP of the integer chain
not before that MSTEP can no longer stop for spillway room, since it would have started then (08 R271; assumption log, entry
24), but under a save, which completes it (16 R402). -/
def EngineQ.mayEnd (q : EngineQ) (saving : Bool) (x : QueueWord) : Bool :=
  (x.opx != 0 || q.open_.all (fun y => !y.before x))
    && (x.opx != 1 || saving || q.phase == .finished || !q.begun
      || !(q.words.head?.any (fun h => h.opx == 2 && intActivation h.w.fmt.toNat && h.before x)))

/-- The finished word of a queue that completes next: one behind which another has started, else the loader's or the
head's, once its occupancy has ended (08 R276). -/
def State.doneAt (s : State) (core : Nat) (eq : EngineQueue) (saving : Bool) (q : EngineQ) : Option DoneAt :=
  match findIx (fun x => q.mayEnd saving x.1) q.finishing with
  | some k => some (.behind k)
  | none =>
    if q.loader.any (fun l => l.phase == .finished && q.mayEnd saving l.q) && s.unitFree core eq true then some .loader
    else if q.phase == .finished && q.words.head?.any (q.mayEnd saving) && s.unitFree core eq false then some .head
    else none

/-- The word that stands there, with its flags. -/
def EngineQ.doneWord (q : EngineQ) : DoneAt → Option (QueueWord × BitVec 6)
  | .behind k => q.finishing[k]?
  | .loader => q.loader.map (fun l => (l.q, 0))
  | .head => q.words.head?.map (fun w => (w, q.sticky))

/-- A queue without it. -/
def EngineQ.withoutDone (q : EngineQ) : DoneAt → EngineQ
  | .behind k => { q with finishing := q.finishing.eraseIdx k }
  | .loader => { q with loader := none }
  | .head => { q with words := q.words.drop 1, phase := .waiting, begun := false, pass := 0, sticky := 0 }

/-- A WLOAD replaces the latch of its slot at its completion (08 R265). -/
def Job.takeLatch (j : Job) (d : DoneAt) : Job :=
  match d, j.matrixQ.loader with
  | .loader, some l => { j with slots := setAt j.slots l.q.w.c.toNat l.latch }
  | _, _ => j

/-- A job after a finished word of a queue has completed. -/
def Job.popWord (j : Job) (eq : EngineQueue) (d : DoneAt) (q : QueueWord) : Job :=
  ((((j.takeLatch d).updQueue eq (fun x => x.withoutDone d)).finishWord q.ticket).closeTickets).spwReturn q

/-- MATRIX_WORD_COMPLETION (07 R240; 02 R78): a finished word's flags are merged, its demand ends, its ticket completes
with its last word. -/
def execEvMatrixWordCompletion (core : Nat) (eq : EngineQueue) (s : State) : Res :=
  match s.engineJob? core with
  | none => .next s
  | some (r, j) =>
    match (s.doneAt core eq ((s.wg? r).any (·.saving)) (j.queue eq)).bind (fun d => ((j.queue eq).doneWord d).map (fun x => (d, x))) with
    | none => .next s
    | some (d, x) =>
      let s := s.raise r x.2
      let s := match d with
        | .behind _ => s
        | d => s.releaseDemand core eq (d == DoneAt.loader)
      .next ((s.updJob r (fun j => j.popWord eq d x.1)).tryComplete r)

/-! ## Loop nests (08 R280-R285) -/

/-- Bytes of a table as a number. -/
def tableField (t : List Byte) (off n : Nat) : Nat := ofBytes ((t.drop off).take n)

/-- LEVELS of a table. -/
def nestLevels (t : List Byte) : Nat := bits (tableField t 0 8) 0 3
/-- DI of a table. -/
def nestDi (t : List Byte) : Nat := bits (tableField t 0 8) 16 6
/-- A template word: 0 WLOAD, 1 MSTEP, 2 MDRAIN, 3 MFOLD. -/
def nestTemplate (t : List Byte) (i : Nat) : Nat := tableField t (8 + 24 * i) 24

/-- A level record (08 R281). -/
structure NestLevel where
  count : Nat
  kind  : Nat
  wstr  : Int
  astr  : Int
  ostr  : Int
  deriving DecidableEq, Repr

/-- Level `l` of a table. -/
def nestLevel (t : List Byte) (l : Nat) : NestLevel :=
  let x := tableField t (0x68 + 16 * l) 16
  { count := bits x 0 16, kind := bits x 16 2, wstr := signed 32 (bits x 32 32), astr := signed 32 (bits x 64 32),
    ostr := signed 32 (bits x 96 32) }

/-- The levels in use. -/
def nestLevelsOf (t : List Byte) : List NestLevel := (List.range (nestLevels t)).map (nestLevel t)

/-- The reserved bits of a matrix word (03 R107). -/
def matrixReserved (x : Nat) : Bool := bits x 128 10 != 0 || bits x 64 4 != 0 || bits x 0 44 != 0

/-- Whether a template carries an operation and passes the checks at MW issue (08 R262, R282). -/
def templateOk (scratch opx x : Nat) : Bool :=
  let w := decodeMatrixFields x
  bits x 188 4 == opx && !matrixReserved x && matrixOk opx w && !offsetBeyond scratch opx w

/-- Whether a loop-nest table is valid (08 R280-R282). -/
def nestOk (scratch : Nat) (t : List Byte) : Bool :=
  let nctl := tableField t 0 8
  let ls := (List.range 6).map (nestLevel t)
  let kinds := (ls.map (·.kind)).filter (fun k => k != 0)
  let di := nestDi t
  let fold := nestTemplate t 3
  let step := decodeMatrixFields (nestTemplate t 1)
  bits nctl 3 13 == 0 && bits nctl 22 42 == 0 && decide (1 ≤ nestLevels t) && decide (nestLevels t ≤ 6) && decide (di ≤ 32)
    && (List.range 6).all (fun l =>
      let x := tableField t (0x68 + 16 * l) 16
      if l < nestLevels t then bits x 18 14 == 0 && bits x 0 16 != 0 && bits x 16 2 != 3 else x == 0)
    && decide kinds.Nodup
    && templateOk scratch 1 (nestTemplate t 0) && templateOk scratch 2 (nestTemplate t 1) && templateOk scratch 3 (nestTemplate t 2)
    && (di == 0 || intActivation step.fmt.toNat)
    && (if di = 0 then fold == 0 else bits fold 188 4 == 4 && !matrixReserved fold)
    && (decodeMatrixFields (nestTemplate t 2)).d == 0 && (decodeMatrixFields fold).d == 0 && !step.c

/-- G and g of a level (08 R284): the iterations i with i mod G = g are the job's. -/
def nestShare (l : Lpb) (wgl : Nat) (v : NestLevel) : Nat × Nat :=
  match v.kind with
  | 1 => (l.gang, wgl % l.gang)
  | 2 => (l.gridX * l.gridY * l.gridZ / l.gang, wgl / l.gang)
  | _ => (1, 0)

/-- The first index of each level, where the share is not empty (08 R284). -/
def nestStart (l : Lpb) (wgl : Nat) (vs : List NestLevel) : Option (List Nat) :=
  let g := vs.map (fun v => (v, (nestShare l wgl v).2))
  if g.all (fun p => decide (p.2 < p.1.count)) then some (g.map (·.2)) else none

/-- The next point, level 0 fastest; none after the last. -/
def nestNext (l : Lpb) (wgl : Nat) : List NestLevel → List Nat → Option (List Nat)
  | v :: vs, i :: is =>
    let h := nestShare l wgl v
    if i + h.1 < v.count then some ((i + h.1) :: is)
    else (nestNext l wgl vs is).map (h.2 :: ·)
  | _, _ => none

/-- The offset a point gives with one stride of each level (08 R283). -/
def nestOffset (f : NestLevel → Int) (vs : List NestLevel) (p : List Nat) : Int :=
  (vs.zip p).foldl (fun a x => a + (x.2 : Int) * f x.1) 0

/-- A nest at its start (08 R283). -/
def nestRunAt (t : List Byte) (ticket : Nat) (point : List Nat) : NestRun :=
  { table := t, ticket := ticket, stage := .clear0, point := point,
    tile := (decodeMatrixFields (nestTemplate t 1)).d.toNat, slot := (decodeMatrixFields (nestTemplate t 0)).c.toNat,
    lastw := none, cur := none, run := 0 }

/-- A word a nest generates: operation, fields, and whether an offset leaves its field. -/
structure NestWord where
  opx  : Nat
  w    : MWord
  astray : Bool
  deriving DecidableEq, Repr

/-- A generated word with tile, slot and offsets put in; the fields an operation does not use are its template's (08 R262). -/
def nestWord (opx : Nat) (w : MWord) (tile : Nat) (slot : Bool) (oa ob : Int) : NestWord :=
  let a := (w.a.toNat : Int) + oa
  let b := (w.b.toNat : Int) + ob
  { opx := opx, w := { w with d := BitVec.ofNat 3 tile, c := slot, a := BitVec.ofInt 20 a, b := BitVec.ofInt 20 b },
    astray := decide (a < 0) || decide (2 ^ 20 ≤ a) || decide (b < 0) || decide (2 ^ 20 ≤ b) }

/-- The word of zeros with a tile, for MCLR. -/
def clearWord (tile : Nat) : NestWord := nestWord 5 (decodeMatrixFields 0) tile false 0 0

/-- One stage of the expansion (08 R283): the word it issues, if any, and the nest after it; none at the end. -/
def NestRun.stageStep (n : NestRun) (l : Lpb) (wgl : Nat) : Option NestWord × Option NestRun :=
  let vs := nestLevelsOf n.table
  let ow := nestOffset (·.wstr) vs n.point
  let oa := nestOffset (·.astr) vs n.point
  let oo := nestOffset (·.ostr) vs n.point
  let tmpl (i : Nat) : MWord := decodeMatrixFields (nestTemplate n.table i)
  let other := if n.tile % 2 = 0 then n.tile + 1 else n.tile - 1
  match n.stage with
  | .clear0 => (some (clearWord n.tile), some { n with stage := .clear1 })
  | .clear1 => (some (clearWord other), some { n with stage := .drain })
  | .drain =>
    match n.cur with
    | some cur =>
      if oo ≠ cur then
        (some (nestWord 3 (tmpl 2) n.tile (tmpl 2).c 0 cur), some { n with tile := other, run := 0, cur := some oo, stage := .load })
      else (none, some { n with stage := .load })
    | none => (none, some { n with cur := some oo, stage := .load })
  | .load =>
    if n.lastw = some ow then (none, some { n with stage := .step })
    else
      let slot := if n.lastw.isSome then 1 - n.slot else n.slot
      (some (nestWord 1 (tmpl 0) 0 (slot == 1) ow 0), some { n with slot := slot, lastw := some ow, stage := .step })
  | .step =>
    (some (nestWord 2 (tmpl 1) n.tile (n.slot == 1) oa 0), some { n with run := n.run + 1, stage := .fold })
  | .fold =>
    let after (n : NestRun) : NestRun := match nestNext l wgl vs n.point with
      | some p => { n with point := p, stage := .drain }
      | none => { n with stage := .last }
    if 0 < nestDi n.table ∧ n.run = nestDi n.table then
      (some (nestWord 4 (tmpl 3) n.tile (tmpl 3).c 0 (if n.tile = (tmpl 1).d.toNat then 0 else 16384)), some (after { n with run := 0 }))
    else (none, some (after n))
  | .last => (some (nestWord 3 (tmpl 2) n.tile (tmpl 2).c 0 (n.cur.getD 0)), none)

/-- The next word of a nest and the nest after it; at most four stages pass without a word. -/
def NestRun.next (n : NestRun) (l : Lpb) (wgl : Nat) : Nat → Option (NestWord × Option NestRun)
  | 0 => none
  | fuel + 1 =>
    match n.stageStep l wgl with
    | (some w, n) => some (w, n)
    | (none, some n) => n.next l wgl fuel
    | (none, none) => none

/-- Puts a word in its queue, behind the words of its own and earlier tickets (07 R240). -/
def EngineQ.put (q : EngineQ) (x : QueueWord) : EngineQ :=
  { q with words := q.words.takeWhile (fun y => decide (y.ticket ≤ x.ticket)) ++ [x]
      ++ q.words.dropWhile (fun y => decide (y.ticket ≤ x.ticket)) }

/-- Hands a word over to its queue; its ticket owes one word more. -/
def Job.handOver (j : Job) (opx : Nat) (w : MWord) (ticket : Nat) (nest astray : Bool) : Job :=
  let x : QueueWord :=
    { opx := opx, w := w, ticket := ticket, ord := j.handed, nest := nest, astray := astray, raced := [] }
  { (j.updQueue (queueOf opx) (fun q => q.put x)) with
    handed := j.handed + 1, open_ := j.open_.map (fun p => if p.1 = ticket then (p.1, p.2 + 1) else p) }

/-- NEST_WORD_GENERATION (08 R283, R285): the running nest hands over its next word, where the word's queue does not hold
32 words, no trap of an engine is being serviced, and its workgroup is not stopping. -/
def execEvNestWordGeneration (core : Nat) (s : State) : Res :=
  match s.jobSlot core with
  | none => .next s
  | some slot =>
    match s.wg? ⟨core, slot⟩ with
    | none => .next s
    | some g =>
      match g.job with
      | none => .next s
      | some j =>
        match j.nest with
        | none => .next s
        | some n =>
          match n.next (s.lpbOf g) g.wgl 8 with
          | none => .next s
          | some (x, rest) =>
            if 32 ≤ (j.queue (queueOf x.opx)).held ∨ j.matrixQ.trapped ∨ j.drainQ.trapped ∨ g.saving then .next s
            else .next (s.updJob ⟨core, slot⟩ (fun j => { j.handOver x.opx x.w n.ticket true x.astray with nest := rest }))

end Sys2Proof.Machine
end

