-- ==== Sys2Proof/Machine/Seq.lean ====
section
/-! DEFINITION. The sequencer words (07 R222-R250): the issuing context, token rings, register waits, and a
meaning for each word; the start of a job, the return of accesses, overlay loads, and the delivery of
SPILLWAY_FULL to the job's handler (16 R403; 19 R447). -/

namespace Sys2Proof.Machine

/-! ## The issuing context -/

/-- The context that issues a sequencer word: its workgroup, its engine job, and its registers. For the trap
context the workgroup is that of the trap it services, and `job` is its job where it carries one. -/
structure SeqIssue where
  r   : WgRef
  ctx : SeqCtx
  wg  : Workgroup
  job : Job
  st  : SeqState
  /-- the word as it stands in the store, for TWORD. -/
  word : W32
  deriving DecidableEq, Repr

/-- The registers of the trap context (07 R248). -/
def TrapCtx.asSeq (t : TrapCtx) : SeqState := { SeqState.reset with g := t.g, pc := t.pc, ldgs := t.ldgs, poison := t.poison }

/-- The trap context with the registers that a word changed. -/
def TrapCtx.put (t : TrapCtx) (x : SeqState) : TrapCtx := { t with g := x.g, pc := x.pc, ldgs := x.ldgs, poison := x.poison }

/-- The context of a core that issues, where there is one: an engine job's, or the trap context. -/
def State.seqIssue? (s : State) (core : Nat) (ctx : SeqCtx) (word : W32) : Option SeqIssue :=
  match ctx with
  | .trap =>
    match (s.core core).trap.item with
    | none => none
    | some t =>
      (s.trapOwner core t).map (fun p =>
        { r := p.1, ctx := .trap, wg := p.2, job := p.2.job.getD .reset, st := (s.core core).trap.asSeq, word := word })
  | _ =>
    match s.jobSlot core with
    | none => none
    | some slot =>
      match s.wg? ⟨core, slot⟩ with
      | none => none
      | some w =>
        w.job.map (fun j => { r := ⟨core, slot⟩, ctx := ctx, wg := w, job := j, st := j.ctx ctx, word := word })

/-- Changes the registers of the issuing context. -/
def State.updSeq (s : State) (c : SeqIssue) (f : SeqState → SeqState) : State :=
  match c.ctx with
  | .trap => s.updCore c.r.core (fun k => { k with trap := k.trap.put (f k.trap.asSeq) })
  | _ => s.updJob c.r (fun j => j.updCtx c.ctx f)

/-- A register; g0 reads 0 (01 R40). -/
def SeqIssue.g (c : SeqIssue) (n : BitVec 5) : W64 := if n = 0 then 0 else (c.st.g[n.toNat]?).getD 0

/-- The sign-extended immediate of a format (07 R231). -/
def seqImm (f : SeqFmt) (w : SWord) : Int := signed f.immBits w.imm.toNat

/-! ## Tokens (07 R223-R227) -/

/-- The rings' token moves of a word: its context's upstream and downstream rings (07 R223). -/
def ringsOf (ctx : SeqCtx) : Bool × Bool :=
  match ctx with
  | .intake => (false, true)
  | .main => (true, true)
  | .outfall => (true, false)
  | .trap => (false, false)

/-- Whether the token bits of a word name only rings its context has (03 R104). -/
def tokenBitsOk (ctx : SeqCtx) (w : SWord) : Bool :=
  let r := ringsOf ctx
  ((!w.tu && !w.gu) || r.1) && ((!w.td && !w.gd) || r.2)

/-- The room on a ring direction: 16 less the tokens present and the pushes reserved (07 R224). -/
def Ring.room (r : Ring) : Nat := 16 - r.tokens - r.reserved.length
/-- Takes a token. -/
def Ring.pop (r : Ring) : Ring := { r with tokens := r.tokens - 1 }
/-- Gives a token back (07 R227). -/
def Ring.unpop (r : Ring) : Ring := { r with tokens := r.tokens + 1 }
/-- Reserves a push. -/
def Ring.push (r : Ring) (on : PushOn) : Ring := { r with reserved := r.reserved ++ [(on, false)] }

/-- The forward ring from upstream, the return ring to upstream, the forward ring downstream and the return
ring from downstream of a context. -/
def Job.upForward (j : Job) (ctx : SeqCtx) : Ring := if ctx = .outfall then j.ringOF else j.ringIF
/-- The return ring to upstream. -/
def Job.upReturn (j : Job) (ctx : SeqCtx) : Ring := if ctx = .outfall then j.ringOR else j.ringIR
/-- The forward ring downstream. -/
def Job.downForward (j : Job) (ctx : SeqCtx) : Ring := if ctx = .intake then j.ringIF else j.ringOF
/-- The return ring from downstream. -/
def Job.downReturn (j : Job) (ctx : SeqCtx) : Ring := if ctx = .intake then j.ringIR else j.ringOR

/-- Changes the forward ring from upstream. -/
def Job.updUpForward (j : Job) (ctx : SeqCtx) (f : Ring → Ring) : Job :=
  if ctx = .outfall then { j with ringOF := f j.ringOF } else { j with ringIF := f j.ringIF }
/-- Changes the return ring to upstream. -/
def Job.updUpReturn (j : Job) (ctx : SeqCtx) (f : Ring → Ring) : Job :=
  if ctx = .outfall then { j with ringOR := f j.ringOR } else { j with ringIR := f j.ringIR }
/-- Changes the forward ring downstream. -/
def Job.updDownForward (j : Job) (ctx : SeqCtx) (f : Ring → Ring) : Job :=
  if ctx = .intake then { j with ringIF := f j.ringIF } else { j with ringOF := f j.ringOF }
/-- Changes the return ring from downstream. -/
def Job.updDownReturn (j : Job) (ctx : SeqCtx) (f : Ring → Ring) : Job :=
  if ctx = .intake then { j with ringIR := f j.ringIR } else { j with ringOR := f j.ringOR }

/-- Whether a word's pops are present and its pushes have room (07 R224). -/
def tokensReady (j : Job) (ctx : SeqCtx) (w : SWord) : Bool :=
  (!w.tu || decide (0 < (j.upForward ctx).tokens)) && (!w.td || decide (0 < (j.downReturn ctx).tokens))
    && (!w.gd || decide (0 < (j.downForward ctx).room)) && (!w.gu || decide (0 < (j.upReturn ctx).room))

/-- Takes a word's pops and reserves its pushes, which its effect completes (07 R224, R225). -/
def Job.takeTokens (j : Job) (ctx : SeqCtx) (w : SWord) (on : PushOn) : Job :=
  let j := if w.tu then j.updUpForward ctx Ring.pop else j
  let j := if w.td then j.updDownReturn ctx Ring.pop else j
  let j := if w.gd then j.updDownForward ctx (fun r => r.push on) else j
  let j := if w.gu then j.updUpReturn ctx (fun r => r.push on) else j
  j.completePushes (fun p => p == .now)

/-- Gives back the pops and drops the reserved pushes of a word whose wait ends with no effect (19 R447). -/
def Job.giveBack (j : Job) (ctx : SeqCtx) (w : SWord) (on : PushOn) : Job :=
  let drop (r : Ring) : Ring := { r with reserved := r.reserved.filter (fun p => p.1 != on) }
  let j := if w.tu then j.updUpForward ctx Ring.unpop else j
  let j := if w.td then j.updDownReturn ctx Ring.unpop else j
  let j := if w.gd then j.updDownForward ctx drop else j
  if w.gu then j.updUpReturn ctx drop else j

/-! ## Issuing a word -/

/-- What a word does once it can issue. -/
inductive SeqDone where
  /-- it cannot issue yet. -/
  | stall (s : State)
  /-- it traps: kind, ACC, CODE, address, and the pages the pager must fill. -/
  | trap (k : TrapKind) (acc : BitVec 5) (code : W32) (va : W64) (needs : List Nat) (s : State)
  /-- it has issued; its pushes wait on this. -/
  | go (on : PushOn) (s : State)

/-- Who may execute a word (07 R232). -/
inductive SeqWho where | all | user | main | trap
  deriving DecidableEq, Repr

/-- The contexts that may execute an operation (07 R232). -/
def whoMay (op : Nat) : SeqWho :=
  match op with
  | 0x20 | 0x21 | 0x26 | 0x27 | 0x28 | 0x30 | 0x36 => .user
  | 0x22 | 0x23 | 0x24 | 0x25 => .main
  | 0x32 | 0x33 | 0x35 => .trap
  | _ => .all

/-- The trap of a word in a context that may not execute it (07 R232; 03 R106). -/
def whoTrap (who : SeqWho) (ctx : SeqCtx) : Option TrapKind :=
  match who, ctx with
  | .all, _ => none
  | .user, .trap => some .illegalWord
  | .user, _ => none
  | .main, .main => none
  | .main, _ => some .illegalWord
  | .trap, .trap => none
  | .trap, _ => some .priv

/-- A trap of a sequencer word (07 R227, R248). In the trap context, a PAGE_FAULT escalates the trap being
serviced, and any other kind goes to containment as one of its workgroup (assumption log, entry 9). -/
def State.seqTrap (s : State) (c : SeqIssue) (k : TrapKind) (acc : BitVec 5) (code : W32) (va : W64) (needs : List Nat) :
    State :=
  match c.ctx, (s.core c.r.core).trap.item with
  | .trap, some t => if k = .pageFault then s.escalate c.r.core t else s.containTrap c.r.core t k
  | _, _ => s.trapSeq c.r c.ctx k acc code c.st.pc va c.word needs

/-- The registers a word names, as those whose pending LDG holds it back (07 R231; assumption log, entry 30). -/
def seqRegs (f : SeqForm) (op : Nat) (w : SWord) : List Nat :=
  (if f.useD then [w.d.toNat] else []) ++ (if f.useA then [w.a.toNat] else []) ++ (if f.useB then [w.b.toNat] else [])
    ++ (if op = 0x20 then [w.a.toNat + 1, w.a.toNat + 2, w.a.toNat + 3] else [])
    ++ (if op = 0x30 ∧ w.d ≠ 0 then [w.d.toNat + 1] else [])

/-- The registers a word reads. -/
def seqSources (f : SeqForm) (op : Nat) (w : SWord) : List Nat :=
  (if f.useA then [w.a.toNat] else []) ++ (if f.useB then [w.b.toNat] else []) ++ (if op = 0x19 then [w.d.toNat] else [])
    ++ (if op = 0x20 then [w.a.toNat + 1, w.a.toNat + 2, w.a.toNat + 3] else [])

/-- Whether a word reads a register that holds poisoned data (16 R418). -/
def SeqIssue.readsPoison (c : SeqIssue) (op : Nat) (w : SWord) : Bool :=
  (seqForm op).any (fun f => (seqSources f op w).any (fun n => n != 0 && c.st.poison.contains n))

/-- The trap of a word that its context may not execute, or that names a token ring its context does not have: it comes
before anything the word waits for (07 R232; 03 R104, R106). -/
def seqRefused (op : Nat) (ctx : SeqCtx) (w : SWord) : Option TrapKind :=
  (whoTrap (whoMay op) ctx).or (if tokenBitsOk ctx w then none else some .illegalWord)

/-- Counts an issued word of a context, which ends an idle stretch for the watchdog (16 R400, R419). -/
def State.countSeq (s : State) (c : SeqIssue) : State :=
  (s.updSeq c (fun x => { x with issued := x.issued + 1 })).updWg c.r (fun g => { g with watchdog := 0 })

/-- Issues a word (07 R224, R227, R231, R232): where its context may execute it, its registers and tokens are ready, no
register it reads is poisoned (16 R418) and it does not trap, its effect is followed by its pops and its reserved
pushes. -/
def seqWord (op : Nat) (w : SWord) (s : State) (body : SeqFmt → SeqIssue → State → SeqDone) : Res :=
  match s.cur, seqForm op with
  | .seq core ctx, some f =>
    match s.seqIssue? core ctx (encodeSeqWord op f.fmt w) with
    | none => .next s
    | some c =>
      match seqRefused op ctx w with
      | some k => .next (s.seqTrap c k 0 0 0 [])
      | none =>
        if (seqRegs f op w).any (fun n => n != 0 && c.st.ldgs.any (fun l => l.reg == n)) then .next s
        else if ctx ≠ .trap ∧ tokensReady c.job ctx w = false then .next s
        else if c.readsPoison op w then .next (s.seqTrap c .poison 0 0 0 [])
        else
          match body f.fmt c s with
          | .stall s => .next s
          | .trap k acc code va needs s => .next (s.seqTrap c k acc code va needs)
          | .go on s => .next ((s.updJob c.r (fun j => if ctx = .trap then j else j.takeTokens ctx w on)).countSeq c)
  | _, _ => .next s

/-- Writes a register and moves to the next word. -/
def State.seqWrite (s : State) (c : SeqIssue) (d : BitVec 5) (v : W64) : State :=
  s.updSeq c (fun x => { x.setG d.toNat v with pc := x.pc + 4 })

/-- Moves to the next word. -/
def State.seqNext (s : State) (c : SeqIssue) : State := s.updSeq c (fun x => { x with pc := x.pc + 4 })

/-- A word that writes gd. -/
def seqResult (op : Nat) (w : SWord) (s : State) (f : W64 → W64 → W64) : Res :=
  seqWord op w s (fun _ c s => .go .now (s.seqWrite c w.d (f (c.g w.a) (c.g w.b))))

/-! ## Scalar arithmetic (07 R233) -/

/-- SEQ_ADD. -/
def execSeqAdd (w : SWord) (s : State) : Res := seqResult 0x01 w s (fun x y => x + y)
/-- SEQ_SUB. -/
def execSeqSub (w : SWord) (s : State) : Res := seqResult 0x02 w s (fun x y => x - y)
/-- SEQ_AND. -/
def execSeqAnd (w : SWord) (s : State) : Res := seqResult 0x03 w s (fun x y => x &&& y)
/-- SEQ_OR. -/
def execSeqOr (w : SWord) (s : State) : Res := seqResult 0x04 w s (fun x y => x ||| y)
/-- SEQ_XOR. -/
def execSeqXor (w : SWord) (s : State) : Res := seqResult 0x05 w s (fun x y => x ^^^ y)
/-- SEQ_SHL. -/
def execSeqShl (w : SWord) (s : State) : Res := seqResult 0x06 w s (fun x y => x <<< (y.toNat % 64))
/-- SEQ_SHR. -/
def execSeqShr (w : SWord) (s : State) : Res := seqResult 0x07 w s (fun x y => x >>> (y.toNat % 64))
/-- SEQ_SAR. -/
def execSeqSar (w : SWord) (s : State) : Res := seqResult 0x08 w s (fun x y => x.sshiftRight (y.toNat % 64))
/-- SEQ_MUL: the low 64 bits; its delay is timing. -/
def execSeqMul (w : SWord) (s : State) : Res := seqResult 0x09 w s (fun x y => x * y)
/-- SEQ_SLT. -/
def execSeqSlt (w : SWord) (s : State) : Res := seqResult 0x0A w s (fun x y => if x.toInt < y.toInt then 1 else 0)
/-- SEQ_SLTZ. -/
def execSeqSltz (w : SWord) (s : State) : Res := seqResult 0x0B w s (fun x y => if x.toNat < y.toNat then 1 else 0)
/-- SEQ_ADDI. -/
def execSeqAddi (w : SWord) (s : State) : Res :=
  seqWord 0x0C w s (fun f c s => .go .now (s.seqWrite c w.d (c.g w.a + BitVec.ofInt 64 (seqImm f w))))
/-- SEQ_LI. -/
def execSeqLi (w : SWord) (s : State) : Res :=
  seqWord 0x0D w s (fun f c s => .go .now (s.seqWrite c w.d (BitVec.ofInt 64 (seqImm f w))))
/-- SEQ_LUI. -/
def execSeqLui (w : SWord) (s : State) : Res :=
  seqWord 0x0E w s (fun f c s => .go .now (s.seqWrite c w.d (BitVec.ofInt 64 (seqImm f w * 4096))))

/-! ## Control (07 R230, R234) -/

/-- Goes to a target, with the return address in gd; a target outside the instruction store traps. -/
def seqJump (c : SeqIssue) (d : BitVec 5) (link : Bool) (target : Int) (s : State) : SeqDone :=
  if target < 0 ∨ 0x10000 ≤ target then .trap .illegalWord 0 0 0 [] s
  else .go .now (s.updSeq c (fun x =>
    let x := if link then x.setG d.toNat (BitVec.ofNat 64 (c.st.pc + 4)) else x
    { x with pc := target.toNat }))

/-- A branch. -/
def seqBranch (op : Nat) (w : SWord) (s : State) (p : W64 → W64 → Bool) : Res :=
  seqWord op w s (fun f c s =>
    if p (c.g w.a) (c.g w.b) then seqJump c 0 false ((c.st.pc : Int) + 4 * seqImm f w) s else .go .now (s.seqNext c))

/-- SEQ_BEQ. -/
def execSeqBeq (w : SWord) (s : State) : Res := seqBranch 0x10 w s (fun x y => x == y)
/-- SEQ_BNE. -/
def execSeqBne (w : SWord) (s : State) : Res := seqBranch 0x11 w s (fun x y => x != y)
/-- SEQ_BLT. -/
def execSeqBlt (w : SWord) (s : State) : Res := seqBranch 0x12 w s (fun x y => decide (x.toInt < y.toInt))
/-- SEQ_BGE. -/
def execSeqBge (w : SWord) (s : State) : Res := seqBranch 0x13 w s (fun x y => decide (y.toInt ≤ x.toInt))
/-- SEQ_J. -/
def execSeqJ (w : SWord) (s : State) : Res :=
  seqWord 0x14 w s (fun f c s => seqJump c 0 false ((c.st.pc : Int) + 4 * seqImm f w) s)
/-- SEQ_JAL. -/
def execSeqJal (w : SWord) (s : State) : Res :=
  seqWord 0x15 w s (fun f c s => seqJump c w.d true ((c.st.pc : Int) + 4 * seqImm f w) s)
/-- SEQ_JR: a target that is no store offset of a word traps ILLEGAL_WORD. -/
def execSeqJr (w : SWord) (s : State) : Res :=
  seqWord 0x16 w s (fun _ c s =>
    if (c.g w.a).toNat % 4 ≠ 0 then .trap .illegalWord 0 0 0 [] s else seqJump c w.d true (c.g w.a).toNat s)

/-! ## Memory (07 R235) -/

/-- The trap kind and needs of a failed access. Poison that the walk met, not the access, adds ACC bit 4 (16 R396;
assumption log, entry 40). -/
def seqFault (c : SeqIssue) (x : Xlat) (acc : AccKind) (va : Nat) (s : State) : SeqDone :=
  match x with
  | .wait => .stall s
  | .pageFault => .trap .pageFault (accBits acc) 0 (BitVec.ofNat 64 va) [va] s
  | .poison =>
    let walk := if (s.translate c.r.core c.wg.ctx va acc).1 = .poison then 16 else 0
    .trap .poison (accBits acc ||| walk) 0 (BitVec.ofNat 64 va) [] s
  | _ => .trap .protection (accBits acc) 0 (BitVec.ofNat 64 va) [] s

/-- An access of LDG or STG that has been handed over: its return is to come. -/
def State.seqAccess (s : State) (c : SeqIssue) (reg : Nat) (v : W64) : SeqDone :=
  .go (.ldg c.ctx c.st.nextId) (s.updSeq c (fun x =>
    { x with pc := x.pc + 4, nextId := x.nextId + 1, ldgs := x.ldgs ++ [{ id := c.st.nextId, reg := reg, value := v }] }))

/-- The 8 bytes at a translated address, beyond every L1 but for the bytes that the job's own core holds dirty: its waves may
have published those to it (14 R376). -/
def State.readDv (s : State) (core ctx d : Nat) : Nat × State :=
  match place d with
  | .regs off => s.deviceRead ctx off 8
  | .window _ _ =>
    let l := (List.range 8).map (fun i => d + i)
    (ofBytes (l.map (fun a => match place a with
      | .window k o => s.windowByte k o
      | _ => 0)), s.noteStray l (BitVec.ofNat 10 core))
  | _ => (ofBytes ((List.range 8).map (fun i => s.readAround core (d + i))), s)

/-- Writes 8 bytes at a translated address, performed at .dv. -/
def State.writeDv (s : State) (core ctx d v : Nat) : State :=
  match place d with
  | .regs off => s.deviceWrite ctx off 8 (BitVec.ofNat 64 v)
  | .window _ _ =>
    let l := (List.range 8).map (fun i => d + i)
    ((l.zip (toBytes 8 v)).foldl (fun (s : State) p =>
      match place p.1 with
      | .window k o => s.writeWindow k o p.2
      | _ => s) s).noteStray l (BitVec.ofNat 10 core)
  | _ =>
    let s := ((List.range 8).zip (toBytes 8 v)).foldl (fun s p => s.writeThrough core (d + p.1) p.2) s
    s.compareWaiters d v

/-- SEQ_LDG: the value is read when the word issues, and written when the access returns. -/
def execSeqLdg (w : SWord) (s : State) : Res :=
  seqWord 0x18 w s (fun f c s =>
    let va := (c.g w.a + BitVec.ofInt 64 (seqImm f w)).toNat
    if va % 8 ≠ 0 then seqFault c .protection .read va s
    else
      let m := s.mapAccess c.r.core c.wg.ctx va 8 .read
      match m.1.1 with
      | .ok d =>
        if s.awaitsMember c.wg d then .stall m.2
        else if (List.range 8).any (fun i => m.2.poisonedByte (d + i)) then seqFault c .poison .read va m.2
        else
          let v := m.2.readDv c.r.core c.wg.ctx d
          v.2.seqAccess c w.d.toNat (BitVec.ofNat 64 v.1)
      | x => seqFault c x .read va m.2)

/-- SEQ_STG. -/
def execSeqStg (w : SWord) (s : State) : Res :=
  seqWord 0x19 w s (fun f c s =>
    let va := (c.g w.a + BitVec.ofInt 64 (seqImm f w)).toNat
    if va % 8 ≠ 0 then seqFault c .protection .write va s
    else
      let m := s.mapAccess c.r.core c.wg.ctx va 8 .write
      match m.1.1 with
      | .ok d =>
        if s.awaitsMember c.wg d then .stall m.2
        else (m.2.writeDv c.r.core c.wg.ctx d (c.g w.d).toNat).seqAccess c 0 0
      | x => seqFault c x .write va m.2)

/-- LDG_ACCESS_RETURN (07 R225, R231, R235): the context's oldest access returns: gd is written, and the push
that waits on it is made. -/
def execEvLdgAccessReturn (core : Nat) (ctx : SeqCtx) (s : State) : Res :=
  match s.seqIssue? core ctx 0 with
  | none => .next s
  | some c =>
    match c.st.ldgs with
    | [] => .next s
    | l :: rest =>
      let s := s.updSeq c (fun x => { x.setG l.reg l.value with ldgs := rest })
      .next (if ctx = .trap then s else s.updJob c.r (fun j => j.completePushes (fun p => p == .ldg ctx l.id)))

/-! ## Copies (07 R236, R237) -/

/-- SEQ_CPY: with no slot for it in the order of arrival it waits (07 R236; 18 R435). -/
def execSeqCpy (w : SWord) (s : State) : Res :=
  seqWord 0x20 w s (fun _ c s =>
    let cmd := (List.range 4).map (fun i => c.g (BitVec.ofNat 5 (w.a.toNat + i)))
    let since := c.st.copySince.getD (s.tckOf c.r.core)
    match s.copySlotFor c.r.core (arrivalKey since none) with
    | none => .stall (s.updSeq c (fun x => { x with copySince := some since }))
    | some slot =>
      if (copyCmd cmd).isNone then .trap .illegalWord 0 0 0 [] s
      else
        let n := c.st.copies + 1
        let copy := newCopy cmd (.seq c.ctx n) (if w.b = 0 then 0 else c.g w.b) c.r.core slot
        let s := (s.updWg c.r (fun g => g.accept copy)).updSeq c (fun x => { x with copies := n, copySince := none })
        .go (.copy c.ctx n) (s.seqWrite c w.d (BitVec.ofNat 64 n)))

/-- Whether a copy of a context is numbered at most `n`. -/
def copyUpTo (ctx : SeqCtx) (n : Nat) (c : Copy) : Bool :=
  match c.from_ with
  | .seq k m => k == ctx && decide (m ≤ n)
  | .ring _ => false

/-- SEQ_CPYW. -/
def execSeqCpyw (w : SWord) (s : State) : Res :=
  seqWord 0x21 w s (fun _ c s =>
    if c.wg.copies.any (copyUpTo c.ctx (c.g w.a).toNat) then .stall s else .go .now (s.seqNext c))

/-! ## Matrix words and nests (07 R238-R240) -/

/-- The offset a word names in the store, where `n` bytes at it lie in the job's part, 8-byte aligned. -/
def storeOffset (c : SeqIssue) (w : SWord) (n : Nat) : Option Nat :=
  let off := (c.g w.a + BitVec.ofInt 64 (seqImm .i w)).toNat
  if off % 8 = 0 ∧ off + n ≤ 0xE000 then some off else none

/-- Bytes of a core's instruction store. -/
def State.storeBytes (s : State) (core off n : Nat) : List Byte := cellsAt (s.core core).store off n

/-- Notes the first drain-queue word handed over after a delivery (16 R403). -/
def Job.noteDrain (j : Job) (opx ticket : Nat) : Job :=
  match j.spwStop with
  | some x => if x.delivered ∧ x.drain = none ∧ queueOf opx = .drain then { j with spwStop := some { x with drain := some ticket } } else j
  | none => j

/-- SEQ_MW. -/
def execSeqMw (w : SWord) (s : State) : Res :=
  seqWord 0x22 w s (fun _ c s =>
    match storeOffset c w 24 with
    | none => .trap .illegalWord 0 0 0 [] s
    | some off =>
      let x := ofBytes (s.storeBytes c.r.core off 24)
      let m := decodeMatrixFields x
      let opx := bits x 188 4
      if matrixReserved x ∨ matrixOk opx m = false ∨ offsetBeyond (s.lpbOf c.wg).scratch opx m then .trap .illegalWord 0 0 0 [] s
      else if 32 ≤ (c.job.queue (queueOf opx)).held then .stall s
      else
        let t := c.job.ticket + 1
        let s := s.updJob c.r (fun j =>
          ({ j with ticket := t, open_ := j.open_ ++ [(t, 0)] }.handOver opx m t false false).noteDrain opx t)
        .go (.ticket t) (s.seqWrite c w.d (BitVec.ofNat 64 t)))

/-- SEQ_NEST (07 R239; 08 R282). -/
def execSeqNest (w : SWord) (s : State) : Res :=
  seqWord 0x23 w s (fun _ c s =>
    match storeOffset c w 200 with
    | none => .trap .illegalWord 0 0 0 [] s
    | some off =>
      let t := s.storeBytes c.r.core off 200
      if nestOk (s.lpbOf c.wg).scratch t then .go .now ((s.updJob c.r (fun j => { j with shadow := t })).seqNext c)
      else .trap .illegalWord 0 0 0 [] s)

/-- SEQ_GO (07 R239; 08 R283, R284): a nest whose share is empty completes at once. -/
def execSeqGo (w : SWord) (s : State) : Res :=
  seqWord 0x24 w s (fun _ c s =>
    if c.job.nest.isSome then .stall s
    else if !nestOk (s.lpbOf c.wg).scratch c.job.shadow then .trap .illegalWord 0 0 0 [] s
    else
      let t := c.job.ticket + 1
      let start := nestStart (s.lpbOf c.wg) c.wg.wgl (nestLevelsOf c.job.shadow)
      let s := s.updJob c.r (fun j =>
        match start with
        | some p => { j with ticket := t, open_ := j.open_ ++ [(t, 0)], nest := some (nestRunAt j.shadow t p) }
        | none => { j with ticket := t })
      .go (if start.isSome then .ticket t else .now) (s.seqWrite c w.d (BitVec.ofNat 64 t)))

/-- SEQ_NWAIT. -/
def execSeqNwait (w : SWord) (s : State) : Res :=
  seqWord 0x25 w s (fun _ c s =>
    if c.job.open_.any (fun p => decide (p.1 ≤ (c.g w.a).toNat)) then .stall s else .go .now (s.seqNext c))

/-! ## Engine status, pacing, tokens (07 R242-R244) -/

/-- SEQ_SPW: OWN in bits 28:16, FREE in bits 12:0. -/
def execSeqSpw (w : SWord) (s : State) : Res :=
  seqWord 0x26 w s (fun _ c s =>
    let own := ((s.core c.r.core).spw.filter (fun e => e.owner == ⟨c.wg.ctx, c.r.slot⟩)).length
    .go .now (s.seqWrite c w.d (BitVec.ofNat 64 (own * 2 ^ 16 + s.spwFree c.r.core))))

/-- The ring state that TOK writes (07 R243); a ring the context does not have reads 0. -/
def tokValue (j : Job) (ctx : SeqCtx) : Nat :=
  let r := ringsOf ctx
  (if r.1 then (j.upReturn ctx).room * 2 ^ 24 + (j.upForward ctx).tokens else 0)
    + (if r.2 then (j.downForward ctx).room * 2 ^ 16 + (j.downReturn ctx).tokens * 2 ^ 8 else 0)

/-- SEQ_TOK. -/
def execSeqTok (w : SWord) (s : State) : Res :=
  seqWord 0x27 w s (fun _ c s => .go .now (s.seqWrite c w.d (BitVec.ofNat 64 (tokValue c.job c.ctx))))

/-- SEQ_PACE. -/
def execSeqPace (w : SWord) (s : State) : Res :=
  seqWord 0x28 w s (fun _ c s =>
    if 3 ≤ w.imm.toNat then .trap .illegalWord 0 0 0 [] s
    else .go .now ((s.updJob c.r (fun j => { j with pace := setAt j.pace w.imm.toNat (min 65535 (c.g w.a).toNat) })).seqNext c))

/-! ## Rendezvous, overlays, halting (07 R245-R247) -/

/-- SEQ_RDV: the context arrives and waits. -/
def execSeqRdv (w : SWord) (s : State) : Res :=
  seqWord 0x30 w s (fun _ c s =>
    .go (.rdv c.ctx c.st.rdvs) (s.updSeq c (fun x => { x with pc := x.pc + 4, rdv := some w })))

/-- The first page of a range of addresses that does not translate, by its first byte in the range. -/
def State.badPage (s : State) (core ctx va n : Nat) : Nat :=
  ((pagesOf va n).find? (fun p => match (s.translate core ctx p .read).1 with
    | .ok _ => false
    | _ => true)).getD va

/-- Reads an overlay (07 R246): its bytes, or the fault with its address. -/
def State.readOverlay (s : State) (core : Nat) (g : Workgroup) (va : Nat) : (Xlat × Nat × List Byte) × State :=
  let ctx := g.ctx
  let h := s.readVia core g va 8
  match h.1.1 with
  | .ok _ =>
    let x := ofBytes h.1.2
    let len := bits x 0 32
    if bits x 32 32 ≠ 0 ∨ len % 8 ≠ 0 ∨ len = 0 ∨ 0x10000 < len then ((.protection, va, []), h.2)
    else
      let b := h.2.readVia core g (va + 8) len
      match b.1.1 with
      | .ok _ => ((.ok 0, va, b.1.2), b.2)
      | x => ((x, b.2.badPage core ctx (va + 8) len, []), b.2)
  | x => ((x, h.2.badPage core ctx va 8, []), h.2)

/-- SEQ_OVL: in a user context the load is in progress until OVL_LOAD_COMPLETE; one load runs at a time. The
trap context's load is done at once (assumption log, entry 9). That a fault of the overlay's body stands before an overlay that
reaches beyond the store is the model's choice (assumption log, entry 63). -/
def execSeqOvl (w : SWord) (s : State) : Res :=
  seqWord 0x31 w s (fun _ c s =>
    let va := (c.g w.a).toNat
    let blk := w.imm.toNat
    if c.job.ovl.isSome then .stall s
    else if c.ctx ≠ .trap ∧ 223 < blk then seqFault c .protection .read va s
    else
      let o := s.readOverlay c.r.core c.wg va
      match o.1.1 with
      | .ok _ =>
        let limit := if c.ctx = .trap then 0x10000 else 0xE000
        if limit < 256 * blk + o.1.2.2.length then seqFault c .protection .read va o.2
        else if c.ctx = .trap then
          .go .now ((o.2.updCore c.r.core (fun k => { k with store := cellsPut k.store (256 * blk) o.1.2.2 })).seqNext c)
        else
          .go .now ((o.2.updJob c.r (fun j =>
            { j with ovl := some { ctx := c.ctx, at_ := 256 * blk, bytes := o.1.2.2 } })).seqNext c)
      | x => seqFault c x .read o.1.2.1 o.2)

/-- OVL_LOAD_COMPLETE (07 R246): the overlay stands in the store, and its context goes on. -/
def execEvOvlLoadComplete (core : Nat) (s : State) : Res :=
  match s.jobSlot core with
  | none => .next s
  | some slot =>
    match (s.job? ⟨core, slot⟩).bind (·.ovl) with
    | none => .next s
    | some o =>
      .next ((s.updCore core (fun c => { c with store := cellsPut c.store o.at_ o.bytes })).updJob ⟨core, slot⟩
        (fun j => { j with ovl := none }))

/-! ## The trap context (07 R248-R250) -/

/-- TCTX of a trap (07 R249); the code of a wave's trap, and of a restore's, is not stated: a free value. -/
def State.tctx (s : State) (t : TrapItem) : W64 × State :=
  match t.who with
  | .seq _ .intake => (0, s)
  | .seq _ .main => (1, s)
  | .seq _ _ => (2, s)
  | .engine _ _ => (3, s)
  | .copy _ n | .detached n => (BitVec.ofNat 64 (3 + n * 2 ^ 8), s)
  | .wave _ _ | .restore _ => let f := s.free; (f.1 &&& 3, f.2)

/-- A trap control register read (07 R249); none for a number not in its table. -/
def State.readCr (s : State) (c : SeqIssue) (t : TrapItem) (n : Nat) : Option (W64 × State) :=
  match n with
  | 0x000 => some (BitVec.ofNat 64 ((t.record.kind.map TrapKind.code).getD 0), s)
  | 0x001 => some (s.tctx t)
  | 0x002 => some ((s.core c.r.core).trap.tepc, s)
  | 0x003 => some (t.tval, s)
  | 0x004 => some (t.word, s)
  | 0x005 => some (Config.ownerTag c.wg.ctx c.wg.slot, s)
  | 0x006 => some ((s.core c.r.core).trap.tscr0, s)
  | 0x007 => some ((s.core c.r.core).trap.tscr1, s)
  | n => if 8 ≤ n ∧ n < 24 then some (BitVec.ofNat 64 (ofBytes (((s.core c.r.core).trap.rec_.bytes.drop (8 * (n - 8))).take 8)), s) else none

/-- SEQ_MFC. -/
def execSeqMfc (w : SWord) (s : State) : Res :=
  seqWord 0x32 w s (fun _ c s =>
    match (s.core c.r.core).trap.item with
    | none => .stall s
    | some t =>
      match s.readCr c t w.imm.toNat with
      | some v => .go .now (v.2.seqWrite c w.d v.1)
      | none => .trap .illegalWord 0 0 0 [] s)

/-- Changes the trap context of a core. -/
def State.updTrap (s : State) (core : Nat) (f : TrapCtx → TrapCtx) : State := s.updCore core (fun k => { k with trap := f k.trap })

/-- Changes the job of the trap that a core's trap context services. -/
def State.updServed (s : State) (core : Nat) (f : Job → Job) : State :=
  match (s.core core).trap.item with
  | some t => s.updTrapJob core t f
  | none => s

/-- SEQ_MTC: TEPC, TSCR0 and TSCR1 may be written; the job keeps the last two across its trap entries. -/
def execSeqMtc (w : SWord) (s : State) : Res :=
  seqWord 0x33 w s (fun _ c s =>
    let v := c.g w.a
    let core := c.r.core
    match w.imm.toNat with
    | 0x002 => .go .now ((s.updTrap core (fun k => { k with tepc := v })).seqNext c)
    | 0x006 => .go .now (((s.updTrap core (fun k => { k with tscr0 := v })).updServed core (fun j => { j with tscr0 := v })).seqNext c)
    | 0x007 => .go .now (((s.updTrap core (fun k => { k with tscr1 := v })).updServed core (fun j => { j with tscr1 := v })).seqNext c)
    | _ => .trap .illegalWord 0 0 0 [] s)

/-- SEQ_TRAP: in a user context the word traps, its context standing at it, and the record names the word after it, where a stop
resumes; in the trap context the trap being serviced escalates (07 R250; 16 R396, R406). -/
def execSeqTrap (w : SWord) (s : State) : Res :=
  seqWord 0x34 w s (fun _ c s =>
    match c.ctx, (s.core c.r.core).trap.item with
    | .trap, some t => .stall (s.escalate c.r.core t)
    | _, _ =>
      .stall (s.trapSeq c.r c.ctx .trap 0 (BitVec.ofNat 32 w.imm.toNat) (c.st.pc + 4) 0 c.word []))

/-- SEQ_ERET: the trapped context resumes at TEPC (07 R250). -/
def execSeqEret (w : SWord) (s : State) : Res :=
  seqWord 0x35 w s (fun _ c s =>
    match (s.core c.r.core).trap.item with
    | none => .stall s
    | some t =>
      let tepc := (s.core c.r.core).trap.tepc.toNat
      let s := match t.who with
        | .seq slot k => s.updJob ⟨c.r.core, slot⟩ (fun j => j.updCtx k (fun x => { x with pc := tepc }))
        | _ => s
      .stall (s.leaveTrap c.r.core))

/-- SEQ_HALT: its context stops; the job may end with it (07 R247). -/
def execSeqHalt (w : SWord) (s : State) : Res :=
  match seqWord 0x36 w s (fun _ c s =>
      .go .now ((s.updSeq c (fun x => { x with halted := true })).seqNext c)) with
  | .next t =>
    match t.cur with
    | .seq core _ =>
      match t.jobSlot core with
      | some slot => .next (t.tryComplete ⟨core, slot⟩)
      | none => .next t
    | _ => .next t
  | x => x

/-! ## The start of a job (07 R228, R229) -/

/-- SEQUENCER_JOB_START: the overlay loader has placed the image; the three contexts start at their entries
(07 R229; 11 R339). -/
def execEvSequencerJobStart (r : WgRef) (s : State) : Res :=
  match s.wg? r with
  | none => .next s
  | some w =>
    match w.job with
    | none => .next s
    | some j =>
      if j.started ∨ j.intake.trapped ∨ w.preempt.isSome then .next s
      else
        let img := (s.lpbOf w).seqImg.toNat
        let l := s.overlayLoad r
        if !l.1 then .next l.2
        else
          let h := l.2.readVia r.core w img 64
          let entry (off : Nat) : Nat := ofBytes ((h.1.2.drop off).take 2)
          .next (h.2.updJob r (fun j => { j with
            started := true
            intake := { j.intake with pc := entry 0x0C }
            main := { j.main with pc := entry 0x0E }
            outfall := { j.outfall with pc := entry 0x10 } }))

/-! ## The job's handler (16 R403; 19 R447) -/

/-- Main after the delivery of SPILLWAY_FULL: a word it waits in counts as unissued, and a CPY that waits for a slot has not
arrived (16 R403; 19 R447). -/
def Job.deliver (j : Job) (tval : W64) (handler : W64) : Job :=
  let j := match j.main.rdv with
    | some w => (j.giveBack .main w (.rdv .main j.main.rdvs)).updCtx .main (fun x =>
        { x with rdv := none, pc := x.pc - 4, issued := x.issued - 1 })
    | none => j
  j.updCtx .main (fun x =>
    { (((x.setG 28 6).setG 29 tval).setG 30 (BitVec.ofNat 64 x.pc)).setG 31 0 with pc := handler.toNat, copySince := none })

/-- SPILLWAY_HANDLER_DELIVERY (16 R401, R403; 19 R447): at main's next word boundary, to the handler that g31 names, with
the trap-entry record formed; a trap to containment where main has halted or none is armed. -/
def execEvSpillwayHandlerDelivery (r : WgRef) (s : State) : Res :=
  match s.wg? r with
  | none => .next s
  | some w =>
    match w.job with
    | none => .next s
    | some j =>
      match j.spwStop with
      | none => .next s
      | some x =>
        if x.delivered || w.saving || j.main.trapped || j.matrixQ.trapped || j.ovl.any (fun o => o.ctx == .main)
            || (s.core r.core).trap.item.isSome then .next s
        else
          let g31 := (j.main.g[31]?).getD 0
          let q := j.matrixQ.words.head?
          let item := s.engineItem r w.ctx .matrix .spillwayFull ((q.map (·.ticket)).getD 0) j.matrixQ.pass
            ((q.map (·.w.d.toNat)).getD 0) []
          if j.main.halted ∨ g31 = 0 ∨ g31.toNat % 4 ≠ 0 ∨ 0xE000 ≤ g31.toNat then .next (s.takeTrap r item)
          else
            let s := s.updJob r (fun j => { (j.deliver x.tval g31) with spwStop := some { x with delivered := true } })
            .next (s.updTrap r.core (fun k => { k with rec_ := s.formRecord r item.record }))

end Sys2Proof.Machine
end

