-- ==== Sys2Proof/Machine/Gate.lean ====
section
/-! DEFINITION. The headgate of a tile: demands, grants in their order, the boundaries of the ramp clock, and
filler (20 R449-R455; 08 R277). -/

namespace Sys2Proof.Machine

/-- The place of a demand in the rotated order (20 R453): cluster, core, then array, weight loader, drain
unit. -/
def Headgate.rank (g : Headgate) (d : Demand) : Nat :=
  let unit := match d.q with
    | .drain => 2
    | .matrix => if d.loader then 1 else 0
  (((d.core % 12 / 4 + 3 - g.rot % 3) % 3) * 4 + d.core % 4) * 3 + unit

/-- The first of some waiting words (20 R452): the earliest to wait, in the rotated order among those of one tck. -/
def Headgate.first (g : Headgate) (can : Demand → Bool) : Option Demand :=
  leastBy (fun d => d.since * 36 + g.rank d) (g.waiting.filter can)

/-- Whether a demand is granted (20 R452). -/
def Headgate.grants (g : Headgate) (d : Demand) : Bool :=
  if g.rampAt 15 < d.need then g.load == 0 else decide (g.load + d.need ≤ g.rampAt g.pos)

/-- HEADGATE_DEMAND (20 R450, R452): the word of a queue that starts next presents its demand, every other start condition
being met; a demand to an idle headgate starts the ramp. -/
def execEvHeadgateDemand (core : Nat) (eq : EngineQueue) (s : State) : Res :=
  match s.startWord? core eq with
  | none => .next s
  | some c =>
    let need := c.job.demand c.q
    if (c.job.queue eq).nextPhase = .waiting ∧ need ≠ 0 ∧ c.wg.saving = false ∧ s.mayBegin c.r c.job eq = true
        ∧ s.unitFree core eq c.loader = true then
      let now := s.tckOf core
      let q := (c.job.queue eq).advance
      let d : Demand := { core := core, q := eq, loader := c.loader, need := need, since := now,
                          left := occupancy c.q (if c.loader then 0 else q.pass) }
      let s := s.updTile (tileOf core) (fun t => { t with gate := { t.gate with
        waiting := t.gate.waiting ++ [d]
        start := if t.gate.idle ∧ t.gate.start.isNone = true then some now else t.gate.start } })
      .next ((s.updHead' c EngineQ.advance).setPhase c .presented)
    else .next s

/-- Grants the first waiting word: its demand counts from here, and it may start (20 R452). -/
def State.grantFirst (s : State) (tile : Nat) (d : Demand) : State :=
  let s := s.updGate tile (fun g => { g with waiting := g.waiting.filter (fun x => x != d), holding := g.holding ++ [d] })
  match (if d.loader then s.loaderWord? d.core else s.headWord? d.core d.q) with
  | some c => s.setPhase c .granted
  | none => s

/-- Whether a word that waits for a grant could start with it: none does while a trap of its job's engines is serviced
(08 R262; 20 R452). -/
def State.mayGrant (s : State) (d : Demand) : Bool := (s.engineJob? d.core).any (fun p => s.mayBegin p.1 p.2 d.q)

/-- One pass over the waiting words: the first that is not granted ends it (20 R452); `fuel` bounds it. -/
def State.grantPass (s : State) (tile : Nat) : Nat → State
  | 0 => s
  | fuel + 1 =>
    match (s.tile tile).gate.first s.mayGrant with
    | none => s
    | some d => if (s.tile tile).gate.grants d then (s.grantFirst tile d).grantPass tile fuel else s

/-- The position after a boundary (20 R451). -/
def Headgate.moved (g : Headgate) : Headgate :=
  if !g.waiting.isEmpty then { g with pos := min (g.pos + 1) 15 }
  else if 1 ≤ g.pos ∧ g.load ≤ g.floorOf then { g with pos := g.pos - 1 }
  else g

/-! ## Boundaries, grants, time (20 R449-R452) -/

/-- Whether a boundary is due at a tck and has not been taken. -/
def Headgate.due (g : Headgate) (tck : Nat) : Bool := g.start.any (fun r => decide (r + 4 ≤ tck))

/-- A headgate after a boundary: four tck after the last one, the position moves; the clock stops once it is idle. -/
def Headgate.bounded (g : Headgate) (tile : Nat) : Headgate :=
  let x := g.moved
  ({ x with start := if x.idle then none else g.start.map (· + 4) } : Headgate).placed tile

/-- Takes a tile's boundary, where it is due. -/
def State.boundary (s : State) (tile : Nat) : State :=
  s.updTile tile (fun t => if t.gate.due t.tck then { t with gate := t.gate.bounded tile } else t)

/-- HEADGATE_BOUNDARY (20 R450, R451). -/
def execEvHeadgateBoundary (tile : Nat) (s : State) : Res := .next (s.boundary tile)

/-- HEADGATE_GRANT (20 R451, R452, R454): the position of a boundary of this tck is taken first; the granted words take
over their arrays, and the filler is placed anew. -/
def execEvHeadgateGrant (tile : Nat) (s : State) : Res :=
  .next (((s.boundary tile).grantPass tile 64).updGate tile id)

/-- Whether a granted word of a tile has yet to start, which it does in the tck of its grant (20 R452). -/
def State.grantOpen (s : State) (tile : Nat) : Bool :=
  (s.tile tile).gate.holding.any (fun d => (s.engineJob? d.core).any (fun p =>
    (p.2.queue d.q).holdsGrant d.loader && s.mayBegin p.1 p.2 d.q))

/-- A headgate after one tck: the filler is counted, and a word whose occupancy has ended holds no demand; `owed` are the tck
that a word still has before it (20 R449, R454; 08 R276; 22 R470). -/
def Headgate.tick (g : Headgate) (tile : Nat) (owed : Demand → Nat) : Headgate :=
  ({ g with
      fill := g.fill + BitVec.ofNat 64 g.filler
      holding := g.holding.filterMap (fun d =>
        let n := max (d.left - 1) (owed d)
        if n = 0 then none else some { d with left := n }) } : Headgate).placed tile

/-- One tck of a tile's headgate. -/
def State.tickGate (s : State) (tile : Nat) : State :=
  s.updTile tile (fun t => { t with gate := t.gate.tick tile (fun d => ((s.engineJob? d.core).map (fun p => p.2.owes d.q d.loader)).getD 0) })

/-- Whether nothing of a headgate changes as time passes: no word holds or waits for a demand, and its clock stands. -/
def Headgate.quiet (g : Headgate) : Bool := g.start.isNone && g.waiting.isEmpty && g.holding.isEmpty

end Sys2Proof.Machine
end

