-- ==== Sys2Proof/Machine/Line.lean ====
section
/-! DEFINITION. Line-core operations (09 R289-R314). An operation reads the registers its bundle saw at issue
(`LineCore.snap`) and writes the live ones; the bundle's own rules stand at its end (R292-R295, R314). -/

namespace Sys2Proof.Machine

/-! ## Registers -/

/-- Register h of a snapshot, a lane. -/
def LineSnap.hl (x : LineSnap) (n lane : Nat) : W32 := (((x.h[n]?).getD [])[lane]?).getD 0
/-- Register k of a snapshot. -/
def LineSnap.kr (x : LineSnap) (n : Nat) : W32 := (x.k[n]?).getD 0
/-- Predicate y of a snapshot; y0 reads all-ones (01 R43). -/
def LineSnap.yr (x : LineSnap) (n : Nat) : BitVec 16 := if n = 0 then 0xFFFF else (x.y[n]?).getD 0

/-- The lanes a slot works on (R289). -/
def LineSnap.act (x : LineSnap) (w : LSlot) : BitVec 16 := if w.yn then ~~~(x.yr w.y.toNat) else x.yr w.y.toNat

/-- Writes the lanes of an h register that a mask picks. -/
def LineCore.writeH (c : LineCore) (d : Nat) (mask : BitVec 16) (vals : List W32) : LineCore :=
  { c with h := modAt c.h d (fun old => old.zipIdx.map (fun p => if mask.getLsbD p.2 then (vals[p.2]?).getD 0 else p.1)) }

/-- Writes a k register. -/
def LineCore.writeK (c : LineCore) (d : Nat) (v : W32) : LineCore := { c with k := setAt c.k d v }

/-- Writes the bits of a predicate that a mask picks; a write to y0 is ignored. -/
def LineCore.writeY (c : LineCore) (d : Nat) (mask v : BitVec 16) : LineCore :=
  if d = 0 then c else { c with y := modAt c.y d (fun old => (old &&& ~~~mask) ||| (v &&& mask)) }

/-- The 13-bit immediate of a slot, signed. -/
def lineSImm (w : LSlot) : Int := (lineImm w).toInt

/-! ## Faults (R314) -/

/-- The line-buffer bytes of a line core. -/
def lineBytes : Nat := 262144

/-- Stops the line program with a fault; one is recorded unless VALID is 1 already. -/
def LineCore.fault (c : LineCore) (code : Nat) (slots : BitVec 4) : LineCore :=
  let c : LineCore :=
    if c.faultValid then c
    else { c with faultPc := c.snap.pc, faultSlots := slots, faultCode := code, faultValid := true }
  { c with stopped := true }

/-- The SLOTS bit of a slot. -/
def slotBit (w : LSlot) : BitVec 4 := 1 <<< w.slot.toNat

/-- A taken branch: a target outside the program stops it with PC_RANGE (R298, R314). -/
def LineCore.branch (c : LineCore) (w : LSlot) : LineCore :=
  let t : Int := c.snap.pc + lineSImm w
  if t < 0 ∨ (c.store.length : Int) ≤ t then c.fault 3 1 else { c with pc := t.toNat }

/-- An operation of the line core whose bundle issues. -/
def onLine (s : State) (f : Nat → LineCore → State) : Res :=
  match s.cur with
  | .line n => .next (f n (s.lineCore n))
  | _ => .next s

/-- An operation that changes its line core alone. -/
def lineOnly (s : State) (f : LineCore → LineCore) : Res := onLine s (fun n c => s.updLineCore n (fun _ => f c))

/-! ## Slot 0 (R296-R300) -/

/-- A K operation on two registers (R297). -/
def kOp (w : LSlot) (s : State) (f : W32 → W32 → W32) : Res :=
  lineOnly s (fun c => c.writeK w.d.toNat (f (c.snap.kr w.a.toNat) (c.snap.kr w.b.toNat)))

/-- KADD. -/
def execLKadd (w : LSlot) (s : State) : Res := kOp w s (fun x y => x + y)
/-- KSUB. -/
def execLKsub (w : LSlot) (s : State) : Res := kOp w s (fun x y => x - y)
/-- KMUL. -/
def execLKmul (w : LSlot) (s : State) : Res := kOp w s (fun x y => x * y)
/-- KAND. -/
def execLKand (w : LSlot) (s : State) : Res := kOp w s (fun x y => x &&& y)
/-- KOR. -/
def execLKor (w : LSlot) (s : State) : Res := kOp w s (fun x y => x ||| y)
/-- KXOR. -/
def execLKxor (w : LSlot) (s : State) : Res := kOp w s (fun x y => x ^^^ y)
/-- KSHL. -/
def execLKshl (w : LSlot) (s : State) : Res := kOp w s (fun x y => x <<< (y.toNat % 32))
/-- KSHR. -/
def execLKshr (w : LSlot) (s : State) : Res := kOp w s (fun x y => x >>> (y.toNat % 32))
/-- KSAR. -/
def execLKsar (w : LSlot) (s : State) : Res := kOp w s (fun x y => x.sshiftRight (y.toNat % 32))
/-- KSLT. -/
def execLKslt (w : LSlot) (s : State) : Res := kOp w s (fun x y => if x.slt y then 1 else 0)
/-- KADDI. -/
def execLKaddi (w : LSlot) (s : State) : Res :=
  lineOnly s (fun c => c.writeK w.d.toNat (c.snap.kr w.a.toNat + (lineImm w).signExtend 32))
/-- KLI. -/
def execLKli (w : LSlot) (s : State) : Res := lineOnly s (fun c => c.writeK w.d.toNat ((lineImm w).signExtend 32))
/-- KLUI. -/
def execLKlui (w : LSlot) (s : State) : Res :=
  lineOnly s (fun c => c.writeK w.d.toNat ((c.snap.kr w.a.toNat <<< 13) ||| (lineImm w).setWidth 32))

/-- BR. -/
def execLBr (w : LSlot) (s : State) : Res := lineOnly s (fun c => c.branch w)

/-- LOOP. -/
def execLLoop (w : LSlot) (s : State) : Res :=
  lineOnly s (fun c =>
    let v := c.snap.kr w.a.toNat - 1
    let c := c.writeK w.a.toNat v
    if v = 0 then c else c.branch w)

/-- The condition of BRC (R298). -/
def LineSnap.cond (x : LineSnap) (w : LSlot) : Bool :=
  let a := w.a.toNat
  match w.d.toNat with
  | 0 => x.kr a == 0
  | 1 => x.kr a != 0
  | 2 => (x.kr a).msb
  | 3 => !(x.kr a).msb
  | 4 => x.yr a != 0
  | 5 => x.yr a == 0xFFFF
  | _ => x.yr a == 0

/-- BRC. -/
def execLBrc (w : LSlot) (s : State) : Res := lineOnly s (fun c => if c.snap.cond w then c.branch w else c)

/-- HALT (R290): the band ends. -/
def execLHalt (w : LSlot) (s : State) : Res := let _ := w; lineOnly s (fun c => { c with band := none })

/-- The head of a line core. -/
def State.headOf (s : State) (c : LineCore) : Head := s.head (c.head.getD 0)

/-- Whether the beam has reached k[a] + imm (R299). -/
def State.beamDue (s : State) (c : LineCore) (w : LSlot) : Bool :=
  let t := c.snap.kr w.a.toNat + (lineImm w).signExtend 32
  decide (signed 32 (t - BitVec.ofNat 32 (s.headOf c).line).toNat ≤ 0)

/-- BEAM: where the beam has not reached the target it waits. -/
def execLBeam (w : LSlot) (s : State) : Res :=
  onLine s (fun n c =>
    if s.beamDue c w then s.updLineCore n (fun c => c.writeK w.d.toNat (BitVec.ofNat 32 (s.headOf c).line)) else s)

/-- Whether the pose record of line k[a] has been latched (R300). -/
def State.poseDue (s : State) (c : LineCore) (w : LSlot) : Bool :=
  let x := s.headOf c
  decide (x.unwrap (c.snap.kr w.a.toNat) < x.latchedTo)

/-- POSE: where the record has not been latched it waits. -/
def execLPose (w : LSlot) (s : State) : Res :=
  onLine s (fun n c =>
    if s.poseDue c w then
      let x := s.headOf c
      let v := ((x.recordOf (x.unwrap (c.snap.kr w.a.toNat)))[(lineImm w).toNat % 16]?).getD 0
      s.updLineCore n (fun c => c.writeK w.d.toNat v)
    else s)

/-! ## Slots 1 and 2 (R301-R306) -/

/-- The sixteen lanes. -/
def lineLanes : List Nat := List.range 16

/-- Operand b, of which bit 2 of M makes a k register. -/
def LineSnap.opB (x : LineSnap) (w : LSlot) (lane : Nat) : W32 :=
  if w.m.getLsbD 2 then x.kr w.b.toNat else x.hl w.b.toNat lane

/-- The type code of M[1:0]. -/
def lineType (w : LSlot) : Nat := w.m.toNat % 4

/-- A vector operation: a value for each lane. -/
def hOp (w : LSlot) (s : State) (f : LineSnap → Nat → W32) : Res :=
  lineOnly s (fun c => c.writeH w.d.toNat (c.snap.act w) (lineLanes.map (f c.snap)))

/-- A float or integer operation on typed lanes (R302): `ff` for a float format, `fi` for integers. -/
def typedOp (w : LSlot) (ff : Fmt → Nat → Nat → Nat → Nat) (fi : Bool → W32 → W32 → W32 → W32) (x y z : W32) : W32 :=
  match lineType w with
  | 0 => BitVec.ofNat 32 (ff f32 x.toNat y.toNat z.toNat)
  | 1 => BitVec.ofNat 32 (ff f16 (half x.toNat 0) (half y.toNat 0) (half z.toNat 0)
          + 65536 * ff f16 (half x.toNat 1) (half y.toNat 1) (half z.toNat 1))
  | t => fi (t == 2) x y z

/-- A vector operation on a, b and c. -/
def typedLine (w : LSlot) (s : State) (ff : Fmt → Nat → Nat → Nat → Nat) (fi : Bool → W32 → W32 → W32 → W32) : Res :=
  hOp w s (fun x l => typedOp w ff fi (x.hl w.a.toNat l) (x.opB w l) (x.hl w.c.toNat l))

/-- HADD. -/
def execLHadd (w : LSlot) (s : State) : Res :=
  typedLine w s (fun f x y _ => (f.add .rn false x y).1) (fun _ x y _ => x + y)
/-- HSUB. -/
def execLHsub (w : LSlot) (s : State) : Res :=
  typedLine w s (fun f x y _ => (f.sub .rn false x y).1) (fun _ x y _ => x - y)
/-- HMUL. -/
def execLHmul (w : LSlot) (s : State) : Res :=
  typedLine w s (fun f x y _ => (f.mul .rn false x y).1) (fun _ x y _ => x * y)
/-- HFMA. -/
def execLHfma (w : LSlot) (s : State) : Res :=
  typedLine w s (fun f x y z => (f.fma .rn false x y z).1) (fun _ x y z => x * y + z)

/-- Whether x is at most y, signed or unsigned. -/
def lineLe (sgn : Bool) (x y : W32) : Bool := if sgn then x.sle y else x.ule y

/-- HMIN. -/
def execLHmin (w : LSlot) (s : State) : Res :=
  typedLine w s (fun f x y _ => (f.select false x y).1) (fun g x y _ => if lineLe g x y then x else y)
/-- HMAX. -/
def execLHmax (w : LSlot) (s : State) : Res :=
  typedLine w s (fun f x y _ => (f.select true x y).1) (fun g x y _ => if lineLe g x y then y else x)

/-- A condition of HCMP on integers (R303). -/
def lineCmp (sgn : Bool) (cc : Nat) (x y : W32) : Bool :=
  match cc with
  | 0 => x == y
  | 1 => x != y
  | 2 => !lineLe sgn y x
  | 3 => lineLe sgn x y
  | 4 => !lineLe sgn x y
  | _ => lineLe sgn y x

/-- Sixteen bits, one for each lane. -/
def laneBits (f : Nat → Bool) : BitVec 16 := BitVec.ofNat 16 (lineLanes.foldl (fun n l => if f l then n + 2 ^ l else n) 0)

/-- HCMP. -/
def execLHcmp (w : LSlot) (s : State) : Res :=
  lineOnly s (fun c =>
    let x := c.snap
    let test (l : Nat) : Bool :=
      let a := x.hl w.a.toNat l
      let b := x.opB w l
      if lineType w = 0 then (f32.compare w.c.toNat a.toNat b.toNat).1 else lineCmp (lineType w == 2) w.c.toNat a b
    c.writeY w.d.toNat (x.act w) (laneBits test))

/-- HSEL. -/
def execLHsel (w : LSlot) (s : State) : Res :=
  hOp w s (fun x l => if (x.yr w.c.toNat).getLsbD l then x.hl w.a.toNat l else x.opB w l)

/-- The rounding mode in M[1:0] of HCVT. -/
def lineRnd (w : LSlot) : Rnd := rndOf (w.m.toNat % 4)

/-- HCVT's conversions (R304). -/
def lineConvert (w : LSlot) (x : W32) : W32 :=
  let sat := w.m.getLsbD 2
  let rnd := lineRnd w
  let n := x.toNat
  BitVec.ofNat 32 (match w.c.toNat with
    | 0 => wrap 32 (convFI (intLo true 32) (intHi true 32) rnd sat (f32.value n)).1
    | 1 => wrap 32 (convFI (intLo false 32) (intHi false 32) rnd sat (f32.value n)).1
    | 2 => (convIF f32 rnd sat x.toInt).1
    | 3 => (convIF f32 rnd sat n).1
    | 4 => (convFF f16 rnd sat (f32.value n)).1
    | 5 => (convFF f32 .rn false (f16.value (n % 65536))).1
    | 6 => (convFF bf16 rnd sat (f32.value n)).1
    | _ => (convFF f32 .rn false (bf16.value (n % 65536))).1)

/-- HCVT. -/
def execLHcvt (w : LSlot) (s : State) : Res := hOp w s (fun x l => lineConvert w (x.hl w.a.toNat l))

/-- HRCP (R305). -/
def execLHrcp (w : LSlot) (s : State) : Res :=
  hOp w s (fun x l => BitVec.ofNat 32 (f32.func .rcp .rn false (x.hl w.a.toNat l).toNat).1)

/-- x + w × (y − x), rounded once (R305). -/
def lerp (x y t : W32) : W32 :=
  let a := f32.value x.toNat
  let d := (FVal.add .rn (f32.value y.toNat) a.negate).1
  let p := ((f32.value t.toNat).mul d).1
  BitVec.ofNat 32 (f32.round .rn false (FVal.add .rn a p).1).1

/-- HLERP. -/
def execLHlerp (w : LSlot) (s : State) : Res :=
  hOp w s (fun x l => lerp (x.hl w.a.toNat l) (x.hl w.b.toNat l)
    (if w.m.getLsbD 2 then x.kr w.c.toNat else x.hl w.c.toNat l))

/-- The source lane of HSHUF (R306). -/
def LineSnap.shufLane (x : LineSnap) (w : LSlot) (l : Nat) : Nat :=
  let c := w.c.toNat
  match w.m.toNat with
  | 0 => (x.hl w.b.toNat l).toNat % 16
  | 1 => l ^^^ c
  | 2 => if c ≤ l then l - c else l
  | _ => if l + c < 16 then l + c else l

/-- HSHUF. -/
def execLHshuf (w : LSlot) (s : State) : Res := hOp w s (fun x l => x.hl w.a.toNat (x.shufLane w l))

/-! ## The line matrix engine (R307, R308) -/

/-- A weight of a set; an unlisted set holds +0. -/
def LineCore.weight (c : LineCore) (set i j : Nat) : Nat :=
  (((((assoc c.sets set).getD [])[i]?).getD [])[j]?).elim 0 (fun x => x.toNat)

/-- Element i of PMM's vector. -/
def LineSnap.pmmElem (x : LineSnap) (a i : Nat) : Nat := half (x.hl a (i / 2)).toNat (i % 2)

/-- One output of PMM: thirty-two rounded additions (R308). -/
def LineCore.pmmOut (c : LineCore) (w : LSlot) (j : Nat) : W32 :=
  let acc : Nat :=
    if w.m.getLsbD 2 then (c.snap.hl (w.b.toNat + j / 16) (j % 16)).toNat else 0
  BitVec.ofNat 32 ((List.range 32).foldl (fun acc i =>
    (f32.round .rn false (FVal.add .rn (f32.value acc)
      ((bf16.value (c.snap.pmmElem w.a.toNat i)).mul (bf16.value (c.weight (w.m.toNat % 4) i j))).1).1).1) acc)

/-- PMM: the line matrix engine accepts it, and its result arrives later. -/
def execLPmm (w : LSlot) (s : State) : Res :=
  onLine s (fun n c =>
    let out (k : Nat) : List W32 := lineLanes.map (fun l => c.pmmOut w (16 * k + l))
    { (s.updLineCore n (fun _ =>
        { c with results := c.results ++ [⟨[(w.d.toNat, out 0), (w.d.toNat + 1, out 1)], 0xFFFF, none⟩] })) with lineLast := n })

/-- The base of PMW. -/
def LineSnap.pmwBase (x : LineSnap) (w : LSlot) : Nat := (x.kr w.a.toNat).toNat / 64 * 64

/-- PMW. -/
def execLPmw (w : LSlot) (s : State) : Res :=
  lineOnly s (fun c =>
    let b := c.snap.pmwBase w
    if lineBytes < b + 2048 then c.fault 2 (slotBit w)
    else { c with sets := assocSet c.sets (w.m.toNat % 4) ((List.range 32).map (fun i =>
      (List.range 32).map (fun j => BitVec.ofNat 16 (ofBytes (cellsAt c.buffer (b + 64 * i + 2 * j) 2))))) })

/-! ## Slot 3 (R309-R313) -/

/-- The address of LBLD and LBST (R310). -/
def LineSnap.lbAddr (x : LineSnap) (w : LSlot) : Nat :=
  (x.kr w.a.toNat + 64 * (lineImm w).signExtend 32).toNat / 4 * 4

/-- The word of the line buffer at an offset. -/
def LineCore.lbWord (c : LineCore) (a : Nat) : W32 := BitVec.ofNat 32 (ofBytes (cellsAt c.buffer a 4))

/-- LBLD. -/
def execLLbld (w : LSlot) (s : State) : Res :=
  lineOnly s (fun c =>
    let a := c.snap.lbAddr w
    if lineBytes < a + 64 then c.fault 2 (slotBit w)
    else c.writeH w.d.toNat (c.snap.act w) (lineLanes.map (fun l => c.lbWord (a + 4 * l))))

/-- LBST. -/
def execLLbst (w : LSlot) (s : State) : Res :=
  lineOnly s (fun c =>
    let a := c.snap.lbAddr w
    if lineBytes < a + 64 then c.fault 2 (slotBit w)
    else { c with buffer := lineLanes.foldl (fun b l =>
      if (c.snap.act w).getLsbD l then cellsPut b (a + 4 * l) (toBytes 4 (c.snap.hl w.d.toNat l).toNat) else b) c.buffer })

/-- A lane's address of GATH. -/
def LineSnap.gathAddr (x : LineSnap) (w : LSlot) (l : Nat) : Nat :=
  (x.kr w.a.toNat + x.hl w.b.toNat l).toNat / 4 * 4

/-- Whether an active lane's GATH address leaves the line buffer. -/
def LineSnap.gathBad (x : LineSnap) (w : LSlot) : Bool :=
  lineLanes.any (fun l => (x.act w).getLsbD l && decide (lineBytes < x.gathAddr w l + 4))

/-- GATH. -/
def execLGath (w : LSlot) (s : State) : Res :=
  lineOnly s (fun c =>
    if c.snap.gathBad w then c.fault 2 (slotBit w)
    else c.writeH w.d.toNat (c.snap.act w) (lineLanes.map (fun l => c.lbWord (c.snap.gathAddr w l))))

/-- The planes of SAMP (R311): offset, row bytes, texel bytes, components, and whether they are f16. -/
def FrameDesc.plane (d : FrameDesc) (p : Nat) : Nat × Nat × Nat × Nat × Bool :=
  match p with
  | 0 => (d.colOff, d.colStr, 8, 4, true)
  | 1 => (d.depOff, d.depStr, 4, 1, false)
  | _ => (d.motOff, d.motStr, 4, 2, true)

/-- The registers SAMP writes. -/
def sampRegs (w : LSlot) : Nat :=
  match lineType w with
  | 0 => 4
  | 1 => 1
  | _ => 2

/-- Component `k` of a texel. -/
def State.texel (s : State) (d : FrameDesc) (p i j k : Nat) : FVal :=
  match d.plane p with
  | (off, str, size, _, halves) =>
    let b := s.readMem (presBase + off + j * str + i * size) size
    if halves then f16.value (field b (2 * k) 2) else f32.value (field b 0 4)

/-- Clamps an index to a plane. -/
def clampIx (n : Nat) (i : Int) : Nat := (max 0 (min i ((n : Int) - 1))).toNat

/-- A coordinate with an infinity taken as the edge (R312). -/
def edgeCoord (n : Nat) (v : FVal) : FVal :=
  match v with
  | .inf neg => .fin false (if neg then 0 else n) 0
  | x => x

/-- floor of a finite value. -/
def floorVal (v : FVal) : Int :=
  match v with
  | .fin neg m e => (finToInt .rd neg m e).1
  | _ => 0

/-- i0 and the weight fraction in 256ths of a coordinate (R312). -/
def splitCoord (v : FVal) : Int × Nat :=
  let x := (FVal.add .rn v (.fin true 1 (-1))).1
  let i0 := floorVal x
  let f256 := match x with
    | .fin neg m e => (finToInt .rd neg m (e + 8)).1
    | _ => 0
  (i0, (f256 - i0 * 256).toNat)

/-- The bilinear value of a component (R312). -/
def State.bilinear (s : State) (d : FrameDesc) (p k : Nat) (u v : FVal) : Nat :=
  let x := splitCoord u
  let y := splitCoord v
  let terms := [(0, 0), (1, 0), (0, 1), (1, 1)].filterMap (fun (q : Nat × Nat) =>
    let wx := if q.1 = 1 then x.2 else 256 - x.2
    let wy := if q.2 = 1 then y.2 else 256 - y.2
    if wx * wy = 0 then none
    else some ((s.texel d p (clampIx d.width (x.1 + q.1)) (clampIx d.height (y.1 + q.2)) k).mul (.fin false (wx * wy) (-16))).1)
  (f32.round .rn false (FVal.sum .rn terms).1).1

/-- A component that SAMP gives a lane (R311, R312). -/
def State.sample (s : State) (w : LSlot) (f : Option FrameDesc) (u v : W32) (k : Nat) : W32 :=
  match f with
  | none => 0
  | some d =>
    let a := f32.value u.toNat
    let b := f32.value v.toNat
    if a.isNaN || b.isNaN then BitVec.ofNat 32 f32.canonNaN
    else
      let a := edgeCoord d.width a
      let b := edgeCoord d.height b
      if w.m.getLsbD 2 then
        BitVec.ofNat 32 (f32.round .rn false (s.texel d (lineType w) (clampIx d.width (floorVal a)) (clampIx d.height (floorVal b)) k)).1
      else BitVec.ofNat 32 (s.bilinear d (lineType w) k a b)

/-- The view a line core samples: that of its band's frame (24 R489). -/
def State.viewFor (s : State) (c : LineCore) : View :=
  match c.band with
  | some b => (s.head b.head).viewOf b.frame
  | none => .reset

/-- SAMP: its result arrives later. -/
def execLSamp (w : LSlot) (s : State) : Res :=
  onLine s (fun n c =>
    let f := (s.viewFor c).slot w.c.toNat
    let regs := (List.range (sampRegs w)).map (fun k =>
      (w.d.toNat + k, lineLanes.map (fun l => s.sample w f (c.snap.hl w.a.toNat l) (c.snap.hl w.b.toNat l) k)))
    s.updLineCore n (fun c => { c with results := c.results ++ [⟨regs, c.snap.act w, none⟩] }))

/-- The pixels an EMIT writes, by column. -/
def LineSnap.pixels (x : LineSnap) (hd : Head) (w : LSlot) : List (Nat × Nat × Nat × Nat) :=
  lineLanes.filterMap (fun l =>
    let col := (x.kr w.c.toNat).toNat + l
    let code (k : Nat) : Nat := componentCode hd.maxCode (x.hl (w.a.toNat + k) l)
    if (x.act w).getLsbD l && decide (col < hd.hact + 1) then some (col, code 0, code 1, code 2) else none)

/-- EMIT (R313): its pixels set out for the scan FIFO and reach it later (24 R488, R491). L is read by signed difference
from LCNT, as BEAM and POSE read theirs: the model's choice (assumption log, entry 69). -/
def execLEmit (w : LSlot) (s : State) : Res :=
  onLine s (fun n c =>
    let hd := s.headOf c
    s.updLineCore n (fun c => { c with
      results := c.results ++ [⟨[], 0, some ⟨hd.unwrap (c.snap.kr w.b.toNat), c.snap.pixels hd w⟩⟩] }))

/-- NOP (03 R110). -/
def execLNop (w : LSlot) (s : State) : Res := let _ := w; .next s

/-! ## Results that arrive (R293) -/

/-- LINE_RESULT_ARRIVAL: result `k` of those in flight is written, or reaches the scan FIFO; the EMITs of a line core
reach it in bundle order (R313). -/
def execEvLineResultArrival (lc k : Nat) (s : State) : Res :=
  let c := s.lineCore lc
  match c.results[k]? with
  | none => .next s
  | some r =>
    if r.emit.isSome && (c.results.take k).any (fun x => x.emit.isSome) then .next s
    else
      let s := s.updLineCore lc (fun c => { (r.regs.foldl (fun c p => c.writeH p.1 r.mask p.2) c) with
        results := c.results.take k ++ c.results.drop (k + 1) })
      match c.head, r.emit with
      | some h, some e => .next (s.emitArrives h e)
      | _, _ => .next s

/-! ## Bundles (R292, R293, R295, R314) -/

/-- A register of a line core: h as its number, k from 32, y from 64. -/
abbrev LineReg := Nat

/-- The registers an operation writes. -/
def lineWrites (slot op : Nat) (w : LSlot) : List LineReg :=
  let d := w.d.toNat
  if op = 0 then []
  else match slot with
    | 0 =>
      match op with
      | 0x01 => [32 + w.a.toNat]
      | 0x02 | 0x03 | 0x04 => []
      | _ => [32 + d]
    | 3 =>
      match op with
      | 0x01 | 0x04 => [d]
      | 0x03 => (List.range (sampRegs w)).map (fun k => d + k)
      | _ => []
    | _ =>
      match op with
      | 0x07 => [64 + d]
      | 0x20 => [d, d + 1]
      | _ => [d]

/-- The h registers an operation reads; k and y registers never wait for a result that the model holds back. -/
def lineReads (slot op : Nat) (w : LSlot) : List LineReg :=
  let a := w.a.toNat
  let b := w.b.toNat
  let hb := if w.m.getLsbD 2 then [] else [b]
  match slot, op with
  | 0, _ => []
  | 3, 0x02 => [w.d.toNat]
  | 3, 0x03 => [a, b]
  | 3, 0x04 => [b]
  | 3, 0x05 => [a, a + 1, a + 2]
  | 3, _ => []
  | _, 0x00 => []
  | _, 0x04 => a :: w.c.toNat :: hb
  | _, 0x09 | _, 0x0A => [a]
  | _, 0x0B => a :: b :: (if w.m.getLsbD 2 then [] else [w.c.toNat])
  | _, 0x0C => if w.m = 0 then [a, b] else [a]
  | _, 0x20 => if w.m.getLsbD 2 then [a, b, b + 1] else [a]
  | _, _ => a :: hb

/-- Whether an operation stops its program with LB_RANGE on the registers at issue. -/
def LineSnap.lbBad (x : LineSnap) (slot op : Nat) (w : LSlot) : Bool :=
  if slot ≠ 3 then false
  else match op with
    | 0x01 | 0x02 => decide (lineBytes < x.lbAddr w + 64)
    | 0x04 => x.gathBad w
    | 0x06 => decide (lineBytes < x.pmwBase w + 2048)
    | _ => false

/-- Whether an operation waits for the beam or for a pose record. -/
def State.lineWaits (s : State) (c : LineCore) (slot op : Nat) (w : LSlot) : Bool :=
  slot == 0 && ((op == 5 && !s.beamDue c w) || (op == 6 && !s.poseDue c w))

/-- What a bundle does when its line core's turn comes. -/
inductive BundleFate where
  /-- it waits: for a result, the beam or a pose record. -/
  | wait
  /-- a fault stops the program before it: its code and slots. -/
  | fault (code : Nat) (slots : BitVec 4)
  /-- it issues these operations. -/
  | issue (ops : List Instr)

/-- The operations of a bundle with their slots and opcodes. -/
def bundleOps (x : BitVec 128) : List (Nat × Option Instr) :=
  (List.range 4).map (fun k => (k, decodeSlot k (x.extractLsb' (32 * k) 32)))

/-- The fate of the bundle at a line core's PC, its registers as they stand (R292-R295, R314). -/
def State.bundleFate (s : State) (c : LineCore) : BundleFate :=
  let ops := bundleOps ((c.store[c.pc]?).getD 0)
  let known := ops.filterMap (fun p => (p.2.bind lineOpcode).map (fun q => (p.1, q.2.1, q.2.2)))
  let bad := (ops.filter (fun p => p.2.isNone)).map (·.1)
  let twice := (known.filter (fun p => known.any (fun q => q.1 != p.1
    && (lineWrites q.1 q.2.1 q.2.2).any (fun r => (lineWrites p.1 p.2.1 p.2.2).contains r)))).map (·.1)
  let slotsOf (l : List Nat) : BitVec 4 := l.foldl (fun m k => m ||| (1 <<< k)) 0
  if bad ≠ [] ∨ twice ≠ [] then .fault 1 (slotsOf (bad ++ twice))
  else
    let busy := c.results.flatMap (fun r => r.regs.map (·.1))
    let uses := known.flatMap (fun p => lineReads p.1 p.2.1 p.2.2 ++ lineWrites p.1 p.2.1 p.2.2)
    if uses.any busy.contains || known.any (fun p => s.lineWaits c p.1 p.2.1 p.2.2) then .wait
    else
      let lb := (known.filter (fun p => c.snap.lbBad p.1 p.2.1 p.2.2)).map (·.1)
      if lb ≠ [] then .fault 2 (slotsOf lb) else .issue (ops.filterMap (·.2))

/-- Takes the snapshot of a bundle that is to issue. -/
def LineCore.snapped (c : LineCore) : LineCore := { c with snap := ⟨c.pc, c.h, c.k, c.y⟩ }

/-- A line core after its bundle: running past the last bundle stops the program with PC_RANGE (R298, R314). -/
def LineCore.afterBundle (c : LineCore) : LineCore :=
  if c.band.isSome && !c.stopped && decide (c.store.length ≤ c.pc) then c.fault 3 0 else c

end Sys2Proof.Machine
end

