-- ==== Sys2Proof/Machine/Module.lean ====
section
/-! DEFINITION. Bring-up (25 R504, R505; 22 R460), loss of power (25 R508), uncorrectable errors (16 R418;
25 R496, R497), sensors (25 R508), the pod: the water-turn token, steals and requests of other modules
(25 R500-R503; 14 R386), and the host's answers to AtomicOps (06 R213). -/

namespace Sys2Proof.Machine

/-! ## Power (00 R8; 25 R504, R508) -/

/-- The module without power: no field survives but what stands in flash and in fuses; memory outside the
module keeps its bytes (00 R8). -/
def State.powerLoss (s : State) : State :=
  { State.reset with
    mem := s.mem.filter (fun c => match place c.1 with
      | .host | .pod _ _ => true
      | _ => false)
    agenda := s.agenda, freeCount := s.freeCount, hostOpId := s.hostOpId,
    modl := { ModuleState.reset with
      powered := false, recordA := s.modl.recordA, recordB := s.modl.recordB, config := s.modl.config,
      podNum := s.modl.podNum, podRoutes := s.modl.podRoutes, bar2Log := s.modl.bar2Log, stage1 := s.modl.stage1, policy := s.modl.policy,
      pager := s.modl.pager, tripped := s.modl.tripped } }

/-- THERMAL_TRIP (25 R508): every rail is removed; the next start records step 1 as failed. -/
def execEvThermalTrip (s : State) : Res :=
  let t := s.powerLoss
  .next { t with modl := { t.modl with tripped := true } }

/-- INPUT_UNDERVOLTAGE (25 R508): the stage turns off. -/
def execEvInputUndervoltage (s : State) : Res := .next s.powerLoss

/-! ## Bring-up (25 R504, R505) -/

/-- The entry of a step. -/
def ModuleState.entry (m : ModuleState) (step : Nat) : RecEntry :=
  (m.record[step - 1]?).getD { outcome := 0, failed := 0, bitmap := [] }

/-- Writes a step's entry: one write of the record. -/
def ModuleState.setEntry (m : ModuleState) (step : Nat) (e : RecEntry) : ModuleState :=
  m.writeRecord (setAt m.record (step - 1) e)

/-- The units of a per-unit step whose failures stand in the record and are not tried again (25 R504). -/
def keepsUnits (step : Nat) : Bool := [9, 11, 12, 13, 14, 16, 21].contains step

/-- The steps whose failing units the record's bitmap names (25 R505): pod links, too, which the next start tries again. -/
def recordsUnits (step : Nat) : Bool := keepsUnits step || step == 18

/-- The unit that a failure names: a GDDR 7 channel that fails at 32 Gbit/s too is u + 64 (assumption log, entry 22). -/
def unitOf (step u : Nat) : Nat := if step = 9 then u % 64 else u % 768

/-- A step of this start: the units that fail now, with those of earlier starts. -/
structure StepRun where
  fails : List Nat
  old   : List Nat
  deriving DecidableEq, Repr

/-- Adds units to a list without repeats. -/
def addUnits (l new : List Nat) : List Nat := new.foldl (fun l u => if l.contains u then l else l ++ [u]) l

/-- What a step does to the module this start, and whether bring-up stops (25 R504). A channel u that also
fails at 32 Gbit/s is named as u + 64 (assumption log, entry 22). -/
def stepEffect (m : ModuleState) (step : Nat) (r : StepRun) : ModuleState × Bool :=
  let bad := !r.fails.isEmpty
  let all := addUnits r.old r.fails
  match step with
  | 1 => if bad then ({ m with powered := false }, true) else (m, false)
  | 2 => (m, bad)
  | 3 | 4 | 6 | 7 | 8 | 10 | 23 => if bad then ({ m with replace := true }, true) else (m, false)
  | 5 => ({ m with pcieSlow := bad || !r.old.isEmpty }, false)
  | 9 =>
    if r.fails.any (fun u => decide (64 ≤ u)) then ({ m with replace := true }, true)
    else ({ m with slowCh := all }, false)
  | 11 | 12 | 13 => ({ m with fencedTiles := addUnits m.fencedTiles all }, false)
  | 14 | 21 => ({ m with fencedCores := addUnits m.fencedCores all }, false)
  | 15 => if bad then ({ m with presOff := true, fencedLine := List.range 16 }, false) else (m, false)
  | 16 => ({ m with fencedLine := addUnits m.fencedLine all }, false)
  | 17 => ({ m with deadHeads := all }, false)
  | 18 => ({ m with deadLinks := all }, false)
  | 19 => ({ m with shelfOff := bad }, false)
  | _ => (m, false)

/-- The units or marks of earlier starts that a step goes by: its fenced units, or that it took the lower rate
of the PCIe link. A step found started has failed once (25 R505). -/
def ModuleState.oldUnits (m : ModuleState) (step : Nat) : List Nat :=
  let e := m.entry step
  if keepsUnits step then e.bitmap else if step = 5 ∧ 2 ≤ e.outcome then [0] else []

/-- The outcome of a step (25 R505): failed where a unit fails now and no alternative is taken; its
alternative where it goes by an earlier failure, or retries with success. -/
def stepOutcome (step : Nat) (r : StepRun) (stopped alternative : Bool) : Nat :=
  if alternative then 3
  else if r.fails.isEmpty then (if r.old.isEmpty then 1 else 3)
  else if stopped then 2
  else if step = 5 ∨ step = 9 then 3 else 2

/-- The entry of a step that begins: a start that left it started counts as failed (25 R505). -/
def RecEntry.begun (e : RecEntry) : RecEntry :=
  { e with outcome := 4, failed := if e.outcome = 4 then min 65535 (e.failed + 1) else e.failed }

/-- A step with its two writes of the record (25 R504, R505). It failed at this start where a unit fails or it takes its
alternative. -/
def runStep (m : ModuleState) (step : Nat) (fails : List Nat) (alternative : Bool) : ModuleState × Bool :=
  let r : StepRun := { fails := fails, old := m.oldUnits step }
  let old := (m.entry step).begun
  let m := m.setEntry step old
  let e := stepEffect m step r
  let bad := !fails.isEmpty || alternative
  let m := e.1.setEntry step
    { outcome := stepOutcome step r e.2 alternative, failed := if bad then min 65535 (old.failed + 1) else 0,
      bitmap := if recordsUnits step then addUnits r.old (fails.map (unitOf step)) else [] }
  ({ m with failStep := if bad && m.failStep == 0 then step else m.failStep }, e.2)

/-- Applies the configuration record: the firmware makes its register writes (22 R460), and takes the module's number and the
routes of the pod from its pod section (25 R500). -/
def State.applyConfig (s : State) : State :=
  let s := s.modl.config.foldl (fun s p => s.writeReg p.1 p.2 true) s
  { s with modl := { s.modl with modNum := s.modl.podNum, routes := s.modl.podRoutes } }

/-- The verification of step 3 or 20: the slots as this start finds them, whether no image is accepted, and
whether the other slot was taken (25 R504, R506). Stage 1 has no other slot to turn to in the same start. `missed`: the start
before left the step started, so that the slot in use counts as failed (25 R505). -/
def verifySlots (f : FwSlots) (missed other forced : Bool) : FwSlots × Bool × Bool :=
  let f := (if missed && !f.updated then f.mark f.useB else f).atStart
  if f.ok f.useB && !forced then (f, false, false)
  else if other && f.ok (!f.useB) && !forced then ({ f.mark f.useB with useB := !f.useB }, false, true)
  else (f.mark f.useB, true, false)

/-- Raises the rails of islands: the base dies 0 to 3, the presentation die 4, the I/O die 5 (01 R26; 25 R504). -/
def State.raiseRails (s : State) (l : List Nat) : State :=
  { s with islands := l.foldl (fun x n => modAt x n (fun i => { i with rail := true })) s.islands }

/-- The resident pager in the instruction store of every core but those listed (11 R339; 25 R504). -/
def State.loadPager (s : State) (fails : List Nat) : State :=
  let image := s.modl.pager.loaded 0xE000 0x2000
  if image.isEmpty then s
  else ((List.range 768).filter (fun c => !fails.contains c)).foldl (fun s c => s.updCore c (fun k => { k with store := image })) s

/-- Runs bring-up step `step` on the module. A pager image that is refused is loaded into no core. -/
def State.bringUpStep (s : State) (fails : List BringUpFail) (step : Nat) : State × Bool :=
  let units := (fails.filter (fun f => f.step == step)).map (·.unit)
  let m := s.modl
  match step with
  | 1 =>
    let r := runStep m 1 units false
    let m := r.1
    let m := if s.modl.tripped then
        { (m.setEntry 1 { m.entry 1 with outcome := 2, failed := min 65535 ((s.modl.entry 1).failed + 1) }) with
          failStep := 1, tripped := false }
      else m
    (if r.2 then { s with modl := m } else State.raiseRails { s with modl := m } [5], r.2)
  | 3 =>
    let v := verifySlots m.stage1 ((m.entry 3).outcome == 4) false (!units.isEmpty)
    let r := runStep { m with stage1 := v.1 } 3 (if v.2.1 then [0] else []) false
    ({ s with modl := r.1 }, r.2)
  | 20 =>
    let v := verifySlots m.policy ((m.entry 20).outcome == 4) true (!units.isEmpty)
    let m := { m with policy := v.1, fwState := if v.2.1 then 3 else 1, fwFail := v.2.1 }
    let r := runStep m 20 (if v.2.1 then [0] else []) v.2.2
    ({ s with modl := if v.2.1 then r.1 else r.1.loadPolicy }, r.2)
  | 21 =>
    let p := m.pager.atStart
    let fails := if p.ok p.useB then units else List.range 768
    let r := runStep { m with pager := p } 21 fails false
    (State.loadPager { s with modl := r.1 } fails, r.2)
  | 22 =>
    let s := if units.isEmpty ∧ s.modl.fwState = 1 then s.applyConfig else s
    let r := runStep s.modl 22 units false
    ({ s with modl := r.1 }, r.2)
  | 23 =>
    let r := runStep m 23 units false
    ({ s with modl := if r.2 then r.1 else { r.1 with measured := r.1.measure } }, r.2)
  | 24 =>
    let r := runStep m 24 [] false
    ({ s with modl := ({ r.1 with ready := true } : ModuleState).settle }, false)
  | n =>
    let r := runStep m n units false
    let s : State := { s with modl := r.1 }
    (if units.isEmpty then s.raiseRails (if n = 6 then [0, 1, 2, 3] else if n = 15 then [4] else []) else s, r.2)

/-- Runs the steps in order until one stops bring-up, and whether one does. -/
def State.bringUpSteps (s : State) (fails : List BringUpFail) : List Nat → State × Bool
  | [] => (s, false)
  | step :: rest =>
    let r := s.bringUpStep fails step
    if r.2 then ({ r.1 with modl := r.1.modl.settle }, true) else r.1.bringUpSteps fails rest

/-- The module after those steps. -/
def State.bringUp (s : State) (fails : List BringUpFail) (steps : List Nat) : State := (s.bringUpSteps fails steps).1

/-- The module with power, before the first step of bring-up. -/
def State.powered (s : State) : State :=
  let s := s.powerLoss
  { s with modl := { s.modl with powered := true } }

/-- POWER_UP (25 R504): the root of trust runs the bring-up steps; `fails` names the units that fail. A module
that is ready is powered up already. -/
def execEvPowerUp (fails : List BringUpFail) (s : State) : Res :=
  if s.modl.ready then .next s
  else .next (s.powered.bringUp fails ((List.range 24).map (· + 1)))

/-- Power comes and fails again in bring-up step `step` (25 R504, R505): between its two writes of the record the step stands
started; a write that is cut off leaves a copy whose CRC fails, and the copy before in force. Where an earlier step stops
bring-up, it goes no further. -/
def State.outage (s : State) (fails : List BringUpFail) (step : Nat) (at_ : OutageAt) : State :=
  if s.modl.ready then s
  else
    let t := s.powered.bringUpSteps fails ((List.range (step - 1)).map (· + 1))
    let m := t.1.modl
    let begun := m.setEntry step (m.entry step).begun
    State.powerLoss { t.1 with modl :=
      if t.2 then m
      else match at_ with
        | .beginning => m.putRecord m.record false
        | .work => begun
        | .ending => begun.putRecord begun.record false }

/-! ## Errors and sensors -/

/-- UNCORRECTABLE_ERROR (16 R418; 25 R496, R497). -/
def execEvUncorrectableError (target : ErrorTarget) (s : State) : Res :=
  .next (match target with
    | .memory a => if s.poison.contains a then s else { s with poison := a :: s.poison }
    | .scratchpad r o => s.updWg r (fun w => if w.poison.contains o then w else { w with poison := o :: w.poison })
    | .register r n lane => s.updWave r (fun w =>
        { w with poison := assocSet w.poison n ((assoc w.poison n).getD 0 ||| (1 <<< (lane % 32))) })
    | .scalar r n => s.updWave r (fun w => if w.spoison.contains n then w else { w with spoison := n :: w.spoison })
    | .sequencer core .trap n => s.updCore core (fun c => { c with trap := { c.trap with poison := distinct (n :: c.trap.poison) } })
    | .sequencer core ctx n =>
      match s.jobSlot core with
      | some slot => s.updJob ⟨core, slot⟩ (fun j => j.updCtx ctx (fun x => { x with poison := distinct (n :: x.poison) }))
      | none => s
    | .frame f => s.updFrame f (fun x => { x with poisoned := true })
    | .device => { s with modl := ({ s.modl with uncErr := true } : ModuleState).settle })

/-- PLDM_SENSOR_READ (25 R508): the reading goes to the management controller; a physical reading is a free
value. -/
def execEvPldmSensorRead (sensor : Sensor) (s : State) : Res :=
  let v : Nat := match sensor with
    | .replace => s.modl.replace.toNat
    | .health => s.modl.health
    | _ => (Config.sensor s.freeCount).toNat
  .next { s with modl := { s.modl with reply := toBytes 8 v }, freeCount := s.freeCount + 1 }

/-! ## The water-turn token (25 R501-R503) -/

/-- Unclaimed workgroups of a module's grids whose context has a peer. -/
def State.podLoad (s : State) : Nat :=
  (s.grids.filter (fun g => g.home.isNone && (s.context g.ctx).peer.isSome)).foldl (fun n g => n + (g.total - g.next)) 0

/-- Cores with nothing to pull: none resident, none on its way, no source. -/
def State.podIdle (s : State) : Nat :=
  ((List.range 768).filter (fun c => !s.fenced c && (s.core c).wgs.isEmpty && (s.core c).claim.isNone
    && (s.nextSource c).isNone)).length

/-- The module with the greatest LOAD, the lowest number among equals. -/
def greatestLoad (l : List TokenEntry) : Nat :=
  (l.zipIdx.foldl (fun (b : Nat × Nat) p => if b.2 < p.1.load.toNat then (p.2, p.1.load.toNat) else b) (0, 0)).1

/-- A holding module writes its own entry, and sets or clears its steal request (25 R501). -/
def State.writeToken (s : State) (gen : W32) (entries : List TokenEntry) : State :=
  let load := min 0xFFFFFF s.podLoad
  let idle := min 1023 s.podIdle
  let mine : TokenEntry := { sv := false, victim := 0, want := 0, idle := BitVec.ofNat 10 idle, load := BitVec.ofNat 24 load }
  let all := setAt entries s.modl.modNum mine
  let mine := if load = 0 ∧ 64 ≤ idle then
      { mine with sv := true, victim := BitVec.ofNat 6 (greatestLoad all), want := BitVec.ofNat 16 idle }
    else mine
  { s with pod := { s.pod with gen := gen, seen := gen, seenAt := s.fck, entries := setAt all s.modl.modNum mine } }

/-- WATER_TURN_TOKEN (25 R501-R503): the token arrives, requests that name this module are noted, and the module
writes its entry. A token of an earlier generation is discarded. -/
def execEvWaterTurnToken (gen : W32) (entries : List TokenEntry) (s : State) : Res :=
  if gen.toNat < s.pod.seen.toNat then .next s
  else
    let asked := entries.zipIdx.filterMap (fun p =>
      if p.1.sv && p.1.victim.toNat == s.modl.modNum && p.2 != s.modl.modNum then some (p.2, p.1.want.toNat) else none)
    .next (State.writeToken { s with pod := { s.pod with steals := s.pod.steals ++ asked } } gen entries)

/-- TOKEN_REGENERATION (25 R503): no token for 100 µs, and no lower-numbered module is reachable. -/
def execEvTokenRegeneration (lowerReachable : Bool) (s : State) : Res :=
  if lowerReachable || decide (s.fck < s.pod.seenAt + 200000) then .next s
  else .next (s.writeToken (s.pod.seen + 1) PodState.reset.entries)

/-- STEAL (25 R502): a noted request is acted on: the oldest grid whose context has a peer on the thief gives a range, as an
ordinary claim of it would, and the range is sent to the thief; one that may not start yields none (assumption log, entry 23). -/
def execEvSteal (thief : Nat) (s : State) : Res :=
  match s.pod.steals.find? (fun p => p.1 == thief) with
  | none => .next s
  | some req =>
    let s : State := { s with pod := { s.pod with steals := s.pod.steals.erase req } }
    let peerCtx (g : Grid) : Option Nat := (s.context g.ctx).peer.bind (fun p => if p.1 = thief then some p.2 else none)
    match leastBy (fun (g : Grid) => g.id) (s.grids.filter (fun g => g.home.isNone && (peerCtx g).isSome)) with
    | none => .next s
    | some g =>
      let n := min req.2 ((g.total - g.next) / 2) / g.lpb.gang * g.lpb.gang
      if n = 0 ∨ s.mayStart g = false then .next s
      else
        let r : StealRange := { victim := s.modl.modNum, ctx := (peerCtx g).getD 0, grid := g.id, lpb := g.lpbAddr.toNat,
                                start := g.next, count := n }
        let s := s.updGrid g.id (fun x => { x with next := x.next + n, stolen := x.stolen ++ [(thief, g.next, n, [])] })
        .next { s with pod := { s.pod with sent := s.pod.sent ++ [r] } }

/-- STEAL_RANGE_ARRIVAL (25 R502): the LPB is read in the peer context, whose mapping reaches the victim's
memory through a pod window, and the range stands as claims of the grid's class. Where a page of them is being filled, the
range stays on its channel until it is there (16 R404); a range whose LPB or kernel cannot be read is refused in the peer
context, as a launch is (assumption log, entry 23). -/
def execEvStealRangeArrival (range : StealRange) (s : State) : Res :=
  let refused : Res := Host.Outcome.next (s.refuseLaunch range.ctx (BitVec.ofNat 64 range.lpb) 0 true 0 true)
  match s.readFe range.ctx range.lpb 256 with
  | none => if s.feSpan range.ctx range.lpb 256 = .wait then .next s else refused
  | some b =>
    let l := parseLpb b
    match s.readFe range.ctx l.kimg.toNat 256 with
    | none => if s.feSpan range.ctx l.kimg.toNat 256 = .wait then .next s else refused
    | some k =>
      let g := newGrid s.accepts range.ctx none (BitVec.ofNat 64 range.lpb) l
        (l.kimg + BitVec.ofNat 64 (field k 8 8)) [] []
      let s := (s.noteFe range.ctx range.lpb 256).noteFe range.ctx l.kimg.toNat 256
      .next { s with
        grids := s.grids ++ [{ g with first := range.start, next := range.start, total := range.start + range.count,
                                      home := some (range.victim, range.grid) }]
        accepts := s.accepts + 1 }

/-- STOLEN_COMPLETION_REPORT (25 R502). -/
def execEvStolenCompletionReport (grid wgl : Nat) (s : State) : Res :=
  let s := s.updGrid grid (fun g => { g with stolen := g.stolen.map (fun x =>
    if x.2.1 ≤ wgl ∧ wgl < x.2.1 + x.2.2.1 ∧ x.2.2.2.contains wgl = false then (x.1, x.2.1, x.2.2.1, x.2.2.2 ++ [wgl]) else x) })
  .next (s.tryCompleteGrid grid)

/-- The stolen workgroups of a grid that a thief has not reported. -/
def Grid.unreported (g : Grid) (thief : Nat) : List Nat :=
  (g.stolen.filter (fun x => x.1 == thief)).flatMap (fun x =>
    (List.range x.2.2.1).filterMap (fun i => if x.2.2.2.contains (x.2.1 + i) then none else some (x.2.1 + i)))

/-- THIEF_UNREACHABLE (25 R503): each unreported workgroup counts as killed by an unrecoverable fault. -/
def execEvThiefUnreachable (thief : Nat) (s : State) : Res :=
  let lost := s.grids.flatMap (fun g => (g.unreported thief).map (fun w => (g.id, w)))
  let s : State := { s with grids := s.grids.map (fun g => { g with stolen := g.stolen.filter (fun x => x.1 != thief) }) }
  let s := lost.foldl (fun s p => s.retryOrError p.1 p.2) s
  .next (s.grids.foldl (fun s g => s.tryCompleteGrid g.id) s)

/-! ## Requests of other modules (14 R386; 25 R500) -/

/-- Answers a pod request on VC 1. -/
def State.podAnswer (s : State) (m : Nat) (b : List Byte) : State :=
  { s with pod := { s.pod with responses := s.pod.responses ++ [(m, b)] } }

/-- An atomic of another module: the new value is performed and the old one answered. -/
def State.podAtomic (s : State) (r : PodRequest) (size : Nat) (f : Nat → Nat) : State :=
  let old := ofBytes (s.readMem r.addr size)
  (((s.writeMem r.addr (toBytes size (f old))).noteWrite r.addr size)).podAnswer r.source (toBytes size old)

/-- An operation of ATOM and RED of another module (06 R198): the old value is answered with the flags it raises. -/
def State.podAtom (s : State) (r : PodRequest) (t : WType) (m : Nat) (rnd : Rnd) (v : W64) : State :=
  let size := wtypeBits t / 8
  let old := ofBytes (s.readMem r.addr size)
  let x := atomOp t m rnd old (v.toNat % 2 ^ (8 * size))
  ((s.writeMem r.addr (toBytes size x.1)).noteWrite r.addr size).podAnswer r.source (toBytes size old ++ toBytes 1 x.2.toNat)

/-- A timeline write of another module: the counter is written, waiters compare, and the answer carries what is
to be recorded in the writer's context (11 R331). -/
def State.podTimeline (s : State) (r : PodRequest) (add : Bool) (v : W64) : State :=
  let n := timelineNext add (s.readWord r.addr) v.toNat
  ((s.writeMem r.addr (toBytes 8 n.1)).compareWaiters r.addr n.1).podAnswer r.source
    (toBytes 1 (flagAt n.2.1 1 + flagAt n.2.2 0))

/-- Whether a request only reads. -/
def podReads : PodOp → Bool
  | .read _ => true
  | _ => false

/-- The bytes of a request's answer; none for a write. -/
def podAnswerSize : PodOp → Option Nat
  | .read n | .add _ n | .exch _ n | .cas _ _ n => some n
  | .atom t _ _ _ => some (wtypeBits t / 8 + 1)
  | .tladd _ | .tlset _ => some 1
  | .write _ => none

/-- The agent and the flow of a request. -/
def podFlow (r : PodRequest) : Nat × Nat × Nat × Nat := (r.source, r.ctx, r.flow, r.agent)

/-- How many writes and atomics of a request's agent have been performed here on its ordered flow. -/
def PodState.performedOf (p : PodState) (r : PodRequest) : Nat :=
  ((p.order.find? (fun x => x.1 == podFlow r)).map (·.2)).getD 0

/-- Whether a request is the next of its agent on its flow: on an ordered flow the writes and atomics of an agent are performed
in the order it sent them; on an unordered one, and reads, in any order (14 R386). -/
def State.podDue (s : State) (r : PodRequest) : Bool :=
  match r.order with
  | some n => podReads r.op || n == s.pod.performedOf r
  | none => true

/-- Counts a write or an atomic performed on an ordered flow. -/
def State.podCount (s : State) (r : PodRequest) : State :=
  match r.order with
  | some n =>
    if podReads r.op then s
    else { s with pod := { s.pod with order := (podFlow r, n + 1) :: s.pod.order.filter (fun x => x.1 != podFlow r) } }
  | none => s

/-- Performs a request of another module at this module's L2. -/
def State.podPerform (s : State) (req : PodRequest) : State :=
  match req.op with
  | .read n => s.podAnswer req.source (s.readMem req.addr n)
  | .write b => (s.writeMem req.addr b).noteWrite req.addr b.length
  | .add v n => s.podAtomic req n (fun old => old + v.toNat)
  | .exch v n => s.podAtomic req n (fun _ => v.toNat)
  | .cas c v n => s.podAtomic req n (fun old => if old = c.toNat % 2 ^ (8 * n) then v.toNat else old)
  | .atom t m rnd v => s.podAtom req t m.toNat rnd v
  | .tladd v => s.podTimeline req true v
  | .tlset v => s.podTimeline req false v

/-- POD_REQUEST_ARRIVAL (14 R386): performed at this module's L2, in local memory, in its agent's order on an ordered flow: one
that comes before its turn waits for it. Before READY it reads 0 and writes nothing (25 R495). -/
def execEvPodRequestArrival (req : PodRequest) (s : State) : Res :=
  if localBytes ≤ req.addr then .next s
  else if !s.modl.ready then
    .next (match podAnswerSize req.op with
      | some n => s.podAnswer req.source (List.replicate n 0)
      | none => s)
  else if !s.podDue req then .next s
  else .next ((s.podPerform req).podCount req)

/-! ## The host's answers to AtomicOps (06 R213) -/

/-- A timeline write to host memory has ended: a queue's parsing goes on; a wave's lane has performed its word,
and its group goes on when all its lanes have. -/
def State.hostOpDone (s : State) (op : HostOp) : State :=
  match op.who with
  | .queue q => if (s.queue q).wait = .hostOp op.id then s.updQueue q (fun x => x.advance 3) else s
  | .wave r lane tag =>
    match s.wave? r with
    | none => s
    | some w =>
      if w.block ≠ .hostOp tag then s
      else
        let left := s.hostOps.any (fun o => match o.who with
          | .wave _ _ t => t == tag
          | _ => false)
        s.updWave r (fun w => { w with done := w.done ||| (1 <<< lane), block := if left then w.block else .none })
  | _ => s

/-- The host refuses: a wave's word traps PROTECTION; any other write sets TLFAIL (06 R213). -/
def State.hostOpRefused (s : State) (op : HostOp) : State :=
  match op.who with
  | .wave r lane tag =>
    match s.wave? r with
    | none => s
    | some w =>
      if w.block ≠ .hostOp tag then s
      else
        match w.group with
        | none => s
        | some g =>
          let s := s.updWave r (fun w => { w with block := .none })
          s.trapWave r .protection (accBits .atomic) 0 (g.pc + BitVec.ofNat 64 (8 + 8 * g.ix)) op.va (1 <<< lane) []
  | .queue _ => (s.timelineFail op.ctx).hostOpDone op
  | _ => s.timelineFail op.ctx

/-- HOST_ATOMICOP_COMPLETION (06 R213): a Swap's old value decides REWOUND; a CAS that finds what it expects has
succeeded, and one that does not is sent again over the value returned; or the host refuses. -/
def execEvHostAtomicopCompletion (id : Nat) (old : Option W64) (s : State) : Res :=
  match s.hostOps.find? (fun o => o.id == id) with
  | none => .next s
  | some op =>
    let drop (s : State) : State := { s with hostOps := s.hostOps.filter (fun o => o.id != id) }
    match old with
    | none => .next ((drop s).hostOpRefused op)
    | some v =>
      if op.add ∧ v ≠ op.expect then
        .next { s with hostOps := s.hostOps.map (fun o => if o.id = id then { o with expect := v } else o) }
      else
        let n := timelineNext op.add v.toNat op.value.toNat
        let s := ((drop s).writeMem op.addr (toBytes 8 n.1)).timelineEvent op.ctx op.va n.2.1 n.2.2
        .next ((s.compareWaiters op.addr n.1).hostOpDone op)

end Sys2Proof.Machine
end

