-- ==== Sys2Proof/Machine/WaveInt.lean ====
section
/-! DEFINITION. Wave instructions: integer arithmetic, bit operations, moves, lanes, compare, predicates and
special registers, with their scalar forms (04 R121-R144, R510). -/

namespace Sys2Proof.Machine

/-- The .sat bit M[3] (03 R85). -/
def satBit (w : WWord) : Bool := w.m.toNat / 8 == 1
/-- M[2:0]. -/
def subOp (w : WWord) : Nat := w.m.toNat % 8
/-- The width of the word's type. -/
def opWidth (w : WWord) : Nat := wtypeBits w.t

/-! ## Arithmetic (04 R126-R129) -/

/-- The carry-chaining vector word (04 R128): the result, and the carries of the active lanes into pk. -/
def carryVec (op : Nat) (w : WWord) (s : State) (f : Nat → Nat → Nat → Nat × Bool) : Res :=
  plainWord op w s (fun _ c src s =>
    let out := (List.range 32).map (fun i => f (at_ src.1 i) (at_ src.2.1 i) ((c.wv.pred (subOp w)).getLsbD i).toNat)
    (s.writeTyped c.r w.t w.d.toNat c.act (out.map (·.1))).writeP c.r (subOp w) c.act
      (maskOf (fun i => ((out[i]?).getD (0, false)).2)))

/-- The carry-chaining scalar word (04 R128): the carry in of the lowest active lane, the carry out to every
active lane. -/
def carrySca (op : Nat) (w : WWord) (s : State) (f : Nat → Nat → Nat → Nat × Bool) : Res :=
  plainWord op w s (fun _ c src s =>
    match lowLane c.act with
    | none => s
    | some l =>
      let o := f (uniform src.1) (uniform src.2.1) ((c.wv.pred (subOp w)).getLsbD l).toNat
      (s.writeS c.r w.d.toNat o.1).writeP c.r (subOp w) c.act (if o.2 then BitVec.allOnes 32 else 0))

/-- BFI, vector or scalar: d is read with the sources (04 R132). -/
def bfiVec (op : Nat) (w : WWord) (s : State) : Res :=
  plainWord op w s (fun _ c src s =>
    let old := c.read s [] (.t w.t) (.v w.d)
    let out := (List.range 32).map (fun i =>
      (bfiVal (opWidth w) (at_ old i) (at_ src.1 i) (at_ src.2.1 i) (at_ src.2.2 i)).1)
    s.writeTyped c.r w.t w.d.toNat c.act out)

/-! ## Vector forms -/

/-- ADD (04 R127). -/
def execWAdd (w : WWord) (s : State) : Res := vecWord 0x01 w w.t s (fun x y _ => addVal w.t (satBit w) x y)

/-- SUB (04 R127). -/
def execWSub (w : WWord) (s : State) : Res := vecWord 0x02 w w.t s (fun x y _ => subVal w.t (satBit w) x y)

/-- ADDC (04 R128). -/
def execWAddc (w : WWord) (s : State) : Res := carryVec 0x03 w s (addcVal w.t)

/-- SUBB (04 R128). -/
def execWSubb (w : WWord) (s : State) : Res := carryVec 0x04 w s (subbVal w.t)

/-- MUL (04 R127). -/
def execWMul (w : WWord) (s : State) : Res := vecWord 0x05 w w.t s (fun x y _ => mulVal w.t (satBit w) x y)

/-- MULH (04 R129). -/
def execWMulh (w : WWord) (s : State) : Res := vecWord 0x06 w w.t s (fun x y _ => mulhVal w.t x y)

/-- MAD (04 R127). -/
def execWMad (w : WWord) (s : State) : Res := vecWord 0x07 w w.t s (fun x y z => madVal w.t (satBit w) x y z)

/-- MADW (04 R129). -/
def execWMadw (w : WWord) (s : State) : Res :=
  vecWord 0x08 w (wideOf w.t) s (fun x y z => madwVal w.t (satBit w) x y z)

/-- MIN (04 R127). -/
def execWMin (w : WWord) (s : State) : Res := vecWord 0x09 w w.t s (fun x y _ => minVal w.t x y)

/-- MAX (04 R127). -/
def execWMax (w : WWord) (s : State) : Res := vecWord 0x0A w w.t s (fun x y _ => maxVal w.t x y)

/-- ABS (04 R127). -/
def execWAbs (w : WWord) (s : State) : Res := vecWord 0x0B w w.t s (fun x _ _ => absVal w.t (satBit w) x)

/-- NEG (04 R127). -/
def execWNeg (w : WWord) (s : State) : Res := vecWord 0x0C w w.t s (fun x _ _ => negVal w.t (satBit w) x)

/-- AND (04 R131). -/
def execWAnd (w : WWord) (s : State) : Res := vecWord 0x10 w w.t s (fun x y _ => andVal x y)

/-- OR (04 R131). -/
def execWOr (w : WWord) (s : State) : Res := vecWord 0x11 w w.t s (fun x y _ => orVal x y)

/-- XOR (04 R131). -/
def execWXor (w : WWord) (s : State) : Res := vecWord 0x12 w w.t s (fun x y _ => xorVal x y)

/-- NOT (04 R131). -/
def execWNot (w : WWord) (s : State) : Res := vecWord 0x13 w w.t s (fun x _ _ => notVal (opWidth w) x)

/-- ANDN (04 R131). -/
def execWAndn (w : WWord) (s : State) : Res := vecWord 0x14 w w.t s (fun x y _ => andnVal (opWidth w) x y)

/-- SHL (04 R131). -/
def execWShl (w : WWord) (s : State) : Res := vecWord 0x15 w w.t s (fun x y _ => shlVal (opWidth w) x y)

/-- SHR (04 R131). -/
def execWShr (w : WWord) (s : State) : Res := vecWord 0x16 w w.t s (fun x y _ => shrVal (opWidth w) x y)

/-- SAR (04 R131). -/
def execWSar (w : WWord) (s : State) : Res := vecWord 0x17 w w.t s (fun x y _ => sarVal (opWidth w) x y)

/-- ROT (04 R131). -/
def execWRot (w : WWord) (s : State) : Res := vecWord 0x18 w w.t s (fun x y _ => rotVal (opWidth w) x y)

/-- FUNNEL (04 R131). -/
def execWFunnel (w : WWord) (s : State) : Res := vecWord 0x19 w w.t s (fun x y z => funnelVal (opWidth w) x y z)

/-- BFX (04 R132). -/
def execWBfx (w : WWord) (s : State) : Res := vecWord 0x1A w w.t s (fun x y z => bfxVal w.t x y z)

/-- BFI (04 R132). -/
def execWBfi (w : WWord) (s : State) : Res := bfiVec 0x1B w s

/-- POPC (04 R133). -/
def execWPopc (w : WWord) (s : State) : Res := vecWord 0x1C w w.t s (fun x _ _ => popcVal (opWidth w) x)

/-- CLZ (04 R133). -/
def execWClz (w : WWord) (s : State) : Res := vecWord 0x1D w w.t s (fun x _ _ => clzVal (opWidth w) x)

/-- CTZ (04 R133). -/
def execWCtz (w : WWord) (s : State) : Res := vecWord 0x1E w w.t s (fun x _ _ => ctzVal (opWidth w) x)

/-- BREV (04 R133). -/
def execWBrev (w : WWord) (s : State) : Res := vecWord 0x1F w w.t s (fun x _ _ => brevVal (opWidth w) x)

/-! ## Scalar-destination forms -/

/-- ADD, scalar form (04 R127, R123). -/
def execWAddScalar (w : WWord) (s : State) : Res := scaWord 0x41 w w.t s (fun x y _ => addVal w.t (satBit w) x y)

/-- SUB, scalar form (04 R127, R123). -/
def execWSubScalar (w : WWord) (s : State) : Res := scaWord 0x42 w w.t s (fun x y _ => subVal w.t (satBit w) x y)

/-- ADDC, scalar form (04 R128, R123). -/
def execWAddcScalar (w : WWord) (s : State) : Res := carrySca 0x43 w s (addcVal w.t)

/-- SUBB, scalar form (04 R128, R123). -/
def execWSubbScalar (w : WWord) (s : State) : Res := carrySca 0x44 w s (subbVal w.t)

/-- MUL, scalar form (04 R127, R123). -/
def execWMulScalar (w : WWord) (s : State) : Res := scaWord 0x45 w w.t s (fun x y _ => mulVal w.t (satBit w) x y)

/-- MULH, scalar form (04 R129, R123). -/
def execWMulhScalar (w : WWord) (s : State) : Res := scaWord 0x46 w w.t s (fun x y _ => mulhVal w.t x y)

/-- MAD, scalar form (04 R127, R123). -/
def execWMadScalar (w : WWord) (s : State) : Res := scaWord 0x47 w w.t s (fun x y z => madVal w.t (satBit w) x y z)

/-- MADW, scalar form (04 R129, R123). -/
def execWMadwScalar (w : WWord) (s : State) : Res :=
  scaWord 0x48 w (wideOf w.t) s (fun x y z => madwVal w.t (satBit w) x y z)

/-- MIN, scalar form (04 R127, R123). -/
def execWMinScalar (w : WWord) (s : State) : Res := scaWord 0x49 w w.t s (fun x y _ => minVal w.t x y)

/-- MAX, scalar form (04 R127, R123). -/
def execWMaxScalar (w : WWord) (s : State) : Res := scaWord 0x4A w w.t s (fun x y _ => maxVal w.t x y)

/-- ABS, scalar form (04 R127, R123). -/
def execWAbsScalar (w : WWord) (s : State) : Res := scaWord 0x4B w w.t s (fun x _ _ => absVal w.t (satBit w) x)

/-- NEG, scalar form (04 R127, R123). -/
def execWNegScalar (w : WWord) (s : State) : Res := scaWord 0x4C w w.t s (fun x _ _ => negVal w.t (satBit w) x)

/-- AND, scalar form (04 R131, R123). -/
def execWAndScalar (w : WWord) (s : State) : Res := scaWord 0x50 w w.t s (fun x y _ => andVal x y)

/-- OR, scalar form (04 R131, R123). -/
def execWOrScalar (w : WWord) (s : State) : Res := scaWord 0x51 w w.t s (fun x y _ => orVal x y)

/-- XOR, scalar form (04 R131, R123). -/
def execWXorScalar (w : WWord) (s : State) : Res := scaWord 0x52 w w.t s (fun x y _ => xorVal x y)

/-- NOT, scalar form (04 R131, R123). -/
def execWNotScalar (w : WWord) (s : State) : Res := scaWord 0x53 w w.t s (fun x _ _ => notVal (opWidth w) x)

/-- ANDN, scalar form (04 R131, R123). -/
def execWAndnScalar (w : WWord) (s : State) : Res := scaWord 0x54 w w.t s (fun x y _ => andnVal (opWidth w) x y)

/-- SHL, scalar form (04 R131, R123). -/
def execWShlScalar (w : WWord) (s : State) : Res := scaWord 0x55 w w.t s (fun x y _ => shlVal (opWidth w) x y)

/-- SHR, scalar form (04 R131, R123). -/
def execWShrScalar (w : WWord) (s : State) : Res := scaWord 0x56 w w.t s (fun x y _ => shrVal (opWidth w) x y)

/-- SAR, scalar form (04 R131, R123). -/
def execWSarScalar (w : WWord) (s : State) : Res := scaWord 0x57 w w.t s (fun x y _ => sarVal (opWidth w) x y)

/-- ROT, scalar form (04 R131, R123). -/
def execWRotScalar (w : WWord) (s : State) : Res := scaWord 0x58 w w.t s (fun x y _ => rotVal (opWidth w) x y)

/-- FUNNEL, scalar form (04 R131, R123). -/
def execWFunnelScalar (w : WWord) (s : State) : Res := scaWord 0x59 w w.t s (fun x y z => funnelVal (opWidth w) x y z)

/-- BFX, scalar form (04 R132, R123). -/
def execWBfxScalar (w : WWord) (s : State) : Res := scaWord 0x5A w w.t s (fun x y z => bfxVal w.t x y z)

/-- BFI, scalar form (04 R132, R123). -/
def execWBfiScalar (w : WWord) (s : State) : Res :=
  plainWord 0x5B w s (fun _ c src s =>
    if c.act = 0 then s
    else
      let old := ((c.wv.sregs[w.d.toNat]?).getD 0).toNat % 2 ^ (opWidth w)
      s.writeS c.r w.d.toNat (bfiVal (opWidth w) old (uniform src.1) (uniform src.2.1) (uniform src.2.2)).1)

/-- POPC, scalar form (04 R133, R123). -/
def execWPopcScalar (w : WWord) (s : State) : Res := scaWord 0x5C w w.t s (fun x _ _ => popcVal (opWidth w) x)

/-- CLZ, scalar form (04 R133, R123). -/
def execWClzScalar (w : WWord) (s : State) : Res := scaWord 0x5D w w.t s (fun x _ _ => clzVal (opWidth w) x)

/-- CTZ, scalar form (04 R133, R123). -/
def execWCtzScalar (w : WWord) (s : State) : Res := scaWord 0x5E w w.t s (fun x _ _ => ctzVal (opWidth w) x)

/-- BREV, scalar form (04 R133, R123). -/
def execWBrevScalar (w : WWord) (s : State) : Res := scaWord 0x5F w w.t s (fun x _ _ => brevVal (opWidth w) x)

/-! ## Select, moves, lanes (04 R134-R143, R510) -/

/-- SEL (04 R135). -/
def execWSel (w : WWord) (s : State) : Res :=
  plainWord 0x20 w s (fun _ c src s =>
    s.writeTyped c.r w.t w.d.toNat c.act
      ((List.range 32).map (fun i => if (c.wv.pred (subOp w)).getLsbD i then at_ src.1 i else at_ src.2.1 i)))

/-- MOV (04 R137). -/
def execWMov (w : WWord) (s : State) : Res := vecWord 0x21 w w.t s (fun x _ _ => (x, 0))

/-- MOV, scalar form (04 R137). -/
def execWMovScalar (w : WWord) (s : State) : Res := scaWord 0x61 w w.t s (fun x _ _ => (x, 0))

/-- The register number an operand names. -/
def operandNum : Operand → Nat
  | .v n => n.toNat
  | .s n => n.toNat
  | .sp n => n.toNat
  | .imm x => x.toNat
  | _ => 0

/-- The vector register MOVL reads (04 R138). -/
def movlReg (w : WWord) (b : Nat) : Nat :=
  let e := (operandNum w.a + b) % 256
  if isWide w.t then e / 2 * 2 else e

/-- MOVL (04 R138): the register read is chosen at run time; poisoned lanes of it trap (16 R418). -/
def execWMovl (w : WWord) (s : State) : Res :=
  rawWord 0x22 w s (fun f c s =>
    let e := movlReg w (uniform (c.sources s f w).2.1)
    let regs := if isWide w.t then [e, e + 1] else [e]
    let s := s.spoilRegs c regs c.act
    let c := c.now s w
    if c.poisonIn regs [] then s.trapPoison c regs []
    else
      let s := s.countIssue c.r
      let vals := c.read s [] (.t w.t) (.v (BitVec.ofNat 8 e))
      let s := (s.consume c f w)
      let s := (regs.filter (fun n => c.wv.spilled.contains n)).foldl (fun s n => s.ensurePhys c.r n) s
      (s.writeTyped c.r w.t w.d.toNat c.act vals).nextWord c.r (wordLen w))

/-- MOVL, scalar form (04 R138): the register read is chosen at run time; a poisoned one traps (16 R418). -/
def execWMovlScalar (w : WWord) (s : State) : Res :=
  rawWord 0x62 w s (fun f c s =>
    let e := (operandNum w.a + uniform (c.sources s f w).2.1) % 64
    if c.poisonIn [] [e] then s.trapPoison c [] [e]
    else
      let s := (s.countIssue c.r).consume c f w
      (if c.act = 0 then s else s.writeS c.r w.d.toNat (((c.wv.sregs[e]?).getD 0).toNat % 2 ^ (opWidth w))).nextWord c.r
        (wordLen w))

/-- LEA (04 R139). -/
def execWLea (w : WWord) (s : State) : Res := vecWord 0x23 w .z64 s (fun x y _ => leaVal w.t (subOp w) x y)

/-- LEA, scalar form (04 R139). -/
def execWLeaScalar (w : WWord) (s : State) : Res := scaWord 0x63 w .z64 s (fun x y _ => leaVal w.t (subOp w) x y)

/-- LANE (04 R140, R510). -/
def execWLane (w : WWord) (s : State) : Res :=
  plainWord 0x24 w s (fun _ c _ s =>
    if c.act = 0 then s
    else
      s.writeS c.r w.d.toNat (match w.m.toNat with
        | 0 => c.act.toNat
        | 1 => (lowLane c.act).getD 0
        | 2 => (lanesOf c.act).length
        | _ => c.wv.liveMask.toNat))

/-- The source lane of SHUF (04 R141). -/
def shufLane (m lane y : Nat) : Nat :=
  match m with
  | 0 => y % 32
  | 1 => lane ^^^ (y % 32)
  | 2 => if y % 256 ≤ lane then lane - y % 256 else lane
  | _ => if lane + y % 256 < 32 then lane + y % 256 else lane

/-- Whether lanes read of the registers of operand a hold poisoned data. -/
def WaveCtx.poisonAt (c : WaveCtx) (regs lanes : List Nat) : Bool :=
  c.wv.poison.any (fun p => regs.contains p.1 && lanes.any (fun l => p.2.getLsbD l))

/-- A word that hands lanes of a to other lanes: lane i receives a[from i] (04 R141, R142). -/
def laneMove (op : Nat) (w : WWord) (s : State) (src : WaveCtx → List Nat → Nat → Nat) : Res :=
  rawWord op w s (fun f c s =>
    let from_ := src c (c.sources s f w).2.1
    let read := (lanesOf c.act).map from_
    let s := s.spoilRegs c (operandRegs f.a w.a) (maskOf (fun i => read.contains i))
    let c := c.now s w
    let v := c.sources s f w
    if c.poisonAt (operandRegs f.a w.a) read then
      s.trapMask c .poison (maskOf (fun i => c.act.getLsbD i && c.poisonAt (operandRegs f.a w.a) [from_ i]))
    else
      (((s.countIssue c.r).consume c f w).writeTyped c.r w.t w.d.toNat c.act
        ((List.range 32).map (fun i => at_ v.1 (from_ i)))).nextWord c.r (wordLen w))

/-- SHUF (04 R141). -/
def execWShuf (w : WWord) (s : State) : Res :=
  laneMove 0x25 w s (fun _ ys i => shufLane w.m.toNat i (at_ ys i))

/-- BCAST (04 R142). -/
def execWBcast (w : WWord) (s : State) : Res :=
  laneMove 0x26 w s (fun c ys _ => if w.m = 0 then uniform ys % 32 else (lowLane c.act).getD 0)

/-- RDSP (04 R143). -/
def execWRdsp (w : WWord) (s : State) : Res := vecWord 0x27 w w.t s (fun x _ _ => (x, 0))

/-- RDSP, scalar form (04 R143). -/
def execWRdspScalar (w : WWord) (s : State) : Res := scaWord 0x67 w .b64 s (fun x _ _ => (x, 0))

/-! ## Predicates and special registers (04 R134, R136, R144) -/

/-- CMP (04 R134). -/
def execWCmp (w : WWord) (s : State) : Res := predWord 0x28 w s (fun x y => (cmpVal w.t w.m.toNat x y, 0))

/-- PLOG (04 R136). -/
def execWPlog (w : WWord) (s : State) : Res :=
  plainWord 0x29 w s (fun _ c _ s =>
    let a := c.wv.pred (operandNum w.a)
    let b := c.wv.pred (operandNum w.b)
    s.writeP c.r w.d.toNat c.act (maskOf (fun i => plogVal (operandNum w.c) (a.getLsbD i) (b.getLsbD i))))

/-- WRSP (04 R144): FLAGS stores bits 5:0, LSTK all 64 bits. It takes effect where a lane is active, as
every instruction does (00 R12; assumption log, entry 15). -/
def execWWrsp (w : WWord) (s : State) : Res :=
  plainWord 0x2A w s (fun _ c src s =>
    if c.act = 0 then s
    else if w.d = 0x1B then
      s.updWg (wgOf c.r) (fun g => g.writeFlags (s.tckOf c.r.core) c.r.wave (BitVec.ofNat 6 (uniform src.1)))
    else s.updWave c.r (fun v => { v with lstk := BitVec.ofNat 64 (uniform src.1) }))

end Sys2Proof.Machine
end

