-- ==== Sys2Proof/Machine/Dispatch.lean ====
section
/-! DEFINITION. The meaning of every instruction: one arm per constructor of Instr. -/

namespace Sys2Proof.Machine

def exec (i : Instr) (s : State) : Host.Outcome State Fault Refusal :=
  match i with
  | .wAdd w => Sys2Proof.Machine.execWAdd w s
  | .wSub w => Sys2Proof.Machine.execWSub w s
  | .wAddc w => Sys2Proof.Machine.execWAddc w s
  | .wSubb w => Sys2Proof.Machine.execWSubb w s
  | .wMul w => Sys2Proof.Machine.execWMul w s
  | .wMulh w => Sys2Proof.Machine.execWMulh w s
  | .wMad w => Sys2Proof.Machine.execWMad w s
  | .wMadw w => Sys2Proof.Machine.execWMadw w s
  | .wMin w => Sys2Proof.Machine.execWMin w s
  | .wMax w => Sys2Proof.Machine.execWMax w s
  | .wAbs w => Sys2Proof.Machine.execWAbs w s
  | .wNeg w => Sys2Proof.Machine.execWNeg w s
  | .wAnd w => Sys2Proof.Machine.execWAnd w s
  | .wOr w => Sys2Proof.Machine.execWOr w s
  | .wXor w => Sys2Proof.Machine.execWXor w s
  | .wNot w => Sys2Proof.Machine.execWNot w s
  | .wAndn w => Sys2Proof.Machine.execWAndn w s
  | .wShl w => Sys2Proof.Machine.execWShl w s
  | .wShr w => Sys2Proof.Machine.execWShr w s
  | .wSar w => Sys2Proof.Machine.execWSar w s
  | .wRot w => Sys2Proof.Machine.execWRot w s
  | .wFunnel w => Sys2Proof.Machine.execWFunnel w s
  | .wBfx w => Sys2Proof.Machine.execWBfx w s
  | .wBfi w => Sys2Proof.Machine.execWBfi w s
  | .wPopc w => Sys2Proof.Machine.execWPopc w s
  | .wClz w => Sys2Proof.Machine.execWClz w s
  | .wCtz w => Sys2Proof.Machine.execWCtz w s
  | .wBrev w => Sys2Proof.Machine.execWBrev w s
  | .wAddScalar w => Sys2Proof.Machine.execWAddScalar w s
  | .wSubScalar w => Sys2Proof.Machine.execWSubScalar w s
  | .wAddcScalar w => Sys2Proof.Machine.execWAddcScalar w s
  | .wSubbScalar w => Sys2Proof.Machine.execWSubbScalar w s
  | .wMulScalar w => Sys2Proof.Machine.execWMulScalar w s
  | .wMulhScalar w => Sys2Proof.Machine.execWMulhScalar w s
  | .wMadScalar w => Sys2Proof.Machine.execWMadScalar w s
  | .wMadwScalar w => Sys2Proof.Machine.execWMadwScalar w s
  | .wMinScalar w => Sys2Proof.Machine.execWMinScalar w s
  | .wMaxScalar w => Sys2Proof.Machine.execWMaxScalar w s
  | .wAbsScalar w => Sys2Proof.Machine.execWAbsScalar w s
  | .wNegScalar w => Sys2Proof.Machine.execWNegScalar w s
  | .wAndScalar w => Sys2Proof.Machine.execWAndScalar w s
  | .wOrScalar w => Sys2Proof.Machine.execWOrScalar w s
  | .wXorScalar w => Sys2Proof.Machine.execWXorScalar w s
  | .wNotScalar w => Sys2Proof.Machine.execWNotScalar w s
  | .wAndnScalar w => Sys2Proof.Machine.execWAndnScalar w s
  | .wShlScalar w => Sys2Proof.Machine.execWShlScalar w s
  | .wShrScalar w => Sys2Proof.Machine.execWShrScalar w s
  | .wSarScalar w => Sys2Proof.Machine.execWSarScalar w s
  | .wRotScalar w => Sys2Proof.Machine.execWRotScalar w s
  | .wFunnelScalar w => Sys2Proof.Machine.execWFunnelScalar w s
  | .wBfxScalar w => Sys2Proof.Machine.execWBfxScalar w s
  | .wBfiScalar w => Sys2Proof.Machine.execWBfiScalar w s
  | .wPopcScalar w => Sys2Proof.Machine.execWPopcScalar w s
  | .wClzScalar w => Sys2Proof.Machine.execWClzScalar w s
  | .wCtzScalar w => Sys2Proof.Machine.execWCtzScalar w s
  | .wBrevScalar w => Sys2Proof.Machine.execWBrevScalar w s
  | .wSel w => Sys2Proof.Machine.execWSel w s
  | .wMov w => Sys2Proof.Machine.execWMov w s
  | .wMovScalar w => Sys2Proof.Machine.execWMovScalar w s
  | .wMovl w => Sys2Proof.Machine.execWMovl w s
  | .wMovlScalar w => Sys2Proof.Machine.execWMovlScalar w s
  | .wLea w => Sys2Proof.Machine.execWLea w s
  | .wLeaScalar w => Sys2Proof.Machine.execWLeaScalar w s
  | .wLane w => Sys2Proof.Machine.execWLane w s
  | .wShuf w => Sys2Proof.Machine.execWShuf w s
  | .wBcast w => Sys2Proof.Machine.execWBcast w s
  | .wRdsp w => Sys2Proof.Machine.execWRdsp w s
  | .wRdspScalar w => Sys2Proof.Machine.execWRdspScalar w s
  | .wCmp w => Sys2Proof.Machine.execWCmp w s
  | .wPlog w => Sys2Proof.Machine.execWPlog w s
  | .wWrsp w => Sys2Proof.Machine.execWWrsp w s
  | .wBra w => Sys2Proof.Machine.execWBra w s
  | .wBrx w => Sys2Proof.Machine.execWBrx w s
  | .wCall w => Sys2Proof.Machine.execWCall w s
  | .wCallx w => Sys2Proof.Machine.execWCallx w s
  | .wRet w => Sys2Proof.Machine.execWRet w s
  | .wExit w => Sys2Proof.Machine.execWExit w s
  | .wTrap w => Sys2Proof.Machine.execWTrap w s
  | .wBreak w => Sys2Proof.Machine.execWBreak w s
  | .wNop w => Sys2Proof.Machine.execWNop w s
  | .wYield w => Sys2Proof.Machine.execWYield w s
  | .wSleep w => Sys2Proof.Machine.execWSleep w s
  | .wWaitf w => Sys2Proof.Machine.execWWaitf w s
  | .wFadd w => Sys2Proof.Machine.execWFadd w s
  | .wFsub w => Sys2Proof.Machine.execWFsub w s
  | .wFmul w => Sys2Proof.Machine.execWFmul w s
  | .wFfma w => Sys2Proof.Machine.execWFfma w s
  | .wFmin w => Sys2Proof.Machine.execWFmin w s
  | .wFmax w => Sys2Proof.Machine.execWFmax w s
  | .wFcmp w => Sys2Proof.Machine.execWFcmp w s
  | .wFclass w => Sys2Proof.Machine.execWFclass w s
  | .wFrnd w => Sys2Proof.Machine.execWFrnd w s
  | .wFract w => Sys2Proof.Machine.execWFract w s
  | .wRcp w => Sys2Proof.Machine.execWRcp w s
  | .wRsq w => Sys2Proof.Machine.execWRsq w s
  | .wSqrt w => Sys2Proof.Machine.execWSqrt w s
  | .wExp2 w => Sys2Proof.Machine.execWExp2 w s
  | .wLog2 w => Sys2Proof.Machine.execWLog2 w s
  | .wSin w => Sys2Proof.Machine.execWSin w s
  | .wCos w => Sys2Proof.Machine.execWCos w s
  | .wTanh w => Sys2Proof.Machine.execWTanh w s
  | .wCvt w => Sys2Proof.Machine.execWCvt w s
  | .wPack w => Sys2Proof.Machine.execWPack w s
  | .wUnpack w => Sys2Proof.Machine.execWUnpack w s
  | .wDot2 w => Sys2Proof.Machine.execWDot2 w s
  | .wDot4 w => Sys2Proof.Machine.execWDot4 w s
  | .wReduce w => Sys2Proof.Machine.execWReduce w s
  | .wScan w => Sys2Proof.Machine.execWScan w s
  | .wTopk w => Sys2Proof.Machine.execWTopk w s
  | .wBallot w => Sys2Proof.Machine.execWBallot w s
  | .wVote w => Sys2Proof.Machine.execWVote w s
  | .wLd w => Sys2Proof.Machine.execWLd w s
  | .wSt w => Sys2Proof.Machine.execWSt w s
  | .wLds w => Sys2Proof.Machine.execWLds w s
  | .wSts w => Sys2Proof.Machine.execWSts w s
  | .wSend w => Sys2Proof.Machine.execWSend w s
  | .wRecv w => Sys2Proof.Machine.execWRecv w s
  | .wPref w => Sys2Proof.Machine.execWPref w s
  | .wWb w => Sys2Proof.Machine.execWWb w s
  | .wInv w => Sys2Proof.Machine.execWInv w s
  | .wAtom w => Sys2Proof.Machine.execWAtom w s
  | .wAtomcas w => Sys2Proof.Machine.execWAtomcas w s
  | .wRed w => Sys2Proof.Machine.execWRed w s
  | .wBind w => Sys2Proof.Machine.execWBind w s
  | .wUnbind w => Sys2Proof.Machine.execWUnbind w s
  | .wAcq w => Sys2Proof.Machine.execWAcq w s
  | .wRel w => Sys2Proof.Machine.execWRel w s
  | .wFence w => Sys2Proof.Machine.execWFence w s
  | .wBar w => Sys2Proof.Machine.execWBar w s
  | .wGbar w => Sys2Proof.Machine.execWGbar w s
  | .wArrive w => Sys2Proof.Machine.execWArrive w s
  | .wWaitb w => Sys2Proof.Machine.execWWaitb w s
  | .wOpfence w => Sys2Proof.Machine.execWOpfence w s
  | .wTladd w => Sys2Proof.Machine.execWTladd w s
  | .wTlset w => Sys2Proof.Machine.execWTlset w s
  | .wTlwait w => Sys2Proof.Machine.execWTlwait w s
  | .wLaunch w => Sys2Proof.Machine.execWLaunch w s
  | .wSetperf w => Sys2Proof.Machine.execWSetperf w s
  | .wProgress w => Sys2Proof.Machine.execWProgress w s
  | .wRdv w => Sys2Proof.Machine.execWRdv w s
  | .seqAdd w => Sys2Proof.Machine.execSeqAdd w s
  | .seqSub w => Sys2Proof.Machine.execSeqSub w s
  | .seqAnd w => Sys2Proof.Machine.execSeqAnd w s
  | .seqOr w => Sys2Proof.Machine.execSeqOr w s
  | .seqXor w => Sys2Proof.Machine.execSeqXor w s
  | .seqShl w => Sys2Proof.Machine.execSeqShl w s
  | .seqShr w => Sys2Proof.Machine.execSeqShr w s
  | .seqSar w => Sys2Proof.Machine.execSeqSar w s
  | .seqMul w => Sys2Proof.Machine.execSeqMul w s
  | .seqSlt w => Sys2Proof.Machine.execSeqSlt w s
  | .seqSltz w => Sys2Proof.Machine.execSeqSltz w s
  | .seqAddi w => Sys2Proof.Machine.execSeqAddi w s
  | .seqLi w => Sys2Proof.Machine.execSeqLi w s
  | .seqLui w => Sys2Proof.Machine.execSeqLui w s
  | .seqBeq w => Sys2Proof.Machine.execSeqBeq w s
  | .seqBne w => Sys2Proof.Machine.execSeqBne w s
  | .seqBlt w => Sys2Proof.Machine.execSeqBlt w s
  | .seqBge w => Sys2Proof.Machine.execSeqBge w s
  | .seqJ w => Sys2Proof.Machine.execSeqJ w s
  | .seqJal w => Sys2Proof.Machine.execSeqJal w s
  | .seqJr w => Sys2Proof.Machine.execSeqJr w s
  | .seqLdg w => Sys2Proof.Machine.execSeqLdg w s
  | .seqStg w => Sys2Proof.Machine.execSeqStg w s
  | .seqCpy w => Sys2Proof.Machine.execSeqCpy w s
  | .seqCpyw w => Sys2Proof.Machine.execSeqCpyw w s
  | .seqMw w => Sys2Proof.Machine.execSeqMw w s
  | .seqNest w => Sys2Proof.Machine.execSeqNest w s
  | .seqGo w => Sys2Proof.Machine.execSeqGo w s
  | .seqNwait w => Sys2Proof.Machine.execSeqNwait w s
  | .seqSpw w => Sys2Proof.Machine.execSeqSpw w s
  | .seqTok w => Sys2Proof.Machine.execSeqTok w s
  | .seqPace w => Sys2Proof.Machine.execSeqPace w s
  | .seqRdv w => Sys2Proof.Machine.execSeqRdv w s
  | .seqOvl w => Sys2Proof.Machine.execSeqOvl w s
  | .seqMfc w => Sys2Proof.Machine.execSeqMfc w s
  | .seqMtc w => Sys2Proof.Machine.execSeqMtc w s
  | .seqTrap w => Sys2Proof.Machine.execSeqTrap w s
  | .seqEret w => Sys2Proof.Machine.execSeqEret w s
  | .seqHalt w => Sys2Proof.Machine.execSeqHalt w s
  | .mWload w => Sys2Proof.Machine.execMWload w s
  | .mStep w => Sys2Proof.Machine.execMStep w s
  | .mDrain w => Sys2Proof.Machine.execMDrain w s
  | .mFold w => Sys2Proof.Machine.execMFold w s
  | .mClr w => Sys2Proof.Machine.execMClr w s
  | .mFill w => Sys2Proof.Machine.execMFill w s
  | .mNop w => Sys2Proof.Machine.execMNop w s
  | .pkNop w => Sys2Proof.Machine.execPkNop w s
  | .pkLaunchGrid w => Sys2Proof.Machine.execPkLaunchGrid w s
  | .pkIndirect w => Sys2Proof.Machine.execPkIndirect w s
  | .pkTlWait w => Sys2Proof.Machine.execPkTlWait w s
  | .pkTlAdd w => Sys2Proof.Machine.execPkTlAdd w s
  | .pkTlSet w => Sys2Proof.Machine.execPkTlSet w s
  | .pkBarrier w => Sys2Proof.Machine.execPkBarrier w s
  | .pkPresent w => Sys2Proof.Machine.execPkPresent w s
  | .mbCreateContext w => Sys2Proof.Machine.execMbCreateContext w s
  | .mbDestroyContext w => Sys2Proof.Machine.execMbDestroyContext w s
  | .mbBindQueue w => Sys2Proof.Machine.execMbBindQueue w s
  | .mbUnbindQueue w => Sys2Proof.Machine.execMbUnbindQueue w s
  | .mbResetQueue w => Sys2Proof.Machine.execMbResetQueue w s
  | .mbResetContext w => Sys2Proof.Machine.execMbResetContext w s
  | .mbFwRestart w => Sys2Proof.Machine.execMbFwRestart w s
  | .mbGrant w => Sys2Proof.Machine.execMbGrant w s
  | .mbPodPeer w => Sys2Proof.Machine.execMbPodPeer w s
  | .mbSetPasid w => Sys2Proof.Machine.execMbSetPasid w s
  | .mbClearFences w => Sys2Proof.Machine.execMbClearFences w s
  | .lLoop w => Sys2Proof.Machine.execLLoop w s
  | .lBr w => Sys2Proof.Machine.execLBr w s
  | .lBrc w => Sys2Proof.Machine.execLBrc w s
  | .lHalt w => Sys2Proof.Machine.execLHalt w s
  | .lBeam w => Sys2Proof.Machine.execLBeam w s
  | .lPose w => Sys2Proof.Machine.execLPose w s
  | .lKadd w => Sys2Proof.Machine.execLKadd w s
  | .lKaddi w => Sys2Proof.Machine.execLKaddi w s
  | .lKsub w => Sys2Proof.Machine.execLKsub w s
  | .lKmul w => Sys2Proof.Machine.execLKmul w s
  | .lKand w => Sys2Proof.Machine.execLKand w s
  | .lKor w => Sys2Proof.Machine.execLKor w s
  | .lKxor w => Sys2Proof.Machine.execLKxor w s
  | .lKshl w => Sys2Proof.Machine.execLKshl w s
  | .lKshr w => Sys2Proof.Machine.execLKshr w s
  | .lKsar w => Sys2Proof.Machine.execLKsar w s
  | .lKli w => Sys2Proof.Machine.execLKli w s
  | .lKlui w => Sys2Proof.Machine.execLKlui w s
  | .lKslt w => Sys2Proof.Machine.execLKslt w s
  | .lHadd w => Sys2Proof.Machine.execLHadd w s
  | .lHsub w => Sys2Proof.Machine.execLHsub w s
  | .lHmul w => Sys2Proof.Machine.execLHmul w s
  | .lHfma w => Sys2Proof.Machine.execLHfma w s
  | .lHmin w => Sys2Proof.Machine.execLHmin w s
  | .lHmax w => Sys2Proof.Machine.execLHmax w s
  | .lHcmp w => Sys2Proof.Machine.execLHcmp w s
  | .lHsel w => Sys2Proof.Machine.execLHsel w s
  | .lHcvt w => Sys2Proof.Machine.execLHcvt w s
  | .lHrcp w => Sys2Proof.Machine.execLHrcp w s
  | .lHlerp w => Sys2Proof.Machine.execLHlerp w s
  | .lHshuf w => Sys2Proof.Machine.execLHshuf w s
  | .lPmm w => Sys2Proof.Machine.execLPmm w s
  | .lPmw w => Sys2Proof.Machine.execLPmw w s
  | .lLbld w => Sys2Proof.Machine.execLLbld w s
  | .lLbst w => Sys2Proof.Machine.execLLbst w s
  | .lGath w => Sys2Proof.Machine.execLGath w s
  | .lSamp w => Sys2Proof.Machine.execLSamp w s
  | .lEmit w => Sys2Proof.Machine.execLEmit w s
  | .lNop w => Sys2Proof.Machine.execLNop w s
  | .evClauseStart => Sys2Proof.Machine.execEvClauseStart s
  | .evLongLatencyCompletion r k => Sys2Proof.Machine.execEvLongLatencyCompletion r k s
  | .evSleepExpiry r => Sys2Proof.Machine.execEvSleepExpiry r s
  | .evWaitfRelease r => Sys2Proof.Machine.execEvWaitfRelease r s
  | .evBarrierPhaseCompletion r n => Sys2Proof.Machine.execEvBarrierPhaseCompletion r n s
  | .evGbarCompletion grid => Sys2Proof.Machine.execEvGbarCompletion grid s
  | .evRendezvousCompletion r => Sys2Proof.Machine.execEvRendezvousCompletion r s
  | .evAcqRelease r => Sys2Proof.Machine.execEvAcqRelease r s
  | .evTlwaitRelease r => Sys2Proof.Machine.execEvTlwaitRelease r s
  | .evTlwaitPark r => Sys2Proof.Machine.execEvTlwaitPark r s
  | .evTimelinePoll r => Sys2Proof.Machine.execEvTimelinePoll r s
  | .evWaveEnd r => Sys2Proof.Machine.execEvWaveEnd r s
  | .evSpillwayHandlerDelivery r => Sys2Proof.Machine.execEvSpillwayHandlerDelivery r s
  | .evReplyTakenAsPoisoned r k => Sys2Proof.Machine.execEvReplyTakenAsPoisoned r k s
  | .evWatchdog r => Sys2Proof.Machine.execEvWatchdog r s
  | .evShedForce r => Sys2Proof.Machine.execEvShedForce r s
  | .evSequencerJobStart r => Sys2Proof.Machine.execEvSequencerJobStart r s
  | .evPassCommit core => Sys2Proof.Machine.execEvPassCommit core s
  | .evSpillwayStallExpiry core => Sys2Proof.Machine.execEvSpillwayStallExpiry core s
  | .evMatrixWordCompletion core q => Sys2Proof.Machine.execEvMatrixWordCompletion core q s
  | .evNestWordGeneration core => Sys2Proof.Machine.execEvNestWordGeneration core s
  | .evHeadgateDemand core q => Sys2Proof.Machine.execEvHeadgateDemand core q s
  | .evHeadgateGrant tile => Sys2Proof.Machine.execEvHeadgateGrant tile s
  | .evHeadgateBoundary tile => Sys2Proof.Machine.execEvHeadgateBoundary tile s
  | .evRampTableInForce tile => Sys2Proof.Machine.execEvRampTableInForce tile s
  | .evCopyAcceptance r => Sys2Proof.Machine.execEvCopyAcceptance r s
  | .evCopyChunkStart core slot => Sys2Proof.Machine.execEvCopyChunkStart core slot s
  | .evCopyChunkCompletion core slot => Sys2Proof.Machine.execEvCopyChunkCompletion core slot s
  | .evStreamDelivery core slot => Sys2Proof.Machine.execEvStreamDelivery core slot s
  | .evCopyCompletion core slot => Sys2Proof.Machine.execEvCopyCompletion core slot s
  | .evClaim core grid => Sys2Proof.Machine.execEvClaim core grid s
  | .evGangClaim core grid => Sys2Proof.Machine.execEvGangClaim core grid s
  | .evPlacement core => Sys2Proof.Machine.execEvPlacement core s
  | .evReservedMemberPlacement core => Sys2Proof.Machine.execEvReservedMemberPlacement core s
  | .evTokenGrowth grid => Sys2Proof.Machine.execEvTokenGrowth grid s
  | .evPreemptionDecision grid => Sys2Proof.Machine.execEvPreemptionDecision grid s
  | .evDrainTimeout r => Sys2Proof.Machine.execEvDrainTimeout r s
  | .evSaveCompletion r => Sys2Proof.Machine.execEvSaveCompletion r s
  | .evRestore core frame => Sys2Proof.Machine.execEvRestore core frame s
  | .evRelaunch core grid => Sys2Proof.Machine.execEvRelaunch core grid s
  | .evQtailWrite q v => Sys2Proof.Machine.execEvQtailWrite q v s
  | .evTlWaitRelease q => Sys2Proof.Machine.execEvTlWaitRelease q s
  | .evParsingResumes q => Sys2Proof.Machine.execEvParsingResumes q s
  | .evOverflowMove ctx => Sys2Proof.Machine.execEvOverflowMove ctx s
  | .evDeviceLaunchDequeue ctx => Sys2Proof.Machine.execEvDeviceLaunchDequeue ctx s
  | .evMailboxCompletion f => Sys2Proof.Machine.execEvMailboxCompletion f s
  | .evCtxerrWrite ctx v => Sys2Proof.Machine.execEvCtxerrWrite ctx v s
  | .evFresumeResume ctx frame => Sys2Proof.Machine.execEvFresumeResume ctx frame s
  | .evFresumeKill ctx frame => Sys2Proof.Machine.execEvFresumeKill ctx frame s
  | .evTlbinv ctx v => Sys2Proof.Machine.execEvTlbinv ctx v s
  | .evTlbinvComplete ctx => Sys2Proof.Machine.execEvTlbinvComplete ctx s
  | .evCerrWrite core v => Sys2Proof.Machine.execEvCerrWrite core v s
  | .evRegisterWrite f dpa size v => Sys2Proof.Machine.execEvRegisterWrite f dpa size v s
  | .evHostPostedWrite f offset bytes => Sys2Proof.Machine.execEvHostPostedWrite f offset bytes s
  | .evHostMemoryRead f offset size => Sys2Proof.Machine.execEvHostMemoryRead f offset size s
  | .evShelfFrame bytes => Sys2Proof.Machine.execEvShelfFrame bytes s
  | .evShelfReply draw vin => Sys2Proof.Machine.execEvShelfReply draw vin s
  | .evShelfLoss => Sys2Proof.Machine.execEvShelfLoss s
  | .evShedLevelChange => Sys2Proof.Machine.execEvShedLevelChange s
  | .evShedctlWrite v => Sys2Proof.Machine.execEvShedctlWrite v s
  | .evVmboxWrite tile point => Sys2Proof.Machine.execEvVmboxWrite tile point s
  | .evRailMoveComplete tile => Sys2Proof.Machine.execEvRailMoveComplete tile s
  | .evRailPassesPoint tile => Sys2Proof.Machine.execEvRailPassesPoint tile s
  | .evHgrampWrite tile n v => Sys2Proof.Machine.execEvHgrampWrite tile n v s
  | .evRunSet head v => Sys2Proof.Machine.execEvRunSet head v s
  | .evRunClear head v => Sys2Proof.Machine.execEvRunClear head v s
  | .evHeadStop head => Sys2Proof.Machine.execEvHeadStop head s
  | .evPosecommit head v => Sys2Proof.Machine.execEvPosecommit head v s
  | .evLineStart head => Sys2Proof.Machine.execEvLineStart head s
  | .evPoseLatch head => Sys2Proof.Machine.execEvPoseLatch head s
  | .evBandDispatch head => Sys2Proof.Machine.execEvBandDispatch head s
  | .evBandAbort lc => Sys2Proof.Machine.execEvBandAbort lc s
  | .evGuardPoint head => Sys2Proof.Machine.execEvGuardPoint head s
  | .evCaptureFrameDone head => Sys2Proof.Machine.execEvCaptureFrameDone head s
  | .evWaterTurnToken gen entries => Sys2Proof.Machine.execEvWaterTurnToken gen entries s
  | .evSteal thief => Sys2Proof.Machine.execEvSteal thief s
  | .evStealRangeArrival range => Sys2Proof.Machine.execEvStealRangeArrival range s
  | .evStolenCompletionReport grid wgl => Sys2Proof.Machine.execEvStolenCompletionReport grid wgl s
  | .evThiefUnreachable thief => Sys2Proof.Machine.execEvThiefUnreachable thief s
  | .evTokenRegeneration lowerReachable => Sys2Proof.Machine.execEvTokenRegeneration lowerReachable s
  | .evPowerUp fails => Sys2Proof.Machine.execEvPowerUp fails s
  | .evThermalTrip => Sys2Proof.Machine.execEvThermalTrip s
  | .evInputUndervoltage => Sys2Proof.Machine.execEvInputUndervoltage s
  | .evUncorrectableError target => Sys2Proof.Machine.execEvUncorrectableError target s
  | .evSpdmMeasurements index nonce => Sys2Proof.Machine.execEvSpdmMeasurements index nonce s
  | .evPldmFirmwareUpdate image bytes => Sys2Proof.Machine.execEvPldmFirmwareUpdate image bytes s
  | .evPldmActivation image counter => Sys2Proof.Machine.execEvPldmActivation image counter s
  | .evPldmSensorRead sensor => Sys2Proof.Machine.execEvPldmSensorRead sensor s
  | .evHostAtomicopCompletion id old => Sys2Proof.Machine.execEvHostAtomicopCompletion id old s
  | .evPodRequestArrival req => Sys2Proof.Machine.execEvPodRequestArrival req s
  | .evLineResultArrival lc k => Sys2Proof.Machine.execEvLineResultArrival lc k s
  | .evLdgAccessReturn core ctx => Sys2Proof.Machine.execEvLdgAccessReturn core ctx s
  | .evOvlLoadComplete core => Sys2Proof.Machine.execEvOvlLoadComplete core s
  | .evMaintenancePerformed r => Sys2Proof.Machine.execEvMaintenancePerformed r s

end Sys2Proof.Machine
end

