-- ==== Sys2Proof/Machine/Fetch.lean ====
section
/-! DEFINITION. What the turn at the head of the agenda comes to: the fetch of an agent's next word and what
stops it (03 R93-R96; 04 R147, R149; 07 R222, R230; 08 R262; 09 R290-R295; 11 R319-R329, R342), and the moves
that are no instruction: time, evictions, drains, and the outside world (assumption log, entry 1). -/

namespace Sys2Proof.Machine

/-- What a turn comes to. -/
inductive Fetched where
  /-- an instruction runs on this state. -/
  | run (i : Instr) (s : State)
  /-- the operations of a line core's bundle run one after another, then its end (09 R292). -/
  | bundle (lc : Nat) (ops : List Instr) (s : State)
  /-- the turn runs no instruction. -/
  | did (r : Res)

/-- A turn that leads to a state and runs no instruction. -/
def Fetched.done (s : State) : Fetched := .did (.next s)

/-! ## Waves -/

/-- Whether something holds a wave's group back: a trap with the pager, or timeline writes in flight. -/
def WaveBlock.stops : WaveBlock → Bool
  | .trapped | .hostOp _ => true
  | _ => false

/-- The fetch of a wave's word whose literal, where it selects one, is `lit` (03 R88): a word that is no
instruction traps ILLEGAL_WORD. -/
def State.issueWave (s : State) (r : WaveRef) (g : Group) (x : Nat) (lit : Option W64) : Fetched :=
  match decodeWave (BitVec.ofNat 64 x) lit with
  | some i => .run i { s with cur := .wave r }
  | none => .done (s.trapFetch r .illegalWord g.wordAddr g.lanes)

/-- Fetches 8 bytes of a clause, and goes on with them; or the wave waits, or traps at their address (03 R95; 01 R47; 16 R404,
R418). -/
def State.fetchCode (s : State) (r : WaveRef) (w : Workgroup) (g : Group) (va : W64) (f : Nat → State → Fetched) : Fetched :=
  let t := s.translate r.core w.ctx va.toNat .fetch
  match t.1 with
  | .ok d =>
    if s.awaitsMember w d then .done t.2
    else if (List.range 8).any (fun i => s.poisonedByte (d + i)) then .done (t.2.trapFetch r .poison va g.lanes)
    else f (s.fetchAt r.core w.ctx d) (t.2.noteFetch r.core d)
  | .wait => .done t.2
  | k => .done (t.2.trapXlat r k va g.lanes)

/-- Whether a word that selects a literal traps ILLEGAL_WORD when it is reached, before its literal is fetched: it is no
instruction, it is a control word and does not stand last, or it is long-latency and its clause names no flag (03 R95, R97,
R101). -/
def Group.illegal (g : Group) (x : Nat) : Bool :=
  (decodeWave (BitVec.ofNat 64 x) (some 0)).isNone || (lastOnly (bits x 56 8) && g.ix + 2 != g.words)
    || (longLatency (bits x 56 8) && !bit g.head.toNat 39 && !bit g.head.toNat 34)

/-- The literal word that follows a word in its clause (03 R88): fetched as a word of its own. -/
def State.fetchLiteral (s : State) (r : WaveRef) (w : Workgroup) (g : Group) (x : Nat) : Fetched :=
  if g.illegal x then .done (s.trapFetch r .illegalWord g.wordAddr g.lanes)
  else if g.ix + 1 < g.words then
    s.fetchCode r w g (g.wordAddr + 8) (fun y s => s.issueWave r g x (some (BitVec.ofNat 64 y)))
  else s.issueWave r g x none

/-- The next word of a wave's group (03 R94, R95). -/
def State.fetchWave (s : State) (r : WaveRef) (w : Workgroup) (g : Group) : Fetched :=
  if g.words ≤ g.ix then .done s
  else s.fetchCode r w g g.wordAddr (fun x s => if selectsLit x then s.fetchLiteral r w g x else s.issueWave r g x none)

/-- A wave's turn: its group's next word, or the start of a clause. -/
def State.turnWave (s : State) (r : WaveRef) : Fetched :=
  match s.wg? (wgOf r), s.wave? r with
  | some w, some v =>
    if v.ended || w.saving || v.block.stops then .done s
    else
      match v.group with
      | none => .run .evClauseStart { s with cur := .wave r }
      | some g => s.fetchWave r w g
  | _, _ => .done s

/-! ## The sequencer (07 R222, R230) -/

/-- The owner of a wheel position (07 R222). -/
def wheelOwner (n : Nat) : SeqCtx :=
  match n % 4 with
  | 0 => .intake
  | 3 => .outfall
  | _ => .main

/-- Whether a word waits for a register that an LDG still writes, or for tokens (07 R224, R231). -/
def SeqIssue.unready (c : SeqIssue) (op : Nat) (w : SWord) : Bool :=
  match seqForm op with
  | none => false
  | some f =>
    (seqRegs f op w).any (fun n => n != 0 && c.st.ldgs.any (fun l => l.reg == n))
      || (c.ctx != .trap && !tokensReady c.job c.ctx w)

/-- Whether a CPY has no slot in its order of arrival (07 R236). -/
def SeqIssue.slotless (c : SeqIssue) (s : State) : Bool :=
  (s.copySlotFor c.r.core (arrivalKey (c.st.copySince.getD (s.tckOf c.r.core)) none)).isNone

/-- Whether a word that its context may execute cannot issue yet: what every word waits for, and the waits of single words
(07 R224, R231, R236-R240, R246). -/
def SeqIssue.blocked (c : SeqIssue) (s : State) (op : Nat) (w : SWord) : Bool :=
  if (seqRefused op c.ctx w).isSome then false
  else if c.unready op w then true
  else if c.readsPoison op w then false
  else
    match op with
    | 0x20 => c.slotless s
    | 0x21 => c.wg.copies.any (copyUpTo c.ctx (c.g w.a).toNat)
    | 0x22 =>
      match storeOffset c w 24 with
      | none => false
      | some off => decide (32 ≤ (c.job.queue (queueOf (bits (ofBytes (s.storeBytes c.r.core off 24)) 188 4))).held)
    | 0x24 => c.job.nest.isSome
    | 0x25 => c.job.open_.any (fun p => decide (p.1 ≤ (c.g w.a).toNat))
    | 0x31 => c.job.ovl.isSome
    | _ => false

/-- What a context does at its position of the wheel. -/
inductive SeqFate where
  /-- it cannot issue. -/
  | stall
  | trap (k : TrapKind) (word : W32)
  | word (i : Instr)

/-- Whether a context of an engine job waits at a word boundary: halted, trapped, in RDV, in its own overlay
load, or main between a SPILLWAY_FULL and its delivery (07 R245-R247; 16 R403). -/
def Job.waits (j : Job) (ctx : SeqCtx) : Bool :=
  let c := j.ctx ctx
  c.halted || c.trapped || c.rdv.isSome || j.ovl.any (fun o => o.ctx == ctx)
    || (ctx == .main && j.spwStop.any (fun x => !x.delivered))

/-- Whether a fetch falls in a range being loaded (07 R246). -/
def Job.loading (j : Job) (pc : Nat) : Bool :=
  j.ovl.any (fun o => decide (pc < o.at_ + o.bytes.length) && decide (o.at_ < pc + 4))

/-- The fate of a word of the store in the context that fetches it. -/
def State.wordFate (s : State) (core : Nat) (ctx : SeqCtx) (word : W32) : SeqFate :=
  match decodeSeq word with
  | none => .trap .illegalWord word
  | some i =>
    match seqOpcode i, s.seqIssue? core ctx word with
    | some (op, w), some c => if c.blocked s op w then .stall else .word i
    | _, _ => .stall

/-- The word of the instruction store at an offset. -/
def State.storeWord (s : State) (core pc : Nat) : W32 := BitVec.ofNat 32 (ofBytes (s.storeBytes core pc 4))

/-- The fate of a user context (07 R230). No word is fetched at or above 0xE000: TWORD of that trap reads 0, by the model's choice
(assumption log, entry 13). -/
def State.userFate (s : State) (core : Nat) (j : Job) (ctx : SeqCtx) : SeqFate :=
  let pc := (j.ctx ctx).pc
  if j.waits ctx then .stall
  else if 0xE000 ≤ pc then .trap .priv 0
  else if j.loading pc then .stall
  else s.wordFate core ctx (s.storeWord core pc)

/-- The trap of a word that is fetched and is no instruction of its context (07 R230; 03 R106). -/
def State.trapFetchSeq (s : State) (core : Nat) (ctx : SeqCtx) (k : TrapKind) (word : W32) : State :=
  match s.seqIssue? core ctx word with
  | some c => s.seqTrap c k 0 0 0 []
  | none => s

/-- What the chosen context does. -/
def State.seqDoes (s : State) (core : Nat) (ctx : SeqCtx) : SeqFate → Fetched
  | .stall => .done s
  | .trap k word => .done (s.trapFetchSeq core ctx k word)
  | .word i => .run i { s with cur := .seq core ctx }

/-- Whether the trap context fetches in a range that an overlay load of a job fills (07 R246). -/
def State.trapLoading (s : State) (core : Nat) : Bool :=
  (s.engineJob? core).any (fun p => p.2.loading (s.core core).trap.pc)

/-- The trap context's position (07 R222, R230, R250): it issues nothing until an escalation has returned. Where its store
holds no word at its entry, the resident pager's service stands in for the program (assumption log, entry 9). -/
def State.turnTrap (s : State) (core : Nat) : Fetched :=
  let pc := (s.core core).trap.pc
  if (s.core core).trap.escalating || s.trapLoading core then .done s
  else if 0xFFFC < pc then .done (s.trapFetchSeq core .trap .illegalWord 0)
  else
    let word := s.storeWord core pc
    if pc = 0xE000 ∧ word = 0 then .done (s.pagerService core)
    else s.seqDoes core .trap (s.wordFate core .trap word)

/-- The first context that can issue, in wheel order from a position on (07 R222). -/
def State.wheelChoice (s : State) (core : Nat) (j : Job) (pos : Nat) : Option (SeqCtx × SeqFate) :=
  (List.range 8).findSome? (fun i =>
    match s.userFate core j (wheelOwner (pos + i)) with
    | .stall => none
    | f => some (wheelOwner (pos + i), f))

/-- Whether a context's next word is a CPY that waits for nothing but a copy slot. -/
def State.waitsForSlot (s : State) (core : Nat) (j : Job) (ctx : SeqCtx) : Bool :=
  let pc := (j.ctx ctx).pc
  let word := s.storeWord core pc
  !j.waits ctx && decide (pc < 0xE000) && !j.loading pc
    && match (decodeSeq word).bind seqOpcode, s.seqIssue? core ctx word with
      | some (op, w), some c => op == 0x20 && (seqRefused op ctx w).isNone && !c.unready op w && c.slotless s
      | _, _ => false

/-- Notes the arrival of the CPYs that wait for a copy slot (07 R236; 18 R435). -/
def State.noteCopyWaits (s : State) (core slot : Nat) (j : Job) : State :=
  [SeqCtx.intake, .main, .outfall].foldl (fun (s : State) ctx =>
    if s.waitsForSlot core j ctx then
      s.updJob ⟨core, slot⟩ (fun j => j.updCtx ctx (fun x => { x with copySince := x.copySince.or (some (s.tckOf core)) }))
    else s) s

/-- A position of a core's issue wheel (07 R222). -/
def State.turnSeq (s : State) (core : Nat) : Fetched :=
  let pos := (s.core core).wheel
  let s := s.updCore core (fun c => { c with wheel := (c.wheel + 1) % 8 })
  if (s.core core).trap.item.isSome then s.turnTrap core
  else
    match s.engineJob? core with
    | none => .done s
    | some (r, j) =>
      if (s.wg? r).any (·.saving) || !j.started || j.ended then .done s
      else
        let s := s.noteCopyWaits core r.slot j
        match s.wheelChoice core j pos with
        | some (ctx, f) => s.seqDoes core ctx f
        | none => .done s

/-! ## Engine queues -/

/-- Runs a word of an engine queue. -/
def State.runWord (s : State) (c : HeadCtx) : Fetched :=
  match assoc matrixOps c.q.opx with
  | some f => .run (f c.q.w) { s with cur := .engine c.r.core c.eq }
  | none => .done s

/-- Whether the word that starts next does so now (08 R261, R262; 20 R452): it is granted, or has no demand and its unit is
free. -/
def State.wordStarts (s : State) (c : HeadCtx) : Bool :=
  !c.wg.saving && c.job.headReady c.eq && s.mayBegin c.r c.job c.eq
    && ((c.job.queue c.eq).nextPhase == .granted || s.unitFree c.r.core c.eq c.loader)

/-- The weight loader's word that waited for full lines and finds them. -/
def State.loaderResumes (s : State) (core : Nat) : Option HeadCtx :=
  (s.loaderWord? core).filter (fun c =>
    c.job.matrixQ.loader.any (fun l => l.phase == .running) && !c.wg.emptyIn (wordReads 1 c.q.w none))

/-- An engine queue's turn: the weight loader goes on, or the next word starts, where it may. -/
def State.turnEngine (s : State) (core : Nat) (q : EngineQueue) : Fetched :=
  match (if q = .matrix then s.loaderResumes core else none), s.startWord? core q with
  | some c, _ => s.runWord c
  | none, some c => if s.wordStarts c then (s.updHead' c EngineQ.advance).runWord c else .done s
  | none, none => .done s

/-! ## Line cores (09 R290-R295, R314) -/

/-- A line core's next bundle, where its band runs; a band that is overdue is aborted instead (24 R488). -/
def State.turnLine (s : State) (lc : Nat) : Fetched :=
  let c := (s.lineCore lc).snapped
  if c.band.isNone || c.stopped || c.head.isNone then .done s
  else if s.overdue c then .done (s.abortBand lc)
  else
    let s := s.updLineCore lc (fun _ => c)
    match s.bundleFate c with
    | .wait => .done s
    | .fault code slots => .done (s.updLineCore lc (fun c => c.fault code slots))
    | .issue ops =>
      -- the operations of slot 0 come last: a branch writes the PC over its advance
      .bundle lc (ops.drop 1 ++ ops.take 1) { (s.updLineCore lc (fun c => { c with pc := c.pc + 1 })) with cur := .line lc }

/-! ## Packets (11 R319, R321, R326, R328, R329) -/

/-- The address of word `i` from a queue's parsing position. -/
def HwQueue.wordVa (x : HwQueue) (i : Nat) : Nat :=
  match x.bufs with
  | [] => x.base.toNat + 8 * ((x.head + i) % 2 ^ x.log2)
  | b :: _ => b.addr + 8 * (b.next + i)

/-- Reads words of a context in order, wherever they lie: the worst result, and the words; with what the reads leave
(11 R319; 01 R46, R47; 16 R414, R418). -/
def State.feWords (s : State) (ctx : Nat) (vas : List Nat) : (Xlat × List W64) × State :=
  vas.foldl (fun (a : (Xlat × List W64) × State) va =>
    let r := a.2.feWord ctx va
    ((a.1.1.worse r.1.1, a.1.2 ++ [BitVec.ofNat 64 r.1.2]), r.2)) ((.ok 0, []), s)

/-- How a packet's words stand to the end of their ring or buffer. -/
inductive PacketRoom where | fits | later | malformed
  deriving DecidableEq, Repr

/-- Whether `n` words from the parsing position lie below the tail, or in the indirect buffer (11 R321, R326). -/
def HwQueue.room (x : HwQueue) (n : Nat) : PacketRoom :=
  match x.bufs with
  | [] => if x.head + n ≤ x.tail then .fits else .later
  | b :: _ => if b.next + n ≤ b.len then .fits else .malformed

/-- A packet whose words have been read; one whose header is malformed halts the queue. -/
def State.issuePacket (s : State) (q : Nat) (header : W64) (body : List W64) : Fetched :=
  match decodePacket header body with
  | some i => if bits header.toNat 24 8 = 0 then .run i { s with cur := .packet q } else .did (s.badPacket q)
  | none => .did (s.badPacket q)

/-- The halt of a queue on a word that does not translate, or that is poisoned; a filling page is waited for (11 R319; 16 R404;
assumption log, entry 66). -/
def State.packetFault (s : State) (q : Nat) : Xlat → Fetched
  | .wait => .done s
  | _ => .done (s.updQueue q (fun x => x.halt true))

/-- A queue's next packet (11 R321, R326, R328, R329): its words are read in the turn that parses it, and again where it is parsed
again, and one that does not translate halts the queue before the packet's fields are checked; both are the model's choice
(assumption log, entries 7 and 63). -/
def State.turnPacket (s : State) (q : Nat) : Fetched :=
  let x := s.queue q
  if !s.modl.ready || !x.bound || x.halted || x.wait != .none then .done s
  else
    match x.room 1 with
    | .later => .done s
    | .malformed => .did (s.badPacket q)
    | .fits =>
      match s.feWords x.ctx [x.wordVa 0] with
      | ((.ok _, h :: _), s) =>
        let n := bits h.toNat 8 16
        match x.room n with
        | .later => .done s
        | .malformed => .did (s.badPacket q)
        | .fits =>
          match s.feWords x.ctx ((List.range (n - 1)).map (fun i => x.wordVa (i + 1))) with
          | ((.ok _, body), s) => if n = 0 then .did (s.badPacket q) else s.issuePacket q h body
          | ((k, _), s) => s.packetFault q k
      | ((k, _), s) => s.packetFault q k

/-! ## Mailboxes (11 R340, R342) -/

/-- The policy processor takes a mailbox's request (11 R340-R342); a reserved command is BAD_CMD. -/
def State.turnMail (s : State) (f : Nat) : Fetched :=
  let m := s.mailbox f
  if !m.busy || !s.modl.ready || s.modl.fwState ≠ 1 then .done s
  else
    match decodeMail (m.word 0) (m.word 1) (m.word 2) (m.word 3) f with
    | some i => .run i { s with cur := .mail f }
    | none => .did (s.mailFail f .badCmd)

/-! ## Time and the outside world -/

/-- `n` tck of a tile, its headgate apart: its counter, its watchdogs and the counts of R270, and the levels that the state at
the end of the tck gives the next one (22 R467). -/
def State.spendTck (s : State) (tile n : Nat) : State :=
  let force := s.nextLevels tile
  ((s.countWatchdogs tile n).countStalls tile n).updTile tile (fun t => { t with
    tck := t.tck + n, force := if n = 0 then t.force else force })

/-- Whether a tile's headgate has something to do in this tck before the next one comes: a boundary, a grant, or the start of
a granted word (20 R451, R452). -/
def State.gateDue (s : State) (tile : Nat) : Bool :=
  let t := s.tile tile
  t.gate.due t.tck || (t.gate.first s.mayGrant).any t.gate.grants || s.grantOpen tile

/-- `n` tck of a tile, up to one in which its headgate has something to do (20 R449-R454). -/
def State.passTck (s : State) (tile : Nat) : Nat → State
  | 0 => s
  | n + 1 =>
    if (s.tile tile).gate.quiet then s.spendTck tile (n + 1)
    else if s.gateDue tile then s
    else ((s.tickGate tile).spendTck tile 1).passTck tile n

/-- `n` fck: every rail that moves takes `n` units of its way (22 R462), the master clocks of the islands with power go on,
but for the presentation die's, which the lck counts (01 R26), and the grids that wait have waited so long (13 R357). -/
def State.passFck (s : State) (n : Nat) : State :=
  { s with
    fck := s.fck + n, tiles := s.tiles.map (fun p => (p.1, { p.2 with rail := p.2.railAfter n })),
    islands := s.islands.zipIdx.map (fun p => if p.1.rail ∧ p.2 ≠ 4 then { p.1 with clock := p.1.clock + n } else p.1),
    grids := s.grids.map (fun g => if g.token < 255 ∧ s.waiting g = true then { g with waited := g.waited + n } else g) }

/-- `n` lck: the presentation die's master clock goes on with them where its rail is up (01 R26). -/
def State.passLck (s : State) (n : Nat) : State :=
  { s with lck := s.lck + n, islands := modAt s.islands 4 (fun i => if i.rail then { i with clock := i.clock + n } else i) }

/-- Whether `n` bytes from an address on lie in memory of the outside world: the host's, or another module's. -/
def State.isOutside (s : State) (a n : Nat) : Bool :=
  (List.range n).all (fun i => match place (s.canonAddr (a + i)) with
    | .host | .pod _ _ => true
    | _ => false)

/-- Drops a cached translation from a core's TLB and its quadrant's, and the tables of its walk from the quadrant's walk
cache (16 R412). -/
def State.dropTlb (s : State) (core ctx va : Nat) : State :=
  { (s.updCore core (fun c => { c with tlb := c.tlb.filter (fun e => !(e.ctx == ctx && e.va == va)) })) with
    l2tlb := s.l2tlb.filter (fun p => !(p.1 == quadOf core && p.2.ctx == ctx && p.2.va == va)),
    walkCache := s.walkCache.filter (fun p => !(p.1 == quadOf core && p.2.covers ctx va)) }

/-- The numbers of the module's units (01 R25; 11 R318; 25 R498). -/
def Turn.names : Turn → Bool
  | .wave r => decide (r.core < 768)
  | .seq c | .engine c _ | .evict c _ | .tlbDrop c _ _ | .fillCode c _ | .dropCode c _ => decide (c < 768)
  | .drainWc r => decide (r.core < 768)
  | .line lc => decide (lc < 16)
  | .packet q => decide (q < 256)
  | .mail f | .regRead f _ _ => decide (f < 17)
  | .tck t _ | .firmware t => decide (t < 64)
  | .event _ | .fck _ | .lck _ | .outside _ _ | .resizeBar _ | .outage _ _ _ => true

/-- A turn of a unit the module has. -/
def State.take (s : State) : Turn → Fetched
  | .wave r => s.turnWave r
  | .seq core => s.turnSeq core
  | .engine core q => s.turnEngine core q
  | .line lc => s.turnLine lc
  | .packet q => s.turnPacket q
  | .mail f => s.turnMail f
  | .event i => .run i { s with cur := .none }
  | .tck tile n => .done (s.passTck tile n)
  | .fck n => .done (s.passFck n)
  | .lck n => .done (s.passLck n)
  | .evict core line => .done (s.invalidate core (fun x => x == line))
  | .drainWc r => .done (s.drainWc r)
  | .outside a b => .done (if s.isOutside a b.length then s.writeMem (s.canonAddr a) b else s)
  | .tlbDrop core ctx va => .done (s.dropTlb core ctx va)
  | .regRead f dpa size => .done (s.answerRegRead f dpa size)
  | .fillCode core line => .done (s.fillCode core line)
  | .dropCode core line => .done (s.dropCode core line)
  | .firmware tile => .done (s.chooseFirmware tile)
  | .resizeBar log => .done (s.resizeBar log)
  | .outage fails step at_ => .done (s.outage fails step at_)

/-- A step with nothing on the agenda: a module with power starts (25 R504), and then time passes. -/
def State.idleMove (s : State) : Fetched :=
  if s.modl.powered && !s.modl.ready && s.modl.failStep == 0 then .did (execEvPowerUp [] s)
  else .done (s.passFck 1)

/-- What follows from every step in its own moment: an L1 gives up lines for registers spilled (01 R48), waiters compare the
values that their timelines now have (06 R213, R214), grids complete whose timelines' walks no longer wait, and permitted
restores take their places (13 R354). -/
def State.settle (s : State) : State :=
  (s.cores.foldl (fun s p => s.fitL1 p.1) s).wakeWaiters.settleGrids.notePermits

/-- A move with what follows from it. -/
def settled : Res → Res
  | .next s => .next s.settle
  | x => x

/-- What the next step does. -/
def State.fetch (s : State) : Fetched :=
  match s.agenda with
  | [] => s.idleMove
  | t :: rest => if t.names then ({ s with agenda := rest } : State).take t else .did (.fault .noSuchUnit)

end Sys2Proof.Machine
end

