-- ==== Sys2Proof/Machine/Step.lean ====
section
/-! DEFINITION. One step of the machine: the turn at the head of the agenda (assumption log, entry 1). -/

namespace Sys2Proof.Machine

/-- The operations of a bundle, one after another (09 R292). -/
def runOps : List Instr → State → Res
  | [], s => .next s
  | i :: rest, s =>
    match exec i s with
    | .next t => runOps rest t
    | x => x

/-- One step: what the next turn comes to, with what follows from it in the same moment. -/
def step (s : State) : Host.Outcome State Fault Refusal :=
  match s.fetch with
  | .run i t => settled (exec i t)
  | .bundle lc ops t =>
    match runOps ops t with
    | .next u => settled (.next (u.updLineCore lc LineCore.afterBundle))
    | x => x
  | .did r => settled r

/-! ## A word where the next step fetches it (assumption log, entry 1) -/

/-- The launch of the workgroup that holds the placed word. -/
def placedLpb (engine : Bool) : Lpb :=
  { Lpb.zero with gridX := 1, gridY := 1, gridZ := 1, waves := 1, claim := 1, gang := 1, scratch := 4096,
                  maxRegs := 256, mode := if engine then 0x20 else 0 }

/-- Its grid: no rule places a word without one (01 R27). -/
def placedGrid (engine : Bool) : Grid := newGrid 0 0 none 0 (placedLpb engine) 0x1000 [] []

/-- The workgroup at its start, in slot 0 with its scratchpad from 0 (13 R350). -/
def placedWg (engine : Bool) : Workgroup :=
  workgroupAtStart (placedGrid engine) 0
    { slot := 0, part := 0, base := 0, scratch := 4096, parts := [0], regs := 256, engine := engine } 0 []

/-- The workgroup as core 0's only resident, with its grid. -/
def State.resident (s : State) (w : Workgroup) (t : Turn) : State :=
  { (s.updCore 0 (fun c => { c with wgs := [(0, w)], trap := .reset, trapQ := [] })) with
    grids := [placedGrid w.job.isSome], agenda := [t] }

/-- The header of the clause that holds a placed word: its words are the word and the literal it selects, and
its flag A is flag 0 (03 R93, R97). -/
def placedHead (w : Nat) : Nat := 0xFF * 2 ^ 56 + 2 ^ 39 + (if selectsLit w then 2 ^ 31 else 0)

/-- A wave word as the next word of a wave that stands in its clause: virtual address 0x1000 of context 0,
which core 0's TLB maps to local memory at 0x40000000 (16 R408, R412). -/
def State.placeWave (s : State) (w : Nat) : State :=
  let v := { waveAtStart (placedGrid false) 0 0 with
    group := some { lanes := BitVec.allOnes 32, pc := 0x1000, head := BitVec.ofNat 64 (placedHead w), ix := 0 } }
  let s := s.resident { placedWg false with waves := [v] } (.wave ⟨0, 0, 0⟩)
  (s.updCore 0 (fun c => { c with tlb := [{ ctx := 0, va := 0, size := 0x40000000, leaf := 0x4000000F }] })).writeMem
    0x40001000 (toBytes 8 (placedHead w) ++ toBytes 8 w ++ toBytes 8 0)

/-- A trap of main that the trap context services, for a word that only that context may execute. -/
def placedTrap : TrapItem :=
  { record := { TrapRecord.reset with kind := some .pageFault, src := .main }, who := .seq 0 .main, ctx := 0, tval := 0,
    word := 0, needs := [] }

/-- Whether a sequencer word is one of the trap context's (07 R232). -/
def trapOnly (w : Nat) : Bool := [0x32, 0x33, 0x35].contains (bits w 26 6)

/-- A sequencer word at store offset 0, where main stands, its tokens present and core 0's wheel at a position
of main; a word of the trap context stands at 0xE000 (07 R222-R224, R248). -/
def State.placeSeq (s : State) (w : Nat) : State :=
  let j := { Job.reset with started := true, ringIF := { Ring.reset with tokens := 1 }, ringOR := { Ring.reset with tokens := 1 } }
  let s := s.resident { placedWg true with job := some j } (.seq 0)
  s.updCore 0 (fun c => { c with
    wheel := 1, store := cellsPut [] (if trapOnly w then 0xE000 else 0) (toBytes 4 w)
    trap := { c.trap with item := if trapOnly w then some placedTrap else none, rec_ := placedTrap.record } })

/-- A bundle as line core 0's program, in a band of head 0 (09 R290). -/
def State.placeLine (s : State) (w : Nat) : State :=
  { (s.updLineCore 0 (fun _ => { LineCore.reset with
      store := [BitVec.ofNat 128 w], head := some 0, band := some { head := 0, frame := 0, first := 0, lines := 1 } })) with
    agenda := [.line 0] }

/-- A matrix word as the granted word of its unit: a WLOAD in the weight loader, any other at the head of its queue
(08 R261; 20 R452). -/
def State.placeMatrix (s : State) (w : Nat) : State :=
  let opx := bits w 188 4
  let q : QueueWord :=
    { opx := opx, w := decodeMatrixFields w, ticket := 1, ord := 0, nest := false, astray := false, raced := [] }
  let x : EngineQ := if opx = 1 then { EngineQ.reset with loader := some { q := q, phase := .granted, begun := false, latch := none } }
    else { EngineQ.reset with words := [q], phase := .granted }
  let j := { Job.reset with started := true, ticket := 1, open_ := [(1, 1)], handed := 1 }
  s.resident { placedWg true with job := some (j.updQueue (queueOf opx) (fun _ => x)) } (.engine 0 (queueOf opx))

/-- An instruction of the word streams where the next step fetches it. -/
def State.withFetchWord (s : State) (nbits w : Nat) : State :=
  match nbits with
  | 32 => s.placeSeq w
  | 64 => s.placeWave w
  | 128 => s.placeLine w
  | 192 => s.placeMatrix w
  | _ => s

end Sys2Proof.Machine
end

