-- ==== Sys2Proof/Laws/PerInstr.lean ====
section
/-! SUPPORT. Facts that hold of every instruction as syntax, one lemma per constructor: the opcode maps and the
functions that read an instruction's opcode are inverse to each other (03 R102, R106, R108, R110; 11 R323, R341). -/

namespace Sys2Proof.Laws

open Sys2Proof.Machine

/-- The map that an instruction's kind is decoded by gives the instruction back under its own opcode and fields. -/
def Encoding.Statement (i : Instr) : Prop :=
  (∀ op w, waveOpcode i = some (op, w) → (assoc waveOps op).map (fun c => c w) = some i)
  ∧ (∀ op w, seqOpcode i = some (op, w) → (assoc seqOps op).map (fun c => c w) = some i)
  ∧ (∀ op w, matrixOpcode i = some (op, w) → (assoc matrixOps op).map (fun c => c w) = some i)
  ∧ (∀ k op w, lineOpcode i = some (k, op, w) → k.holds w.slot.toNat = true →
      (assoc (lineOps w.slot.toNat) op).map (fun c => c w) = some i)
  ∧ (∀ ty w, packetType i = some (ty, w) → (assoc packetOps ty).map (fun c => c w) = some i)
  ∧ ∀ c w, mailCode i = some (c, w) → (assoc mailOps c).map (fun f => f w) = some i

/-- A claim about the fields an instruction of another kind would have. -/
theorem Encoding.vacuous {α β : Type} {x : Option (α × β)} {P : α → β → Prop} (h : x = none) :
    ∀ a b, x = some (a, b) → P a b := fun _ _ e => by simp [h] at e

/-- The same for a line operation's kind, opcode and fields. -/
theorem Encoding.vacuous3 {α β γ : Type} {x : Option (α × β × γ)} {P : α → β → γ → Prop} (h : x = none) :
    ∀ a b c, x = some (a, b, c) → P a b c := fun _ _ _ e => by simp [h] at e

/-- A claim about the one opcode and fields an instruction has. -/
theorem Encoding.only {α β : Type} {x : Option (α × β)} {P : α → β → Prop} {a : α} {b : β} (h : x = some (a, b))
    (hp : P a b) : ∀ a b, x = some (a, b) → P a b := fun _ _ e => by
  rw [h] at e
  cases e
  exact hp

/-- The same for a line operation. -/
theorem Encoding.only3 {α β γ : Type} {x : Option (α × β × γ)} {P : α → β → γ → Prop} {a : α} {b : β} {c : γ}
    (h : x = some (a, b, c)) (hp : P a b c) : ∀ a b c, x = some (a, b, c) → P a b c := fun _ _ _ e => by
  rw [h] at e
  cases e
  exact hp

/-- An instruction of none of the word kinds: an event. -/
theorem Encoding.event (i : Instr) (h1 : waveOpcode i = none) (h2 : seqOpcode i = none) (h3 : matrixOpcode i = none)
    (h4 : lineOpcode i = none) (h5 : packetType i = none) (h6 : mailCode i = none) : Encoding.Statement i :=
  ⟨vacuous h1, vacuous h2, vacuous h3, vacuous3 h4, vacuous h5, vacuous h6⟩

/-- A wave word. -/
theorem Encoding.wave (i : Instr) (op : Nat) (w : WWord) (h : waveOpcode i = some (op, w))
    (h1 : (assoc waveOps op).map (fun c => c w) = some i) (h2 : seqOpcode i = none) (h3 : matrixOpcode i = none)
    (h4 : lineOpcode i = none) (h5 : packetType i = none) (h6 : mailCode i = none) : Encoding.Statement i :=
  ⟨only h h1, vacuous h2, vacuous h3, vacuous3 h4, vacuous h5, vacuous h6⟩

/-- A sequencer word. -/
theorem Encoding.seq (i : Instr) (op : Nat) (w : SWord) (h : seqOpcode i = some (op, w))
    (h1 : (assoc seqOps op).map (fun c => c w) = some i) (h2 : waveOpcode i = none) (h3 : matrixOpcode i = none)
    (h4 : lineOpcode i = none) (h5 : packetType i = none) (h6 : mailCode i = none) : Encoding.Statement i :=
  ⟨vacuous h2, only h h1, vacuous h3, vacuous3 h4, vacuous h5, vacuous h6⟩

/-- A matrix word. -/
theorem Encoding.matrix (i : Instr) (op : Nat) (w : MWord) (h : matrixOpcode i = some (op, w))
    (h1 : (assoc matrixOps op).map (fun c => c w) = some i) (h2 : waveOpcode i = none) (h3 : seqOpcode i = none)
    (h4 : lineOpcode i = none) (h5 : packetType i = none) (h6 : mailCode i = none) : Encoding.Statement i :=
  ⟨vacuous h2, vacuous h3, only h h1, vacuous3 h4, vacuous h5, vacuous h6⟩

/-- A line operation: it stands in the table of every slot that may hold it. -/
theorem Encoding.line (i : Instr) (k : SlotKind) (op : Nat) (w : LSlot) (h : lineOpcode i = some (k, op, w))
    (h1 : ∀ n, n < 4 → k.holds n = true → (assoc (lineOps n) op).map (fun c => c w) = some i)
    (h2 : waveOpcode i = none) (h3 : seqOpcode i = none)
    (h4 : matrixOpcode i = none) (h5 : packetType i = none) (h6 : mailCode i = none) : Encoding.Statement i :=
  ⟨vacuous h2, vacuous h3, vacuous h4, only3 h (h1 _ w.slot.isLt), vacuous h5, vacuous h6⟩

/-- A line operation of slot 0. -/
theorem Encoding.line0 (i : Instr) (op : Nat) (w : LSlot) (h : lineOpcode i = some (.zero, op, w))
    (h1 : (assoc (lineOps 0) op).map (fun c => c w) = some i) (h2 : waveOpcode i = none) (h3 : seqOpcode i = none)
    (h4 : matrixOpcode i = none) (h5 : packetType i = none) (h6 : mailCode i = none) : Encoding.Statement i :=
  line i _ op w h (fun n _ hk => by simp [SlotKind.holds] at hk; subst hk; exact h1) h2 h3 h4 h5 h6

/-- A line operation of slots 1 and 2. -/
theorem Encoding.lineV (i : Instr) (op : Nat) (w : LSlot) (h : lineOpcode i = some (.vector, op, w))
    (h1 : (assoc (lineOps 1) op).map (fun c => c w) = some i ∧ (assoc (lineOps 2) op).map (fun c => c w) = some i)
    (h2 : waveOpcode i = none) (h3 : seqOpcode i = none)
    (h4 : matrixOpcode i = none) (h5 : packetType i = none) (h6 : mailCode i = none) : Encoding.Statement i :=
  line i _ op w h (fun n _ hk => by
    simp [SlotKind.holds] at hk
    rcases hk with rfl | rfl
    · exact h1.1
    · exact h1.2) h2 h3 h4 h5 h6

/-- A line operation of slot 2. -/
theorem Encoding.line2 (i : Instr) (op : Nat) (w : LSlot) (h : lineOpcode i = some (.two, op, w))
    (h1 : (assoc (lineOps 2) op).map (fun c => c w) = some i) (h2 : waveOpcode i = none) (h3 : seqOpcode i = none)
    (h4 : matrixOpcode i = none) (h5 : packetType i = none) (h6 : mailCode i = none) : Encoding.Statement i :=
  line i _ op w h (fun n _ hk => by simp [SlotKind.holds] at hk; subst hk; exact h1) h2 h3 h4 h5 h6

/-- A line operation of slot 3. -/
theorem Encoding.line3 (i : Instr) (op : Nat) (w : LSlot) (h : lineOpcode i = some (.three, op, w))
    (h1 : (assoc (lineOps 3) op).map (fun c => c w) = some i) (h2 : waveOpcode i = none) (h3 : seqOpcode i = none)
    (h4 : matrixOpcode i = none) (h5 : packetType i = none) (h6 : mailCode i = none) : Encoding.Statement i :=
  line i _ op w h (fun n _ hk => by simp [SlotKind.holds] at hk; subst hk; exact h1) h2 h3 h4 h5 h6

/-- The NOP of every slot. -/
theorem Encoding.lineNop (w : LSlot) : Encoding.Statement (.lNop w) :=
  line _ _ _ w rfl (fun _ _ _ => by simp [lineOps, assoc]) rfl rfl rfl rfl rfl

/-- A packet. -/
theorem Encoding.packet (i : Instr) (ty : Nat) (w : PacketWord) (h : packetType i = some (ty, w))
    (h1 : (assoc packetOps ty).map (fun c => c w) = some i) (h2 : waveOpcode i = none) (h3 : seqOpcode i = none)
    (h4 : matrixOpcode i = none) (h5 : lineOpcode i = none) (h6 : mailCode i = none) : Encoding.Statement i :=
  ⟨vacuous h2, vacuous h3, vacuous h4, vacuous3 h5, only h h1, vacuous h6⟩

/-- A mailbox command. -/
theorem Encoding.mail (i : Instr) (c : Nat) (w : MailWord) (h : mailCode i = some (c, w))
    (h1 : (assoc mailOps c).map (fun f => f w) = some i) (h2 : waveOpcode i = none) (h3 : seqOpcode i = none)
    (h4 : matrixOpcode i = none) (h5 : lineOpcode i = none) (h6 : packetType i = none) : Encoding.Statement i :=
  ⟨vacuous h2, vacuous h3, vacuous h4, vacuous3 h5, vacuous h6, only h h1⟩

theorem Encoding.wAdd (w : WWord) : Encoding.Statement (.wAdd w) :=
  Encoding.wave _ _ _ rfl rfl rfl rfl rfl rfl rfl
theorem Encoding.wSub (w : WWord) : Encoding.Statement (.wSub w) :=
  Encoding.wave _ _ _ rfl rfl rfl rfl rfl rfl rfl
theorem Encoding.wAddc (w : WWord) : Encoding.Statement (.wAddc w) :=
  Encoding.wave _ _ _ rfl rfl rfl rfl rfl rfl rfl
theorem Encoding.wSubb (w : WWord) : Encoding.Statement (.wSubb w) :=
  Encoding.wave _ _ _ rfl rfl rfl rfl rfl rfl rfl
theorem Encoding.wMul (w : WWord) : Encoding.Statement (.wMul w) :=
  Encoding.wave _ _ _ rfl rfl rfl rfl rfl rfl rfl
theorem Encoding.wMulh (w : WWord) : Encoding.Statement (.wMulh w) :=
  Encoding.wave _ _ _ rfl rfl rfl rfl rfl rfl rfl
theorem Encoding.wMad (w : WWord) : Encoding.Statement (.wMad w) :=
  Encoding.wave _ _ _ rfl rfl rfl rfl rfl rfl rfl
theorem Encoding.wMadw (w : WWord) : Encoding.Statement (.wMadw w) :=
  Encoding.wave _ _ _ rfl rfl rfl rfl rfl rfl rfl
theorem Encoding.wMin (w : WWord) : Encoding.Statement (.wMin w) :=
  Encoding.wave _ _ _ rfl rfl rfl rfl rfl rfl rfl
theorem Encoding.wMax (w : WWord) : Encoding.Statement (.wMax w) :=
  Encoding.wave _ _ _ rfl rfl rfl rfl rfl rfl rfl
theorem Encoding.wAbs (w : WWord) : Encoding.Statement (.wAbs w) :=
  Encoding.wave _ _ _ rfl rfl rfl rfl rfl rfl rfl
theorem Encoding.wNeg (w : WWord) : Encoding.Statement (.wNeg w) :=
  Encoding.wave _ _ _ rfl rfl rfl rfl rfl rfl rfl
theorem Encoding.wAnd (w : WWord) : Encoding.Statement (.wAnd w) :=
  Encoding.wave _ _ _ rfl rfl rfl rfl rfl rfl rfl
theorem Encoding.wOr (w : WWord) : Encoding.Statement (.wOr w) :=
  Encoding.wave _ _ _ rfl rfl rfl rfl rfl rfl rfl
theorem Encoding.wXor (w : WWord) : Encoding.Statement (.wXor w) :=
  Encoding.wave _ _ _ rfl rfl rfl rfl rfl rfl rfl
theorem Encoding.wNot (w : WWord) : Encoding.Statement (.wNot w) :=
  Encoding.wave _ _ _ rfl rfl rfl rfl rfl rfl rfl
theorem Encoding.wAndn (w : WWord) : Encoding.Statement (.wAndn w) :=
  Encoding.wave _ _ _ rfl rfl rfl rfl rfl rfl rfl
theorem Encoding.wShl (w : WWord) : Encoding.Statement (.wShl w) :=
  Encoding.wave _ _ _ rfl rfl rfl rfl rfl rfl rfl
theorem Encoding.wShr (w : WWord) : Encoding.Statement (.wShr w) :=
  Encoding.wave _ _ _ rfl rfl rfl rfl rfl rfl rfl
theorem Encoding.wSar (w : WWord) : Encoding.Statement (.wSar w) :=
  Encoding.wave _ _ _ rfl rfl rfl rfl rfl rfl rfl
theorem Encoding.wRot (w : WWord) : Encoding.Statement (.wRot w) :=
  Encoding.wave _ _ _ rfl rfl rfl rfl rfl rfl rfl
theorem Encoding.wFunnel (w : WWord) : Encoding.Statement (.wFunnel w) :=
  Encoding.wave _ _ _ rfl rfl rfl rfl rfl rfl rfl
theorem Encoding.wBfx (w : WWord) : Encoding.Statement (.wBfx w) :=
  Encoding.wave _ _ _ rfl rfl rfl rfl rfl rfl rfl
theorem Encoding.wBfi (w : WWord) : Encoding.Statement (.wBfi w) :=
  Encoding.wave _ _ _ rfl rfl rfl rfl rfl rfl rfl
theorem Encoding.wPopc (w : WWord) : Encoding.Statement (.wPopc w) :=
  Encoding.wave _ _ _ rfl rfl rfl rfl rfl rfl rfl
theorem Encoding.wClz (w : WWord) : Encoding.Statement (.wClz w) :=
  Encoding.wave _ _ _ rfl rfl rfl rfl rfl rfl rfl
theorem Encoding.wCtz (w : WWord) : Encoding.Statement (.wCtz w) :=
  Encoding.wave _ _ _ rfl rfl rfl rfl rfl rfl rfl
theorem Encoding.wBrev (w : WWord) : Encoding.Statement (.wBrev w) :=
  Encoding.wave _ _ _ rfl rfl rfl rfl rfl rfl rfl
theorem Encoding.wAddScalar (w : WWord) : Encoding.Statement (.wAddScalar w) :=
  Encoding.wave _ _ _ rfl rfl rfl rfl rfl rfl rfl
theorem Encoding.wSubScalar (w : WWord) : Encoding.Statement (.wSubScalar w) :=
  Encoding.wave _ _ _ rfl rfl rfl rfl rfl rfl rfl
theorem Encoding.wAddcScalar (w : WWord) : Encoding.Statement (.wAddcScalar w) :=
  Encoding.wave _ _ _ rfl rfl rfl rfl rfl rfl rfl
theorem Encoding.wSubbScalar (w : WWord) : Encoding.Statement (.wSubbScalar w) :=
  Encoding.wave _ _ _ rfl rfl rfl rfl rfl rfl rfl
theorem Encoding.wMulScalar (w : WWord) : Encoding.Statement (.wMulScalar w) :=
  Encoding.wave _ _ _ rfl rfl rfl rfl rfl rfl rfl
theorem Encoding.wMulhScalar (w : WWord) : Encoding.Statement (.wMulhScalar w) :=
  Encoding.wave _ _ _ rfl rfl rfl rfl rfl rfl rfl
theorem Encoding.wMadScalar (w : WWord) : Encoding.Statement (.wMadScalar w) :=
  Encoding.wave _ _ _ rfl rfl rfl rfl rfl rfl rfl
theorem Encoding.wMadwScalar (w : WWord) : Encoding.Statement (.wMadwScalar w) :=
  Encoding.wave _ _ _ rfl rfl rfl rfl rfl rfl rfl
theorem Encoding.wMinScalar (w : WWord) : Encoding.Statement (.wMinScalar w) :=
  Encoding.wave _ _ _ rfl rfl rfl rfl rfl rfl rfl
theorem Encoding.wMaxScalar (w : WWord) : Encoding.Statement (.wMaxScalar w) :=
  Encoding.wave _ _ _ rfl rfl rfl rfl rfl rfl rfl
theorem Encoding.wAbsScalar (w : WWord) : Encoding.Statement (.wAbsScalar w) :=
  Encoding.wave _ _ _ rfl rfl rfl rfl rfl rfl rfl
theorem Encoding.wNegScalar (w : WWord) : Encoding.Statement (.wNegScalar w) :=
  Encoding.wave _ _ _ rfl rfl rfl rfl rfl rfl rfl
theorem Encoding.wAndScalar (w : WWord) : Encoding.Statement (.wAndScalar w) :=
  Encoding.wave _ _ _ rfl rfl rfl rfl rfl rfl rfl
theorem Encoding.wOrScalar (w : WWord) : Encoding.Statement (.wOrScalar w) :=
  Encoding.wave _ _ _ rfl rfl rfl rfl rfl rfl rfl
theorem Encoding.wXorScalar (w : WWord) : Encoding.Statement (.wXorScalar w) :=
  Encoding.wave _ _ _ rfl rfl rfl rfl rfl rfl rfl
theorem Encoding.wNotScalar (w : WWord) : Encoding.Statement (.wNotScalar w) :=
  Encoding.wave _ _ _ rfl rfl rfl rfl rfl rfl rfl
theorem Encoding.wAndnScalar (w : WWord) : Encoding.Statement (.wAndnScalar w) :=
  Encoding.wave _ _ _ rfl rfl rfl rfl rfl rfl rfl
theorem Encoding.wShlScalar (w : WWord) : Encoding.Statement (.wShlScalar w) :=
  Encoding.wave _ _ _ rfl rfl rfl rfl rfl rfl rfl
theorem Encoding.wShrScalar (w : WWord) : Encoding.Statement (.wShrScalar w) :=
  Encoding.wave _ _ _ rfl rfl rfl rfl rfl rfl rfl
theorem Encoding.wSarScalar (w : WWord) : Encoding.Statement (.wSarScalar w) :=
  Encoding.wave _ _ _ rfl rfl rfl rfl rfl rfl rfl
theorem Encoding.wRotScalar (w : WWord) : Encoding.Statement (.wRotScalar w) :=
  Encoding.wave _ _ _ rfl rfl rfl rfl rfl rfl rfl
theorem Encoding.wFunnelScalar (w : WWord) : Encoding.Statement (.wFunnelScalar w) :=
  Encoding.wave _ _ _ rfl rfl rfl rfl rfl rfl rfl
theorem Encoding.wBfxScalar (w : WWord) : Encoding.Statement (.wBfxScalar w) :=
  Encoding.wave _ _ _ rfl rfl rfl rfl rfl rfl rfl
theorem Encoding.wBfiScalar (w : WWord) : Encoding.Statement (.wBfiScalar w) :=
  Encoding.wave _ _ _ rfl rfl rfl rfl rfl rfl rfl
theorem Encoding.wPopcScalar (w : WWord) : Encoding.Statement (.wPopcScalar w) :=
  Encoding.wave _ _ _ rfl rfl rfl rfl rfl rfl rfl
theorem Encoding.wClzScalar (w : WWord) : Encoding.Statement (.wClzScalar w) :=
  Encoding.wave _ _ _ rfl rfl rfl rfl rfl rfl rfl
theorem Encoding.wCtzScalar (w : WWord) : Encoding.Statement (.wCtzScalar w) :=
  Encoding.wave _ _ _ rfl rfl rfl rfl rfl rfl rfl
theorem Encoding.wBrevScalar (w : WWord) : Encoding.Statement (.wBrevScalar w) :=
  Encoding.wave _ _ _ rfl rfl rfl rfl rfl rfl rfl
theorem Encoding.wSel (w : WWord) : Encoding.Statement (.wSel w) :=
  Encoding.wave _ _ _ rfl rfl rfl rfl rfl rfl rfl
theorem Encoding.wMov (w : WWord) : Encoding.Statement (.wMov w) :=
  Encoding.wave _ _ _ rfl rfl rfl rfl rfl rfl rfl
theorem Encoding.wMovScalar (w : WWord) : Encoding.Statement (.wMovScalar w) :=
  Encoding.wave _ _ _ rfl rfl rfl rfl rfl rfl rfl
theorem Encoding.wMovl (w : WWord) : Encoding.Statement (.wMovl w) :=
  Encoding.wave _ _ _ rfl rfl rfl rfl rfl rfl rfl
theorem Encoding.wMovlScalar (w : WWord) : Encoding.Statement (.wMovlScalar w) :=
  Encoding.wave _ _ _ rfl rfl rfl rfl rfl rfl rfl
theorem Encoding.wLea (w : WWord) : Encoding.Statement (.wLea w) :=
  Encoding.wave _ _ _ rfl rfl rfl rfl rfl rfl rfl
theorem Encoding.wLeaScalar (w : WWord) : Encoding.Statement (.wLeaScalar w) :=
  Encoding.wave _ _ _ rfl rfl rfl rfl rfl rfl rfl
theorem Encoding.wLane (w : WWord) : Encoding.Statement (.wLane w) :=
  Encoding.wave _ _ _ rfl rfl rfl rfl rfl rfl rfl
theorem Encoding.wShuf (w : WWord) : Encoding.Statement (.wShuf w) :=
  Encoding.wave _ _ _ rfl rfl rfl rfl rfl rfl rfl
theorem Encoding.wBcast (w : WWord) : Encoding.Statement (.wBcast w) :=
  Encoding.wave _ _ _ rfl rfl rfl rfl rfl rfl rfl
theorem Encoding.wRdsp (w : WWord) : Encoding.Statement (.wRdsp w) :=
  Encoding.wave _ _ _ rfl rfl rfl rfl rfl rfl rfl
theorem Encoding.wRdspScalar (w : WWord) : Encoding.Statement (.wRdspScalar w) :=
  Encoding.wave _ _ _ rfl rfl rfl rfl rfl rfl rfl
theorem Encoding.wCmp (w : WWord) : Encoding.Statement (.wCmp w) :=
  Encoding.wave _ _ _ rfl rfl rfl rfl rfl rfl rfl
theorem Encoding.wPlog (w : WWord) : Encoding.Statement (.wPlog w) :=
  Encoding.wave _ _ _ rfl rfl rfl rfl rfl rfl rfl
theorem Encoding.wWrsp (w : WWord) : Encoding.Statement (.wWrsp w) :=
  Encoding.wave _ _ _ rfl rfl rfl rfl rfl rfl rfl
theorem Encoding.wBra (w : WWord) : Encoding.Statement (.wBra w) :=
  Encoding.wave _ _ _ rfl rfl rfl rfl rfl rfl rfl
theorem Encoding.wBrx (w : WWord) : Encoding.Statement (.wBrx w) :=
  Encoding.wave _ _ _ rfl rfl rfl rfl rfl rfl rfl
theorem Encoding.wCall (w : WWord) : Encoding.Statement (.wCall w) :=
  Encoding.wave _ _ _ rfl rfl rfl rfl rfl rfl rfl
theorem Encoding.wCallx (w : WWord) : Encoding.Statement (.wCallx w) :=
  Encoding.wave _ _ _ rfl rfl rfl rfl rfl rfl rfl
theorem Encoding.wRet (w : WWord) : Encoding.Statement (.wRet w) :=
  Encoding.wave _ _ _ rfl rfl rfl rfl rfl rfl rfl
theorem Encoding.wExit (w : WWord) : Encoding.Statement (.wExit w) :=
  Encoding.wave _ _ _ rfl rfl rfl rfl rfl rfl rfl
theorem Encoding.wTrap (w : WWord) : Encoding.Statement (.wTrap w) :=
  Encoding.wave _ _ _ rfl rfl rfl rfl rfl rfl rfl
theorem Encoding.wBreak (w : WWord) : Encoding.Statement (.wBreak w) :=
  Encoding.wave _ _ _ rfl rfl rfl rfl rfl rfl rfl
theorem Encoding.wNop (w : WWord) : Encoding.Statement (.wNop w) :=
  Encoding.wave _ _ _ rfl rfl rfl rfl rfl rfl rfl
theorem Encoding.wYield (w : WWord) : Encoding.Statement (.wYield w) :=
  Encoding.wave _ _ _ rfl rfl rfl rfl rfl rfl rfl
theorem Encoding.wSleep (w : WWord) : Encoding.Statement (.wSleep w) :=
  Encoding.wave _ _ _ rfl rfl rfl rfl rfl rfl rfl
theorem Encoding.wWaitf (w : WWord) : Encoding.Statement (.wWaitf w) :=
  Encoding.wave _ _ _ rfl rfl rfl rfl rfl rfl rfl
theorem Encoding.wFadd (w : WWord) : Encoding.Statement (.wFadd w) :=
  Encoding.wave _ _ _ rfl rfl rfl rfl rfl rfl rfl
theorem Encoding.wFsub (w : WWord) : Encoding.Statement (.wFsub w) :=
  Encoding.wave _ _ _ rfl rfl rfl rfl rfl rfl rfl
theorem Encoding.wFmul (w : WWord) : Encoding.Statement (.wFmul w) :=
  Encoding.wave _ _ _ rfl rfl rfl rfl rfl rfl rfl
theorem Encoding.wFfma (w : WWord) : Encoding.Statement (.wFfma w) :=
  Encoding.wave _ _ _ rfl rfl rfl rfl rfl rfl rfl
theorem Encoding.wFmin (w : WWord) : Encoding.Statement (.wFmin w) :=
  Encoding.wave _ _ _ rfl rfl rfl rfl rfl rfl rfl
theorem Encoding.wFmax (w : WWord) : Encoding.Statement (.wFmax w) :=
  Encoding.wave _ _ _ rfl rfl rfl rfl rfl rfl rfl
theorem Encoding.wFcmp (w : WWord) : Encoding.Statement (.wFcmp w) :=
  Encoding.wave _ _ _ rfl rfl rfl rfl rfl rfl rfl
theorem Encoding.wFclass (w : WWord) : Encoding.Statement (.wFclass w) :=
  Encoding.wave _ _ _ rfl rfl rfl rfl rfl rfl rfl
theorem Encoding.wFrnd (w : WWord) : Encoding.Statement (.wFrnd w) :=
  Encoding.wave _ _ _ rfl rfl rfl rfl rfl rfl rfl
theorem Encoding.wFract (w : WWord) : Encoding.Statement (.wFract w) :=
  Encoding.wave _ _ _ rfl rfl rfl rfl rfl rfl rfl
theorem Encoding.wRcp (w : WWord) : Encoding.Statement (.wRcp w) :=
  Encoding.wave _ _ _ rfl rfl rfl rfl rfl rfl rfl
theorem Encoding.wRsq (w : WWord) : Encoding.Statement (.wRsq w) :=
  Encoding.wave _ _ _ rfl rfl rfl rfl rfl rfl rfl
theorem Encoding.wSqrt (w : WWord) : Encoding.Statement (.wSqrt w) :=
  Encoding.wave _ _ _ rfl rfl rfl rfl rfl rfl rfl
theorem Encoding.wExp2 (w : WWord) : Encoding.Statement (.wExp2 w) :=
  Encoding.wave _ _ _ rfl rfl rfl rfl rfl rfl rfl
theorem Encoding.wLog2 (w : WWord) : Encoding.Statement (.wLog2 w) :=
  Encoding.wave _ _ _ rfl rfl rfl rfl rfl rfl rfl
theorem Encoding.wSin (w : WWord) : Encoding.Statement (.wSin w) :=
  Encoding.wave _ _ _ rfl rfl rfl rfl rfl rfl rfl
theorem Encoding.wCos (w : WWord) : Encoding.Statement (.wCos w) :=
  Encoding.wave _ _ _ rfl rfl rfl rfl rfl rfl rfl
theorem Encoding.wTanh (w : WWord) : Encoding.Statement (.wTanh w) :=
  Encoding.wave _ _ _ rfl rfl rfl rfl rfl rfl rfl
theorem Encoding.wCvt (w : WWord) : Encoding.Statement (.wCvt w) :=
  Encoding.wave _ _ _ rfl rfl rfl rfl rfl rfl rfl
theorem Encoding.wPack (w : WWord) : Encoding.Statement (.wPack w) :=
  Encoding.wave _ _ _ rfl rfl rfl rfl rfl rfl rfl
theorem Encoding.wUnpack (w : WWord) : Encoding.Statement (.wUnpack w) :=
  Encoding.wave _ _ _ rfl rfl rfl rfl rfl rfl rfl
theorem Encoding.wDot2 (w : WWord) : Encoding.Statement (.wDot2 w) :=
  Encoding.wave _ _ _ rfl rfl rfl rfl rfl rfl rfl
theorem Encoding.wDot4 (w : WWord) : Encoding.Statement (.wDot4 w) :=
  Encoding.wave _ _ _ rfl rfl rfl rfl rfl rfl rfl
theorem Encoding.wReduce (w : WWord) : Encoding.Statement (.wReduce w) :=
  Encoding.wave _ _ _ rfl rfl rfl rfl rfl rfl rfl
theorem Encoding.wScan (w : WWord) : Encoding.Statement (.wScan w) :=
  Encoding.wave _ _ _ rfl rfl rfl rfl rfl rfl rfl
theorem Encoding.wTopk (w : WWord) : Encoding.Statement (.wTopk w) :=
  Encoding.wave _ _ _ rfl rfl rfl rfl rfl rfl rfl
theorem Encoding.wBallot (w : WWord) : Encoding.Statement (.wBallot w) :=
  Encoding.wave _ _ _ rfl rfl rfl rfl rfl rfl rfl
theorem Encoding.wVote (w : WWord) : Encoding.Statement (.wVote w) :=
  Encoding.wave _ _ _ rfl rfl rfl rfl rfl rfl rfl
theorem Encoding.wLd (w : WWord) : Encoding.Statement (.wLd w) :=
  Encoding.wave _ _ _ rfl rfl rfl rfl rfl rfl rfl
theorem Encoding.wSt (w : WWord) : Encoding.Statement (.wSt w) :=
  Encoding.wave _ _ _ rfl rfl rfl rfl rfl rfl rfl
theorem Encoding.wLds (w : WWord) : Encoding.Statement (.wLds w) :=
  Encoding.wave _ _ _ rfl rfl rfl rfl rfl rfl rfl
theorem Encoding.wSts (w : WWord) : Encoding.Statement (.wSts w) :=
  Encoding.wave _ _ _ rfl rfl rfl rfl rfl rfl rfl
theorem Encoding.wSend (w : WWord) : Encoding.Statement (.wSend w) :=
  Encoding.wave _ _ _ rfl rfl rfl rfl rfl rfl rfl
theorem Encoding.wRecv (w : WWord) : Encoding.Statement (.wRecv w) :=
  Encoding.wave _ _ _ rfl rfl rfl rfl rfl rfl rfl
theorem Encoding.wPref (w : WWord) : Encoding.Statement (.wPref w) :=
  Encoding.wave _ _ _ rfl rfl rfl rfl rfl rfl rfl
theorem Encoding.wWb (w : WWord) : Encoding.Statement (.wWb w) :=
  Encoding.wave _ _ _ rfl rfl rfl rfl rfl rfl rfl
theorem Encoding.wInv (w : WWord) : Encoding.Statement (.wInv w) :=
  Encoding.wave _ _ _ rfl rfl rfl rfl rfl rfl rfl
theorem Encoding.wAtom (w : WWord) : Encoding.Statement (.wAtom w) :=
  Encoding.wave _ _ _ rfl rfl rfl rfl rfl rfl rfl
theorem Encoding.wAtomcas (w : WWord) : Encoding.Statement (.wAtomcas w) :=
  Encoding.wave _ _ _ rfl rfl rfl rfl rfl rfl rfl
theorem Encoding.wRed (w : WWord) : Encoding.Statement (.wRed w) :=
  Encoding.wave _ _ _ rfl rfl rfl rfl rfl rfl rfl
theorem Encoding.wBind (w : WWord) : Encoding.Statement (.wBind w) :=
  Encoding.wave _ _ _ rfl rfl rfl rfl rfl rfl rfl
theorem Encoding.wUnbind (w : WWord) : Encoding.Statement (.wUnbind w) :=
  Encoding.wave _ _ _ rfl rfl rfl rfl rfl rfl rfl
theorem Encoding.wAcq (w : WWord) : Encoding.Statement (.wAcq w) :=
  Encoding.wave _ _ _ rfl rfl rfl rfl rfl rfl rfl
theorem Encoding.wRel (w : WWord) : Encoding.Statement (.wRel w) :=
  Encoding.wave _ _ _ rfl rfl rfl rfl rfl rfl rfl
theorem Encoding.wFence (w : WWord) : Encoding.Statement (.wFence w) :=
  Encoding.wave _ _ _ rfl rfl rfl rfl rfl rfl rfl
theorem Encoding.wBar (w : WWord) : Encoding.Statement (.wBar w) :=
  Encoding.wave _ _ _ rfl rfl rfl rfl rfl rfl rfl
theorem Encoding.wGbar (w : WWord) : Encoding.Statement (.wGbar w) :=
  Encoding.wave _ _ _ rfl rfl rfl rfl rfl rfl rfl
theorem Encoding.wArrive (w : WWord) : Encoding.Statement (.wArrive w) :=
  Encoding.wave _ _ _ rfl rfl rfl rfl rfl rfl rfl
theorem Encoding.wWaitb (w : WWord) : Encoding.Statement (.wWaitb w) :=
  Encoding.wave _ _ _ rfl rfl rfl rfl rfl rfl rfl
theorem Encoding.wOpfence (w : WWord) : Encoding.Statement (.wOpfence w) :=
  Encoding.wave _ _ _ rfl rfl rfl rfl rfl rfl rfl
theorem Encoding.wTladd (w : WWord) : Encoding.Statement (.wTladd w) :=
  Encoding.wave _ _ _ rfl rfl rfl rfl rfl rfl rfl
theorem Encoding.wTlset (w : WWord) : Encoding.Statement (.wTlset w) :=
  Encoding.wave _ _ _ rfl rfl rfl rfl rfl rfl rfl
theorem Encoding.wTlwait (w : WWord) : Encoding.Statement (.wTlwait w) :=
  Encoding.wave _ _ _ rfl rfl rfl rfl rfl rfl rfl
theorem Encoding.wLaunch (w : WWord) : Encoding.Statement (.wLaunch w) :=
  Encoding.wave _ _ _ rfl rfl rfl rfl rfl rfl rfl
theorem Encoding.wSetperf (w : WWord) : Encoding.Statement (.wSetperf w) :=
  Encoding.wave _ _ _ rfl rfl rfl rfl rfl rfl rfl
theorem Encoding.wProgress (w : WWord) : Encoding.Statement (.wProgress w) :=
  Encoding.wave _ _ _ rfl rfl rfl rfl rfl rfl rfl
theorem Encoding.wRdv (w : WWord) : Encoding.Statement (.wRdv w) :=
  Encoding.wave _ _ _ rfl rfl rfl rfl rfl rfl rfl
theorem Encoding.seqAdd (w : SWord) : Encoding.Statement (.seqAdd w) :=
  Encoding.seq _ _ _ rfl rfl rfl rfl rfl rfl rfl
theorem Encoding.seqSub (w : SWord) : Encoding.Statement (.seqSub w) :=
  Encoding.seq _ _ _ rfl rfl rfl rfl rfl rfl rfl
theorem Encoding.seqAnd (w : SWord) : Encoding.Statement (.seqAnd w) :=
  Encoding.seq _ _ _ rfl rfl rfl rfl rfl rfl rfl
theorem Encoding.seqOr (w : SWord) : Encoding.Statement (.seqOr w) :=
  Encoding.seq _ _ _ rfl rfl rfl rfl rfl rfl rfl
theorem Encoding.seqXor (w : SWord) : Encoding.Statement (.seqXor w) :=
  Encoding.seq _ _ _ rfl rfl rfl rfl rfl rfl rfl
theorem Encoding.seqShl (w : SWord) : Encoding.Statement (.seqShl w) :=
  Encoding.seq _ _ _ rfl rfl rfl rfl rfl rfl rfl
theorem Encoding.seqShr (w : SWord) : Encoding.Statement (.seqShr w) :=
  Encoding.seq _ _ _ rfl rfl rfl rfl rfl rfl rfl
theorem Encoding.seqSar (w : SWord) : Encoding.Statement (.seqSar w) :=
  Encoding.seq _ _ _ rfl rfl rfl rfl rfl rfl rfl
theorem Encoding.seqMul (w : SWord) : Encoding.Statement (.seqMul w) :=
  Encoding.seq _ _ _ rfl rfl rfl rfl rfl rfl rfl
theorem Encoding.seqSlt (w : SWord) : Encoding.Statement (.seqSlt w) :=
  Encoding.seq _ _ _ rfl rfl rfl rfl rfl rfl rfl
theorem Encoding.seqSltz (w : SWord) : Encoding.Statement (.seqSltz w) :=
  Encoding.seq _ _ _ rfl rfl rfl rfl rfl rfl rfl
theorem Encoding.seqAddi (w : SWord) : Encoding.Statement (.seqAddi w) :=
  Encoding.seq _ _ _ rfl rfl rfl rfl rfl rfl rfl
theorem Encoding.seqLi (w : SWord) : Encoding.Statement (.seqLi w) :=
  Encoding.seq _ _ _ rfl rfl rfl rfl rfl rfl rfl
theorem Encoding.seqLui (w : SWord) : Encoding.Statement (.seqLui w) :=
  Encoding.seq _ _ _ rfl rfl rfl rfl rfl rfl rfl
theorem Encoding.seqBeq (w : SWord) : Encoding.Statement (.seqBeq w) :=
  Encoding.seq _ _ _ rfl rfl rfl rfl rfl rfl rfl
theorem Encoding.seqBne (w : SWord) : Encoding.Statement (.seqBne w) :=
  Encoding.seq _ _ _ rfl rfl rfl rfl rfl rfl rfl
theorem Encoding.seqBlt (w : SWord) : Encoding.Statement (.seqBlt w) :=
  Encoding.seq _ _ _ rfl rfl rfl rfl rfl rfl rfl
theorem Encoding.seqBge (w : SWord) : Encoding.Statement (.seqBge w) :=
  Encoding.seq _ _ _ rfl rfl rfl rfl rfl rfl rfl
theorem Encoding.seqJ (w : SWord) : Encoding.Statement (.seqJ w) :=
  Encoding.seq _ _ _ rfl rfl rfl rfl rfl rfl rfl
theorem Encoding.seqJal (w : SWord) : Encoding.Statement (.seqJal w) :=
  Encoding.seq _ _ _ rfl rfl rfl rfl rfl rfl rfl
theorem Encoding.seqJr (w : SWord) : Encoding.Statement (.seqJr w) :=
  Encoding.seq _ _ _ rfl rfl rfl rfl rfl rfl rfl
theorem Encoding.seqLdg (w : SWord) : Encoding.Statement (.seqLdg w) :=
  Encoding.seq _ _ _ rfl rfl rfl rfl rfl rfl rfl
theorem Encoding.seqStg (w : SWord) : Encoding.Statement (.seqStg w) :=
  Encoding.seq _ _ _ rfl rfl rfl rfl rfl rfl rfl
theorem Encoding.seqCpy (w : SWord) : Encoding.Statement (.seqCpy w) :=
  Encoding.seq _ _ _ rfl rfl rfl rfl rfl rfl rfl
theorem Encoding.seqCpyw (w : SWord) : Encoding.Statement (.seqCpyw w) :=
  Encoding.seq _ _ _ rfl rfl rfl rfl rfl rfl rfl
theorem Encoding.seqMw (w : SWord) : Encoding.Statement (.seqMw w) :=
  Encoding.seq _ _ _ rfl rfl rfl rfl rfl rfl rfl
theorem Encoding.seqNest (w : SWord) : Encoding.Statement (.seqNest w) :=
  Encoding.seq _ _ _ rfl rfl rfl rfl rfl rfl rfl
theorem Encoding.seqGo (w : SWord) : Encoding.Statement (.seqGo w) :=
  Encoding.seq _ _ _ rfl rfl rfl rfl rfl rfl rfl
theorem Encoding.seqNwait (w : SWord) : Encoding.Statement (.seqNwait w) :=
  Encoding.seq _ _ _ rfl rfl rfl rfl rfl rfl rfl
theorem Encoding.seqSpw (w : SWord) : Encoding.Statement (.seqSpw w) :=
  Encoding.seq _ _ _ rfl rfl rfl rfl rfl rfl rfl
theorem Encoding.seqTok (w : SWord) : Encoding.Statement (.seqTok w) :=
  Encoding.seq _ _ _ rfl rfl rfl rfl rfl rfl rfl
theorem Encoding.seqPace (w : SWord) : Encoding.Statement (.seqPace w) :=
  Encoding.seq _ _ _ rfl rfl rfl rfl rfl rfl rfl
theorem Encoding.seqRdv (w : SWord) : Encoding.Statement (.seqRdv w) :=
  Encoding.seq _ _ _ rfl rfl rfl rfl rfl rfl rfl
theorem Encoding.seqOvl (w : SWord) : Encoding.Statement (.seqOvl w) :=
  Encoding.seq _ _ _ rfl rfl rfl rfl rfl rfl rfl
theorem Encoding.seqMfc (w : SWord) : Encoding.Statement (.seqMfc w) :=
  Encoding.seq _ _ _ rfl rfl rfl rfl rfl rfl rfl
theorem Encoding.seqMtc (w : SWord) : Encoding.Statement (.seqMtc w) :=
  Encoding.seq _ _ _ rfl rfl rfl rfl rfl rfl rfl
theorem Encoding.seqTrap (w : SWord) : Encoding.Statement (.seqTrap w) :=
  Encoding.seq _ _ _ rfl rfl rfl rfl rfl rfl rfl
theorem Encoding.seqEret (w : SWord) : Encoding.Statement (.seqEret w) :=
  Encoding.seq _ _ _ rfl rfl rfl rfl rfl rfl rfl
theorem Encoding.seqHalt (w : SWord) : Encoding.Statement (.seqHalt w) :=
  Encoding.seq _ _ _ rfl rfl rfl rfl rfl rfl rfl
theorem Encoding.mWload (w : MWord) : Encoding.Statement (.mWload w) :=
  Encoding.matrix _ _ _ rfl rfl rfl rfl rfl rfl rfl
theorem Encoding.mStep (w : MWord) : Encoding.Statement (.mStep w) :=
  Encoding.matrix _ _ _ rfl rfl rfl rfl rfl rfl rfl
theorem Encoding.mDrain (w : MWord) : Encoding.Statement (.mDrain w) :=
  Encoding.matrix _ _ _ rfl rfl rfl rfl rfl rfl rfl
theorem Encoding.mFold (w : MWord) : Encoding.Statement (.mFold w) :=
  Encoding.matrix _ _ _ rfl rfl rfl rfl rfl rfl rfl
theorem Encoding.mClr (w : MWord) : Encoding.Statement (.mClr w) :=
  Encoding.matrix _ _ _ rfl rfl rfl rfl rfl rfl rfl
theorem Encoding.mFill (w : MWord) : Encoding.Statement (.mFill w) :=
  Encoding.matrix _ _ _ rfl rfl rfl rfl rfl rfl rfl
theorem Encoding.mNop (w : MWord) : Encoding.Statement (.mNop w) :=
  Encoding.matrix _ _ _ rfl rfl rfl rfl rfl rfl rfl
theorem Encoding.pkNop (w : PacketWord) : Encoding.Statement (.pkNop w) :=
  Encoding.packet _ _ _ rfl rfl rfl rfl rfl rfl rfl
theorem Encoding.pkLaunchGrid (w : PacketWord) : Encoding.Statement (.pkLaunchGrid w) :=
  Encoding.packet _ _ _ rfl rfl rfl rfl rfl rfl rfl
theorem Encoding.pkIndirect (w : PacketWord) : Encoding.Statement (.pkIndirect w) :=
  Encoding.packet _ _ _ rfl rfl rfl rfl rfl rfl rfl
theorem Encoding.pkTlWait (w : PacketWord) : Encoding.Statement (.pkTlWait w) :=
  Encoding.packet _ _ _ rfl rfl rfl rfl rfl rfl rfl
theorem Encoding.pkTlAdd (w : PacketWord) : Encoding.Statement (.pkTlAdd w) :=
  Encoding.packet _ _ _ rfl rfl rfl rfl rfl rfl rfl
theorem Encoding.pkTlSet (w : PacketWord) : Encoding.Statement (.pkTlSet w) :=
  Encoding.packet _ _ _ rfl rfl rfl rfl rfl rfl rfl
theorem Encoding.pkBarrier (w : PacketWord) : Encoding.Statement (.pkBarrier w) :=
  Encoding.packet _ _ _ rfl rfl rfl rfl rfl rfl rfl
theorem Encoding.pkPresent (w : PacketWord) : Encoding.Statement (.pkPresent w) :=
  Encoding.packet _ _ _ rfl rfl rfl rfl rfl rfl rfl
theorem Encoding.mbCreateContext (w : MailWord) : Encoding.Statement (.mbCreateContext w) :=
  Encoding.mail _ _ _ rfl rfl rfl rfl rfl rfl rfl
theorem Encoding.mbDestroyContext (w : MailWord) : Encoding.Statement (.mbDestroyContext w) :=
  Encoding.mail _ _ _ rfl rfl rfl rfl rfl rfl rfl
theorem Encoding.mbBindQueue (w : MailWord) : Encoding.Statement (.mbBindQueue w) :=
  Encoding.mail _ _ _ rfl rfl rfl rfl rfl rfl rfl
theorem Encoding.mbUnbindQueue (w : MailWord) : Encoding.Statement (.mbUnbindQueue w) :=
  Encoding.mail _ _ _ rfl rfl rfl rfl rfl rfl rfl
theorem Encoding.mbResetQueue (w : MailWord) : Encoding.Statement (.mbResetQueue w) :=
  Encoding.mail _ _ _ rfl rfl rfl rfl rfl rfl rfl
theorem Encoding.mbResetContext (w : MailWord) : Encoding.Statement (.mbResetContext w) :=
  Encoding.mail _ _ _ rfl rfl rfl rfl rfl rfl rfl
theorem Encoding.mbFwRestart (w : MailWord) : Encoding.Statement (.mbFwRestart w) :=
  Encoding.mail _ _ _ rfl rfl rfl rfl rfl rfl rfl
theorem Encoding.mbGrant (w : MailWord) : Encoding.Statement (.mbGrant w) :=
  Encoding.mail _ _ _ rfl rfl rfl rfl rfl rfl rfl
theorem Encoding.mbPodPeer (w : MailWord) : Encoding.Statement (.mbPodPeer w) :=
  Encoding.mail _ _ _ rfl rfl rfl rfl rfl rfl rfl
theorem Encoding.mbSetPasid (w : MailWord) : Encoding.Statement (.mbSetPasid w) :=
  Encoding.mail _ _ _ rfl rfl rfl rfl rfl rfl rfl
theorem Encoding.mbClearFences (w : MailWord) : Encoding.Statement (.mbClearFences w) :=
  Encoding.mail _ _ _ rfl rfl rfl rfl rfl rfl rfl
theorem Encoding.lLoop (w : LSlot) : Encoding.Statement (.lLoop w) :=
  Encoding.line0 _ _ _ rfl rfl rfl rfl rfl rfl rfl
theorem Encoding.lBr (w : LSlot) : Encoding.Statement (.lBr w) :=
  Encoding.line0 _ _ _ rfl rfl rfl rfl rfl rfl rfl
theorem Encoding.lBrc (w : LSlot) : Encoding.Statement (.lBrc w) :=
  Encoding.line0 _ _ _ rfl rfl rfl rfl rfl rfl rfl
theorem Encoding.lHalt (w : LSlot) : Encoding.Statement (.lHalt w) :=
  Encoding.line0 _ _ _ rfl rfl rfl rfl rfl rfl rfl
theorem Encoding.lBeam (w : LSlot) : Encoding.Statement (.lBeam w) :=
  Encoding.line0 _ _ _ rfl rfl rfl rfl rfl rfl rfl
theorem Encoding.lPose (w : LSlot) : Encoding.Statement (.lPose w) :=
  Encoding.line0 _ _ _ rfl rfl rfl rfl rfl rfl rfl
theorem Encoding.lKadd (w : LSlot) : Encoding.Statement (.lKadd w) :=
  Encoding.line0 _ _ _ rfl rfl rfl rfl rfl rfl rfl
theorem Encoding.lKaddi (w : LSlot) : Encoding.Statement (.lKaddi w) :=
  Encoding.line0 _ _ _ rfl rfl rfl rfl rfl rfl rfl
theorem Encoding.lKsub (w : LSlot) : Encoding.Statement (.lKsub w) :=
  Encoding.line0 _ _ _ rfl rfl rfl rfl rfl rfl rfl
theorem Encoding.lKmul (w : LSlot) : Encoding.Statement (.lKmul w) :=
  Encoding.line0 _ _ _ rfl rfl rfl rfl rfl rfl rfl
theorem Encoding.lKand (w : LSlot) : Encoding.Statement (.lKand w) :=
  Encoding.line0 _ _ _ rfl rfl rfl rfl rfl rfl rfl
theorem Encoding.lKor (w : LSlot) : Encoding.Statement (.lKor w) :=
  Encoding.line0 _ _ _ rfl rfl rfl rfl rfl rfl rfl
theorem Encoding.lKxor (w : LSlot) : Encoding.Statement (.lKxor w) :=
  Encoding.line0 _ _ _ rfl rfl rfl rfl rfl rfl rfl
theorem Encoding.lKshl (w : LSlot) : Encoding.Statement (.lKshl w) :=
  Encoding.line0 _ _ _ rfl rfl rfl rfl rfl rfl rfl
theorem Encoding.lKshr (w : LSlot) : Encoding.Statement (.lKshr w) :=
  Encoding.line0 _ _ _ rfl rfl rfl rfl rfl rfl rfl
theorem Encoding.lKsar (w : LSlot) : Encoding.Statement (.lKsar w) :=
  Encoding.line0 _ _ _ rfl rfl rfl rfl rfl rfl rfl
theorem Encoding.lKli (w : LSlot) : Encoding.Statement (.lKli w) :=
  Encoding.line0 _ _ _ rfl rfl rfl rfl rfl rfl rfl
theorem Encoding.lKlui (w : LSlot) : Encoding.Statement (.lKlui w) :=
  Encoding.line0 _ _ _ rfl rfl rfl rfl rfl rfl rfl
theorem Encoding.lKslt (w : LSlot) : Encoding.Statement (.lKslt w) :=
  Encoding.line0 _ _ _ rfl rfl rfl rfl rfl rfl rfl
theorem Encoding.lHadd (w : LSlot) : Encoding.Statement (.lHadd w) :=
  Encoding.lineV _ _ _ rfl ⟨rfl, rfl⟩ rfl rfl rfl rfl rfl
theorem Encoding.lHsub (w : LSlot) : Encoding.Statement (.lHsub w) :=
  Encoding.lineV _ _ _ rfl ⟨rfl, rfl⟩ rfl rfl rfl rfl rfl
theorem Encoding.lHmul (w : LSlot) : Encoding.Statement (.lHmul w) :=
  Encoding.lineV _ _ _ rfl ⟨rfl, rfl⟩ rfl rfl rfl rfl rfl
theorem Encoding.lHfma (w : LSlot) : Encoding.Statement (.lHfma w) :=
  Encoding.lineV _ _ _ rfl ⟨rfl, rfl⟩ rfl rfl rfl rfl rfl
theorem Encoding.lHmin (w : LSlot) : Encoding.Statement (.lHmin w) :=
  Encoding.lineV _ _ _ rfl ⟨rfl, rfl⟩ rfl rfl rfl rfl rfl
theorem Encoding.lHmax (w : LSlot) : Encoding.Statement (.lHmax w) :=
  Encoding.lineV _ _ _ rfl ⟨rfl, rfl⟩ rfl rfl rfl rfl rfl
theorem Encoding.lHcmp (w : LSlot) : Encoding.Statement (.lHcmp w) :=
  Encoding.lineV _ _ _ rfl ⟨rfl, rfl⟩ rfl rfl rfl rfl rfl
theorem Encoding.lHsel (w : LSlot) : Encoding.Statement (.lHsel w) :=
  Encoding.lineV _ _ _ rfl ⟨rfl, rfl⟩ rfl rfl rfl rfl rfl
theorem Encoding.lHcvt (w : LSlot) : Encoding.Statement (.lHcvt w) :=
  Encoding.lineV _ _ _ rfl ⟨rfl, rfl⟩ rfl rfl rfl rfl rfl
theorem Encoding.lHrcp (w : LSlot) : Encoding.Statement (.lHrcp w) :=
  Encoding.lineV _ _ _ rfl ⟨rfl, rfl⟩ rfl rfl rfl rfl rfl
theorem Encoding.lHlerp (w : LSlot) : Encoding.Statement (.lHlerp w) :=
  Encoding.lineV _ _ _ rfl ⟨rfl, rfl⟩ rfl rfl rfl rfl rfl
theorem Encoding.lHshuf (w : LSlot) : Encoding.Statement (.lHshuf w) :=
  Encoding.lineV _ _ _ rfl ⟨rfl, rfl⟩ rfl rfl rfl rfl rfl
theorem Encoding.lPmm (w : LSlot) : Encoding.Statement (.lPmm w) :=
  Encoding.line2 _ _ _ rfl rfl rfl rfl rfl rfl rfl
theorem Encoding.lPmw (w : LSlot) : Encoding.Statement (.lPmw w) :=
  Encoding.line3 _ _ _ rfl rfl rfl rfl rfl rfl rfl
theorem Encoding.lLbld (w : LSlot) : Encoding.Statement (.lLbld w) :=
  Encoding.line3 _ _ _ rfl rfl rfl rfl rfl rfl rfl
theorem Encoding.lLbst (w : LSlot) : Encoding.Statement (.lLbst w) :=
  Encoding.line3 _ _ _ rfl rfl rfl rfl rfl rfl rfl
theorem Encoding.lGath (w : LSlot) : Encoding.Statement (.lGath w) :=
  Encoding.line3 _ _ _ rfl rfl rfl rfl rfl rfl rfl
theorem Encoding.lSamp (w : LSlot) : Encoding.Statement (.lSamp w) :=
  Encoding.line3 _ _ _ rfl rfl rfl rfl rfl rfl rfl
theorem Encoding.lEmit (w : LSlot) : Encoding.Statement (.lEmit w) :=
  Encoding.line3 _ _ _ rfl rfl rfl rfl rfl rfl rfl
theorem Encoding.lNop (w : LSlot) : Encoding.Statement (.lNop w) := Encoding.lineNop w
theorem Encoding.evClauseStart : Encoding.Statement (.evClauseStart) := Encoding.event _ rfl rfl rfl rfl rfl rfl
theorem Encoding.evLongLatencyCompletion (r : WaveRef) (k : Nat) : Encoding.Statement (.evLongLatencyCompletion r k) := Encoding.event _ rfl rfl rfl rfl rfl rfl
theorem Encoding.evSleepExpiry (r : WaveRef) : Encoding.Statement (.evSleepExpiry r) := Encoding.event _ rfl rfl rfl rfl rfl rfl
theorem Encoding.evWaitfRelease (r : WaveRef) : Encoding.Statement (.evWaitfRelease r) := Encoding.event _ rfl rfl rfl rfl rfl rfl
theorem Encoding.evBarrierPhaseCompletion (r : WgRef) (n : Nat) : Encoding.Statement (.evBarrierPhaseCompletion r n) := Encoding.event _ rfl rfl rfl rfl rfl rfl
theorem Encoding.evGbarCompletion (grid : Nat) : Encoding.Statement (.evGbarCompletion grid) := Encoding.event _ rfl rfl rfl rfl rfl rfl
theorem Encoding.evRendezvousCompletion (r : WgRef) : Encoding.Statement (.evRendezvousCompletion r) := Encoding.event _ rfl rfl rfl rfl rfl rfl
theorem Encoding.evAcqRelease (r : WaveRef) : Encoding.Statement (.evAcqRelease r) := Encoding.event _ rfl rfl rfl rfl rfl rfl
theorem Encoding.evTlwaitRelease (r : WaveRef) : Encoding.Statement (.evTlwaitRelease r) := Encoding.event _ rfl rfl rfl rfl rfl rfl
theorem Encoding.evTlwaitPark (r : WgRef) : Encoding.Statement (.evTlwaitPark r) := Encoding.event _ rfl rfl rfl rfl rfl rfl
theorem Encoding.evTimelinePoll (r : WaveRef) : Encoding.Statement (.evTimelinePoll r) := Encoding.event _ rfl rfl rfl rfl rfl rfl
theorem Encoding.evWaveEnd (r : WaveRef) : Encoding.Statement (.evWaveEnd r) := Encoding.event _ rfl rfl rfl rfl rfl rfl
theorem Encoding.evSpillwayHandlerDelivery (r : WgRef) : Encoding.Statement (.evSpillwayHandlerDelivery r) := Encoding.event _ rfl rfl rfl rfl rfl rfl
theorem Encoding.evReplyTakenAsPoisoned (r : WaveRef) (k : Nat) : Encoding.Statement (.evReplyTakenAsPoisoned r k) := Encoding.event _ rfl rfl rfl rfl rfl rfl
theorem Encoding.evWatchdog (r : WgRef) : Encoding.Statement (.evWatchdog r) := Encoding.event _ rfl rfl rfl rfl rfl rfl
theorem Encoding.evShedForce (r : WgRef) : Encoding.Statement (.evShedForce r) := Encoding.event _ rfl rfl rfl rfl rfl rfl
theorem Encoding.evSequencerJobStart (r : WgRef) : Encoding.Statement (.evSequencerJobStart r) := Encoding.event _ rfl rfl rfl rfl rfl rfl
theorem Encoding.evPassCommit (core : Nat) : Encoding.Statement (.evPassCommit core) := Encoding.event _ rfl rfl rfl rfl rfl rfl
theorem Encoding.evSpillwayStallExpiry (core : Nat) : Encoding.Statement (.evSpillwayStallExpiry core) := Encoding.event _ rfl rfl rfl rfl rfl rfl
theorem Encoding.evMatrixWordCompletion (core : Nat) (q : EngineQueue) : Encoding.Statement (.evMatrixWordCompletion core q) := Encoding.event _ rfl rfl rfl rfl rfl rfl
theorem Encoding.evNestWordGeneration (core : Nat) : Encoding.Statement (.evNestWordGeneration core) := Encoding.event _ rfl rfl rfl rfl rfl rfl
theorem Encoding.evHeadgateDemand (core : Nat) (q : EngineQueue) : Encoding.Statement (.evHeadgateDemand core q) := Encoding.event _ rfl rfl rfl rfl rfl rfl
theorem Encoding.evHeadgateGrant (tile : Nat) : Encoding.Statement (.evHeadgateGrant tile) := Encoding.event _ rfl rfl rfl rfl rfl rfl
theorem Encoding.evHeadgateBoundary (tile : Nat) : Encoding.Statement (.evHeadgateBoundary tile) := Encoding.event _ rfl rfl rfl rfl rfl rfl
theorem Encoding.evRampTableInForce (tile : Nat) : Encoding.Statement (.evRampTableInForce tile) := Encoding.event _ rfl rfl rfl rfl rfl rfl
theorem Encoding.evCopyAcceptance (r : WgRef) : Encoding.Statement (.evCopyAcceptance r) := Encoding.event _ rfl rfl rfl rfl rfl rfl
theorem Encoding.evCopyChunkStart (core : Nat) (slot : Nat) : Encoding.Statement (.evCopyChunkStart core slot) := Encoding.event _ rfl rfl rfl rfl rfl rfl
theorem Encoding.evCopyChunkCompletion (core : Nat) (slot : Nat) : Encoding.Statement (.evCopyChunkCompletion core slot) := Encoding.event _ rfl rfl rfl rfl rfl rfl
theorem Encoding.evStreamDelivery (core : Nat) (slot : Nat) : Encoding.Statement (.evStreamDelivery core slot) := Encoding.event _ rfl rfl rfl rfl rfl rfl
theorem Encoding.evCopyCompletion (core : Nat) (slot : Nat) : Encoding.Statement (.evCopyCompletion core slot) := Encoding.event _ rfl rfl rfl rfl rfl rfl
theorem Encoding.evClaim (core : Nat) (grid : Nat) : Encoding.Statement (.evClaim core grid) := Encoding.event _ rfl rfl rfl rfl rfl rfl
theorem Encoding.evGangClaim (core : Nat) (grid : Nat) : Encoding.Statement (.evGangClaim core grid) := Encoding.event _ rfl rfl rfl rfl rfl rfl
theorem Encoding.evPlacement (core : Nat) : Encoding.Statement (.evPlacement core) := Encoding.event _ rfl rfl rfl rfl rfl rfl
theorem Encoding.evReservedMemberPlacement (core : Nat) : Encoding.Statement (.evReservedMemberPlacement core) := Encoding.event _ rfl rfl rfl rfl rfl rfl
theorem Encoding.evTokenGrowth (grid : Nat) : Encoding.Statement (.evTokenGrowth grid) := Encoding.event _ rfl rfl rfl rfl rfl rfl
theorem Encoding.evPreemptionDecision (grid : Nat) : Encoding.Statement (.evPreemptionDecision grid) := Encoding.event _ rfl rfl rfl rfl rfl rfl
theorem Encoding.evDrainTimeout (r : WgRef) : Encoding.Statement (.evDrainTimeout r) := Encoding.event _ rfl rfl rfl rfl rfl rfl
theorem Encoding.evSaveCompletion (r : WgRef) : Encoding.Statement (.evSaveCompletion r) := Encoding.event _ rfl rfl rfl rfl rfl rfl
theorem Encoding.evRestore (core : Nat) (frame : Nat) : Encoding.Statement (.evRestore core frame) := Encoding.event _ rfl rfl rfl rfl rfl rfl
theorem Encoding.evRelaunch (core : Nat) (grid : Nat) : Encoding.Statement (.evRelaunch core grid) := Encoding.event _ rfl rfl rfl rfl rfl rfl
theorem Encoding.evQtailWrite (q : Nat) (v : W64) : Encoding.Statement (.evQtailWrite q v) := Encoding.event _ rfl rfl rfl rfl rfl rfl
theorem Encoding.evTlWaitRelease (q : Nat) : Encoding.Statement (.evTlWaitRelease q) := Encoding.event _ rfl rfl rfl rfl rfl rfl
theorem Encoding.evParsingResumes (q : Nat) : Encoding.Statement (.evParsingResumes q) := Encoding.event _ rfl rfl rfl rfl rfl rfl
theorem Encoding.evOverflowMove (ctx : Nat) : Encoding.Statement (.evOverflowMove ctx) := Encoding.event _ rfl rfl rfl rfl rfl rfl
theorem Encoding.evDeviceLaunchDequeue (ctx : Nat) : Encoding.Statement (.evDeviceLaunchDequeue ctx) := Encoding.event _ rfl rfl rfl rfl rfl rfl
theorem Encoding.evMailboxCompletion (f : Nat) : Encoding.Statement (.evMailboxCompletion f) := Encoding.event _ rfl rfl rfl rfl rfl rfl
theorem Encoding.evCtxerrWrite (ctx : Nat) (v : W64) : Encoding.Statement (.evCtxerrWrite ctx v) := Encoding.event _ rfl rfl rfl rfl rfl rfl
theorem Encoding.evFresumeResume (ctx : Nat) (frame : Nat) : Encoding.Statement (.evFresumeResume ctx frame) := Encoding.event _ rfl rfl rfl rfl rfl rfl
theorem Encoding.evFresumeKill (ctx : Nat) (frame : Nat) : Encoding.Statement (.evFresumeKill ctx frame) := Encoding.event _ rfl rfl rfl rfl rfl rfl
theorem Encoding.evTlbinv (ctx : Nat) (v : W64) : Encoding.Statement (.evTlbinv ctx v) := Encoding.event _ rfl rfl rfl rfl rfl rfl
theorem Encoding.evTlbinvComplete (ctx : Nat) : Encoding.Statement (.evTlbinvComplete ctx) := Encoding.event _ rfl rfl rfl rfl rfl rfl
theorem Encoding.evCerrWrite (core : Nat) (v : W64) : Encoding.Statement (.evCerrWrite core v) := Encoding.event _ rfl rfl rfl rfl rfl rfl
theorem Encoding.evRegisterWrite (f : Nat) (dpa : Nat) (size : Nat) (v : W64) : Encoding.Statement (.evRegisterWrite f dpa size v) := Encoding.event _ rfl rfl rfl rfl rfl rfl
theorem Encoding.evHostPostedWrite (f : Nat) (offset : Nat) (bytes : List Byte) : Encoding.Statement (.evHostPostedWrite f offset bytes) := Encoding.event _ rfl rfl rfl rfl rfl rfl
theorem Encoding.evHostMemoryRead (f : Nat) (offset : Nat) (size : Nat) : Encoding.Statement (.evHostMemoryRead f offset size) := Encoding.event _ rfl rfl rfl rfl rfl rfl
theorem Encoding.evShelfFrame (bytes : List Byte) : Encoding.Statement (.evShelfFrame bytes) := Encoding.event _ rfl rfl rfl rfl rfl rfl
theorem Encoding.evShelfReply (draw vin : BitVec 16) : Encoding.Statement (.evShelfReply draw vin) := Encoding.event _ rfl rfl rfl rfl rfl rfl
theorem Encoding.evShelfLoss : Encoding.Statement (.evShelfLoss) := Encoding.event _ rfl rfl rfl rfl rfl rfl
theorem Encoding.evShedLevelChange : Encoding.Statement (.evShedLevelChange) := Encoding.event _ rfl rfl rfl rfl rfl rfl
theorem Encoding.evShedctlWrite (v : W64) : Encoding.Statement (.evShedctlWrite v) := Encoding.event _ rfl rfl rfl rfl rfl rfl
theorem Encoding.evVmboxWrite (tile : Nat) (point : BitVec 4) : Encoding.Statement (.evVmboxWrite tile point) := Encoding.event _ rfl rfl rfl rfl rfl rfl
theorem Encoding.evRailMoveComplete (tile : Nat) : Encoding.Statement (.evRailMoveComplete tile) := Encoding.event _ rfl rfl rfl rfl rfl rfl
theorem Encoding.evRailPassesPoint (tile : Nat) : Encoding.Statement (.evRailPassesPoint tile) := Encoding.event _ rfl rfl rfl rfl rfl rfl
theorem Encoding.evHgrampWrite (tile : Nat) (n : Bool) (v : W64) : Encoding.Statement (.evHgrampWrite tile n v) := Encoding.event _ rfl rfl rfl rfl rfl rfl
theorem Encoding.evRunSet (head : Nat) (v : W64) : Encoding.Statement (.evRunSet head v) := Encoding.event _ rfl rfl rfl rfl rfl rfl
theorem Encoding.evRunClear (head : Nat) (v : W64) : Encoding.Statement (.evRunClear head v) := Encoding.event _ rfl rfl rfl rfl rfl rfl
theorem Encoding.evHeadStop (head : Nat) : Encoding.Statement (.evHeadStop head) := Encoding.event _ rfl rfl rfl rfl rfl rfl
theorem Encoding.evPosecommit (head : Nat) (v : W64) : Encoding.Statement (.evPosecommit head v) := Encoding.event _ rfl rfl rfl rfl rfl rfl
theorem Encoding.evLineStart (head : Nat) : Encoding.Statement (.evLineStart head) := Encoding.event _ rfl rfl rfl rfl rfl rfl
theorem Encoding.evPoseLatch (head : Nat) : Encoding.Statement (.evPoseLatch head) := Encoding.event _ rfl rfl rfl rfl rfl rfl
theorem Encoding.evBandDispatch (head : Nat) : Encoding.Statement (.evBandDispatch head) := Encoding.event _ rfl rfl rfl rfl rfl rfl
theorem Encoding.evBandAbort (lc : Nat) : Encoding.Statement (.evBandAbort lc) := Encoding.event _ rfl rfl rfl rfl rfl rfl
theorem Encoding.evGuardPoint (head : Nat) : Encoding.Statement (.evGuardPoint head) := Encoding.event _ rfl rfl rfl rfl rfl rfl
theorem Encoding.evCaptureFrameDone (head : Nat) : Encoding.Statement (.evCaptureFrameDone head) := Encoding.event _ rfl rfl rfl rfl rfl rfl
theorem Encoding.evWaterTurnToken (gen : W32) (entries : List TokenEntry) : Encoding.Statement (.evWaterTurnToken gen entries) := Encoding.event _ rfl rfl rfl rfl rfl rfl
theorem Encoding.evSteal (thief : Nat) : Encoding.Statement (.evSteal thief) := Encoding.event _ rfl rfl rfl rfl rfl rfl
theorem Encoding.evStealRangeArrival (range : StealRange) : Encoding.Statement (.evStealRangeArrival range) := Encoding.event _ rfl rfl rfl rfl rfl rfl
theorem Encoding.evStolenCompletionReport (grid wgl : Nat) : Encoding.Statement (.evStolenCompletionReport grid wgl) := Encoding.event _ rfl rfl rfl rfl rfl rfl
theorem Encoding.evThiefUnreachable (thief : Nat) : Encoding.Statement (.evThiefUnreachable thief) := Encoding.event _ rfl rfl rfl rfl rfl rfl
theorem Encoding.evTokenRegeneration (lowerReachable : Bool) : Encoding.Statement (.evTokenRegeneration lowerReachable) := Encoding.event _ rfl rfl rfl rfl rfl rfl
theorem Encoding.evPowerUp (fails : List BringUpFail) : Encoding.Statement (.evPowerUp fails) := Encoding.event _ rfl rfl rfl rfl rfl rfl
theorem Encoding.evThermalTrip : Encoding.Statement (.evThermalTrip) := Encoding.event _ rfl rfl rfl rfl rfl rfl
theorem Encoding.evInputUndervoltage : Encoding.Statement (.evInputUndervoltage) := Encoding.event _ rfl rfl rfl rfl rfl rfl
theorem Encoding.evUncorrectableError (target : ErrorTarget) : Encoding.Statement (.evUncorrectableError target) := Encoding.event _ rfl rfl rfl rfl rfl rfl
theorem Encoding.evSpdmMeasurements (index : Nat) (nonce : List Byte) : Encoding.Statement (.evSpdmMeasurements index nonce) := Encoding.event _ rfl rfl rfl rfl rfl rfl
theorem Encoding.evPldmFirmwareUpdate (image : FwImageId) (bytes : List Byte) : Encoding.Statement (.evPldmFirmwareUpdate image bytes) := Encoding.event _ rfl rfl rfl rfl rfl rfl
theorem Encoding.evPldmActivation (image : FwImageId) (counter : Nat) : Encoding.Statement (.evPldmActivation image counter) := Encoding.event _ rfl rfl rfl rfl rfl rfl
theorem Encoding.evPldmSensorRead (sensor : Sensor) : Encoding.Statement (.evPldmSensorRead sensor) := Encoding.event _ rfl rfl rfl rfl rfl rfl
theorem Encoding.evHostAtomicopCompletion (id : Nat) (old : Option W64) : Encoding.Statement (.evHostAtomicopCompletion id old) := Encoding.event _ rfl rfl rfl rfl rfl rfl
theorem Encoding.evPodRequestArrival (req : PodRequest) : Encoding.Statement (.evPodRequestArrival req) := Encoding.event _ rfl rfl rfl rfl rfl rfl
theorem Encoding.evLineResultArrival (lc : Nat) (k : Nat) : Encoding.Statement (.evLineResultArrival lc k) := Encoding.event _ rfl rfl rfl rfl rfl rfl
theorem Encoding.evLdgAccessReturn (core : Nat) (ctx : SeqCtx) : Encoding.Statement (.evLdgAccessReturn core ctx) := Encoding.event _ rfl rfl rfl rfl rfl rfl
theorem Encoding.evOvlLoadComplete (core : Nat) : Encoding.Statement (.evOvlLoadComplete core) := Encoding.event _ rfl rfl rfl rfl rfl rfl
theorem Encoding.evMaintenancePerformed (r : WaveRef) : Encoding.Statement (.evMaintenancePerformed r) := Encoding.event _ rfl rfl rfl rfl rfl rfl

end Sys2Proof.Laws
end

