-- ==== Sys2Proof/Safety.lean ====
section
/-! DEFINITION. The terms in which claims about the machine are stated: when a word may issue, what a
statement may leave out of sight (the placement of registers in the backing area, 01 R35, and the model's
counter of free values), and what stays as it was. -/

namespace Sys2Proof.Machine

/-! ## Words that may issue -/

/-- The context and form of a wave word that passes every check of its issue: its fields fit its form
(03 R86-R92), its stream elements have arrived (18 R431), no long-latency word in flight owns a register it
names (03 R99), no operand of an active lane is poisoned (16 R418), and no pending word holds its accesses back
(06 R194, R206). -/
def State.ready? (op : Nat) (w : WWord) (s : State) : Option (WaveCtx × WaveForm) :=
  match s.waveCtx? w, waveForm op w with
  | some c, some f =>
    if fieldsFit op f w && c.streamsReady w
        && !c.meetsPending f w && !c.poisonHit f w && !c.heldBack op w then some (c, f) else none
  | _, _ => none

/-- The flag a long-latency word binds, where its clause names one that fewer than 255 words are bound to
(03 R97). -/
def State.bindable? (c : WaveCtx) (s : State) : Option Nat :=
  match s.boundFlag c with
  | some k => if 255 ≤ (c.wv.flags[k]?).getD 0 then none else some k
  | none => none

/-- The issuing context of a sequencer word that passes every check of its issue: its context may execute it (07 R232), its
token bits name rings of its context with tokens and room (07 R224), its registers are not owed by an LDG (07 R231), and
none that it reads is poisoned (16 R418). -/
def State.seqReady? (op : Nat) (w : SWord) (s : State) : Option (SeqIssue × SeqForm) :=
  match s.cur, seqForm op with
  | .seq core ctx, some f =>
    match s.seqIssue? core ctx (encodeSeqWord op f.fmt w) with
    | some c =>
      if (seqRefused op ctx w).isNone && !(seqRegs f op w).any (fun n => n != 0 && c.st.ldgs.any (fun l => l.reg == n))
          && (ctx == .trap || tokensReady c.job ctx w) && !c.readsPoison op w then some (c, f) else none
    | none => none
  | _, _ => none

/-! ## Sequencer words -/

/-- The registers of a word's context as they stand now. -/
def State.seqOf? (s : State) (c : SeqIssue) : Option SeqState :=
  match c.ctx with
  | .trap => some (s.core c.r.core).trap.asSeq
  | ctx => (s.job? c.r).map (fun j => j.ctx ctx)

/-- The registers of a context after an issued word: its effect, and the count of issued words (16 R400), which
the trap context does not keep. -/
def SeqIssue.after (c : SeqIssue) (f : SeqState → SeqState) : SeqState :=
  let x := f c.st
  if c.ctx = .trap then x else { x with issued := x.issued + 1 }

/-- A state after the pops and pushes of an issued word, and its count (07 R224; 16 R400, R419). -/
def State.seqDone (s : State) (c : SeqIssue) (w : SWord) (on : PushOn) : State :=
  (s.updJob c.r (fun j => if c.ctx = .trap then j else j.takeTokens c.ctx w on)).countSeq c

/-! ## What is out of sight -/

/-- Everything of the machine but its cores and the counter of free values. -/
def State.offCores (s : State) : State := { s with cores := [], freeCount := 0 }

/-- Everything of a core but its workgroups, the counts of 01 R35 and the tck of its last use of the shedding level
(21 R456). -/
def ComputeCore.shell (c : ComputeCore) : ComputeCore := { c with wgs := [], spillCnt := 0, refillCnt := 0, levelAt := none }

/-- Everything of a workgroup but its waves; under `own` also without the flag word, what the tck has done to it, and the
watchdog count, which an issued word of its own may change. -/
def Workgroup.shell (own : Bool) (g : Workgroup) : Workgroup :=
  if own then { g with waves := [], flags := 0, flagTck := none, watchdog := 0 } else { g with waves := [] }

/-- A wave but for which of its registers stand in the backing area. -/
def Wave.unplaced (v : Wave) : Wave := { v with spilled := [] }

/-- A wave but for its vector registers, their poison, and its streams. -/
def Wave.bare (v : Wave) : Wave := { v with vregs := [], spilled := [], poison := [], streams := [] }

/-- A wave but for every register a word may write. -/
def Wave.frame (v : Wave) : Wave := { v.bare with sregs := [], spoison := [], preds := [], lstk := 0 }

/-- The machine has changed in wave `r` alone, in the flag word and watchdog count of its workgroup, and in the
placement of registers in the backing area. -/
structure State.OnlyWave (s t : State) (r : WaveRef) : Prop where
  off : t.offCores = s.offCores
  cores : ∀ k, (t.core k).shell = (s.core k).shell
  groups : ∀ q, (t.wg? q).map (Workgroup.shell (q == wgOf r)) = (s.wg? q).map (Workgroup.shell (q == wgOf r))
  waves : ∀ q, q ≠ r → (t.wave? q).map Wave.unplaced = (s.wave? q).map Wave.unplaced

/-- The four rings of a job. -/
def Job.rings (j : Job) : List Ring := [j.ringIF, j.ringIR, j.ringOF, j.ringOR]

/-- A job but for its contexts' registers and its rings. -/
def Job.shell (j : Job) : Job :=
  { j with intake := .reset, main := .reset, outfall := .reset, ringIF := .reset, ringIR := .reset, ringOF := .reset,
           ringOR := .reset }

/-- The machine has changed in the registers of one sequencer context, the rings of its job and the watchdog
count of its workgroup alone. -/
structure State.OnlySeq (s t : State) (c : SeqIssue) : Prop where
  off : t.offCores = s.offCores
  cores : ∀ k, { t.core k with wgs := [], trap := .reset } = { s.core k with wgs := [], trap := .reset }
  trap : ∀ k, c.ctx ≠ .trap ∨ k ≠ c.r.core → (t.core k).trap = (s.core k).trap
  traps : ∀ k, (t.core k).trap.item = (s.core k).trap.item ∧ (t.core k).trap.tepc = (s.core k).trap.tepc
  groups : ∀ q, q ≠ c.r → t.wg? q = s.wg? q
  group : (t.wg? c.r).map (fun g => { g with job := none, watchdog := 0 }) =
    (s.wg? c.r).map (fun g => { g with job := none, watchdog := 0 })
  job : (t.job? c.r).map Job.shell = (s.job? c.r).map Job.shell
  contexts : ∀ k, k ≠ c.ctx → (t.job? c.r).map (·.ctx k) = (s.job? c.r).map (·.ctx k)

/-- Whether a lane of a vector register is poisoned (16 R418). -/
def Wave.poisonedLane (v : Wave) (n l : Nat) : Bool := v.poison.any (fun p => p.1 == n && p.2.getLsbD l)

/-- A lane of a vector register, or of a pair under a 64-bit type (04 R121). -/
def Wave.laneValue (v : Wave) (wide : Bool) (d l : Nat) : Nat :=
  let lo := (((v.vreg d)[l]?).getD 0).toNat
  if wide then lo + (((v.vreg (d + 1))[l]?).getD 0).toNat * 2 ^ 32 else lo

/-- The lanes of a vector register, or of a pair, as values of `n` bits (04 R121, R122). -/
def Wave.typedLanes (v : Wave) (n d : Nat) : List Nat :=
  if n = 64 then ((v.vreg d).zip (v.vreg (d + 1))).map (fun p => p.1.toNat + p.2.toNat * 2 ^ 32)
  else (v.vreg d).map (fun x => x.toNat % 2 ^ n)

/-- What a lane of a vector destination of a type holds once a value is written to it (04 R122). -/
def imageOf (t : WType) (v : Nat) : Nat := if isWide t then v % 2 ^ 64 else extendTo t 32 v % 2 ^ 32

/-- The operand values of a word that issues; the count of issued words (16 R400) has gone up by then. -/
def WaveCtx.operands (c : WaveCtx) (s : State) (f : WaveForm) (w : WWord) : List Nat × List Nat × List Nat :=
  c.sources (s.countIssue c.r) f w

/-- The predicate a carry chain writes beside its destination (04 R128). -/
def carryOut (op : Nat) (w : WWord) : Option Nat :=
  if op = 0x03 ∨ op = 0x04 ∨ op = 0x43 ∨ op = 0x44 then some (subOp w) else none

/-- What a word that only computes leaves of its wave: nothing but its destination, what its operands' reads
change (01 R34; 18 R431), and its place. -/
structure Wave.Computed (v u : Wave) (op : Nat) (c : WaveCtx) (f : WaveForm) (w : WWord) : Prop where
  place : u.frame = ({ v.pass (wordLen w) with issued := v.issued + 1 } : Wave).frame
  streams : u.streams = (v.takeStreams c.act (streamsOf w)).streams
  regs : ∀ m, m ∉ dstRegs f.dst w.d → m ∉ c.lastUses f w → u.vreg m = v.vreg m
  freed : ∀ m ∈ c.lastUses f w, m ∉ dstRegs f.dst w.d → u.vreg m = zeroLanes
  lanes : ∀ m ∈ dstRegs f.dst w.d, m ∉ c.lastUses f w → ∀ l, l < 32 → c.act.getLsbD l = false →
    ((u.vreg m)[l]?).getD 0 = ((v.vreg m)[l]?).getD 0
  poison : ∀ m l, m ∉ c.lastUses f w → m ∉ dstRegs f.dst w.d ∨ c.act.getLsbD l = false →
    u.poisonedLane m l = v.poisonedLane m l
  sregs : ∀ n, ¬(f.dst = .sca ∧ n = w.d.toNat) → u.sregs[n]? = v.sregs[n]?
  spoison : ∀ n, ¬(f.dst = .sca ∧ n = w.d.toNat) → (n ∈ u.spoison ↔ n ∈ v.spoison)
  preds : ∀ n, ¬(f.dst = .pred ∧ n = w.d.toNat) → carryOut op w ≠ some n → u.preds[n]? = v.preds[n]?
  lstk : f.dst ≠ .special → u.lstk = v.lstk

/-! ## Rounding (02 R62-R64) -/

/-- The rational a finite value is. -/
def FVal.exact : FVal → Option ℚ
  | .fin neg m e => some ((if neg then -1 else 1) * m * 2 ^ e)
  | _ => none

/-- The values that a format's precision reaches with an unbounded exponent range, at subnormal precision below its smallest
normal; `even` asks that the least significant fraction bit be 0 (02 R62). -/
def Fmt.Grid (f : Fmt) (even : Bool) (q : ℚ) : Prop :=
  ∃ k u : ℤ, |k| ≤ 2 ^ (f.fb + 1) ∧ 1 - f.bias - f.fb ≤ u ∧ q = k * 2 ^ u
    ∧ (even = true → k % 2 = 0 ∧ (2 ^ f.fb ≤ |k| ∨ u = 1 - f.bias - f.fb))

/-- `y` is `v` rounded to a format's precision in a mode (00 R19; 02 R62). -/
def Fmt.RoundsTo (f : Fmt) (rnd : Rnd) (v y : ℚ) : Prop :=
  f.Grid false y ∧ match rnd with
    | .rn => ∀ z, f.Grid false z → |y - v| ≤ |z - v| ∧ (z ≠ y → |z - v| = |y - v| → f.Grid true y)
    | .rz => 0 ≤ y * v ∧ |y| ≤ |v| ∧ ∀ z, f.Grid false z → |z| ≤ |v| → |z| ≤ |y|
    | .ru => v ≤ y ∧ ∀ z, f.Grid false z → v ≤ z → y ≤ z
    | .rd => y ≤ v ∧ ∀ z, f.Grid false z → z ≤ v → z ≤ y

/-- The largest finite value of a format (02 R54). -/
def Fmt.top (f : Fmt) : ℚ := ((f.value f.maxFinite).exact).getD 0

/-- `o` is the encoding and the flags that an operation gives whose exact result is `v`; `zero` is the sign of an exact zero
(02 R62-R64). -/
def Fmt.Gives (f : Fmt) (rnd : Rnd) (sat zero : Bool) (v : ℚ) (o : Nat × BitVec 6) : Prop :=
  (v = 0 → o = (f.signBit zero, 0))
  ∧ (v ≠ 0 → ∃ y, f.RoundsTo rnd v y
    ∧ (|y| ≤ f.top → o.1 < 2 ^ f.width ∧ (f.value o.1).exact = some y ∧ (f.value o.1).neg = decide (v < 0)
        ∧ o.2 = if y = v then 0 else if |v| < 2 ^ (1 - (f.bias : Int)) then flagNX ||| flagUF else flagNX)
    ∧ (f.top < |y| → o = if sat then (f.signBit (decide (v < 0)) + f.maxFinite, flagSA ||| flagNX)
        else if rnd = .rn ∨ rnd = .ru ∧ 0 < v ∨ rnd = .rd ∧ v < 0 then (f.infinity (decide (v < 0)), flagOF ||| flagNX)
        else (f.signBit (decide (v < 0)) + f.maxFinite, flagOF ||| flagNX)))

/-- What an infinite result gives (02 R62, R64). -/
def Fmt.infinite (f : Fmt) (sat neg : Bool) : Nat × BitVec 6 :=
  if sat then (f.signBit neg + f.maxFinite, flagSA) else (f.infinity neg, 0)

/-! ## Matrix words and line-core operations -/

/-- The place of a matrix word that starts: it is the head word of the queue `cur` names, a WLOAD the weight loader's, it
raises no trap at its start, and no wave has stored to bytes it has yet to read (08 R261-R263, R279). -/
def State.matrixReady? (opx : Nat) (w : MWord) (s : State) : Option HeadCtx :=
  match s.cur with
  | .engine core eq =>
    match (if opx = 1 then s.loaderWord? core else s.headWord? core eq) with
    | some c => if c.q.opx = opx ∧ c.q.w = w ∧ s.startCheck c = none ∧ c.q.raced = [] then some c else none
    | none => none
  | _ => none

/-- The words of a job that MW has handed over passed the checks made when MW issues: what R108 asks, and offsets below
SCRATCH (08 R262). -/
def Job.HandedOk (scratch : Nat) (j : Job) : Prop :=
  ∀ x ∈ j.openWords, x.nest = false → x.astray = false ∧ matrixOk x.opx x.w = true ∧ offsetBeyond scratch x.opx x.w = false

/-- That holds of every job. -/
def State.QueuesOk (s : State) : Prop :=
  ∀ r g j, s.wg? r = some g → g.job = some j → j.HandedOk (s.lpbOf g).scratch

/-- The machine has changed in one line core alone. -/
structure State.OnlyLine (s t : State) (n : Nat) : Prop where
  rest : { t with lineCores := [] } = { s with lineCores := [] }
  others : ∀ m, m ≠ n → t.lineCore m = s.lineCore m

/-- A line core but for its h registers. -/
def LineCore.noH (c : LineCore) : LineCore := { c with h := [] }

/-- A lane of an h register of a line core. -/
def LineCore.hl (c : LineCore) (n l : Nat) : W32 := (((c.h[n]?).getD [])[l]?).getD 0

/-- The lanes of an h register are its sixteen, in every register (01 R43). -/
def LineCore.hWf (c : LineCore) : Prop := c.h.length = 32 ∧ ∀ x ∈ c.h, x.length = 16

/-- The lanes of a wave after waits have ended: those whose wait `p` holds of are live, the others as they were. -/
def Wave.Freed (v u : Wave) (p : LaneWait → Prop) : Prop :=
  ∀ (n : Nat) (l : Lane), v.lanes[n]? = some l →
    (∀ x, l.state = .waiting x → p x → u.lanes[n]? = some { l with state := .live })
    ∧ ((∀ x, l.state = .waiting x → ¬p x) → u.lanes[n]? = some l)

/-- The same for every wave of a workgroup. -/
def Workgroup.Freed (g u : Workgroup) (p : LaneWait → Prop) : Prop :=
  u.waves.length = g.waves.length ∧ ∀ (k : Nat) (v : Wave), g.waves[k]? = some v → ∃ x, u.waves[k]? = some x ∧ v.Freed x p

/-! ## Memory as a core sees it -/

/-- A byte of memory as the waves of a core read it: its own dirty copy stands before memory (14 R370). -/
def State.seen (s : State) (core a : Nat) : Byte := s.readAround core a

/-! ## Safe states -/

/-- The invariant of the machine's memories (00 R4, 01 R45): the memory keeps its canonical form. -/
def State.Inv (s : State) : Prop := s.memWf

end Sys2Proof.Machine
end

