-- ==== Sys2Proof/Rows.lean ====
section
/-! DEFINITION. Tables of the wave words of one shape, for claims that range over them: each row gives an opcode
(03 R102), its instruction, and what the rules say the word computes. -/

namespace Sys2Proof.Machine

/-- Operand values of a word, lane by lane, for a, b and c. -/
abbrev Sources := List Nat × List Nat × List Nat

/-! ## Vector destinations -/

/-- A word with a vector destination: the type it is written in, when it computes, each active lane's value,
and the flags it raises. -/
structure VecRow where
  op    : Nat
  instr : WWord → Instr
  ty    : WWord → WType
  ok    : WaveCtx → Sources → WaveForm → WWord → Bool
  val   : WaveCtx → Sources → WWord → Nat → Nat
  flags : WaveCtx → Sources → WWord → BitVec 6

/-- A row that is a function of the lane's three operands. -/
def VecRow.lanewise (op : Nat) (instr : WWord → Instr) (ty : WWord → WType)
    (f : WWord → Nat → Nat → Nat → Nat × BitVec 6) : VecRow :=
  { op := op, instr := instr, ty := ty, ok := fun _ _ _ _ => true,
    val := fun _ x w l => (f w (at_ x.1 l) (at_ x.2.1 l) (at_ x.2.2 l)).1,
    flags := fun c x w => (laneMap c.act x (f w)).2 }

/-- What a row says of its word: it completes, every active lane of its destination holds its value in its
type and is not poisoned, and its flags are raised. -/
def VecRow.Holds (row : VecRow) : Prop :=
  ∀ (w : WWord) (s : State) (c : WaveCtx) (f : WaveForm), s.ready? row.op w = some (c, f) →
    row.ok c (c.operands s f w) f w = true →
    ∃ t v, exec (row.instr w) s = .next t ∧ t.wave? c.r = some v
      ∧ (∀ l, l < 32 → c.act.getLsbD l = true →
          v.laneValue (isWide (row.ty w)) w.d.toNat l = imageOf (row.ty w) (row.val c (c.operands s f w) w l)
          ∧ v.poisonedLane w.d.toNat l = false)
      ∧ (t.wg? (wgOf c.r)).map (·.flags) = some (c.wg.flags ||| row.flags c (c.operands s f w) w)

/-- Integer arithmetic and bit words, and moves of one operand (04 R127-R133, R137, R139, R143). -/
def integerRows : List VecRow :=
  [.lanewise 0x01 .wAdd (·.t) (fun w x y _ => addVal w.t (satBit w) x y),
   .lanewise 0x02 .wSub (·.t) (fun w x y _ => subVal w.t (satBit w) x y),
   .lanewise 0x05 .wMul (·.t) (fun w x y _ => mulVal w.t (satBit w) x y),
   .lanewise 0x06 .wMulh (·.t) (fun w x y _ => mulhVal w.t x y),
   .lanewise 0x07 .wMad (·.t) (fun w x y z => madVal w.t (satBit w) x y z),
   .lanewise 0x08 .wMadw (fun w => wideOf w.t) (fun w x y z => madwVal w.t (satBit w) x y z),
   .lanewise 0x09 .wMin (·.t) (fun w x y _ => minVal w.t x y),
   .lanewise 0x0A .wMax (·.t) (fun w x y _ => maxVal w.t x y),
   .lanewise 0x0B .wAbs (·.t) (fun w x _ _ => absVal w.t (satBit w) x),
   .lanewise 0x0C .wNeg (·.t) (fun w x _ _ => negVal w.t (satBit w) x),
   .lanewise 0x10 .wAnd (·.t) (fun _ x y _ => andVal x y),
   .lanewise 0x11 .wOr (·.t) (fun _ x y _ => orVal x y),
   .lanewise 0x12 .wXor (·.t) (fun _ x y _ => xorVal x y),
   .lanewise 0x13 .wNot (·.t) (fun w x _ _ => notVal (opWidth w) x),
   .lanewise 0x14 .wAndn (·.t) (fun w x y _ => andnVal (opWidth w) x y),
   .lanewise 0x15 .wShl (·.t) (fun w x y _ => shlVal (opWidth w) x y),
   .lanewise 0x16 .wShr (·.t) (fun w x y _ => shrVal (opWidth w) x y),
   .lanewise 0x17 .wSar (·.t) (fun w x y _ => sarVal (opWidth w) x y),
   .lanewise 0x18 .wRot (·.t) (fun w x y _ => rotVal (opWidth w) x y),
   .lanewise 0x19 .wFunnel (·.t) (fun w x y z => funnelVal (opWidth w) x y z),
   .lanewise 0x1A .wBfx (·.t) (fun w x y z => bfxVal w.t x y z),
   { op := 0x1B, instr := .wBfi, ty := (·.t), ok := fun _ _ _ _ => true,
     val := fun c x w l => (bfiVal (opWidth w) (at_ (c.wv.typedLanes (opWidth w) w.d.toNat) l) (at_ x.1 l) (at_ x.2.1 l) (at_ x.2.2 l)).1,
     flags := fun _ _ _ => 0 },
   .lanewise 0x1C .wPopc (·.t) (fun w x _ _ => popcVal (opWidth w) x),
   .lanewise 0x1D .wClz (·.t) (fun w x _ _ => clzVal (opWidth w) x),
   .lanewise 0x1E .wCtz (·.t) (fun w x _ _ => ctzVal (opWidth w) x),
   .lanewise 0x1F .wBrev (·.t) (fun w x _ _ => brevVal (opWidth w) x),
   { op := 0x20, instr := .wSel, ty := (·.t), ok := fun _ _ _ _ => true,
     val := fun c x w l => if (c.wv.pred (subOp w)).getLsbD l then at_ x.1 l else at_ x.2.1 l, flags := fun _ _ _ => 0 },
   .lanewise 0x21 .wMov (·.t) (fun _ x _ _ => (x, 0)),
   .lanewise 0x23 .wLea (fun _ => .z64) (fun w x y _ => leaVal w.t (subOp w) x y),
   .lanewise 0x27 .wRdsp (·.t) (fun _ x _ _ => (x, 0))]

/-! ## Integer and bit words as the rules write them -/

/-- An integer word of R127: its opcode, its instruction and its exact result. -/
structure IntRow where
  op    : Nat
  instr : WWord → Instr
  exact : Int → Int → Int → Int

/-- The words of R127. -/
def intRows : List IntRow :=
  [⟨0x01, .wAdd, fun x y _ => x + y⟩, ⟨0x02, .wSub, fun x y _ => x - y⟩, ⟨0x05, .wMul, fun x y _ => x * y⟩,
   ⟨0x07, .wMad, fun x y z => x * y + z⟩, ⟨0x09, .wMin, fun x y _ => min x y⟩, ⟨0x0A, .wMax, fun x y _ => max x y⟩,
   ⟨0x0B, .wAbs, fun x _ _ => x.natAbs⟩, ⟨0x0C, .wNeg, fun x _ _ => -x⟩]

/-- An operand of an integer type as an integer (04 R122). -/
def intOperand (t : WType) (x : Nat) : Int :=
  if isSigned t then (BitVec.ofNat (wtypeBits t) x).toInt else (BitVec.ofNat (wtypeBits t) x).toNat

/-- The least value of an integer type (02 R58). -/
def intLeast (t : WType) : Int := if isSigned t then -(2 ^ (wtypeBits t - 1) : Nat) else 0

/-- The greatest value of an integer type (02 R58). -/
def intGreatest (t : WType) : Int := if isSigned t then (2 ^ (wtypeBits t - 1) : Nat) - 1 else (2 ^ wtypeBits t : Nat) - 1

/-- A bit word of R131 to R133: its opcode, its instruction, and its value in bit vectors of the type's width, of
whether the type is signed, the old destination, and the operands. -/
structure BitRow where
  op    : Nat
  instr : WWord → Instr
  val   : (n : Nat) → Bool → BitVec n → BitVec n → BitVec n → BitVec n → BitVec n

/-- The words of R131, R132 and R133. -/
def bitRows : List BitRow :=
  [⟨0x10, .wAnd, fun _ _ _ x y _ => x &&& y⟩, ⟨0x11, .wOr, fun _ _ _ x y _ => x ||| y⟩,
   ⟨0x12, .wXor, fun _ _ _ x y _ => x ^^^ y⟩, ⟨0x13, .wNot, fun _ _ _ x _ _ => ~~~x⟩,
   ⟨0x14, .wAndn, fun _ _ _ x y _ => x &&& ~~~y⟩,
   ⟨0x15, .wShl, fun _ _ _ x y _ => x <<< (y.toNat % 256)⟩, ⟨0x16, .wShr, fun _ _ _ x y _ => x >>> (y.toNat % 256)⟩,
   ⟨0x17, .wSar, fun _ _ _ x y _ => x.sshiftRight (y.toNat % 256)⟩,
   ⟨0x18, .wRot, fun n _ _ x y _ => x.rotateLeft (y.toNat % n)⟩,
   ⟨0x19, .wFunnel, fun n _ _ x y z => ((x ++ y) >>> (z.toNat % n)).setWidth n⟩,
   ⟨0x1A, .wBfx, fun n sg _ x y z =>
     let st := y.toNat % 256
     let ln := min (z.toNat % 256) (n - st)
     if ln = 0 then 0 else if sg then (x.extractLsb' st ln).signExtend n else (x.extractLsb' st ln).setWidth n⟩,
   ⟨0x1B, .wBfi, fun n _ old x y z =>
     let st := y.toNat % 256
     let ln := min (z.toNat % 256) (n - st)
     let field : BitVec n := (BitVec.allOnes ln).setWidth n <<< st
     (old &&& ~~~field) ||| ((x <<< st) &&& field)⟩,
   ⟨0x1C, .wPopc, fun n _ _ x _ _ => BitVec.ofNat n ((List.range n).countP (fun i => x.getLsbD i))⟩,
   ⟨0x1D, .wClz, fun n _ _ x _ _ =>
     BitVec.ofNat n ((List.range n).takeWhile (fun i => !x.getLsbD (n - 1 - i))).length⟩,
   ⟨0x1E, .wCtz, fun n _ _ x _ _ => BitVec.ofNat n ((List.range n).takeWhile (fun i => !x.getLsbD i)).length⟩,
   ⟨0x1F, .wBrev, fun _ _ _ x _ _ => x.reverse⟩]

/-- Whether lanes of registers can be read: none holds poisoned data, and none is owed by a word in flight (03 R99;
16 R418). -/
def WaveCtx.reads (c : WaveCtx) (regs lanes : List Nat) : Bool :=
  !c.poisonAt regs lanes && !c.wv.pending.any (fun p => p.touches regs (maskOf (fun i => lanes.contains i)))

/-- Words that hand lanes or registers chosen at run time to the destination (04 R138, R141, R142). -/
def laneRows : List VecRow :=
  [{ op := 0x22, instr := .wMovl, ty := (·.t),
     ok := fun c x _ w => c.reads (if isWide w.t then [movlReg w (uniform x.2.1), movlReg w (uniform x.2.1) + 1]
       else [movlReg w (uniform x.2.1)]) (lanesOf c.act),
     val := fun c x w l => at_ (c.wv.typedLanes (opWidth w) (movlReg w (uniform x.2.1))) l, flags := fun _ _ _ => 0 },
   { op := 0x25, instr := .wShuf, ty := (·.t),
     ok := fun c x f w => c.reads (operandRegs f.a w.a) ((lanesOf c.act).map (fun l => shufLane w.m.toNat l (at_ x.2.1 l))),
     val := fun _ x w l => at_ x.1 (shufLane w.m.toNat l (at_ x.2.1 l)), flags := fun _ _ _ => 0 },
   { op := 0x26, instr := .wBcast, ty := (·.t),
     ok := fun c x f w => c.reads (operandRegs f.a w.a)
       ((lanesOf c.act).map (fun _ => if w.m = 0 then uniform x.2.1 % 32 else (lowLane c.act).getD 0)),
     val := fun c x w _ => at_ x.1 (if w.m = 0 then uniform x.2.1 % 32 else (lowLane c.act).getD 0),
     flags := fun _ _ _ => 0 }]

/-- A float row of one operand, elementwise in a packed type (05 R160). -/
def fltRow1 (op : Nat) (instr : WWord → Instr) (f : WWord → Fmt → Nat → Nat × BitVec 6) : VecRow :=
  .lanewise op instr (·.t) (fun w x _ _ => elementwise (isPacked w.t) (f w (wtypeFmt w.t)) x)
/-- A float row of two operands. -/
def fltRow2 (op : Nat) (instr : WWord → Instr) (f : WWord → Fmt → Nat → Nat → Nat × BitVec 6) : VecRow :=
  .lanewise op instr (·.t) (fun w x y _ => elementwise2 (isPacked w.t) (f w (wtypeFmt w.t)) x y)
/-- A float row of three operands. -/
def fltRow3 (op : Nat) (instr : WWord → Instr) (f : WWord → Fmt → Nat → Nat → Nat → Nat × BitVec 6) : VecRow :=
  .lanewise op instr (·.t) (fun w x y z => elementwise3 (isPacked w.t) (f w (wtypeFmt w.t)) x y z)

/-- The type CVT writes its destination in. -/
def cvtType (w : WWord) : WType := if tcodeBits (opCode w.b) = 64 then .b64 else .b32

/-- CVT's value of a lane: a cb4 code is first looked up in its codebook (05 R171, R172). -/
def cvtLane (c : WaveCtx) (w : WWord) (x : Nat) : Nat × BitVec 6 :=
  let x := if opCode w.c = .cb4 then codebookEntry c.wv.sregs (w.m.toNat % 8) (x % 16) else x
  let r := cvtVal (opCode w.b) w.rnd (w.m.toNat / 8 == 1) (cvtSrc (opCode w.c) x)
  (cvtImage (opCode w.b) r.1, r.2)

/-- PACK's value of a lane: its operands and the old destination (05 R173). -/
def packLane (w : WWord) (x y d : Nat) : Nat × BitVec 6 :=
  let sat := w.m.toNat / 8 == 1
  match w.m.toNat % 8 with
  | 0 =>
    let lo := convFF (wtypeFmt w.t) w.rnd sat (f32.value x)
    let hi := convFF (wtypeFmt w.t) w.rnd sat (f32.value y)
    (lo.1 + 65536 * hi.1, lo.2 ||| hi.2)
  | 1 => (x % 65536 + 65536 * (y % 65536), 0)
  | _ =>
    let r := cvtVal (opCode w.c) w.rnd sat (.flt (f32.value x))
    (d - bits d (8 * (y % 4)) 8 * 2 ^ (8 * (y % 4)) + r.1 * 2 ^ (8 * (y % 4)), r.2)

/-- UNPACK's value of a lane (05 R174). -/
def unpackLane (w : WWord) (x y : Nat) : Nat × BitVec 6 :=
  match w.m.toNat with
  | 0 => convFF f32 .rn false ((wtypeFmt w.t).value (half x (y % 2)))
  | 1 => (half x (y % 2), 0)
  | 2 => cvtVal (.t .f32) .rn false (cvtSrc (opCode w.c) (bits x (8 * (y % 4)) 8))
  | _ => cvtVal (.t .f32) .rn false (cvtSrc .s4 (bits x (4 * (y % 8)) 4))

/-- REDUCE's result and flags (05 R177). -/
def reduceAll (c : WaveCtx) (w : WWord) (x : List Nat) : Nat × BitVec 6 :=
  let k := w.m.toNat % 8
  let r := reduceTree w.t k w.rnd
    ((List.range 32).map (fun i => if c.act.getLsbD i then some (reduceVal w.t (at_ x i)) else none))
  let v := finishVal w.t k (w.m.toNat / 8 == 1) r.1
  (v.1, r.2 ||| v.2)

/-- SCAN's results by lane, and flags (05 R177). -/
def scanAll (c : WaveCtx) (w : WWord) (x : List Nat) : List (Nat × Nat) × BitVec 6 :=
  scanLanes w.t (w.m.toNat % 8) w.rnd (w.m.toNat / 8 == 1) (immCode w.b == 1) x (lanesOf c.act) none

/-- Float arithmetic, conversions, dot products, reductions and scans (05 R164-R177). -/
def floatRows : List VecRow :=
  [fltRow2 0x80 .wFadd (fun w f => f.add w.rnd (w.m == 8)),
   fltRow2 0x81 .wFsub (fun w f => f.sub w.rnd (w.m == 8)),
   fltRow2 0x82 .wFmul (fun w f => f.mul w.rnd (w.m == 8)),
   fltRow3 0x83 .wFfma (fun w f => f.fma w.rnd (w.m == 8)),
   fltRow2 0x84 .wFmin (fun _ f => f.select false),
   fltRow2 0x85 .wFmax (fun _ f => f.select true),
   fltRow1 0x88 .wFrnd (fun w f => f.frnd w.rnd),
   fltRow1 0x89 .wFract (fun _ f => f.fract),
   { op := 0x92, instr := .wCvt, ty := cvtType, ok := fun _ _ _ _ => true,
     val := fun c x w l => (cvtLane c w (at_ x.1 l)).1,
     flags := fun c x w => (laneMap c.act x (fun x _ _ => cvtLane c w x)).2 },
   { op := 0x93, instr := .wPack, ty := fun _ => .b32, ok := fun _ _ _ _ => true,
     val := fun c x w l => (packLane w (at_ x.1 l) (at_ x.2.1 l) (c.wv.laneValue false w.d.toNat l)).1,
     flags := fun c x w => (laneMap c.act (x.1, x.2.1, (c.wv.vreg w.d.toNat).map (fun v => v.toNat)) (packLane w)).2 },
   { op := 0x94, instr := .wUnpack, ty := fun _ => .b32, ok := fun _ _ _ _ => true,
     val := fun _ x w l => (unpackLane w (at_ x.1 l) (at_ x.2.1 l)).1,
     flags := fun c x w => (laneMap c.act x (fun x y _ => unpackLane w x y)).2 &&& flagIV },
   .lanewise 0x95 .wDot2 (fun _ => .f32) (fun w x y z =>
     dotFloat (if w.m.toNat % 2 = 0 then f16 else bf16) 16 2 w.rnd (w.m.toNat / 8 == 1) x y z),
   .lanewise 0x96 .wDot4 (fun _ => .b32) (fun w x y z =>
     match w.m.toNat % 4 with
     | 0 => dotInt true (w.m.toNat / 8 == 1) x y z
     | 1 => dotInt false (w.m.toNat / 8 == 1) x y z
     | 2 => dotFloat e4m3 8 4 w.rnd (w.m.toNat / 8 == 1) x y z
     | _ => dotFloat e5m2 8 4 w.rnd (w.m.toNat / 8 == 1) x y z),
   { op := 0x98, instr := .wReduce, ty := (·.t), ok := fun _ _ _ _ => true,
     val := fun c x w _ => (reduceAll c w x.1).1,
     flags := fun c x w => if c.act = 0 then 0 else (reduceAll c w x.1).2 ||| reduceIV w.t c.act x.1 },
   { op := 0x99, instr := .wScan, ty := (·.t), ok := fun _ _ _ _ => true,
     val := fun c x w l => (assoc (scanAll c w x.1).1 l).getD 0, flags := fun c x w => (scanAll c w x.1).2 ||| reduceIV w.t c.act x.1 }]

/-! ## Scalar destinations -/

/-- A word with a scalar destination: the type it is written in, its value, and the flags it raises. -/
structure ScaRow where
  op    : Nat
  instr : WWord → Instr
  ty    : WWord → WType
  val   : WaveCtx → Sources → WWord → Nat
  flags : WaveCtx → Sources → WWord → BitVec 6

/-- A scalar form of a function of three operands. -/
def ScaRow.once (op : Nat) (instr : WWord → Instr) (ty : WWord → WType)
    (f : WWord → Nat → Nat → Nat → Nat × BitVec 6) : ScaRow :=
  { op := op, instr := instr, ty := ty, val := fun _ x w => (f w (uniform x.1) (uniform x.2.1) (uniform x.2.2)).1,
    flags := fun _ x w => (f w (uniform x.1) (uniform x.2.1) (uniform x.2.2)).2 }

/-- What a row says of its word: where a lane is active its scalar register holds the value extended to 64 bits
and its flags are raised; without one it is ignored (04 R123). -/
def ScaRow.Holds (row : ScaRow) : Prop :=
  ∀ (w : WWord) (s : State) (c : WaveCtx) (f : WaveForm), s.ready? row.op w = some (c, f) →
    ∃ t v, exec (row.instr w) s = .next t ∧ t.wave? c.r = some v
      ∧ v.sregs = (if c.act = 0 then c.wv.sregs else
          setAt c.wv.sregs w.d.toNat (BitVec.ofNat 64 (extendTo (row.ty w) 64 (row.val c (c.operands s f w) w))))
      ∧ (t.wg? (wgOf c.r)).map (·.flags) =
          some (if c.act = 0 then c.wg.flags else c.wg.flags ||| row.flags c (c.operands s f w) w)

/-- The words with a scalar destination but the carry chains (04 R123-R143; 05 R180). -/
def scalarRows : List ScaRow :=
  [.once 0x41 .wAddScalar (·.t) (fun w x y _ => addVal w.t (satBit w) x y),
   .once 0x42 .wSubScalar (·.t) (fun w x y _ => subVal w.t (satBit w) x y),
   .once 0x45 .wMulScalar (·.t) (fun w x y _ => mulVal w.t (satBit w) x y),
   .once 0x46 .wMulhScalar (·.t) (fun w x y _ => mulhVal w.t x y),
   .once 0x47 .wMadScalar (·.t) (fun w x y z => madVal w.t (satBit w) x y z),
   .once 0x48 .wMadwScalar (fun w => wideOf w.t) (fun w x y z => madwVal w.t (satBit w) x y z),
   .once 0x49 .wMinScalar (·.t) (fun w x y _ => minVal w.t x y),
   .once 0x4A .wMaxScalar (·.t) (fun w x y _ => maxVal w.t x y),
   .once 0x4B .wAbsScalar (·.t) (fun w x _ _ => absVal w.t (satBit w) x),
   .once 0x4C .wNegScalar (·.t) (fun w x _ _ => negVal w.t (satBit w) x),
   .once 0x50 .wAndScalar (·.t) (fun _ x y _ => andVal x y),
   .once 0x51 .wOrScalar (·.t) (fun _ x y _ => orVal x y),
   .once 0x52 .wXorScalar (·.t) (fun _ x y _ => xorVal x y),
   .once 0x53 .wNotScalar (·.t) (fun w x _ _ => notVal (opWidth w) x),
   .once 0x54 .wAndnScalar (·.t) (fun w x y _ => andnVal (opWidth w) x y),
   .once 0x55 .wShlScalar (·.t) (fun w x y _ => shlVal (opWidth w) x y),
   .once 0x56 .wShrScalar (·.t) (fun w x y _ => shrVal (opWidth w) x y),
   .once 0x57 .wSarScalar (·.t) (fun w x y _ => sarVal (opWidth w) x y),
   .once 0x58 .wRotScalar (·.t) (fun w x y _ => rotVal (opWidth w) x y),
   .once 0x59 .wFunnelScalar (·.t) (fun w x y z => funnelVal (opWidth w) x y z),
   .once 0x5A .wBfxScalar (·.t) (fun w x y z => bfxVal w.t x y z),
   { op := 0x5B, instr := .wBfiScalar, ty := fun _ => .b64, flags := fun _ _ _ => 0,
     val := fun c x w => (bfiVal (opWidth w) (((c.wv.sregs[w.d.toNat]?).getD 0).toNat % 2 ^ opWidth w)
       (uniform x.1) (uniform x.2.1) (uniform x.2.2)).1 },
   .once 0x5C .wPopcScalar (·.t) (fun w x _ _ => popcVal (opWidth w) x),
   .once 0x5D .wClzScalar (·.t) (fun w x _ _ => clzVal (opWidth w) x),
   .once 0x5E .wCtzScalar (·.t) (fun w x _ _ => ctzVal (opWidth w) x),
   .once 0x5F .wBrevScalar (·.t) (fun w x _ _ => brevVal (opWidth w) x),
   .once 0x61 .wMovScalar (·.t) (fun _ x _ _ => (x, 0)),
   { op := 0x62, instr := .wMovlScalar, ty := fun _ => .b64, flags := fun _ _ _ => 0,
     val := fun c x w => ((c.wv.sregs[(operandNum w.a + uniform x.2.1) % 64]?).getD 0).toNat % 2 ^ opWidth w },
   .once 0x63 .wLeaScalar (fun _ => .z64) (fun w x y _ => leaVal w.t (subOp w) x y),
   .once 0x67 .wRdspScalar (fun _ => .b64) (fun _ x _ _ => (x, 0)),
   { op := 0x24, instr := .wLane, ty := fun _ => .b64, flags := fun _ _ _ => 0,
     val := fun c _ w => match w.m.toNat with
       | 0 => c.act.toNat
       | 1 => (lowLane c.act).getD 0
       | 2 => (lanesOf c.act).length
       | _ => c.wv.liveMask.toNat },
   { op := 0x9B, instr := .wBallot, ty := fun _ => .b64, flags := fun _ _ _ => 0,
     val := fun c x w => ((if w.m = 0 then c.wv.pred (predNumber w.a) else maskOf (fun i => at_ x.1 i != 0)) &&& c.act).toNat }]

/-! ## Predicate destinations -/

/-- A word that writes a predicate: the bit of each active lane, and the flags it raises. -/
structure PredRow where
  op    : Nat
  instr : WWord → Instr
  bit   : WaveCtx → Sources → WWord → Nat → Bool
  flags : WaveCtx → Sources → WWord → BitVec 6

/-- What a row says of its word: the active lanes' bits are written, p0 excepted (01 R31), and its flags are
raised. -/
def PredRow.Holds (row : PredRow) : Prop :=
  ∀ (w : WWord) (s : State) (c : WaveCtx) (f : WaveForm), s.ready? row.op w = some (c, f) →
    ∃ t v, exec (row.instr w) s = .next t ∧ t.wave? c.r = some v
      ∧ (w.d = 0 → v.preds = c.wv.preds)
      ∧ (w.d ≠ 0 → ∀ l, l < 32 → (v.preds[w.d.toNat]?).map (·.getLsbD l) =
          (c.wv.preds[w.d.toNat]?).map (fun p =>
            if c.act.getLsbD l then row.bit c (c.operands s f w) w l else p.getLsbD l))
      ∧ (t.wg? (wgOf c.r)).map (·.flags) = some (c.wg.flags ||| row.flags c (c.operands s f w) w)

/-- A row that compares two operands of a lane. -/
def PredRow.lanewise (op : Nat) (instr : WWord → Instr) (f : WWord → Nat → Nat → Bool × BitVec 6) : PredRow :=
  { op := op, instr := instr, bit := fun _ x w l => (f w (at_ x.1 l) (at_ x.2.1 l)).1,
    flags := fun c x w => (laneMap c.act x (fun x y _ => ((f w x y).1.toNat, (f w x y).2))).2 }

/-- What VOTE writes to every active lane (05 R181). -/
def voteBit (c : WaveCtx) (w : WWord) (x : List Nat) : Bool :=
  let p := c.wv.pred (predNumber w.a)
  match w.m.toNat with
  | 0 => c.act &&& ~~~p == 0
  | 1 => c.act &&& p != 0
  | 2 => c.act &&& p == 0 || c.act &&& ~~~p == 0
  | _ => match lanesOf c.act with
    | [] => true
    | i :: rest => rest.all (fun j => at_ x j == at_ x i)

/-- The words that write a predicate (04 R134, R136; 05 R166, R167, R181). -/
def predicateRows : List PredRow :=
  [.lanewise 0x28 .wCmp (fun w x y => (cmpVal w.t w.m.toNat x y, 0)),
   { op := 0x29, instr := .wPlog, flags := fun _ _ _ => 0,
     bit := fun c _ w l => plogVal (operandNum w.c) ((c.wv.pred (operandNum w.a)).getLsbD l)
       ((c.wv.pred (operandNum w.b)).getLsbD l) },
   .lanewise 0x86 .wFcmp (fun w x y => (wtypeFmt w.t).compare w.m.toNat x y),
   .lanewise 0x87 .wFclass (fun w x y => (bit y ((wtypeFmt w.t).class_ x), 0)),
   { op := 0x9C, instr := .wVote, bit := fun c x w _ => voteBit c w x.1, flags := fun _ _ _ => 0 }]

/-! ## Words that only compute -/

/-- A word and when it computes. -/
structure CompRow where
  op    : Nat
  instr : WWord → Instr
  ok    : WaveCtx → Sources → WaveForm → WWord → Bool

/-- A word that computes whenever it is ready. -/
def CompRow.always (op : Nat) (instr : WWord → Instr) : CompRow := ⟨op, instr, fun _ _ _ _ => true⟩

/-- The words that raise no flag and have a row nowhere else: carry chains, and words with no effect (04 R128,
R157; 06 R195). -/
def flaglessRows : List CompRow :=
  [.always 0x03 .wAddc, .always 0x04 .wSubb, .always 0x43 .wAddcScalar, .always 0x44 .wSubbScalar, .always 0x38 .wNop,
   .always 0x39 .wYield, .always 0xA6 .wPref]

/-- The words whose effect is their destination, and those with none. -/
def computingRows : List CompRow :=
  (integerRows ++ laneRows ++ floatRows).map (fun r => ⟨r.op, r.instr, r.ok⟩)
    ++ scalarRows.map (fun r => .always r.op r.instr) ++ predicateRows.map (fun r => .always r.op r.instr)
    ++ flaglessRows ++ [.always 0x2A .wWrsp]

/-! ## Long-latency words whose result is known at issue -/

/-- A long-latency word: the type and the values of its destination registers, and the flags it raises when it
completes (03 R97, R99; 05 R162). -/
structure LongRow where
  op    : Nat
  instr : WWord → Instr
  ty    : WWord → WType
  vals  : WaveCtx → Sources → WWord → List (List W32)
  flags : WaveCtx → Sources → WWord → BitVec 6

/-- A correctly rounded function (05 R169, R170). -/
def LongRow.func (op : Nat) (instr : WWord → Instr) (fn : Func) : LongRow :=
  let g (w : WWord) (x _ _ : Nat) := elementwise (isPacked w.t) ((wtypeFmt w.t).func fn w.rnd (w.m == 8)) x
  { op := op, instr := instr, ty := (·.t), vals := fun c x w => regVectors w.t (laneMap c.act x (g w)).1,
    flags := fun c x w => (laneMap c.act x (g w)).2 }

/-- The candidates of TOPK in rank order (05 R179). -/
def topkRanked (c : WaveCtx) (x : Sources) (w : WWord) : List Cand :=
  (lanesOf c.act).foldl (fun l i => candInsert w.t (w.m.getLsbD 1)
    { score := at_ x.1 i, idx := if w.m.getLsbD 2 then at_ x.2.2 i else i, lane := i } l) []

/-- The candidate that lane `i` receives: the lane that stands j-th among the active ones takes the j-th in
rank, of the first k (05 R178). -/
def topkAt (c : WaveCtx) (x : Sources) (w : WWord) (i : Nat) : Option Cand :=
  (findIx (fun l => l == i) (lanesOf c.act)).bind (fun j =>
    if j < min (uniform x.2.1) 32 then (topkRanked c x w)[j]? else none)

/-- A lane value of TOPK: all-ones where the lane receives no candidate. -/
def topkLanes (c : WaveCtx) (x : Sources) (w : WWord) (f : Cand → Nat) : List W32 :=
  (List.range 32).map (fun i => ((topkAt c x w i).map (fun k => BitVec.ofNat 32 (f k))).getD (BitVec.allOnes 32))

/-- The functions and TOPK (05 R169, R178). -/
def longRows : List LongRow :=
  [.func 0x8A .wRcp .rcp, .func 0x8B .wRsq .rsq, .func 0x8C .wSqrt .sqrt, .func 0x8D .wExp2 .exp2, .func 0x8E .wLog2 .log2,
   .func 0x8F .wSin .sin, .func 0x90 .wCos .cos, .func 0x91 .wTanh .tanh,
   { op := 0x9A, instr := .wTopk, ty := fun _ => .b32,
     vals := fun c x w => if w.m.getLsbD 0 then [topkLanes c x w (·.idx), topkLanes c x w (·.score)]
       else [topkLanes c x w (·.idx)],
     flags := fun _ _ _ => 0 }]

/-! ## Sequencer words (07 R232-R234) -/

/-- A sequencer word that writes gd: its opcode, its instruction, and the value by its registers and immediate. -/
structure SeqRow where
  op    : Nat
  instr : SWord → Instr
  val   : SeqIssue → SWord → W64

/-- The shift amount of a word, y[5:0]. -/
def SeqIssue.shift (c : SeqIssue) (w : SWord) : Nat := (c.g w.b).toNat % 64

/-- The scalar arithmetic of the sequencer (07 R233). -/
def seqRows : List SeqRow := [
  ⟨0x01, .seqAdd, fun c w => BitVec.ofNat 64 ((c.g w.a).toNat + (c.g w.b).toNat)⟩,
  ⟨0x02, .seqSub, fun c w => BitVec.ofInt 64 ((c.g w.a).toInt - (c.g w.b).toInt)⟩,
  ⟨0x03, .seqAnd, fun c w => c.g w.a &&& c.g w.b⟩,
  ⟨0x04, .seqOr, fun c w => c.g w.a ||| c.g w.b⟩,
  ⟨0x05, .seqXor, fun c w => c.g w.a ^^^ c.g w.b⟩,
  ⟨0x06, .seqShl, fun c w => BitVec.ofNat 64 ((c.g w.a).toNat * 2 ^ c.shift w)⟩,
  ⟨0x07, .seqShr, fun c w => BitVec.ofNat 64 ((c.g w.a).toNat / 2 ^ c.shift w)⟩,
  ⟨0x08, .seqSar, fun c w => BitVec.ofInt 64 ((c.g w.a).toInt / 2 ^ c.shift w)⟩,
  ⟨0x09, .seqMul, fun c w => BitVec.ofNat 64 ((c.g w.a).toNat * (c.g w.b).toNat)⟩,
  ⟨0x0A, .seqSlt, fun c w => if (c.g w.a).toInt < (c.g w.b).toInt then 1 else 0⟩,
  ⟨0x0B, .seqSltz, fun c w => if (c.g w.a).toNat < (c.g w.b).toNat then 1 else 0⟩,
  ⟨0x0C, .seqAddi, fun c w => BitVec.ofInt 64 ((c.g w.a).toInt + signed 12 w.imm.toNat)⟩,
  ⟨0x0D, .seqLi, fun _ w => BitVec.ofInt 64 (signed 17 w.imm.toNat)⟩,
  ⟨0x0E, .seqLui, fun _ w => BitVec.ofInt 64 (4096 * signed 17 w.imm.toNat)⟩]

/-- A sequencer word that may change the pc: when it goes to its target, where that is, whether it leaves PC + 4
in gd, and whether its target comes from a register. -/
structure SeqJump where
  op     : Nat
  instr  : SWord → Instr
  taken  : SeqIssue → SWord → Bool
  target : SeqIssue → SWord → SeqForm → Int
  links  : Bool
  aligned : Bool

/-- PC + 4 × imm. -/
def pcTarget (c : SeqIssue) (w : SWord) (f : SeqForm) : Int := c.st.pc + 4 * signed f.fmt.immBits w.imm.toNat

/-- The control words of the sequencer (07 R234). -/
def seqJumps : List SeqJump := [
  ⟨0x10, .seqBeq, fun c w => decide (c.g w.a = c.g w.b), pcTarget, false, false⟩,
  ⟨0x11, .seqBne, fun c w => decide (c.g w.a ≠ c.g w.b), pcTarget, false, false⟩,
  ⟨0x12, .seqBlt, fun c w => decide ((c.g w.a).toInt < (c.g w.b).toInt), pcTarget, false, false⟩,
  ⟨0x13, .seqBge, fun c w => decide ((c.g w.b).toInt ≤ (c.g w.a).toInt), pcTarget, false, false⟩,
  ⟨0x14, .seqJ, fun _ _ => true, pcTarget, false, false⟩,
  ⟨0x15, .seqJal, fun _ _ => true, pcTarget, true, false⟩,
  ⟨0x16, .seqJr, fun _ _ => true, fun c w _ => (c.g w.a).toNat, true, true⟩]

/-- Where each sequencer word may execute (07 R232). -/
def seqWho : List (Nat × (SWord → Instr) × SeqWho) :=
  seqRows.map (fun r => (r.op, r.instr, .all)) ++ seqJumps.map (fun r => (r.op, r.instr, .all)) ++
  [(0x18, .seqLdg, .all), (0x19, .seqStg, .all), (0x20, .seqCpy, .user), (0x21, .seqCpyw, .user), (0x22, .seqMw, .main),
   (0x23, .seqNest, .main), (0x24, .seqGo, .main), (0x25, .seqNwait, .main), (0x26, .seqSpw, .user), (0x27, .seqTok, .user),
   (0x28, .seqPace, .user), (0x30, .seqRdv, .user), (0x31, .seqOvl, .all), (0x32, .seqMfc, .trap), (0x33, .seqMtc, .trap),
   (0x34, .seqTrap, .all), (0x35, .seqEret, .trap)]

/-- The matrix words with their operations (03 R107). -/
def matrixInstrs : List (Nat × (MWord → Instr)) :=
  [(0, .mNop), (1, .mWload), (2, .mStep), (3, .mDrain), (4, .mFold), (5, .mClr), (6, .mFill)]

/-! ## Line-core operations (09 R297-R308) -/

/-- An operation of slot 0 that writes a k register: its instruction, and the value by the registers its bundle
read. -/
structure KRow where
  instr : LSlot → Instr
  val   : LineSnap → LSlot → W32

/-- The value of register k[a]. -/
def LineSnap.ka (x : LineSnap) (w : LSlot) : W32 := x.kr w.a.toNat
/-- The value of register k[b]. -/
def LineSnap.kb (x : LineSnap) (w : LSlot) : W32 := x.kr w.b.toNat

/-- The scalar operations (09 R297). -/
def lineScalarRows : List KRow := [
  ⟨.lKadd, fun x w => BitVec.ofNat 32 ((x.ka w).toNat + (x.kb w).toNat)⟩,
  ⟨.lKaddi, fun x w => BitVec.ofInt 32 ((x.ka w).toInt + lineSImm w)⟩,
  ⟨.lKsub, fun x w => BitVec.ofInt 32 ((x.ka w).toInt - (x.kb w).toInt)⟩,
  ⟨.lKmul, fun x w => BitVec.ofNat 32 ((x.ka w).toNat * (x.kb w).toNat)⟩,
  ⟨.lKand, fun x w => x.ka w &&& x.kb w⟩,
  ⟨.lKor, fun x w => x.ka w ||| x.kb w⟩,
  ⟨.lKxor, fun x w => x.ka w ^^^ x.kb w⟩,
  ⟨.lKshl, fun x w => BitVec.ofNat 32 ((x.ka w).toNat * 2 ^ ((x.kb w).toNat % 32))⟩,
  ⟨.lKshr, fun x w => BitVec.ofNat 32 ((x.ka w).toNat / 2 ^ ((x.kb w).toNat % 32))⟩,
  ⟨.lKsar, fun x w => BitVec.ofInt 32 ((x.ka w).toInt / 2 ^ ((x.kb w).toNat % 32))⟩,
  ⟨.lKli, fun _ w => BitVec.ofInt 32 (lineSImm w)⟩,
  ⟨.lKlui, fun x w => BitVec.ofNat 32 ((x.ka w).toNat * 2 ^ 13 + (lineImm w).toNat)⟩,
  ⟨.lKslt, fun x w => if (x.ka w).toInt < (x.kb w).toInt then 1 else 0⟩]

/-- An operation of slots 1 and 2 that writes an h register: its instruction, and a lane's value. -/
structure HRow where
  instr : LSlot → Instr
  val   : LineSnap → LSlot → Nat → W32

/-- A lane's value of an operation on a and b by its type: `ff` on f32 and on both halves of a pair of f16, `fi` on
signed or unsigned integers (09 R302). -/
def LineSnap.typed (x : LineSnap) (w : LSlot) (ff : Fmt → Nat → Nat → Nat) (fi : Bool → W32 → W32 → W32) (l : Nat) : W32 :=
  let a := x.hl w.a.toNat l
  let b := x.opB w l
  if lineType w = 0 then BitVec.ofNat 32 (ff f32 a.toNat b.toNat)
  else if lineType w = 1 then
    BitVec.ofNat 32 (ff f16 (a.toNat % 2 ^ 16) (b.toNat % 2 ^ 16) + 2 ^ 16 * ff f16 (a.toNat / 2 ^ 16) (b.toNat / 2 ^ 16))
  else fi (lineType w == 2) a b

/-- The vector operations (09 R301-R306). -/
def lineVectorRows : List HRow := [
  ⟨.lHadd, fun x w => x.typed w (fun f a b => (f.add .rn false a b).1) (fun _ a b => BitVec.ofNat 32 (a.toNat + b.toNat))⟩,
  ⟨.lHsub, fun x w => x.typed w (fun f a b => (f.sub .rn false a b).1) (fun _ a b => BitVec.ofInt 32 (a.toInt - b.toInt))⟩,
  ⟨.lHmul, fun x w => x.typed w (fun f a b => (f.mul .rn false a b).1) (fun _ a b => BitVec.ofNat 32 (a.toNat * b.toNat))⟩,
  ⟨.lHmin, fun x w => x.typed w (fun f a b => (f.select false a b).1)
    (fun sgn a b => if (if sgn then decide (a.toInt ≤ b.toInt) else decide (a.toNat ≤ b.toNat)) then a else b)⟩,
  ⟨.lHmax, fun x w => x.typed w (fun f a b => (f.select true a b).1)
    (fun sgn a b => if (if sgn then decide (a.toInt ≤ b.toInt) else decide (a.toNat ≤ b.toNat)) then b else a)⟩,
  ⟨.lHfma, fun x w l => typedOp w (fun f a b c => (f.fma .rn false a b c).1)
    (fun _ a b c => BitVec.ofNat 32 (a.toNat * b.toNat + c.toNat)) (x.hl w.a.toNat l) (x.opB w l) (x.hl w.c.toNat l)⟩,
  ⟨.lHsel, fun x w l => if (x.yr w.c.toNat).getLsbD l then x.hl w.a.toNat l else x.opB w l⟩,
  ⟨.lHcvt, fun x w l => lineConvert w (x.hl w.a.toNat l)⟩,
  ⟨.lHrcp, fun x w l => BitVec.ofNat 32 (f32.func .rcp .rn false (x.hl w.a.toNat l).toNat).1⟩,
  ⟨.lHlerp, fun x w l => lerp (x.hl w.a.toNat l) (x.hl w.b.toNat l) (if w.m.getLsbD 2 then x.kr w.c.toNat else x.hl w.c.toNat l)⟩,
  ⟨.lHshuf, fun x w l => x.hl w.a.toNat (match w.m.toNat with
    | 0 => (x.hl w.b.toNat l).toNat % 16
    | 1 => l ^^^ w.c.toNat
    | 2 => if w.c.toNat ≤ l then l - w.c.toNat else l
    | _ => if l + w.c.toNat < 16 then l + w.c.toNat else l)⟩]

end Sys2Proof.Machine
end

