-- ==== Sys2Proof/Certificates/Slice0/Obligations.lean ====
section
/-! DEFINITION. What is claimed of the machine, for the provers. Each statement's docstring names the rules it
rests on; hypotheses are on the state and the operands alone. -/

open Sys2Proof Sys2Proof.Machine

/-! ## Wave words that compute -/

/-- Integer arithmetic, bit words, SEL, MOV, LEA and RDSP complete, write each active lane of their destination
and raise SA as their rules say (04 R122, R125, R127-R133, R135, R137, R139, R143). -/
def Obligations.IntegerWordResults : Prop := ∀ row ∈ integerRows, row.Holds

/-- ADD, SUB, MUL, MAD, MIN, MAX, ABS and NEG compute exactly on integers and then wrap, or under .sat are held to the
bounds of their type with SA raised where an active lane was; the logic, shift, funnel, field and count words compute what the
rules write, in bit vectors of their type's width (04 R127, R131, R132, R133). -/
def Obligations.IntegerWordsComputeExactly : Prop :=
  (∀ row ∈ intRows, ∀ (w : WWord) (s : State) (c : WaveCtx) (f : WaveForm), s.ready? row.op w = some (c, f) →
    let x := c.operands s f w
    let v (l : Nat) : Int := row.exact (intOperand w.t (at_ x.1 l)) (intOperand w.t (at_ x.2.1 l)) (intOperand w.t (at_ x.2.2 l))
    let held (l : Nat) : Prop := satBit w = true ∧ (v l < intLeast w.t ∨ intGreatest w.t < v l)
    ∃ t u, exec (row.instr w) s = .next t ∧ t.wave? c.r = some u
      ∧ (∀ l, l < 32 → c.act.getLsbD l = true →
          (¬held l → u.laneValue (isWide w.t) w.d.toNat l =
            imageOf w.t (BitVec.ofInt (wtypeBits w.t) (v l)).toNat)
          ∧ (held l → u.laneValue (isWide w.t) w.d.toNat l = imageOf w.t (BitVec.ofInt (wtypeBits w.t)
            (if v l < intLeast w.t then intLeast w.t else intGreatest w.t)).toNat))
      ∧ ((∃ l, l < 32 ∧ c.act.getLsbD l = true ∧ held l) → (t.wg? (wgOf c.r)).map (·.flags) = some (c.wg.flags ||| flagSA))
      ∧ ((∀ l, l < 32 → c.act.getLsbD l = true → ¬held l) → (t.wg? (wgOf c.r)).map (·.flags) = some c.wg.flags))
  ∧ ∀ row ∈ bitRows, ∀ (w : WWord) (s : State) (c : WaveCtx) (f : WaveForm), s.ready? row.op w = some (c, f) →
    let n := wtypeBits w.t
    let x := c.operands s f w
    let of (l : List Nat) (i : Nat) : BitVec n := BitVec.ofNat n (at_ l i)
    ∃ t u, exec (row.instr w) s = .next t ∧ t.wave? c.r = some u
      ∧ ∀ l, l < 32 → c.act.getLsbD l = true →
          u.laneValue (isWide w.t) w.d.toNat l = (row.val n (isSigned w.t) (of (c.wv.typedLanes n w.d.toNat) l) (of x.1 l)
            (of x.2.1 l) (of x.2.2 l)).toNat

/-- Sums, differences, products and fused product-sums of the float formats are the exact result rounded once in its mode: ties
to even under .rn, subnormals kept, an overflow as the table or .sat has it, an exact zero with its sign, a NaN for a NaN and
for an invalid operation; NX, OF, UF, IV and SA are raised exactly where the rules say (02 R54-R57, R62-R64, R74; 05 R164). -/
def Obligations.FloatsRoundCorrectly : Prop :=
  ∀ f ∈ [f64, f32, f16, bf16, e4m3, e5m2], ∀ (rnd : Rnd) (sat : Bool) (x y z : Nat),
    let a := f.value x
    let b := f.value y
    let c := f.value z
    let nan : Nat := f.canonNaN
    let sum (m n : Bool) (p : ℚ) : Bool := if p = 0 ∧ m = n then m else rnd == .rd
    (∀ p q, a.exact = some p → b.exact = some q →
        f.Gives rnd sat (sum a.neg b.neg p) (p + q) (f.add rnd sat x y)
        ∧ f.Gives rnd sat (sum a.neg (!b.neg) p) (p - q) (f.sub rnd sat x y)
        ∧ f.Gives rnd sat (a.neg != b.neg) (p * q) (f.mul rnd sat x y)
        ∧ (∀ r, c.exact = some r → f.Gives rnd sat (sum (a.neg != b.neg) c.neg (p * q)) (p * q + r) (f.fma rnd sat x y z)))
    ∧ (a.isNaN = true ∨ b.isNaN = true →
        let o := (nan, if a.snan || b.snan then flagIV else 0)
        f.add rnd sat x y = o ∧ f.sub rnd sat x y = o ∧ f.mul rnd sat x y = o
        ∧ f.fma rnd sat x y z = (nan, if a.snan || b.snan || c.snan then flagIV else 0))
    ∧ (∀ n, a = .inf n →
        (∀ q, b.exact = some q → f.add rnd sat x y = f.infinite sat n ∧ f.sub rnd sat x y = f.infinite sat n
          ∧ f.mul rnd sat x y = (if q = 0 then (nan, flagIV) else f.infinite sat (n != b.neg)))
        ∧ (∀ m, b = .inf m → f.add rnd sat x y = (if n = m then f.infinite sat n else (nan, flagIV))
          ∧ f.sub rnd sat x y = (if n = m then (nan, flagIV) else f.infinite sat n)
          ∧ f.mul rnd sat x y = f.infinite sat (n != m)))
    ∧ (a.isNaN = false → b.isNaN = false →
        let inf (v : FVal) : Prop := v.exact = none
        let bad : Prop := inf a ∧ b.exact = some 0 ∨ a.exact = some 0 ∧ inf b
        let m := a.neg != b.neg
        (bad → f.fma rnd sat x y z = (nan, flagIV))
        ∧ (¬bad → c.isNaN = true → f.fma rnd sat x y z = (nan, if c.snan then flagIV else 0))
        ∧ (¬bad → inf a ∨ inf b → c.isNaN = false →
            f.fma rnd sat x y z = if c = .inf (!m) then (nan, flagIV) else f.infinite sat m)
        ∧ (¬inf a → ¬inf b → ∀ n, c = .inf n → f.fma rnd sat x y z = f.infinite sat n))

/-- MOVL, SHUF and BCAST complete where the lanes they read hold no poisoned data and no word in flight owes them, and hand each active lane the
register or lane its operands choose (03 R99; 04 R138, R141, R142; 16 R418). -/
def Obligations.LaneWordResults : Prop := ∀ row ∈ laneRows, row.Holds

/-- Float arithmetic, conversions, packing, dot products, reductions and scans complete, write each active lane,
and raise the flags of their operations (05 R164-R177). That REDUCE and SCAN give the canonical NaN for a single lane that
holds a NaN, with IV for a signalling one (assumption log, entry 64), that FRACT of an integer is +0 (entry 41), the zero of a
sum of several terms (entry 14) and what an immediate of UNPACK, PACK, DOT and CVT stands for (entry 37) are the model's
readings. -/
def Obligations.FloatWordResults : Prop := ∀ row ∈ floatRows, row.Holds

/-- The words with a scalar destination are evaluated once on uniform values where a lane is active, and are ignored
otherwise; the words that write a predicate write the active lanes' bits, a write to p0 being ignored (01 R31; 04 R123,
R134, R136; 05 R166, R167, R181). -/
def Obligations.ScalarAndPredicateResults : Prop :=
  (∀ row ∈ scalarRows, row.Holds)
  ∧ (∀ row ∈ predicateRows, row.Holds)

/-- ADDC and SUBB chain carries and borrows through pk, one bit a lane: the exact sum or difference with the bit of pk modulo
2ⁿ, and a carry where it leaves the range 0 to 2ⁿ - 1; a write to p0 is ignored and the bits of inactive lanes stay. The scalar
forms take the bit of the lowest active lane and write every active lane's, and are ignored without an active lane (04 R123,
R128). -/
def Obligations.CarryWordResults : Prop :=
  ∀ (w : WWord) (s : State) (c : WaveCtx) (f : WaveForm),
    let n := wtypeBits w.t
    let plus (x y ci : Nat) : Int := x + y + ci
    let minus (x y ci : Nat) : Int := x - y - ci
    let result (v : Int) : Nat × Bool := ((BitVec.ofInt n v).toNat, decide (2 ^ n ≤ v ∨ v < 0))
    (∀ op instr g, (op, instr, g) ∈ [((0x03 : Nat), Instr.wAddc, plus), (0x04, Instr.wSubb, minus)] →
      s.ready? op w = some (c, f) →
      let out (l : Nat) := result (g (at_ (c.operands s f w).1 l) (at_ (c.operands s f w).2.1 l)
        ((c.wv.pred (subOp w)).getLsbD l).toNat)
      ∃ t v, exec (instr w) s = .next t ∧ t.wave? c.r = some v
        ∧ (∀ l, l < 32 → c.act.getLsbD l = true → v.laneValue (isWide w.t) w.d.toNat l = imageOf w.t (out l).1)
        ∧ (subOp w ≠ 0 → ∀ l, l < 32 → (v.preds[subOp w]?).map (·.getLsbD l) =
            (c.wv.preds[subOp w]?).map (fun p => if c.act.getLsbD l then (out l).2 else p.getLsbD l)))
    ∧ (∀ op instr g, (op, instr, g) ∈ [((0x43 : Nat), Instr.wAddcScalar, plus), (0x44, Instr.wSubbScalar, minus)] →
      s.ready? op w = some (c, f) → ∀ low, lowLane c.act = some low →
      let out := result (g (uniform (c.operands s f w).1) (uniform (c.operands s f w).2.1)
        ((c.wv.pred (subOp w)).getLsbD low).toNat)
      ∃ t v, exec (instr w) s = .next t ∧ t.wave? c.r = some v
        ∧ v.sregs = setAt c.wv.sregs w.d.toNat (BitVec.ofNat 64 out.1)
        ∧ (subOp w ≠ 0 → ∀ l, l < 32 → (v.preds[subOp w]?).map (·.getLsbD l) =
            (c.wv.preds[subOp w]?).map (fun p => if c.act.getLsbD l then out.2 else p.getLsbD l)))
    ∧ (∀ op instr, (op, instr) ∈ [((0x43 : Nat), Instr.wAddcScalar), (0x44, Instr.wSubbScalar)] →
      s.ready? op w = some (c, f) → c.act = 0 → ∃ t v, exec (instr w) s = .next t ∧ t.wave? c.r = some v
        ∧ v.sregs = c.wv.sregs ∧ v.preds = c.wv.preds ∧ (t.wg? (wgOf c.r)).map (·.flags) = some c.wg.flags)

/-- A word that only computes, NOP, YIELD and PREF complete and change nothing but their destination, what reading
their operands changes, the flags of the workgroup (none for carry chains and for words with no effect), and the
group's place, which moves past the word and its literal (00 R12; 01 R33, R34; 03 R95; 04 R125, R157; 06 R195). The
placement of registers in the backing area is out of sight (01 R35). -/
def Obligations.ComputingWordFrame : Prop :=
  ∀ row ∈ computingRows, ∀ (w : WWord) (s : State) (c : WaveCtx) (f : WaveForm), s.ready? row.op w = some (c, f) →
    row.ok c (c.operands s f w) f w = true →
    ∃ t v, exec (row.instr w) s = .next t ∧ t.wave? c.r = some v ∧ s.OnlyWave t c.r ∧ c.wv.Computed v row.op c f w
      ∧ (row.op ∈ flaglessRows.map (·.op) → (t.wg? (wgOf c.r)).map (·.flags) = some c.wg.flags)

/-- WRSP writes FLAGS, its low six bits, or LSTK, all 64, where a lane is active (04 R144). Of several writes to FLAGS in
one tck that of the highest WAVEID stands, and every set of that tck is ORed to it (01 R38). That WRSP does nothing
without an active lane is the model's reading (assumption log, entry 15). -/
def Obligations.WrspWrites : Prop :=
  ∀ (w : WWord) (s : State) (c : WaveCtx) (f : WaveForm), s.ready? 0x2A w = some (c, f) → c.act ≠ 0 →
    ∃ t v, exec (.wWrsp w) s = .next t ∧ t.wave? c.r = some v
      ∧ (w.d = 0x1B → v.lstk = c.wv.lstk ∧
          let x := c.wg.flagsIn (s.tckOf c.r.core)
          ((∀ y, x.write = some y → y.1 ≤ c.r.wave) → (t.wg? (wgOf c.r)).map (·.flags) =
            some (BitVec.ofNat 6 (uniform (c.operands s f w).1) ||| x.sets))
          ∧ (∀ y, x.write = some y → c.r.wave < y.1 → (t.wg? (wgOf c.r)).map (·.flags) = some (y.2 ||| x.sets)))
      ∧ (w.d = 0x1C → v.lstk = BitVec.ofNat 64 (uniform (c.operands s f w).1)
          ∧ (t.wg? (wgOf c.r)).map (·.flags) = some c.wg.flags)

/-! ## Long-latency words -/

/-- RCP to TANH and TOPK read their operands when they issue, bind the flag their clause names and join the words in
flight; with no active lane nothing is bound. No register is written yet (03 R97, R99; 05 R169, R178). -/
def Obligations.LongWordIssue : Prop :=
  ∀ row ∈ longRows, ∀ (w : WWord) (s : State) (c : WaveCtx) (f : WaveForm) (k : Nat),
    s.ready? row.op w = some (c, f) → s.bindable? c = some k →
    let x := c.sources s f w
    ∃ t v, exec (row.instr w) s = .next t ∧ t.wave? c.r = some v ∧ s.OnlyWave t c.r
      ∧ v.pending = (if c.act = 0 then c.wv.pending else
          c.wv.pending ++ [resultPending c k (row.ty w) w.d.toNat (row.vals c x w) (row.flags c x w)])
      ∧ v.flags = (if c.act = 0 then c.wv.flags else modAt c.wv.flags k (· + 1))
      ∧ (∀ m, m ∉ c.lastUses f w → v.vreg m = c.wv.vreg m) ∧ v.sregs = c.wv.sregs ∧ v.preds = c.wv.preds
      ∧ v.lanes = (c.wv.pass (wordLen w)).lanes ∧ v.group = (c.wv.pass (wordLen w)).group
      ∧ (t.wg? (wgOf c.r)).map (·.flags) = some c.wg.flags

/-- LONG_LATENCY_COMPLETION of a word whose result is known and whose destination no word has touched: the lanes it
was issued for receive their values, its flag counts one word less, its sticky flags are raised, and nothing else of
the wave's registers changes (03 R97, R99; 05 R162). -/
def Obligations.LongWordCompletion : Prop :=
  ∀ (s : State) (r : WaveRef) (k : Nat) (g : Workgroup) (v : Wave) (p : Pending) (vals : List (List W32)),
    s.wg? (wgOf r) = some g → s.wave? r = some v → v.pending[k]? = some p → p.kind = .result vals → p.spoiled = false →
    p.regs.Nodup → p.regs.length = vals.length →
    ∃ t u, exec (.evLongLatencyCompletion r k) s = .next t ∧ t.wave? r = some u ∧ s.OnlyWave t r
      ∧ (∀ (i n : Nat) (x : List W32), p.regs[i]? = some n → vals[i]? = some x → ∀ l, l < 32 →
          ((u.vreg n)[l]?).getD 0 = if p.mask.getLsbD l then (x[l]?).getD 0 else ((v.vreg n)[l]?).getD 0)
      ∧ (∀ n, n ∉ p.regs → u.vreg n = v.vreg n)
      ∧ u.pending = v.pending.eraseIdx k ∧ u.flags = modAt v.flags p.flag (· - 1)
      ∧ u.sregs = v.sregs ∧ u.preds = v.preds ∧ u.lanes = v.lanes ∧ u.group = v.group
      ∧ (t.wg? (wgOf r)).map (·.flags) = some (g.flags ||| p.sticky)

/-! ## Control words -/

/-- BRA, BRX, CALL, CALLX, RET and EXIT stand last in their clause and dissolve the group: an active lane goes to its
target, every other lane of the group to the next clause, and no other lane moves. CALL pushes the next clause's
address and RET pops one; here while the stack stays on chip, at depth below 4 before a CALL and at most 4 before a
RET. Under U the targets must agree (03 R95; 04 R149-R152, R155). -/
def Obligations.ControlWordsMoveLanes : Prop :=
  ∀ (w : WWord) (s : State) (c : WaveCtx) (f : WaveForm), c.isLast w = true →
    let src := (c.sources s f w).1
    let top (i : Nat) : Nat := (((c.wv.lanes[i]?).bind (·.stack.head?)).getD 0).toNat
    let moved (i : Instr) (target : Nat → Nat) (g : Lane → Lane) : Prop :=
      (w.u = true → c.uniformTarget (c.target target) = true) →
      ∃ t v, exec i s = .next t ∧ t.wave? c.r = some v ∧ v.group = none
        ∧ ∀ n l, c.wv.lanes[n]? = some l → v.lanes[n]? =
            some (if c.g.lanes.getLsbD n then
              { (if c.act.getLsbD n then g l else l) with pc := c.target target n, ix := 0 } else l)
    (s.ready? 0x30 w = some (c, f) → moved (.wBra w) (relTarget c src) id)
    ∧ (s.ready? 0x31 w = some (c, f) → moved (.wBrx w) (at_ src) id)
    ∧ (s.ready? 0x32 w = some (c, f) → c.depth < 4 → moved (.wCall w) (relTarget c src) (fun l => l.push c.g.nextClause))
    ∧ (s.ready? 0x33 w = some (c, f) → c.depth < 4 → moved (.wCallx w) (at_ src) (fun l => l.push c.g.nextClause))
    ∧ (s.ready? 0x34 w = some (c, f) → 0 < c.depth → c.depth ≤ 4 → moved (.wRet w) top (fun l => l.pop none))
    ∧ (s.ready? 0x35 w = some (c, f) →
        ∃ t v, exec (.wExit w) s = .next t ∧ t.wave? c.r = some v ∧ v.group = none
          ∧ ∀ n l, c.wv.lanes[n]? = some l → v.lanes[n]? =
              some (if c.g.lanes.getLsbD n then
                { (if c.act.getLsbD n then { l with state := .exited } else l) with pc := c.g.nextClause, ix := 0 } else l))

/-- A control word that does not stand last in its clause traps ILLEGAL_WORD, and one with U whose targets differ traps
UNIFORMITY; no lane has moved. A misaligned atomic, an STS at or beyond SCRATCH and a misaligned timeline word trap
PROTECTION, naming every such lane, before anything is performed; an atomic's lanes that the translation refuses trap with
them, before a page fault of another lane (03 R95; 04 R150; 06 R186, R191, R212; 16 R397). That RET.u at depth 0 counts a
missing return address as 0, so that UNIFORMITY comes before CALL_SPILL_FAULT (assumption log, entry 63), and that the VA of an
STS's record is the scratchpad offset (entry 25), are the model's choices. -/
def Obligations.WaveWordTraps : Prop :=
  ((∀ op i, (op, i) ∈ [((0x30 : Nat), Instr.wBra), (0x31, Instr.wBrx), (0x32, Instr.wCall), (0x33, Instr.wCallx),
         (0x34, Instr.wRet), (0x35, Instr.wExit), (0x36, Instr.wTrap), (0x37, Instr.wBreak)] →
       ∀ (w : WWord) (s : State) (c : WaveCtx) (f : WaveForm), s.ready? op w = some (c, f) → c.isLast w = false →
         exec (i w) s = .next (s.trapHere c .illegalWord))
     ∧ (∀ op i, (op, i) ∈ [((0x30 : Nat), Instr.wBra), (0x31, Instr.wBrx), (0x32, Instr.wCall), (0x33, Instr.wCallx),
         (0x34, Instr.wRet)] →
       ∀ (w : WWord) (s : State) (c : WaveCtx) (f : WaveForm), s.ready? op w = some (c, f) → c.isLast w = true → w.u = true →
         c.uniformTarget (c.target (if op = 0x30 ∨ op = 0x32 then relTarget c (c.sources s f w).1
           else if op = 0x34 then fun n => (((c.wv.lanes[n]?).bind (·.stack.head?)).getD 0).toNat
           else at_ (c.sources s f w).1)) = false →
         exec (i w) s = .next (s.trapHere c .uniformity)))
  ∧ (∀ (w : WWord) (s : State) (c : WaveCtx) (f : WaveForm) (p : Nat × Nat) (rest : List (Nat × Nat)),
       let src := c.sources s f w
       (∀ op i host, (op, i, host) ∈ [((0xA9 : Nat), Instr.wAtom, atomToHost w.t w.m.toNat), (0xAA, .wAtomcas, true),
             (0xAB, .wRed, atomToHost w.t w.m.toNat)] → s.ready? op w = some (c, f) →
           (op ≠ 0xAB → ∃ k, s.bindable? c = some k) → misaligned (wtypeBits w.t / 8) (c.accesses (at_ src.1)) = p :: rest →
           let size := wtypeBits w.t / 8
           let m := s.mapLanesBut c.r c.wg .atomic size (badAtomic size host) (c.accesses (at_ src.1))
           ∃ va mask needs, m.1 = .fault .protection (accBits .atomic) va mask needs
             ∧ (∀ q ∈ p :: rest, mask.getLsbD q.1 = true)
             ∧ exec (i w) s = .next (m.2.trapAccess c .protection (accBits .atomic) va mask needs))
       ∧ (s.ready? 0xA3 w = some (c, f) → s.badScratch c (accessBytes w) (c.accesses (at_ src.1)) = p :: rest →
           exec (.wSts w) s = .next (s.trapLanes c .protection .write p.2 (accMask (p :: rest)) []))
       ∧ (∀ op i, (op, i) ∈ [((0xB6 : Nat), Instr.wTladd), (0xB7, Instr.wTlset)] → s.ready? op w = some (c, f) →
           c.act ≠ 0 → c.wv.done = 0 → uniform src.1 % 8 ≠ 0 →
           exec (i w) s = .next (s.trapLanes c .protection .atomic (uniform src.1) c.act [])))

/-- A wave word whose fields do not fit its form traps ILLEGAL_WORD, whatever its opcode, and so does a long-latency word
for which its clause names no flag; one whose stream elements have not arrived stays unissued, one that reads poisoned lanes
of a vector register, or a poisoned scalar register, traps POISON, naming the lanes that do, and an access that an earlier RECV.acq, or a FENCE before which a read is
pending, holds back waits. The words whose operands are uniform are ignored where no lane is active (03 R86-R92, R97, R101;
06 R185, R194, R206; 16 R418; 18 R431). That a misplaced BRX or CALLX, as every word that reads poison, traps POISON before
its ILLEGAL_WORD (assumption log, entry 63), and that SEND is ignored without an active lane (entry 33), are the model's
choices. -/
def Obligations.WaveWordsTurnedAway : Prop :=
  (∀ (i : Instr) (op : Nat) (w : WWord) (s : State) (c : WaveCtx), waveOpcode i = some (op, w) → s.waveCtx? w = some c →
       waveOk op w = false → exec i s = .next (s.trapHere c .illegalWord))
  ∧ (∀ (i : Instr) (op : Nat) (w : WWord) (s : State) (c : WaveCtx) (f : WaveForm), waveOpcode i = some (op, w) →
       s.waveCtx? w = some c → waveForm op w = some f → fieldsFit op f w = true →
       let flagged : Prop := longLatency op = true → (s.boundFlag c).isSome = true
       (¬flagged → exec i s = .next (s.trapHere c .illegalWord))
       ∧ (flagged → c.streamsReady w = false → exec i s = .next s)
       ∧ (flagged → c.streamsReady w = true → c.meetsPending f w = false →
           (c.poisonHit f w = true → exec i s = .next (s.trapPoison c (readRegs f w) (readScalars f w)))
           ∧ (c.poisonHit f w = false → c.heldBack op w = true → exec i s = .next s)))
  ∧ (∀ op i, (op, i) ∈ [((0xA7 : Nat), Instr.wWb), (0xA8, .wInv), (0xAC, .wBind), (0xAD, .wUnbind), (0xAE, .wAcq), (0xAF, .wRel),
         (0xB0, .wFence), (0xB5, .wOpfence), (0xB6, .wTladd), (0xB7, .wTlset), (0xB8, .wTlwait), (0xB9, .wLaunch),
         (0xBB, .wProgress), (0xA1, .wSt), (0xA4, .wSend), (0xAB, .wRed)] →
       ∀ (w : WWord) (s : State) (c : WaveCtx) (f : WaveForm), s.ready? op w = some (c, f) → c.act = 0 →
         exec (i w) s = .next ((s.issueWord c f w).endWord c w))

/-- TRAP and BREAK move the group's lanes to the next clause and, where a lane is active, stop the workgroup for the
host with the code of operand a: its save begins and it issues nothing more; with no active lane nothing is raised
(04 R156; 16 R393, R406). -/
def Obligations.TrapAndBreakStop : Prop :=
  ∀ op i k, (op, i, k) ∈ [((0x36 : Nat), Instr.wTrap, TrapKind.trap), (0x37, Instr.wBreak, TrapKind.brk)] →
    ∀ (w : WWord) (s : State) (c : WaveCtx) (f : WaveForm), s.ready? op w = some (c, f) → c.isLast w = true →
      c.wg.preempt = none →
      ∃ t v g, exec (i w) s = .next t ∧ t.wave? c.r = some v ∧ t.wg? (wgOf c.r) = some g ∧ v.group = none
        ∧ (∀ n l, c.wv.lanes[n]? = some l → v.lanes[n]? =
            some (if c.g.lanes.getLsbD n then { l with pc := c.g.nextClause, ix := 0 } else l))
        ∧ (c.act = 0 → g.preempt = none)
        ∧ (c.act ≠ 0 → ∃ rec_, g.preempt = some (.saving rec_ true none) ∧ rec_.kind = some k ∧ rec_.src = .wave
            ∧ rec_.code = BitVec.ofNat 32 (uniform (c.sources s f w).1) ∧ rec_.pc = c.g.nextClause
            ∧ rec_.mask = c.act ∧ rec_.wave = c.r.wave)

/-! ## Words that make lanes wait -/

/-- SLEEP, WAITF, BAR, WAITB, GBAR and RDV complete: each lane they hold waits for what the word names, at the word
that follows; ARRIVE holds none. SLEEP of 0, WAITF of clear flags and WAITB of a phase that has completed hold no
lane (04 R147, R158, R159; 06 R209, R211, R220). BAR and ARRIVE wait, unissued, while an active lane has arrived in
the phase under way. -/
def Obligations.WaitingWordsHold : Prop :=
  ∀ (w : WWord) (s : State) (c : WaveCtx) (f : WaveForm),
    let x := uniform (c.sources s f w).1
    let n := x % 8
    let phase := (c.wg.barriers[n]?).getD 0
    let next : W64 × Nat := if c.g.ix + wordLen w < c.g.words then (c.g.pc, c.g.ix + wordLen w) else (c.g.nextClause, 0)
    let holds (i : Instr) (mask : Lanes) (arrive : Bool) (wait : LaneWait) : Prop :=
      ∃ t v, exec i s = .next t ∧ t.wave? c.r = some v
        ∧ (∀ m l, c.wv.lanes[m]? = some l → m < 32 → mask.getLsbD m = true →
            ∃ a, v.lanes[m]? = some { l with pc := next.1, ix := next.2, state := .waiting wait, arrived := a }
              ∧ a = if arrive then setAt l.arrived n (phase + 1) else l.arrived)
        ∧ (c.g.lanes &&& ~~~mask = 0 → v.group = none)
    (s.ready? 0x3A w = some (c, f) →
        holds (.wSleep w) (if uniform (c.operands s f w).1 = 0 then 0 else c.act) false
          (.sleep (s.tckOf c.r.core + uniform (c.operands s f w).1)))
    ∧ (s.ready? 0x3B w = some (c, f) →
        holds (.wWaitf w) (if c.wv.flagsClear (uniform (c.operands s f w).1 % 4096) then 0 else c.act) false
          (.waitf (BitVec.ofNat 12 (uniform (c.operands s f w).1 % 4096))))
    ∧ (s.ready? 0xB1 w = some (c, f) →
        (c.arrivedAlready n = false → holds (.wBar w) c.act true (.bar n phase))
        ∧ (c.arrivedAlready n = true → exec (.wBar w) s = .next s))
    ∧ (s.ready? 0xB3 w = some (c, f) →
        (c.arrivedAlready n = true → exec (.wArrive w) s = .next s)
        ∧ (c.arrivedAlready n = false → ∃ t v, exec (.wArrive w) s = .next t ∧ t.wave? c.r = some v
            ∧ ∀ m l, c.wv.lanes[m]? = some l → m < 32 → c.act.getLsbD m = true →
                ∃ u, v.lanes[m]? = some u ∧ u.arrived = setAt l.arrived n (phase + 1) ∧ u.state = l.state))
    ∧ (s.ready? 0xB4 w = some (c, f) →
        let m := uniform (c.operands s f w).1 % 8
        let ph := (c.wg.barriers[m]?).getD 0
        holds (.wWaitb w) (maskOf (fun i => c.act.getLsbD i && (c.wv.lanes[i]?).any (fun l => l.arrivedIn m ph))) false
          (.waitb m ph))
    ∧ (s.ready? 0xB2 w = some (c, f) → holds (.wGbar w) c.act false .gbar)
    ∧ (s.ready? 0xBC w = some (c, f) → c.wg.job.isSome = true → holds (.wRdv w) c.act false .rdv)

/-- SLEEP, WAITF, BAR, ARRIVE, WAITB, GBAR and RDV complete: the word issues once and the group leaves it behind. The lanes
it holds stand at the word that follows and wait for what it names; the others go on there in the same state, as one group
inside the clause and at the next clause past its last word. BAR and ARRIVE complete where no active lane has arrived in the
phase under way, RDV where the workgroup has an engine job, the others whenever they are ready; SLEEP of 0, WAITF of clear
flags and WAITB of phases that have completed let every lane go on (03 R95; 04 R147, R158, R159; 06 R209, R211, R220). -/
def Obligations.WaitingWordsComplete : Prop :=
  ∀ (w : WWord) (s : State) (c : WaveCtx) (f : WaveForm),
    let x := uniform (c.operands s f w).1
    let n := x % 8
    let completes (i : Instr) (mask : Lanes) : Prop :=
      let rest := c.g.lanes &&& ~~~mask
      let inside : Prop := c.g.ix + wordLen w < c.g.words
      ∃ t v, exec i s = .next t ∧ t.wave? c.r = some v ∧ v.issued = c.wv.issued + 1
        ∧ (rest ≠ 0 → inside → v.group = some { c.g with lanes := rest, ix := c.g.ix + wordLen w })
        ∧ (rest = 0 ∧ mask ≠ 0 ∨ ¬inside → v.group = none)
        ∧ ∀ m l, c.wv.lanes[m]? = some l → m < 32 → ∃ u, v.lanes[m]? = some u ∧ u.stack = l.stack
            ∧ (mask.getLsbD m = true → ∃ y, u.state = .waiting y)
            ∧ (mask.getLsbD m = false → u.state = l.state)
            ∧ (mask.getLsbD m = true → inside → u.pc = c.g.pc ∧ u.ix = c.g.ix + wordLen w)
            ∧ (mask.getLsbD m = true ∨ rest ≠ 0 ∧ c.g.lanes.getLsbD m = true → ¬inside → u.pc = c.g.nextClause ∧ u.ix = 0)
    (s.ready? 0x3A w = some (c, f) → completes (.wSleep w) (if x = 0 then 0 else c.act))
    ∧ (s.ready? 0x3B w = some (c, f) → completes (.wWaitf w) (if c.wv.flagsClear (x % 4096) then 0 else c.act))
    ∧ (s.ready? 0xB1 w = some (c, f) → c.arrivedAlready n = false → completes (.wBar w) c.act)
    ∧ (s.ready? 0xB3 w = some (c, f) → c.arrivedAlready n = false → completes (.wArrive w) 0)
    ∧ (s.ready? 0xB4 w = some (c, f) → completes (.wWaitb w) (maskOf (fun i => c.act.getLsbD i
        && (c.wv.lanes[i]?).any (fun l => l.arrivedIn n ((c.wg.barriers[n]?).getD 0)))))
    ∧ (s.ready? 0xB2 w = some (c, f) → completes (.wGbar w) c.act)
    ∧ (s.ready? 0xBC w = some (c, f) → c.wg.job.isSome = true → completes (.wRdv w) c.act)

/-! ## Memory words -/

/-- LD, LDS, ST and STS complete where their accesses translate: a load reads in ascending lanes, its values joining
the words in flight under the flag its clause names; a store writes in ascending lanes, so that the highest lane's
byte stands; an LD or ST whose operands are all uniform makes one access an issue; scratchpad accesses stay below SCRATCH and
are aligned, a byte that a word of the engine queues writes loads an unspecified value, and after an LDS or STS of the gang
receive queue its bytes are unspecified (06 R185-R187, R190, R191; 08 R279; 16 R397; 18 R432). That an access is performed when its word issues
is the model's choice (assumption log, entry 7). -/
def Obligations.LoadsAndStoresComplete : Prop :=
  ∀ (w : WWord) (s s1 : State) (c : WaveCtx) (f : WaveForm) (l : List LaneAcc),
    let src := c.sources s f w
    let indexed := c.accesses (fun i => wrap 64 ((at_ src.1 i : Int) + signed 32 (at_ src.2.1 i)))
    let plain := c.accesses (at_ src.1)
    (∀ k, s.ready? 0xA0 w = some (c, f) → s.bindable? c = some k →
        s.mapLanes c.r c.wg .read (accessBytes w) indexed = (.ok l, s1) →
        let once := isUniform w.a && isUniform w.b
        let r := (s1.issueWord c f w).readLanes c.r c.wg.ctx (loadMode (wordCtl w)) (if once then l.take 1 else l)
        let vals := if once then List.replicate 32 (at_ r.1 (((l.head?).map (·.lane)).getD 0)) else r.1
        exec (.wLd w) s = .next ((r.2.bindPending c
          (replyPending c k w.t w.d.toNat (loadVectors w vals) 0)).endWord c w))
    ∧ (s.ready? 0xA1 w = some (c, f) → c.act ≠ 0 → s.mapLanes c.r c.wg .write (accessBytes w) plain = (.ok l, s1) →
        exec (.wSt w) s = .next ((((s1.issueWord c f w).beforeWrite c.r (wordCtl w).order).writeLanes c.r c.wg.ctx
          (storeMode (wordCtl w)) (if isUniform w.a && isUniform w.b then l.take 1 else l) (storeData c w src)).endWord c w))
    ∧ (∀ k, s.ready? 0xA2 w = some (c, f) → s.bindable? c = some k → s.badScratch c (accessBytes w) indexed = [] →
        let off (i : Nat) : Nat := (assoc indexed i).getD 0
        c.wg.poisonedLanes c.act off (accessBytes w) = 0 →
        indexed.any (fun p => (linesOf p.2 (accessBytes w)).any c.wg.lineEmpty) = false →
        let t := (s.issueWord c f w).spoilQueue (wgOf c.r) (accessBytes w) indexed
        let v := t.loadLanes (wgOf c.r) ((t.wg? (wgOf c.r)).getD c.wg) c.act off (accessBytes w)
        exec (.wLds w) s = .next ((v.2.bindPending c (resultPending c k w.t w.d.toNat (loadVectors w v.1) 0)).endWord c w)
        ∧ ∀ i, i < 32 → c.act.getLsbD i = true → indexed.any (fun p => s.inQueue c.wg p.2 (accessBytes w)) = false → (∀ b, b < accessBytes w → s.unsettled (wgOf c.r) (off i + b) = false) →
            at_ v.1 i = ofBytes (c.wg.readScratch (off i) (accessBytes w)))
    ∧ (s.ready? 0xA3 w = some (c, f) → s.badScratch c (accessBytes w) plain = [] →
        plain.any (fun p => decide (p.2 < 8)) = false →
        let queue := plain.any (fun p => s.inQueue c.wg p.2 (accessBytes w))
        let before := if c.act = 0 then s.issueWord c f w else (s.issueWord c f w).beforeWrite c.r .rlx
        ∃ t g, exec (.wSts w) s = .next t ∧ t.wg? (wgOf c.r) = some g
          ∧ (let stored := plain.foldl (fun m p => cellsPut m p.2 (toBytes (accessBytes w) (at_ (storeData c w src) p.1)))
              (((before.wg? (wgOf c.r)).map (·.scratch)).getD [])
             (queue = false → g.scratch = stored)
             ∧ (queue = true → ∃ b : List Byte, b.length = 2048 ∧ g.scratch = cellsPut stored ((s.lpbOf c.wg).scratch - 2048) b))
          ∧ t.mem = before.mem ∧ (c.wv.fence = none → before = s.issueWord c f w))

/-- ATOM, ATOMCAS and RED complete where their accesses are aligned, translate and lie where an atomic may be
performed: in ascending lanes each reads the old value at the point of coherence and writes the new one there; ATOM
and ATOMCAS return the old values, RED raises its flags; a compare and swap that fails only reads (06 R186, R197-R201). That an atomic is performed when its
word issues is the model's choice (assumption log, entry 7). -/
def Obligations.AtomicsComplete : Prop :=
  ∀ (w : WWord) (s s1 : State) (c : WaveCtx) (f : WaveForm) (l : List LaneAcc), c.act ≠ 0 →
    let src := c.sources s f w
    let acc := c.accesses (at_ src.1)
    let size := wtypeBits w.t / 8
    let before := (s1.issueWord c f w).beforeWrite c.r (wordCtl w).order
    let ok (host : Bool) : Prop := s.mapLanesBut c.r c.wg .atomic size (badAtomic size host) acc = (.ok l, s1)
    (∀ k, s.ready? 0xA9 w = some (c, f) → s.bindable? c = some k → ok (atomToHost w.t w.m.toNat) →
        let o := before.atomicLanes c.r (fun i x => atomOp w.t w.m.toNat w.rnd x (at_ src.2.1 i)) (performed w l) ([], 0)
        exec (.wAtom w) s = .next ((o.2.bindPending c
          (replyPending c k w.t w.d.toNat (regVectors w.t (atomResults w o.1.1)) o.1.2)).endWord c w))
    ∧ (∀ k, s.ready? 0xAA w = some (c, f) → s.bindable? c = some k → ok true →
        let o := (s1.issueWord c f w).casLanes c.r (wordCtl w).order (c.wv.typedLanes (opWidth w) w.d.toNat) src.2.1 l []
        exec (.wAtomcas w) s = .next ((o.2.bindPending c (replyPending c k w.t w.d.toNat
          (regVectors w.t ((List.range 32).map (fun i => (assoc o.1 i).getD 0))) 0)).endWord c w))
    ∧ (∀ (z : State) (a : LaneAcc) (cmp new : Nat),
        let t := a.dpas.foldl (fun z d => z.settleByte c.r d) z
        let old := ofBytes (t.readMem ((a.dpas.head?).getD 0) a.dpas.length)
        let release (z : State) : State := z.beforeWrite c.r (wordCtl w).order
        (old ≠ cmp → z.casLane c.r a release cmp new = (old, t))
        ∧ (old = cmp → z.casLane c.r a release cmp new = (old, ((release t).atomicLane c.r a (fun _ => new)).2)))
    ∧ (s.ready? 0xAB w = some (c, f) → ok (atomToHost w.t w.m.toNat) →
        let o := before.atomicLanes c.r (fun i x => atomOp w.t w.m.toNat w.rnd x (at_ src.2.1 i)) (performed w l) ([], 0)
        exec (.wRed w) s = .next ((o.2.raise (wgOf c.r) o.1.2).endWord c w))

/-- A wave reads back what it wrote: after a plain, combining or write-through store of a byte to local memory it
reads the byte stored, in every way a wave reads. The store changes no other byte as the waves of its core read it, but those
that the wave's own buffers hold and that it may perform; beyond the L1 it changes no byte of another line, whose earlier
stores it may perform (06 R187, R192; 14 R369, R370, R376). That a store is performed when its word issues is the
model's choice (assumption log, entry 7). -/
def Obligations.BytesStoredAndKept : Prop :=
  (∀ (s : State) (r : WaveRef) (ctx : Nat) (wm : WriteMode) (rm : ReadMode) (d : Nat) (b : Byte), s.memWf →
       (s.wave? r).isSome = true → place d = .dram →
       ((s.writeByte r ctx wm d b).readByte r ctx rm d).1 = b)
  ∧ (∀ (s : State) (r : WaveRef) (ctx : Nat) (wm : WriteMode) (d e : Nat) (b : Byte), s.memWf → place d = .dram → e ≠ d →
       ((s.wave? r).bind (fun v => assoc v.wc e) = none →
         (s.writeByte r ctx wm d b).readAround r.core e = s.readAround r.core e)
       ∧ (lineOfAddr e ≠ lineOfAddr d → cellAt (s.writeByte r ctx wm d b).mem e = cellAt s.mem e))

/-! ## Synchronisation, launch and hints -/

/-- TLADD and TLSET on a timeline that a memory slice holds read and write it in one step there, after the wave's
earlier writes of its line: TLADD the sum, held at its largest value, TLSET the value; no other byte changes. A sum held so
marks SATURATED in the context's TLEVT with its address, and a TLSET to a smaller value REWOUND. A timeline in
host memory is sent as a PCIe AtomicOp and the wave waits for the answer, after which the word is issued again and
ends; at any other place the word traps PROTECTION (06 R185, R212, R213; 11 R331). What the first CAS expects, and one
evaluation an issue, are the model's readings (assumption log, entries 10 and 33). -/
def Obligations.TimelineWritesComplete : Prop :=
  ∀ op i add, (op, i, add) ∈ [((0xB6 : Nat), Instr.wTladd, true), (0xB7, .wTlset, false)] →
    ∀ (w : WWord) (s s1 : State) (c : WaveCtx) (f : WaveForm) (l : List LaneAcc) (d : Nat),
      s.ready? op w = some (c, f) → c.act ≠ 0 →
      let a := uniform (c.sources s f w).1
      let b := uniform (c.sources s f w).2.1 % 2 ^ 64
      (c.wv.done ≠ 0 → exec (i w) s = .next ((s.issueWord c f w).endWord c w))
      ∧ (c.wv.done = 0 → a % 8 = 0 → s.mapLanes c.r c.wg .atomic 8 (c.single a) = (.ok l, s1) →
          (l.head?).bind (·.dpas.head?) = some d →
          (timelinePlace d = .slice → s1.memWf → d % 8 = 0 →
            let before := ((s1.issueWord c f w).beforeWrite c.r (wordCtl w).order).settleByte c.r d
            let old := before.readWord d
            let k := before.context c.wg.ctx
            let saturates : Bool := add && decide (maxWord < old + b)
            let rewinds : Bool := !add && decide (b < old)
            ∃ t, exec (i w) s = .next t
              ∧ t.readWord d = (if add then min maxWord (old + b) else b)
              ∧ (∀ e, e < d ∨ d + 8 ≤ e → cellAt t.mem e = cellAt before.mem e)
              ∧ (t.context c.wg.ctx).saturated = (k.saturated || saturates) ∧ (t.context c.wg.ctx).rewound = (k.rewound || rewinds)
              ∧ (t.context c.wg.ctx).evtAddr = if saturates || rewinds then BitVec.ofNat 64 a &&& 0x000FFFFFFFFFFFF8 else k.evtAddr)
          ∧ (timelinePlace d = .host →
            let before := s1.beforeWrite c.r (wordCtl w).order
            ∃ t v, exec (i w) s = .next t ∧ t.wave? c.r = some v ∧ v.block = .hostOp before.hostOpId
              ∧ t.mem = before.mem
              ∧ ∃ o, t.hostOps = before.hostOps ++ [o] ∧ o.id = before.hostOpId ∧ o.ctx = c.wg.ctx ∧ o.addr = d
                  ∧ o.add = add ∧ o.value = BitVec.ofNat 64 b)
          ∧ (timelinePlace d = .nowhere → exec (i w) s = .next (s1.trapLanes c .protection .atomic a c.act [])))

/-- TLWAIT and ACQ read the 64 bits at their address beyond the L1 and compare them, unsigned, with the threshold: they
end where it is reached, ACQ after its maintenance, and otherwise hold the active lanes (06 R205, R214; 14 R377). That ACQ
maintains the L1 of the core that issues it (assumption log, entry 34), and reads when it issues (entry 7), are the model's
choices. -/
def Obligations.ThresholdWordsComplete : Prop :=
  ∀ (w : WWord) (s s1 : State) (c : WaveCtx) (f : WaveForm) (l : List LaneAcc), c.act ≠ 0 →
    let a := uniform (c.sources s f w).1
    let b := uniform (c.sources s f w).2.1
    a % 8 = 0 → s.mapLanes c.r c.wg .read 8 (c.single a) = (.ok l, s1) →
    let r := (s1.issueWord c f w).readLanes c.r c.wg.ctx .around l
    let x := at_ r.1 ((lowLane c.act).getD 0)
    (s.ready? 0xB8 w = some (c, f) →
      exec (.wTlwait w) s = .next (if b ≤ x then r.2.endWord c w else r.2.holdLanes c w c.act
        (fun _ => .tlwait (BitVec.ofNat 64 a) (BitVec.ofNat 64 b) (wordCtl w) (w.m == 1) false)))
    ∧ (s.ready? 0xAE w = some (c, f) →
      exec (.wAcq w) s = .next (if b ≤ x then (r.2.acquireObject c.r.core c.wg.ctx a).endWord c w else r.2.holdLanes c w
        c.act (fun _ => .acq (BitVec.ofNat 64 a) (BitVec.ofNat 64 b))))

/-- BIND adds an entry to the context's region table where the rules of R202 let it, and traps PROTECTION where they do
not; UNBIND removes the entries of a base and object; REL writes back the regions bound to the object and then stores
the value, as a release, at its address (06 R202-R204). That REL writes back the L1 of the core that issues it (assumption log,
entry 34), and that its store is performed when it issues (entry 7), are the model's choices, as is PROTECTION for a misaligned
BIND of length 0 (entry 63). -/
def Obligations.EntryConsistencyWordsComplete : Prop :=
  ∀ (w : WWord) (s : State) (c : WaveCtx) (f : WaveForm), c.act ≠ 0 →
    let a := uniform (c.sources s f w).1
    let b := uniform (c.sources s f w).2.1
    let n := scalarNumber w.a
    let base := ((c.wv.sregs[n]?).getD 0).toNat
    let len := ((c.wv.sregs[n + 1]?).getD 0).toNat
    (s.ready? 0xAC w = some (c, f) →
      (∀ rs, bindRegion (s.context c.wg.ctx).regions base len b (wordCtl w).scope none = some rs →
        ∃ t, exec (.wBind w) s = .next t ∧ (t.context c.wg.ctx).regions = rs ∧ t.mem = s.mem)
      ∧ (bindRegion (s.context c.wg.ctx).regions base len b (wordCtl w).scope none = none →
        exec (.wBind w) s = .next (s.trapLanes c .protection .read base c.act [])))
    ∧ (s.ready? 0xAD w = some (c, f) →
        ∃ t, exec (.wUnbind w) s = .next t
          ∧ (t.context c.wg.ctx).regions =
              (s.context c.wg.ctx).regions.filter (fun r => !(r.base == a && r.object == b))
          ∧ t.mem = s.mem)
    ∧ (∀ l s1, s.ready? 0xAF w = some (c, f) → a % 8 = 0 → s.mapLanes c.r c.wg .write 8 (c.single a) = (.ok l, s1) →
        exec (.wRel w) s = .next
          ((((((s1.issueWord c f w).boundTo c.wg.ctx a).foldl (fun x r =>
              if maintains r.scope then x.writeBack c.r.core (x.lineOfRange c.wg.ctx r.base r.len) else x)
            (s1.issueWord c f w)).beforeWrite c.r .rel).writeLanes c.r c.wg.ctx .through l
              (List.replicate 32 b)).awaitMaintenance c.r |>.endWord c w))

/-- WB and INV act on the lines of their range in the core's L1, at .wv and .wg and for an empty range on none; OPFENCE
puts the core's earlier writes where every unit reads. Their wave starts no clause until the operation is performed,
and MAINTENANCE_PERFORMED lets it. FENCE with a release part makes the wave's next write a release, and .ar performs its
earlier writes; pending reads hold back its later writes, and under an acquire part its later accesses; with .all it writes
back, and with an acquire part invalidates, the core's L1 (06 R196, R206, R207; 14 R375). That WB and INV act on the L1 of the
core that issues them, and that OPFENCE writes back when it issues, are the model's readings (assumption log, entry 34). -/
def Obligations.MaintenanceWordsComplete : Prop :=
  ∀ (w : WWord) (s : State) (c : WaveCtx) (f : WaveForm), c.act ≠ 0 →
    let a := uniform (c.sources s f w).1
    let b := uniform (c.sources s f w).2.1
    let act := maintains (wordCtl w).scope && b != 0
    let done (t : State) : State := t.endWord c w
    let lines := s.lineOfRange c.wg.ctx a b
    let rel := (wordCtl w).order == .rel || (wordCtl w).order == .ar
    let acq := (wordCtl w).order == .acq || (wordCtl w).order == .ar
    (s.ready? 0xA7 w = some (c, f) → a + b ≤ 2 ^ 52 → exec (.wWb w) s = .next (done
        (if act then ((s.issueWord c f w).writeBack c.r.core lines).awaitMaintenance c.r else s.issueWord c f w)))
    ∧ (s.ready? 0xA8 w = some (c, f) → a + b ≤ 2 ^ 52 → exec (.wInv w) s = .next (done
        (if act then ((s.issueWord c f w).invalidate c.r.core lines).awaitMaintenance c.r else s.issueWord c f w)))
    ∧ (s.ready? 0xB5 w = some (c, f) → exec (.wOpfence w) s =
        .next (done ((((s.issueWord c f w).drainWc c.r).releaseCore c.r.core).awaitMaintenance c.r)))
    ∧ (s.ready? 0xB0 w = some (c, f) →
        let s1 := if rel then (s.issueWord c f w).updWave c.r (fun v => { v with fence := some (wordCtl w).scope })
          else s.issueWord c f w
        let s2 := s1.updWave c.r (fun v => v.fenced (if acq then .accesses else if rel then .writes else .nothing))
        let s3 := if rel && acq then s2.drainWc c.r else s2
        let s4 := if rel && w.m == 1 then (s3.drainWc c.r).releaseCore c.r.core else s3
        exec (.wFence w) s = .next (done (if acq && w.m == 1 then s4.acquireCore c.r.core else s4)))
    ∧ (s.wave? c.r = some c.wv → c.wv.block = .maintenance →
        ∃ t, exec (.evMaintenancePerformed c.r) s = .next t ∧ t.wave? c.r = some { c.wv with block := .none })

/-- SEND hands an entry to a member of its gang: it waits for one that has not started or is saved and for a free entry,
and is ignored once the member has completed; RECV joins the words in flight, completes when an entry is there, and with
.acq holds back the wave's later accesses until then (06 R193, R194; 13 R353; 18 R432, R433). A target outside the gang traps
PROTECTION. -/
def Obligations.GangWordsComplete : Prop :=
  ∀ (w : WWord) (s : State) (c : WaveCtx) (f : WaveForm), c.act ≠ 0 →
    let src := c.sources s f w
    let m := uniform src.1
    let l := s.lpbOf c.wg
    let target := c.wg.wgl / l.gang * l.gang + m
    let mine (g : Workgroup) : Bool := g.grid == c.wg.grid && g.wgl == target
    let there := s.allWgs.any (fun p => mine p.2)
    let gone := ((s.grid? c.wg.grid).map (fun g => g.completed.contains target)).getD false
    (s.ready? 0xA4 w = some (c, f) →
      (m < 4 ∧ m ≠ c.wg.wgl % l.gang ∧ m < l.gang →
        (gone = true → exec (.wSend w) s = .next ((s.issueWord c f w).endWord c w))
        ∧ (gone = false → there = false ∨ (assoc c.wg.credits m).getD 0 = 0 → exec (.wSend w) s = .next s)
        ∧ (∀ n, gone = false → there = true → (assoc c.wg.credits m).getD 0 = n + 1 →
            exec (.wSend w) s = .next
              (((((s.issueWord c f w).beforeWrite c.r (wordCtl w).order).updWg (wgOf c.r)
                (fun g => { g with credits := assocSet g.credits m n })).updGang c.wg.grid l c.wg.wgl
                (fun g => if mine g then g.append l.scratch (c.wg.wgl % l.gang)
                  ((List.range 32).map (fun i => if c.act.getLsbD i then BitVec.ofNat 32 (at_ src.2.1 i) else 0))
                  else g)).endWord c w)))
      ∧ (¬(m < 4 ∧ m ≠ c.wg.wgl % l.gang ∧ m < l.gang) →
          exec (.wSend w) s = .next (s.trapLanes c .protection .write m c.act [])))
    ∧ (∀ k, s.ready? 0xA5 w = some (c, f) → s.bindable? c = some k →
        ∃ t v g, exec (.wRecv w) s = .next t ∧ t.wave? c.r = some v ∧ t.wg? (wgOf c.r) = some g
          ∧ v.pending = c.wv.pending ++ [⟨.recv c.wg.recvs, k, .b32, c.act, [w.d.toNat], 0, false, false,
              if (wordCtl w).order = .acq then .accesses else .nothing, c.g.wordAddr⟩]
          ∧ v.flags = modAt c.wv.flags k (· + 1) ∧ g.recvs = c.wg.recvs + 1 ∧ g.queue = c.wg.queue)

/-- LAUNCH copies the 256 bytes of an LPB into the context's launch queue of its class, where that has room and the
context is not in error, or into the next slot of the overflow ring where the class waits there or its queue is full, and
writes 1s to pd; without room, in the queue and in the overflow ring, or in error, it writes 0s; a slot that does not translate
traps. SETPERF takes the greatest request of the active lanes, held to 1 to 16; PROGRESS sets the estimate; of two in
one tck the larger value stands (06 R216, R218, R219; 11 R335, R336). -/
def Obligations.LaunchSetperfProgressComplete : Prop :=
  ∀ (w : WWord) (s s1 : State) (c : WaveCtx) (f : WaveForm) (l : List LaneAcc), c.act ≠ 0 →
    let src := c.sources s f w
    let a := uniform src.1
    (∀ x, s.ready? 0xB9 w = some (c, f) → a % 64 = 0 → s.mapLanes c.r c.wg .read 256 (c.single a) = (.ok l, s1) →
        l.head? = some x →
        let y := ((s1.drainWc c.r).releaseCore c.r.core).readLane c.r c.wg.ctx .around x
        let b := toBytes 256 y.1
        let k := y.2.context c.wg.ctx
        let cls := field b 0x13 1 % 4
        let done (ok : Bool) (s : State) : State :=
          ((s.issueWord c f w).writeP c.r w.d.toNat c.act (if ok then BitVec.allOnes 32 else 0)).endWord c w
        (k.err = false → k.ovf.any (fun e => e.1 == cls) = false → ((k.launchQ[cls]?).getD []).length < 64 →
          exec (.wLaunch w) s = .next (done true (y.2.updContext c.wg.ctx (fun k => { k with
            launchQ := modAt k.launchQ cls (fun q => q ++ [(BitVec.ofNat 64 a, b)]) }))))
        ∧ (k.err = true ∨ k.ovfEnt ≤ k.ovf.length ∧ (k.ovf.any (fun e => e.1 == cls) = true
              ∨ 64 ≤ ((k.launchQ[cls]?).getD []).length) →
          exec (.wLaunch w) s = .next (done false y.2))
        ∧ (k.err = false → k.ovf.length < k.ovfEnt →
            k.ovf.any (fun e => e.1 == cls) = true ∨ 64 ≤ ((k.launchQ[cls]?).getD []).length →
          let m := y.2.mapLanes c.r c.wg .write 256 (c.single (k.ovfSlot k.ovf.length))
          (∀ o d, m.1 = .ok o → (o.head?).bind (·.dpas.head?) = some d →
            exec (.wLaunch w) s = .next (done true ((m.2.putPhys c.r.core c.wg.ctx d b).updContext c.wg.ctx (fun k => { k with
              ovf := k.ovf ++ [(cls, BitVec.ofNat 64 a)] }))))
          ∧ (∀ t e va mask needs, m.1 = .fault t e va mask needs →
            exec (.wLaunch w) s = .next (m.2.trapAccess c t e va c.act needs))))
    ∧ (s.ready? 0xBA w = some (c, f) →
        ∃ t g, exec (.wSetperf w) s = .next t ∧ t.wg? (wgOf c.r) = some g
          ∧ g.perf = (let v := min 16 (max 1 ((lanesOf c.act).foldl (fun m i => max m (at_ (c.operands s f w).1 i)) 0))
              if c.wg.perfAt = some (s.tckOf c.r.core) then max c.wg.perf v else v))
    ∧ (s.ready? 0xBB w = some (c, f) →
        ∃ t g, exec (.wProgress w) s = .next t ∧ t.wg? (wgOf c.r) = some g
          ∧ g.estimate = (if c.wg.progressAt = some (s.tckOf c.r.core) then max c.wg.estimate.1 (a % 2 ^ 32) else a % 2 ^ 32,
              s.tckOf c.r.core) ∧ g.perf = c.wg.perf)

/-- CALL and CALLX at depth 4 and beyond write the active lanes' oldest return addresses to their spill area before the
push, and RET below depth 4 reads them back; they trap CALL_SPILL_FAULT beyond the stride of the area, and RET at depth
0 (04 R151-R153). -/
def Obligations.CallStackBeyondTheChip : Prop :=
  ∀ (w : WWord) (s : State) (c : WaveCtx) (f : WaveForm), c.isLast w = true → c.act ≠ 0 →
    (∀ op i rel, (op, i, rel) ∈ [((0x32 : Nat), Instr.wCall, true), (0x33, .wCallx, false)] →
      s.ready? op w = some (c, f) → 4 ≤ c.depth →
      let t := c.target (fun n => if rel then relTarget c (c.sources s f w).1 n else at_ (c.sources s f w).1 n)
      (w.u = true → c.uniformTarget t = true) →
      ((s.lpbOf c.wg).lstkStride / 256 ≤ c.depth - 4 →
        exec (i w) s = .next (s.trapWave c.r .callSpillFault 0 0 c.g.wordAddr 0 c.act []))
      ∧ (∀ l s1, c.depth - 4 < (s.lpbOf c.wg).lstkStride / 256 →
          s.mapLanes c.r c.wg .write 8 (c.spillAccesses (c.depth - 4)) = (.ok l, s1) →
          exec (i w) s = .next ((((s1.writeLanes c.r c.wg.ctx .plain l
            ((List.range 32).map (fun n => (((c.wv.lanes[n]?).bind (·.stack.getLast?)).getD 0).toNat))).consume c f
              w).countIssue c.r).updWave c.r (fun v =>
                v.leave t (fun n x => if c.act.getLsbD n then x.push c.g.nextClause else x)))))
    ∧ (s.ready? 0x34 w = some (c, f) →
        let t := c.target (fun n => (((c.wv.lanes[n]?).bind (·.stack.head?)).getD 0).toNat)
        (w.u = true → c.uniformTarget t = true) →
        (c.depth = 0 → exec (.wRet w) s = .next (s.trapWave c.r .callSpillFault 0 0 c.g.wordAddr 0 c.act []))
        ∧ (∀ l s1, 5 ≤ c.depth → s.mapLanes c.r c.wg .read 8 (c.spillAccesses (c.depth - 5)) = (.ok l, s1) →
            let r := s1.readLanes c.r c.wg.ctx .plain l
            exec (.wRet w) s = .next (((r.2.consume c f w).countIssue c.r).updWave c.r (fun v =>
              v.leave t (fun n x => if c.act.getLsbD n then x.pop (some (BitVec.ofNat 64 (at_ r.1 n))) else x)))))

/-! ## Sequencer words -/

/-- ADD to SLTZ, ADDI, LI and LUI complete: gd receives its value (g0 ignores it), the pc moves to the next word, the
word's pops are taken and its pushes made, and nothing else changes (01 R40; 07 R224, R231, R233). -/
def Obligations.SequencerArithmetic : Prop :=
  ∀ row ∈ seqRows, ∀ (w : SWord) (s : State) (c : SeqIssue) (f : SeqForm), s.seqReady? row.op w = some (c, f) →
    ∃ t, exec (row.instr w) s = .next t ∧ s.OnlySeq t c
      ∧ t.seqOf? c = some (c.after (fun x => { x.setG w.d.toNat (row.val c w) with pc := x.pc + 4 }))
      ∧ (c.ctx ≠ .trap → (t.job? c.r).map Job.rings = some (c.job.takeTokens c.ctx w .now).rings)

/-- BEQ, BNE, BLT, BGE, J, JAL and JR complete where their target lies in the instruction store: the pc moves to it, or
past a branch that is not taken; JAL and JR leave PC + 4 in gd. A target outside the store, and JR to one that is not
aligned, trap ILLEGAL_WORD (07 R230, R234). -/
def Obligations.SequencerControl : Prop :=
  ∀ row ∈ seqJumps, ∀ (w : SWord) (s : State) (c : SeqIssue) (f : SeqForm), s.seqReady? row.op w = some (c, f) →
    let target := row.target c w f
    (row.taken c w = true → 0 ≤ target → target < 0x10000 → (row.aligned = true → target % 4 = 0) →
      ∃ t, exec (row.instr w) s = .next t ∧ s.OnlySeq t c
        ∧ t.seqOf? c = some (c.after (fun x =>
            { (if row.links = true then x.setG w.d.toNat (BitVec.ofNat 64 (x.pc + 4)) else x) with pc := target.toNat })))
    ∧ (row.taken c w = true → target < 0 ∨ 0x10000 ≤ target ∨ row.aligned = true ∧ target % 4 ≠ 0 →
      exec (row.instr w) s = .next (s.seqTrap c .illegalWord 0 0 0 []))
    ∧ (row.taken c w = false → ∃ t, exec (row.instr w) s = .next t ∧ s.OnlySeq t c
        ∧ t.seqOf? c = some (c.after (fun x => { x with pc := x.pc + 4 })))

/-- LDG and STG complete where their address is 8-byte aligned and translates: LDG reads the 8 bytes when it issues
and its access joins those to return, STG writes gd; LDG_ACCESS_RETURN writes the oldest access's register. A
misaligned address traps PROTECTION (07 R225, R231, R235). The wait of later writers of gd is the model's reading
(assumption log, entry 30). -/
def Obligations.SequencerLoadsAndStores : Prop :=
  ∀ (w : SWord) (s : State) (c : SeqIssue) (f : SeqForm),
    let va := (c.g w.a + BitVec.ofInt 64 (signed 12 w.imm.toNat)).toNat
    let wait (reg : Nat) (v : W64) (x : SeqState) : SeqState :=
      { x with pc := x.pc + 4, nextId := x.nextId + 1, ldgs := x.ldgs ++ [⟨c.st.nextId, reg, v⟩] }
    (∀ d, s.seqReady? 0x18 w = some (c, f) → va % 8 = 0 →
        let m := s.mapAccess c.r.core c.wg.ctx va 8 .read
        m.1.1 = .ok d → s.awaitsMember c.wg d = false → (∀ i, i < 8 → m.2.poisonedByte (d + i) = false) →
        let v := m.2.readDv c.r.core c.wg.ctx d
        exec (.seqLdg w) s = .next ((v.2.updSeq c (wait w.d.toNat (BitVec.ofNat 64 v.1))).seqDone c w
          (.ldg c.ctx c.st.nextId)))
    ∧ (∀ d, s.seqReady? 0x19 w = some (c, f) → va % 8 = 0 →
        let m := s.mapAccess c.r.core c.wg.ctx va 8 .write
        m.1.1 = .ok d → s.awaitsMember c.wg d = false →
        exec (.seqStg w) s = .next (((m.2.writeDv c.r.core c.wg.ctx d (c.g w.d).toNat).updSeq c (wait 0 0)).seqDone c w
          (.ldg c.ctx c.st.nextId)))
    ∧ (∀ op i acc, (op, i, acc) ∈ [((0x18 : Nat), Instr.seqLdg, AccKind.read), (0x19, .seqStg, .write)] →
        s.seqReady? op w = some (c, f) → va % 8 ≠ 0 →
        exec (i w) s = .next (s.seqTrap c .protection (accBits acc) 0 (BitVec.ofNat 64 va) []))
    ∧ (∀ l rest, s.seqIssue? c.r.core c.ctx 0 = some c → c.st.ldgs = l :: rest →
        ∃ t, exec (.evLdgAccessReturn c.r.core c.ctx) s = .next t ∧ s.OnlySeq t c
          ∧ t.seqOf? c = some { c.st.setG l.reg l.value with ldgs := rest })

/-- CPY hands a well-formed command to the copy-engine slot that is its in the order of arrival and numbers it in gd; without
one it waits, its arrival noted. CPYW goes on once the copies it names have completed, and otherwise waits (07 R236, R237; 18
R435). A malformed command traps ILLEGAL_WORD. Which free slot a copy takes is the model's choice (assumption log, entry 63). -/
def Obligations.SequencerCopies : Prop :=
  ∀ (w : SWord) (s : State) (c : SeqIssue) (f : SeqForm),
    let cmd := (List.range 4).map (fun i => c.g (BitVec.ofNat 5 (w.a.toNat + i)))
    let n := c.st.copies + 1
    let since := c.st.copySince.getD (s.tckOf c.r.core)
    (∀ slot, s.seqReady? 0x20 w = some (c, f) → s.copySlotFor c.r.core (arrivalKey since none) = some slot →
      ((copyCmd cmd).isSome = true →
        ∃ t g, exec (.seqCpy w) s = .next t ∧ t.wg? c.r = some g
          ∧ g.copies = c.wg.copies ++ [newCopy cmd (.seq c.ctx n) (if w.b = 0 then 0 else c.g w.b) c.r.core slot]
          ∧ t.seqOf? c = some (c.after (fun x =>
              { x.setG w.d.toNat (BitVec.ofNat 64 n) with pc := x.pc + 4, copies := n, copySince := none })))
      ∧ ((copyCmd cmd).isSome = false → exec (.seqCpy w) s = .next (s.seqTrap c .illegalWord 0 0 0 [])))
    ∧ (s.seqReady? 0x20 w = some (c, f) → s.copySlotFor c.r.core (arrivalKey since none) = none →
        exec (.seqCpy w) s = .next (s.updSeq c (fun x => { x with copySince := some since })))
    ∧ (s.seqReady? 0x21 w = some (c, f) →
        (c.wg.copies.any (copyUpTo c.ctx (c.g w.a).toNat) = true → exec (.seqCpyw w) s = .next s)
        ∧ (c.wg.copies.any (copyUpTo c.ctx (c.g w.a).toNat) = false →
          ∃ t, exec (.seqCpyw w) s = .next t ∧ s.OnlySeq t c
            ∧ t.seqOf? c = some (c.after (fun x => { x with pc := x.pc + 4 }))))

/-- MW hands a well-formed matrix word from the store to its queue under the next ticket; NEST copies a valid table
into the shadow registers; GO starts the nest they hold under the next ticket, which completes at once where the
workgroup's share is empty; NWAIT goes on once the tickets it names have completed. A word or table that is malformed,
misaligned or beyond the job's part of the store traps ILLEGAL_WORD (07 R238-R240; 08 R282, R283). -/
def Obligations.SequencerMatrixHandover : Prop :=
  ∀ (w : SWord) (s : State) (c : SeqIssue) (f : SeqForm),
    let off := (c.g w.a + BitVec.ofInt 64 (signed 12 w.imm.toNat)).toNat
    let scratch := (s.lpbOf c.wg).scratch
    let x := ofBytes (s.storeBytes c.r.core off 24)
    let m := decodeMatrixFields x
    let opx := bits x 188 4
    let table := s.storeBytes c.r.core off 200
    let good := !matrixReserved x && matrixOk opx m && !offsetBeyond scratch opx m
    let t1 := c.job.ticket + 1
    let share := nestStart (s.lpbOf c.wg) c.wg.wgl (nestLevelsOf c.job.shadow)
    let put (v : Nat) (y : SeqState) : SeqState := { y.setG w.d.toNat (BitVec.ofNat 64 v) with pc := y.pc + 4 }
    (s.seqReady? 0x22 w = some (c, f) → off % 8 = 0 → off + 24 ≤ 0xE000 → good = true →
        (c.job.queue (queueOf opx)).held < 32 →
        exec (.seqMw w) s = .next (((s.updJob c.r (fun j =>
            ({ j with ticket := t1, open_ := j.open_ ++ [(t1, 0)] }.handOver opx m t1 false false).noteDrain opx
              t1)).updSeq c (put t1)).seqDone c w (.ticket t1)))
    ∧ (s.seqReady? 0x22 w = some (c, f) → off % 8 ≠ 0 ∨ 0xE000 < off + 24 ∨ good = false →
        exec (.seqMw w) s = .next (s.seqTrap c .illegalWord 0 0 0 []))
    ∧ (s.seqReady? 0x23 w = some (c, f) →
        (off % 8 = 0 → off + 200 ≤ 0xE000 → nestOk scratch table = true →
          ∃ t, exec (.seqNest w) s = .next t ∧ (t.job? c.r).map (·.shadow) = some table
            ∧ t.seqOf? c = some (c.after (fun y => { y with pc := y.pc + 4 })))
        ∧ (off % 8 ≠ 0 ∨ 0xE000 < off + 200 ∨ nestOk scratch table = false →
          exec (.seqNest w) s = .next (s.seqTrap c .illegalWord 0 0 0 [])))
    ∧ (s.seqReady? 0x24 w = some (c, f) →
        (c.job.nest.isSome = true → exec (.seqGo w) s = .next s)
        ∧ (c.job.nest = none → nestOk scratch c.job.shadow = true →
          ∃ t j, exec (.seqGo w) s = .next t ∧ t.job? c.r = some j ∧ j.ticket = t1
            ∧ j.nest = share.map (nestRunAt c.job.shadow t1)
            ∧ j.open_ = c.job.open_ ++ (if share.isSome then [(t1, 0)] else [])
            ∧ t.seqOf? c = some (c.after (put t1)))
        ∧ (c.job.nest = none → nestOk scratch c.job.shadow = false →
          exec (.seqGo w) s = .next (s.seqTrap c .illegalWord 0 0 0 [])))
    ∧ (s.seqReady? 0x25 w = some (c, f) →
        (c.job.open_.any (fun p => decide (p.1 ≤ (c.g w.a).toNat)) = true → exec (.seqNwait w) s = .next s)
        ∧ (c.job.open_.any (fun p => decide (p.1 ≤ (c.g w.a).toNat)) = false →
          ∃ t, exec (.seqNwait w) s = .next t ∧ s.OnlySeq t c
            ∧ t.seqOf? c = some (c.after (fun y => { y with pc := y.pc + 4 }))))

/-- SPW and TOK write the state of the spillway and of the context's rings; PACE sets a pacing request; RDV waits at the
rendezvous; HALT stops its context and may end the job; OVL begins the load of a well-formed overlay that stays in the
job's part of the store, and in the trap context makes it (07 R242-R247). That the trap context's load is made at once, with the
end of the store as its limit (assumption log, entry 9), that OVL's pushes take effect when it issues (entry 27), and that HALT
tries the completion of its job and workgroup at once (entry 61) are the model's choices. -/
def Obligations.SequencerStatusWords : Prop :=
  ∀ (w : SWord) (s : State) (c : SeqIssue) (f : SeqForm),
    let own := ((s.core c.r.core).spw.filter (fun e => e.owner == ⟨c.wg.ctx, c.r.slot⟩)).length
    let put (v : Nat) (y : SeqState) : SeqState := { y.setG w.d.toNat (BitVec.ofNat 64 v) with pc := y.pc + 4 }
    (s.seqReady? 0x26 w = some (c, f) → ∃ t, exec (.seqSpw w) s = .next t ∧ s.OnlySeq t c
        ∧ t.seqOf? c = some (c.after (put (own * 2 ^ 16 + s.spwFree c.r.core))))
    ∧ (s.seqReady? 0x27 w = some (c, f) → ∃ t, exec (.seqTok w) s = .next t ∧ s.OnlySeq t c
        ∧ t.seqOf? c = some (c.after (put (tokValue c.job c.ctx)))
        ∧ (t.job? c.r).map Job.rings = some (c.job.takeTokens c.ctx w .now).rings)
    ∧ (s.seqReady? 0x28 w = some (c, f) → w.imm.toNat < 3 →
        ∃ t, exec (.seqPace w) s = .next t
          ∧ (t.job? c.r).map (·.pace) = some (setAt c.job.pace w.imm.toNat (min 65535 (c.g w.a).toNat))
          ∧ t.seqOf? c = some (c.after (fun y => { y with pc := y.pc + 4 })))
    ∧ (s.seqReady? 0x30 w = some (c, f) → ∃ t, exec (.seqRdv w) s = .next t ∧ s.OnlySeq t c
        ∧ t.seqOf? c = some (c.after (fun y => { y with pc := y.pc + 4, rdv := some w }))
        ∧ (t.job? c.r).map Job.rings = some (c.job.takeTokens c.ctx w (.rdv c.ctx c.st.rdvs)).rings)
    ∧ (s.seqReady? 0x36 w = some (c, f) → exec (.seqHalt w) s =
        .next ((((s.updSeq c (fun y => { y with halted := true })).seqNext c).seqDone c w .now).tryComplete c.r))
    ∧ (∀ limit, s.seqReady? 0x31 w = some (c, f) → c.job.ovl = none →
        limit = (if c.ctx = .trap then 0x10000 else 0xE000) → c.ctx = .trap ∨ w.imm.toNat ≤ 223 →
        let o := s.readOverlay c.r.core c.wg (c.g w.a).toNat
        o.1.1 = .ok 0 → 256 * w.imm.toNat + o.1.2.2.length ≤ limit →
        exec (.seqOvl w) s = .next (((if c.ctx = .trap
            then o.2.updCore c.r.core (fun k => { k with store := cellsPut k.store (256 * w.imm.toNat) o.1.2.2 })
            else o.2.updJob c.r (fun j => { j with ovl := some ⟨c.ctx, 256 * w.imm.toNat, o.1.2.2⟩ })).seqNext
          c).seqDone c w .now))

/-- In the trap context MFC reads and MTC writes the trap control registers, a number not in their table trapping
ILLEGAL_WORD, and the job of the trap's workgroup, resident or saved, keeps TSCR0 and TSCR1; ERET lets the trapped context go on
at TEPC and the next trap enter. TRAP in a user context enters an idle trap context at 0xE000 with the code of its immediate and
its own offset in TEPC, the context standing at it unissued and the record naming the word after it; in the trap context it
escalates the trap being serviced (07 R248-R250; 16 R396, R405, R406). What a trap in the trap context does, TTAG, and TSCR
without a job are the model's choices (assumption log, entries 9, 13, 16 and 51). -/
def Obligations.TrapContextWords : Prop :=
  ∀ (w : SWord) (s : State) (c : SeqIssue) (f : SeqForm),
    let kept (x : State) : Option (W64 × W64) := ((x.core c.r.core).trap.item.bind (x.trapOwner c.r.core)).bind
      (fun p => p.2.job.map (fun j => (j.tscr0, j.tscr1)))
    (∀ item, (s.core c.r.core).trap.item = some item →
      (s.seqReady? 0x32 w = some (c, f) →
        (∀ v, s.readCr c item w.imm.toNat = some v → ∃ t, exec (.seqMfc w) s = .next t
          ∧ t.seqOf? c = some (c.after (fun y => { y.setG w.d.toNat v.1 with pc := y.pc + 4 })))
        ∧ (24 ≤ w.imm.toNat → exec (.seqMfc w) s = .next (s.seqTrap c .illegalWord 0 0 0 [])))
      ∧ (s.seqReady? 0x35 w = some (c, f) →
          let tepc := (s.core c.r.core).trap.tepc.toNat
          exec (.seqEret w) s = .next ((match item.who with
            | .seq slot k => s.updJob ⟨c.r.core, slot⟩ (fun j => j.updCtx k (fun x => { x with pc := tepc }))
            | _ => s).leaveTrap c.r.core))
      ∧ (s.seqReady? 0x34 w = some (c, f) → c.ctx = .trap →
          exec (.seqTrap w) s = .next (s.escalate c.r.core item)))
    ∧ (s.seqReady? 0x33 w = some (c, f) →
        (w.imm.toNat = 2 → ∃ t, exec (.seqMtc w) s = .next t ∧ (t.core c.r.core).trap.tepc = c.g w.a
          ∧ t.seqOf? c = some (c.after (fun y => { y with pc := y.pc + 4 })))
        ∧ (w.imm.toNat = 6 → ∃ t, exec (.seqMtc w) s = .next t ∧ (t.core c.r.core).trap.tscr0 = c.g w.a
          ∧ (t.core c.r.core).trap.tscr1 = (s.core c.r.core).trap.tscr1
          ∧ ((s.frames.map (·.1)).Nodup → kept t = (kept s).map (fun p => (c.g w.a, p.2))))
        ∧ (w.imm.toNat = 7 → ∃ t, exec (.seqMtc w) s = .next t ∧ (t.core c.r.core).trap.tscr1 = c.g w.a
          ∧ (t.core c.r.core).trap.tscr0 = (s.core c.r.core).trap.tscr0
          ∧ ((s.frames.map (·.1)).Nodup → kept t = (kept s).map (fun p => (p.1, c.g w.a))))
        ∧ (w.imm.toNat ≠ 2 → w.imm.toNat ≠ 6 → w.imm.toNat ≠ 7 →
          exec (.seqMtc w) s = .next (s.seqTrap c .illegalWord 0 0 0 [])))
    ∧ (s.seqReady? 0x34 w = some (c, f) → c.ctx ≠ .trap → (s.core c.r.core).trap.item = none →
        (s.core c.r.core).trapQ = [] →
        ∃ t item, exec (.seqTrap w) s = .next t ∧ (t.core c.r.core).trap.item = some item ∧ (t.core c.r.core).trapQ = []
          ∧ item.who = .seq c.r.slot c.ctx ∧ item.record.kind = some .trap
          ∧ item.record.code = BitVec.ofNat 32 w.imm.toNat ∧ item.tval = BitVec.ofNat 64 w.imm.toNat
          ∧ item.record.src = seqSrc c.ctx ∧ item.record.pc = BitVec.ofNat 64 (c.st.pc + 4)
          ∧ (t.core c.r.core).trap.pc = 0xE000 ∧ (t.core c.r.core).trap.tepc = BitVec.ofNat 64 c.st.pc
          ∧ t.seqOf? c = some { c.st with trapped := true })

/-- A word in a context that may not execute it traps before anything it waits for, ILLEGAL_WORD for the words of user
contexts and PRIV for the privileged ones; so do token bits that name a ring the context does not have, ILLEGAL_WORD. Then a
word waits for the registers that an LDG owes it, and for its pops and the room of its pushes; then one that reads a poisoned
register traps POISON (03 R104, R106; 07 R223, R224, R231, R232; 16 R418). That POISON comes last (assumption log, entry 63), and
that a word waits also for a register it only writes (entry 30), are the model's readings. -/
def Obligations.SequencerWordsTurnedAway : Prop :=
  ∀ op i who, (op, i, who) ∈ seqWho → ∀ (w : SWord) (s : State) (core : Nat) (ctx : SeqCtx) (c : SeqIssue) (f : SeqForm),
    s.cur = .seq core ctx → seqForm op = some f → s.seqIssue? core ctx (encodeSeqWord op f.fmt w) = some c →
    let owed := (seqRegs f op w).any (fun n => n != 0 && c.st.ldgs.any (fun l => l.reg == n))
    (∀ k, whoTrap who ctx = some k → exec (i w) s = .next (s.seqTrap c k 0 0 0 []))
    ∧ (whoTrap who ctx = none → tokenBitsOk ctx w = false → exec (i w) s = .next (s.seqTrap c .illegalWord 0 0 0 []))
    ∧ (whoTrap who ctx = none → tokenBitsOk ctx w = true →
        (owed = true → exec (i w) s = .next s)
        ∧ (ctx ≠ .trap → tokensReady c.job ctx w = false → exec (i w) s = .next s)
        ∧ (owed = false → ctx = .trap ∨ tokensReady c.job ctx w = true → c.readsPoison op w = true →
          exec (i w) s = .next (s.seqTrap c .poison 0 0 0 [])))

/-! ## Matrix words -/

/-- WLOAD, MCLR, MFILL and MNOP run to their end when they start: WLOAD, in the weight loader, loads the rows at its offset,
having begun and waiting while their lines are not full, and the latch it loads replaces its slot's once the loader completes it;
MCLR makes the tile EMPTY, unbound and zero and frees its entries; MFILL and MNOP change no tile. A tile that a word names becomes
its job's (07 R241; 08 R261, R263, R265, R274, R275). That a word has its effects when it starts, and that a WLOAD reads its rows
then, are the model's choices (assumption log, entry 24). -/
def Obligations.MatrixWordsRun : Prop :=
  ∀ (w : MWord) (s : State) (c : HeadCtx),
    let d := w.d.toNat
    let ended (t : State) : Prop :=
      (t.job? c.r).map (fun j => if c.loader then j.matrixQ.loader.map (·.phase) else some (j.queue c.eq).phase)
        = some (some .finished)
      ∧ t.mem = s.mem ∧ (t.wg? c.r).map (·.scratch) = some c.wg.scratch
    (s.matrixReady? 1 w = some c → c.loader = true
      ∧ (c.wg.emptyIn (wordReads 1 w none) = true → exec (.mWload w) s = .next (s.beginWord c))
      ∧ (c.wg.emptyIn (wordReads 1 w none) = false → ∃ t, exec (.mWload w) s = .next t ∧ ended t
          ∧ (t.job? c.r).map (fun j => (j.slots, j.matrixQ.loader.bind (·.latch))) = some (c.job.slots, some (loadLatch c.wg w))
          ∧ ∀ e, t.accTile c.r.core e = s.accTile c.r.core e))
    ∧ (s.matrixReady? 5 w = some c → ∃ t, exec (.mClr w) s = .next t ∧ ended t
        ∧ t.accTile c.r.core d = { owner := some c.tag, kind := .empty, elems := [], fold := none }
        ∧ (t.core c.r.core).spw = (s.core c.r.core).spw.filter (fun e => !(e.owner == c.tag && e.tile == d))
        ∧ ∀ e, e ≠ d → t.accTile c.r.core e = s.accTile c.r.core e)
    ∧ (∀ opx i, (opx, i) ∈ [((6 : Nat), Instr.mFill), (0, .mNop)] → s.matrixReady? opx w = some c →
        ∃ t, exec (i w) s = .next t ∧ ended t ∧ (t.core c.r.core).spw = (s.core c.r.core).spw
          ∧ ∀ e, t.accTile c.r.core e = s.accTile c.r.core e)

/-- MSTEP with every operand in reach. A float MSTEP performs its passes in row order, each column's chains rounded as
02 R75-R77 say, into its tile, whose kind an EMPTY tile takes from the operands. An integer MSTEP commits a pass where
the spillway has room for the entries that find none of the opposite sign, the pass updating the narrow accumulators and emitting
the carries of 02 R80 and R81. With room at each pass it runs to its end. At the first pass r without room it has committed passes
0 to r - 1 and no more: entries of other tags make it trap ACC_OWNER for the lowest tile they name; without them it waits in STALL
mode, and in TRAP mode it stops at once for SPILLWAY_FULL, every earlier word of the queue complete and no later one started,
with the TVAL of its tile, its pass and its ticket (02 R71, R79; 08 R267-R271). That a word has its effects when it starts, and
that a WLOAD that has had none is put back at the stop, are the model's choices (assumption log, entry 24). -/
def Obligations.MatrixStepsRun : Prop :=
  (∀ (w : MWord) (s : State) (c : HeadCtx) (l : Latch) (k : TileKind), s.matrixReady? 2 w = some c → c.eq = .matrix →
       c.job.matrixQ.pass = 0 → (c.job.slots[w.c.toNat]?).join = some l → chainOf l.fmt w.fmt.toNat = some k →
       intActivation w.fmt.toNat = false →
       (∀ r, r < extP w → let p := vectorParts w (w.a.toNat + r * w.astr.toNat)
         inScratch (s.lpbOf c.wg).scratch p = true ∧ c.wg.poisonedIn p = false ∧ c.wg.emptyIn p = false) →
       let t0 : Tile := { s.accTile c.r.core w.d.toNat with owner := some c.tag }
       let t1 : Tile := if t0.kind = .empty then { t0 with kind := k, elems := [] } else t0
       let run := (List.range (extP w)).foldl (fun (a : Tile × BitVec 6) r =>
         let o := floatPass l w a.1 r (readVector c.wg w (w.a.toNat + r * w.astr.toNat))
         (o.1, a.2 ||| o.2)) (t1, c.job.matrixQ.sticky)
       ∃ t q, exec (.mStep w) s = .next t ∧ (t.job? c.r).map (·.matrixQ) = some q ∧ q.phase = .finished ∧ q.pass = extP w
         ∧ q.sticky = run.2 ∧ t.accTile c.r.core w.d.toNat = run.1 ∧ (t.core c.r.core).spw = (s.core c.r.core).spw)
  ∧ (∀ (w : MWord) (s : State) (c : HeadCtx) (l : Latch) (k : TileKind), s.matrixReady? 2 w = some c → c.eq = .matrix →
       c.job.matrixQ.pass = 0 → (c.job.slots[w.c.toNat]?).join = some l → chainOf l.fmt w.fmt.toNat = some k →
       intActivation w.fmt.toNat = true →
       (∀ r, r < extP w → let p := vectorParts w (w.a.toNat + r * w.astr.toNat)
         inScratch (s.lpbOf c.wg).scratch p = true ∧ c.wg.poisonedIn p = false ∧ c.wg.emptyIn p = false) →
       let d := w.d.toNat
       let n := c.r.core
       let t0 : Tile := { s.accTile n d with owner := some c.tag }
       let t1 : Tile := if t0.kind = .empty then { t0 with kind := k, elems := [] } else t0
       let pass (x : State) (r : Nat) : List (Nat × Int × Option Bool) := passUpdates (x.accTile n d) r
         (passSums l w (readVector c.wg w (w.a.toNat + r * w.astr.toNat)))
       let run (m : Nat) : State := (List.range m).foldl (fun x r => x.commitInt c (pass x r)) (s.updAccTile n d (fun _ => t1))
       let fits (r : Nat) : Prop := roomNeeded ((run r).core n).spw c.tag d (pass (run r) r) ≤ (run r).spwFree n
       let at_ (t : State) (q : EngineQ) (p : HeadPhase) (m : Nat) : Prop := (t.job? c.r).map (·.matrixQ) = some q ∧ q.phase = p
         ∧ q.pass = m ∧ t.accTile n d = (run m).accTile n d ∧ (t.core n).spw = ((run m).core n).spw
       let foreign (r : Nat) : List SpwEntry := ((run r).core n).spw.filter (fun e => e.owner != c.tag)
       let traps : Prop := w.spm = 2 ∨ w.spm = 0 ∧ (s.lpbOf c.wg).spwTrap = true
       ((∀ r, r < extP w → fits r) → ∃ t q, exec (.mStep w) s = .next t ∧ at_ t q .finished (extP w))
       ∧ ∀ r, r < extP w → (∀ i, i < r → fits i) → ¬fits r →
         (s.earlierOpen c = true → foreign r ≠ [] ∨ traps → ∃ t q, exec (.mStep w) s = .next t ∧ at_ t q .running r)
         ∧ (∀ e, s.earlierOpen c = false → leastBy (·.tile) (foreign r) = some e → ∃ u q, at_ u q .running r
           ∧ exec (.mStep w) s = .next ((u.unloadLater c).trapHead c .accOwner [tagNeed e.owner]))
         ∧ (s.earlierOpen c = false → foreign r = [] → traps → ∃ t q, exec (.mStep w) s = .next t ∧ at_ t q .stopped r
           ∧ q.loader.all (fun x => !x.phase.started) = true
           ∧ (t.job? c.r).map (·.spwStop) = some (some { tval := engineTval d r c.q.ticket, delivered := false, drain := none })
           ∧ (t.tile (tileOf n)).gate.holding.any (fun x => x.core == n && x.q == .matrix) = false)
         ∧ (foreign r = [] → w.spm = 1 ∨ w.spm = 0 ∧ (s.lpbOf c.wg).spwTrap = false →
           ∃ t q, exec (.mStep w) s = .next t ∧ at_ t q (.stalled 0) r))

/-- MDRAIN converts, writes and clears its elements row by row; MFOLD adds the entry sums of its tile into the fold
words, frees the entries and binds the tile; both then end (02 R82, R83; 08 R272, R273). That they have their effects when they
start (assumption log, entry 24) and read fold words without waiting for a line that a copy leaves empty (entry 63) are the
model's choices. -/
def Obligations.DrainWordsRun : Prop :=
  ∀ (w : MWord) (s : State) (c : HeadCtx),
    let d := w.d.toNat
    let b := w.b.toNat
    (s.matrixReady? 3 w = some c →
      let cells := (List.range (extP w)).flatMap (fun r => (List.range (extN w)).map (fun j => (r, j)))
      let out := cells.foldl (fun (a : BitVec 6 × State) p =>
        let x := a.2.drainElem c w p.1 p.2
        (a.1 ||| x.1, x.2)) (0, s.beginWord c)
      exec (.mDrain w) s = .next (out.2.wordDone c out.1))
    ∧ (s.matrixReady? 4 w = some c →
      ∃ t g, exec (.mFold w) s = .next t ∧ t.wg? c.r = some g
        ∧ g.scratch = (((entryElems (s.core c.r.core).spw c.tag d).eraseDups.foldl (fun (a : State) i =>
            (a.foldElem c b d i).2) s).wg? c.r).elim [] (·.scratch)
        ∧ (t.core c.r.core).spw = (s.core c.r.core).spw.filter (fun e => !(e.owner == c.tag && e.tile == d))
        ∧ (t.accTile c.r.core d).fold = some b ∧ (t.accTile c.r.core d).elems = (s.accTile c.r.core d).elems
        ∧ (t.job? c.r).map (fun j => (j.queue c.eq).phase) = some .finished)

/-- The checks of a matrix word at its start, none of which changes an accumulator. A word that a nest made must pass first what MW
checks, and traps ILLEGAL_WORD where it does not; its offset a or b that leaves its field or lies at or beyond SCRATCH traps
PROTECTION, as for any word. A tile of another job traps ACC_OWNER, a nest's word only once the earlier words of its queue have
completed. Then a misaligned word, or an MSTEP whose slot holds nothing, traps ILLEGAL_WORD, and one that reads or writes beyond
SCRATCH traps PROTECTION (08 R262, R263, R265, R267, R272, R273, R285). What MW hands over has passed its checks at issue, so
PROTECTION for an offset comes to nests' words alone: neither MW nor the nest generator queues a word that breaks this. The order
of the checks is the model's choice (assumption log, entry 63). -/
def Obligations.MatrixWordsTrap : Prop :=
  (∀ (opx : Nat) (i : MWord → Instr), (opx, i) ∈ matrixInstrs → ∀ (w : MWord) (s : State) (core : Nat) (eq : EngineQueue)
    (c : HeadCtx), s.cur = .engine core eq → (if opx = 1 then s.loaderWord? core else s.headWord? core eq) = some c → c.q.opx = opx →
    c.q.w = w →
    let n := (s.lpbOf c.wg).scratch
    let t := s.accTile c.r.core w.d.toNat
    let traps (k : TrapKind) : Prop := exec (i w) s = .next (s.trapHead c k [])
    (c.q.nest = true → matrixOk opx w = false → traps .illegalWord)
    ∧ ((c.q.nest = true → matrixOk opx w = true) →
      (c.q.astray = true ∨ offsetBeyond n opx w = true → traps .protection)
      ∧ (c.q.astray = false → offsetBeyond n opx w = false →
        (∀ o, namesTile opx = true → t.owner = some o → o ≠ c.tag →
          (c.q.nest = false ∨ s.earlierOpen c = false → exec (i w) s = .next (s.trapHead c .accOwner [tagNeed o]))
          ∧ (c.q.nest = true → s.earlierOpen c = true → exec (i w) s = .next (s.giveUpGrants c.r)))
        ∧ (namesTile opx = false ∨ t.owner = none ∨ t.owner = some c.tag →
          (opx = 1 → let off := w.a.toNat % formatAlign w.fmt.toNat ≠ 0 ∨ w.astr.toNat % formatAlign w.fmt.toNat ≠ 0
              ∨ w.fmt = 0x13 ∧ w.b.toNat % 32 ≠ 0
            (off → traps .illegalWord) ∧ (¬off → inScratch n (wordReads 1 w none) = false → traps .protection))
          ∧ (opx = 2 → (c.job.slots[w.c.toNat]?).join = none → traps .illegalWord)
          ∧ (opx = 3 → let off := t.kind = .fp64 ∧ 15 < w.nx.toNat ∨ w.b.toNat % formatAlign w.dfmt.toNat ≠ 0
              ∨ w.astr.toNat % formatAlign w.dfmt.toNat ≠ 0
            (off → traps .illegalWord)
            ∧ (¬off → inScratch n (wordWrites 3 w t.drainFold ++ wordReads 3 w t.drainFold) = false → traps .protection))
          ∧ (opx = 4 → let off := w.b.toNat % 128 ≠ 0 ∨ t.kind = .fp32 ∨ t.kind = .fp64 ∨ ∃ b, t.fold = some b ∧ b ≠ w.b.toNat
            (off → traps .illegalWord) ∧ (¬off → n < w.b.toNat + 16384 → traps .protection))))))
  ∧ (∀ (w : SWord) (s : State) (c : SeqIssue) (f : SeqForm),
      let off := (c.g w.a + BitVec.ofInt 64 (signed 12 w.imm.toNat)).toNat
      let x := ofBytes (s.storeBytes c.r.core off 24)
      let m := decodeMatrixFields x
      let opx := bits x 188 4
      s.seqReady? 0x22 w = some (c, f) → off % 8 = 0 → off + 24 ≤ 0xE000 → matrixReserved x = false → matrixOk opx m = true →
      offsetBeyond (s.lpbOf c.wg).scratch opx m = false → (c.job.queue (queueOf opx)).held < 32 →
      s.QueuesOk → ∃ t, exec (.seqMw w) s = .next t ∧ t.QueuesOk)
  ∧ (∀ (s : State) (core : Nat), s.QueuesOk → ∃ t, exec (.evNestWordGeneration core) s = .next t ∧ t.QueuesOk)

/-! ## The line cores -/

/-- The scalar operations of slot 0 write their k register; those of slots 1 and 2 the active lanes of their h register;
HCMP writes the active lanes' bits of its predicate, a write to y0 being ignored. Nothing else changes (01 R43; 09 R289,
R292, R297, R301-R306). -/
def Obligations.LineRegisterOperations : Prop :=
  (∀ row ∈ lineScalarRows, ∀ (w : LSlot) (s : State) (n : Nat), s.cur = .line n →
       let c := s.lineCore n
       ∃ t, exec (row.instr w) s = .next t ∧ s.OnlyLine t n
         ∧ t.lineCore n = { c with k := setAt c.k w.d.toNat (row.val c.snap w) })
  ∧ (∀ (w : LSlot) (s : State) (n : Nat), s.cur = .line n →
       let c := s.lineCore n
       (∀ row ∈ lineVectorRows, ∃ t, exec (row.instr w) s = .next t ∧ s.OnlyLine t n ∧ (t.lineCore n).noH = c.noH
         ∧ (∀ m, m ≠ w.d.toNat → (t.lineCore n).h[m]? = c.h[m]?)
         ∧ (c.hWf → ∀ l, l < 16 → (t.lineCore n).hl w.d.toNat l =
             if (c.snap.act w).getLsbD l then row.val c.snap w l else c.hl w.d.toNat l))
       ∧ ∃ t, exec (.lHcmp w) s = .next t ∧ s.OnlyLine t n
         ∧ { t.lineCore n with y := [] } = { c with y := [] }
         ∧ ∀ m, ((t.lineCore n).y)[m]? = (c.y[m]?).map (fun old => if m = w.d.toNat ∧ m ≠ 0 then
             BitVec.ofNat 16 ((List.range 16).foldl (fun a l => a + if (if (c.snap.act w).getLsbD l then
               (if lineType w = 0 then (f32.compare w.c.toNat (c.snap.hl w.a.toNat l).toNat (c.snap.opB w l).toNat).1
                 else lineCmp (lineType w == 2) w.c.toNat (c.snap.hl w.a.toNat l) (c.snap.opB w l))
               else old.getLsbD l) then 2 ^ l else 0) 0) else old))

/-- BR, LOOP and BRC go to their target where it lies in the program and stop it with PC_RANGE where it does not; HALT
ends the band; BEAM and POSE write their k register once the beam or the latch has reached their line, and are ignored
until then (09 R290, R296, R298-R300, R314). -/
def Obligations.LineControl : Prop :=
  ∀ (w : LSlot) (s : State) (n : Nat), s.cur = .line n →
    let c := s.lineCore n
    let target : Int := c.snap.pc + lineSImm w
    let v := c.snap.kr w.a.toNat - 1
    let go (c : LineCore) : LineCore :=
      if 0 ≤ target ∧ target < c.store.length then { c with pc := target.toNat } else c.fault 3 1
    let put (x : W32) : LineCore := { c with k := setAt c.k w.d.toNat x }
    let due := signed 32 (c.snap.kr w.a.toNat + BitVec.ofInt 32 (lineSImm w) - BitVec.ofNat 32 (s.headOf c).line).toNat
    let then_ (i : LSlot → Instr) (x : LineCore) : Prop :=
      ∃ t, exec (i w) s = .next t ∧ s.OnlyLine t n ∧ t.lineCore n = x
    then_ .lBr (go c)
    ∧ then_ .lLoop (if v = 0 then { c with k := setAt c.k w.a.toNat v } else go { c with k := setAt c.k w.a.toNat v })
    ∧ then_ .lBrc (if c.snap.cond w then go c else c)
    ∧ then_ .lHalt { c with band := none }
    ∧ (due ≤ 0 → then_ .lBeam (put (BitVec.ofNat 32 (s.headOf c).line)))
    ∧ (0 < due → exec (.lBeam w) s = .next s)
    ∧ (s.poseDue c w = true → then_ .lPose (put ((((s.headOf c).recordOf ((s.headOf c).unwrap
        (c.snap.kr w.a.toNat)))[(lineImm w).toNat % 16]?).getD 0)))
    ∧ (s.poseDue c w = false → exec (.lPose w) s = .next s)
    ∧ exec (.lNop w) s = .next s

/-- LBLD, LBST, GATH and PMW within the line buffer load, store and replace weights, and stop the program with an LB_RANGE
fault beyond it; PMM, whose core the matrix engine served last, and SAMP put a result in flight, and
LINE_RESULT_ARRIVAL writes it; EMIT puts its pixels in flight, and they reach the head's scan FIFO in the order of their EMITs,
or count as late from the guard point's fck on (09 R293, R307-R314; 24 R488, R491). That EMIT's line is read by signed difference,
and that one before line 0 is ignored, are the model's choices (assumption log, entry 69). -/
def Obligations.LineMemoryOperations : Prop :=
  ∀ (w : LSlot) (s : State) (n : Nat), s.cur = .line n →
    let c := s.lineCore n
    let a := c.snap.lbAddr w
    let act := c.snap.act w
    let then_ (i : Instr) (x : LineCore) : Prop := ∃ t, exec i s = .next t ∧ s.OnlyLine t n ∧ t.lineCore n = x
    let flies (x : LineResult) : LineCore := { c with results := c.results ++ [x] }
    let stores (x : List Host.Cell) : LineCore := { c with buffer := x }
    let weights (x : List (List (BitVec 16))) : LineCore := { c with sets := assocSet c.sets (w.m.toNat % 4) x }
    (a + 64 ≤ lineBytes → then_ (.lLbld w) (c.writeH w.d.toNat act ((List.range 16).map (fun l => c.lbWord (a + 4 * l)))))
    ∧ (a + 64 ≤ lineBytes → then_ (.lLbst w) (stores ((List.range 16).foldl (fun b l =>
        if act.getLsbD l then cellsPut b (a + 4 * l) (toBytes 4 (c.snap.hl w.d.toNat l).toNat) else b) c.buffer)))
    ∧ (c.snap.gathBad w = false → then_ (.lGath w)
        (c.writeH w.d.toNat act ((List.range 16).map (fun l => c.lbWord (c.snap.gathAddr w l)))))
    ∧ (c.snap.pmwBase w + 2048 ≤ lineBytes → then_ (.lPmw w) (weights ((List.range 32).map (fun i =>
        (List.range 32).map (fun j => BitVec.ofNat 16 (ofBytes (cellsAt c.buffer (c.snap.pmwBase w + 64 * i + 2 * j) 2))))))
    ∧ (lineBytes < a + 64 → then_ (.lLbld w) (c.fault 2 (slotBit w)) ∧ then_ (.lLbst w) (c.fault 2 (slotBit w)))
    ∧ (c.snap.gathBad w = true → then_ (.lGath w) (c.fault 2 (slotBit w)))
    ∧ (lineBytes < c.snap.pmwBase w + 2048 → then_ (.lPmw w) (c.fault 2 (slotBit w)))
    ∧ (∃ t, exec (.lPmm w) s = .next t ∧ s.OnlyLine { t with lineLast := s.lineLast } n ∧ t.lineLast = n
        ∧ t.lineCore n = flies ⟨[(w.d.toNat, (List.range 16).map (fun l => c.pmmOut w l)),
            (w.d.toNat + 1, (List.range 16).map (fun l => c.pmmOut w (16 + l)))], 0xFFFF, none⟩)
    ∧ then_ (.lSamp w) (flies ⟨(List.range (sampRegs w)).map (fun k => (w.d.toNat + k, (List.range 16).map (fun l =>
        s.sample w ((s.viewFor c).slot w.c.toNat) (c.snap.hl w.a.toNat l) (c.snap.hl w.b.toNat l) k))), act, none⟩)
    ∧ then_ (.lEmit w) (flies ⟨[], 0, some ⟨(s.headOf c).unwrap (c.snap.kr w.b.toNat), c.snap.pixels (s.headOf c) w⟩⟩)
    ∧ (∀ k r, c.results[k]? = some r → r.emit = none → then_ (.evLineResultArrival n k)
        { r.regs.foldl (fun x p => x.writeH p.1 r.mask p.2) c with results := c.results.eraseIdx k })
    ∧ (∀ h k e, c.head = some h → c.results[k]? = some ⟨[], 0, some e⟩ →
        let hd := s.head h
        let l := e.line.toNat
        ((c.results.take k).any (fun x => x.emit.isSome) = true → exec (.evLineResultArrival n k) s = .next s)
        ∧ ((c.results.take k).any (fun x => x.emit.isSome) = false →
          ∃ t, exec (.evLineResultArrival n k) s = .next t ∧ t.lineCore n = { c with results := c.results.eraseIdx k }
            ∧ t.mem = s.mem ∧ { t.head h with fifo := [], late := 0 } = { hd with fifo := [], late := 0 }
            ∧ (hd.running = false ∨ e.line < 0 ∨ hd.vact < l % hd.total → t.head h = hd)
            ∧ (hd.running = true → 0 ≤ e.line → l % hd.total ≤ hd.vact →
              (l < hd.closedTo ∨ l < hd.closeEnd → (t.head h).late = hd.late + 1 ∧ (t.head h).fifo = hd.fifo)
              ∧ (hd.closedTo ≤ l → hd.closeEnd ≤ l → (t.head h).late = hd.late ∧ (t.head h).fifo =
                  hd.fifo.filter (fun p => !(p.1 == l && e.pixels.any (fun q => q.1 == p.2.1)))
                    ++ e.pixels.map (fun q => (l, q)))))))

/-! ## Packets -/

/-- A packet that breaks its table halts its queue with PKT_ERR, its position recorded, and changes nothing else. The
well-formed packets: NOP goes past; INDIRECT parses its buffer next; BARRIER, PRESENT and a timeline write with DRAIN
wait for the queue's grids; TL_WAIT goes past a timeline that has reached its threshold and waits for one that has not;
TL_ADD and TL_SET write their timeline; LAUNCH_GRID hands its launch to the scheduler; PRESENT makes its descriptor
pending at each head it names (11 R324, R326, R329, R332; 24 R489). That a packet of length 0 and an INDIRECT of length 0 halt the
queue so is the model's reading (assumption log, entry 36). -/
def Obligations.PacketsRun : Prop :=
  (∀ (w : PacketWord) (s : State) (q : Nat), s.cur = .packet q →
       let halted (i : PacketWord → Instr) : Prop := ∃ t, exec (i w) s = .next t
         ∧ { t with queues := [] } = { s with queues := [] } ∧ (∀ p, p ≠ q → t.queue p = s.queue p)
         ∧ t.queue q = { s.queue q with halted := true, pktErr := true, errPos := (s.queue q).head, bufs := [], wait := .none }
       (w.len = 0 → halted .pkNop)
       ∧ (w.len ≠ 1 ∨ w.tspec ≠ 0 → halted .pkBarrier)
       ∧ (w.len ≠ 3 ∨ w.tspec ≠ 0 ∨ badAddress (bodyWord w 0) 8 = true ∨ bodyWord w 1 = 0 ∨ 2 ^ 20 < bodyWord w 1
           ∨ 3 ≤ (s.queue q).bufs.length → halted .pkIndirect)
       ∧ (w.len ≠ 3 ∨ packetScope w.tspec.toNat = none ∨ badAddress (bodyWord w 0) 8 = true → halted .pkTlWait)
       ∧ (w.len ≠ 3 ∨ packetScope (w.tspec.toNat % 8) = none ∨ 16 ≤ w.tspec.toNat ∨ badAddress (bodyWord w 0) 8 = true →
           halted .pkTlAdd ∧ halted .pkTlSet)
       ∧ (w.len ≠ 3 ∨ w.tspec ≠ 0 ∨ bit (bodyWord w 0) 3 = true ∨ bits (bodyWord w 0) 8 56 ≠ 0 ∨ badAddress (bodyWord w 1) 64 = true →
           halted .pkPresent)
       ∧ (bufferEntries w ((w.len - 2) / 2) = none ∨ w.len < 2 ∨ w.len % 2 ≠ 0 ∨ 64 < (w.len - 2) / 2 ∨ 2 ≤ w.tspec.toNat
           ∨ badAddress (bodyWord w 0) 64 = true → halted .pkLaunchGrid))
  ∧ (∀ (w : PacketWord) (s : State) (q : Nat), s.cur = .packet q →
       let x := s.queue q
       let only (t : State) : Prop := { t with queues := [] } = { s with queues := [] } ∧ ∀ p, p ≠ q → t.queue p = s.queue p
       let waits (i : PacketWord → Instr) : Prop := ∃ t, exec (i w) s = .next t ∧ only t ∧ t.queue q = { x with wait := .grids x.grids }
       (w.len ≠ 0 → ∃ t, exec (.pkNop w) s = .next t ∧ only t ∧ t.queue q = x.advance w.len)
       ∧ (w.len = 3 → w.tspec = 0 → badAddress (bodyWord w 0) 8 = false → 0 < bodyWord w 1 → bodyWord w 1 ≤ 2 ^ 20 →
           x.bufs.length < 3 → ∃ t, exec (.pkIndirect w) s = .next t ∧ only t
             ∧ t.queue q = { x with bufs := ⟨bodyWord w 0, bodyWord w 1, 0⟩ :: x.bufs.modifyHead (fun b => { b with next := b.next + 3 }) })
       ∧ (w.len = 1 → w.tspec = 0 → (x.grids ≠ [] → waits .pkBarrier)
           ∧ (x.grids = [] → ∃ t, exec (.pkBarrier w) s = .next t ∧ only t ∧ t.queue q = x.advance 1))
       ∧ (∀ sc d v, w.len = 3 → packetScope w.tspec.toNat = some sc → badAddress (bodyWord w 0) 8 = false →
           s.feTimelineValue x.ctx (bodyWord w 0) = (.ok d, v) →
           let u := s.feTimelineRead x.ctx (bodyWord w 0)
           exec (.pkTlWait w) s = .next (if bodyWord w 1 ≤ v then u.nextPacket q 3 else u.updQueue q (fun y => { y with
             wait := .timeline (BitVec.ofNat 64 (bodyWord w 0)) (BitVec.ofNat 64 (bodyWord w 1)) sc false })))
       ∧ (∀ i add sc, (i, add) ∈ [(Instr.pkTlAdd, true), (.pkTlSet, false)] → w.len = 3 →
           packetScope (w.tspec.toNat % 8) = some sc → w.tspec.toNat < 16 → badAddress (bodyWord w 0) 8 = false →
           (8 ≤ w.tspec.toNat → x.grids ≠ [] → waits i)
           ∧ (w.tspec.toNat < 8 ∨ x.grids = [] → ∀ d, s.translateFe x.ctx (bodyWord w 0) .atomic = .ok d →
             timelinePlace d = .slice → s.memWf → ∃ t, exec (i w) s = .next t ∧ t.queue q = x.advance 3
               ∧ t.readWord d = (if add then min maxWord (s.readWord d + bodyWord w 1 % 2 ^ 64) else bodyWord w 1 % 2 ^ 64)
               ∧ ∀ e, e < d ∨ d + 8 ≤ e → cellAt t.mem e = cellAt s.mem e))
       ∧ (w.len = 3 → w.tspec = 0 → bit (bodyWord w 0) 3 = false → bits (bodyWord w 0) 8 56 = 0 →
           badAddress (bodyWord w 1) 64 = false → (x.grids ≠ [] → waits .pkPresent)
           ∧ (∀ b, x.grids = [] → s.feSpan x.ctx (bodyWord w 1) 64 ≠ .wait → s.readFe x.ctx (bodyWord w 1) 64 = some b →
             ∃ t, exec (.pkPresent w) s = .next t ∧ t.queue q = x.advance 3 ∧ t.mem = s.mem
               ∧ ∀ h, h < 4 → (t.head h).pending = if bit (bodyWord w 0) (4 + h) then
                   (s.head h).pending.filter (fun p => p.1 != bodyWord w 0 % 8) ++ [(bodyWord w 0 % 8, parseDesc b)]
                 else (s.head h).pending))
       ∧ (∀ bs, bufferEntries w ((w.len - 2) / 2) = some bs → 2 ≤ w.len → w.len % 2 = 0 → (w.len - 2) / 2 ≤ 64 →
           w.tspec.toNat < 2 → badAddress (bodyWord w 0) 64 = false → s.feSpan x.ctx (bodyWord w 0) 256 ≠ .wait →
           (∀ b, s.readFe x.ctx (bodyWord w 0) 256 = some b → s.launchWaits x.ctx b = false) →
           exec (.pkLaunchGrid w) s = .next (((s.noteFe x.ctx (bodyWord w 0) 256).acceptLaunch x.ctx
             (BitVec.ofNat 64 (bodyWord w 0)) (s.readFe x.ctx (bodyWord w 0) 256) q false (w.tspec == 1) bs).nextPacket q w.len)))

/-! ## Traps -/

/-- Taking a trap. PAGE_FAULT and ACC_OWNER, and every trap of an engine job's contexts, copies and engines, leave the
workgroup resident and enter the core's trap context where it is idle, whose pc becomes 0xE000, whose TEPC is the offset of a
sequencer's trapped word and whose record is formed anew; otherwise they wait among the traps raised, in SRC order among those of one tck. Of a
wave, TRAP and BREAK stop the workgroup, and every other kind is contained: under STOPALL the workgroup is stopped, and
otherwise it is gone, and is relaunched while its grid lets it be, or its context enters error. A wave's record names its
wave, its word, the address and the lanes (07 R248, R249; 13 R365; 16 R392, R393, R396, R401, R404). -/
def Obligations.TrapsTaken : Prop :=
  ∀ (s : State) (r : WgRef) (g : Workgroup) (t : TrapItem), s.wg? r = some g →
    let u := s.takeTrap r t
    let k := s.core r.core
    let enters : Prop := t.record.kind = some .pageFault ∨ t.record.kind = some .accOwner ∨ t.who.isWave = false
    let stops : Prop := t.record.kind = some .trap ∨ t.record.kind = some .brk
    (enters → (u.wg? r).isSome = true
      ∧ (k.trap.item = none → k.trapQ = [] → (u.core r.core).trapQ = [] ∧ (u.core r.core).trap.item = some t
          ∧ (u.core r.core).trap.pc = 0xE000 ∧ (u.core r.core).trap.escalating = false
          ∧ (u.core r.core).trap.rec_.stamp = s.tckOf r.core
          ∧ (u.core r.core).trap.tepc = (match t.who with
              | .seq _ _ => if t.record.kind = some .trap then t.record.pc - 4 else t.record.pc
              | _ => 0))
      ∧ (k.trap.item.isSome = true → (u.core r.core).trapQ = queueTrap t k.trapQ ∧ (u.core r.core).trap = k.trap))
    ∧ (¬enters → stops → g.preempt = none →
        (u.wg? r).map (fun x => (x.preempt, x.saveAt)) = some (some (.saving t.record true none), s.fck))
    ∧ (¬enters → ¬stops →
        ((s.context g.ctx).stopAll = true → g.preempt = none →
          (u.wg? r).map (fun x => (x.preempt, x.saveAt)) = some (some (.saving t.record true none), s.fck))
        ∧ ((s.context g.ctx).stopAll = false → u.wg? r = none
            ∧ ∀ x, s.grid? g.grid = some x →
              let used := (assoc x.retries g.wgl).getD 0
              (x.lpb.idem = true ∧ used < x.lpb.retry → ∃ y, u.grid? g.grid = some y
                ∧ y.relaunch = x.relaunch ++ [(s.saves, g.wgl)] ∧ assoc y.retries g.wgl = some (used + 1))
              ∧ (¬(x.lpb.idem = true ∧ used < x.lpb.retry) → (u.context x.ctx).err = true
                ∧ (u.context x.ctx).retryOut = true)))
    ∧ (∀ (wave : Nat) (v : Wave) (acc : BitVec 5) (code : W32) (pc va : W64) (mask : Lanes) (needs : List Nat),
        g.waves[wave]? = some v → k.trap.item = none → k.trapQ = [] →
        let q : WaveRef := ⟨r.core, r.slot, wave⟩
        let u := s.trapWave q .pageFault acc code pc va mask needs
        (u.wave? q).map (·.block) = some .trapped
        ∧ ∃ x, (u.core r.core).trap.item = some x ∧ x.who = .wave r.slot wave ∧ x.tval = va ∧ x.record.kind = some .pageFault
          ∧ x.record.src = .wave ∧ x.record.wave = wave ∧ x.record.acc = acc ∧ x.record.pc = pc ∧ x.record.va = va
          ∧ x.record.mask = mask ∧ (u.core r.core).pfCount = k.pfCount + 1)

/-! ## Mailbox commands -/

/-- The mailbox commands complete with OK and their effect where their arguments are good, with DENIED, BAD_ARG or
NO_RESOURCE and no effect where they are not, and UNBIND_QUEUE, DESTROY_CONTEXT and GRANT wait for the grids they
must. Completing sets RESULT and DONE, clears BUSY and counts in SEQ. FW_RESTART takes the policy processor down (11
R340-R342, R514; 25 R498). Who may name which queue and context is the model's reading (assumption log, entry 17). -/
def Obligations.MailCommandsComplete : Prop :=
  ∀ (w : MailWord) (s : State),
    let f := w.func
    let a1 := w.a1.toNat
    let ends (i : MailWord → Instr) (r : MailResult) (rsp : Option Nat) (u : State) : Prop :=
      ∃ t, exec (i w) s = .next t ∧ { t with mail := [] } = { u with mail := [] }
        ∧ (∀ p, p ≠ f → t.mailbox p = u.mailbox p)
        ∧ t.mailbox f = { u.mailbox f with
            result := r.code, done := true, busy := false, seq := (u.mailbox f).seq + 1,
            rsp := match rsp with
              | some v => setAt (u.mailbox f).rsp 0 (BitVec.ofNat 64 v)
              | none => (u.mailbox f).rsp }
    let named : Prop := f = 0 ∨ (assoc s.grants f).isSome = true
    let usable (c : Nat) : Prop := (f = 0 ∧ s.granted c = false) ∨ (f ≠ 0 ∧ s.mayContext f c = true)
    let goodRoot : Prop := a1 % 65536 = 0 ∧ a1 + 65536 ≤ localBytes ∧ inPool a1 65536 = false ∧ w.a2.toNat % 256 = 0
      ∧ w.a2.toNat < 2 ^ 52 ∧ w.a3.toNat ≤ 65536
    let qctx := w.a2.toNat % 64
    let n := bits w.a2.toNat 8 5
    let goodRing : Prop := a1 < 256 ∧ (s.queue a1).bound = false ∧ (s.context qctx).created = true ∧ 6 ≤ n ∧ n ≤ 20
      ∧ w.a3.toNat % (8 * 2 ^ n) = 0 ∧ w.a3.toNat < 2 ^ 52 ∧ bits w.a2.toNat 6 2 = 0 ∧ bits w.a2.toNat 13 51 = 0
    let u := if (s.context a1).err then s.endContextGrids a1 else s
    (¬named → ends .mbCreateContext .denied none s)
    ∧ (named → ¬goodRoot → ends .mbCreateContext .badArg none s)
    ∧ (named → goodRoot → (∀ c, c < 64 → usable c → (s.context c).created = true) →
        ends .mbCreateContext .noResource none s)
    ∧ (∀ c, c < 64 → usable c → (s.context c).created = false → goodRoot →
        (∀ b, b < c → usable b → (s.context b).created = true) →
        ends .mbCreateContext .ok (some c) (s.updContext c (fun x => { x with
          created := true, root := a1, ovfBase := w.a2, ovfEnt := w.a3.toNat, ovfHead := 0 })))
    ∧ (s.mayContext f a1 = false → ends .mbDestroyContext .denied none s ∧ ends .mbResetContext .denied none s)
    ∧ (s.mayContext f a1 = true → (s.context a1).created = false ∨ 64 ≤ a1 →
        ends .mbDestroyContext .badArg none s ∧ ends .mbResetContext .badArg none s)
    ∧ (s.mayContext f a1 = true → (s.context a1).created = true → a1 < 64 →
        (u.grids.any (fun g => g.ctx == a1) = true → exec (.mbDestroyContext w) s = .next u)
        ∧ (u.grids.any (fun g => g.ctx == a1) = false → ends .mbDestroyContext .ok none
            ((u.updBound a1 HwQueue.unbind).updContext a1 (fun x => { x with created := false, regions := [] })))
        ∧ ends .mbResetContext .ok none (((s.endContextGrids a1).updContext a1 (fun x => { x with
            launchQ := [[], [], [], []], ovf := [], ovfHead := 0, regions := [], refusals := 0, errOffset := 0, errQueue := 0,
            errDevice := false, unreadable := false, retryOut := false, lpbInvalid := false, tlFail := false,
            err := false })).updBound a1 HwQueue.restart))
    ∧ (s.mayQueue f a1 = false ∨ s.mayContext f qctx = false → ends .mbBindQueue .denied none s)
    ∧ (s.mayQueue f a1 = true → s.mayContext f qctx = true →
        (¬goodRing → ends .mbBindQueue .badArg none s)
        ∧ (goodRing → ends .mbBindQueue .ok none (s.updQueue a1 (fun x => { x.restart with
            head := 0, tail := 0, bound := true, ctx := qctx, log2 := n, base := w.a3 }))))
    ∧ (s.mayQueue f a1 = false → ends .mbUnbindQueue .denied none s ∧ ends .mbResetQueue .denied none s)
    ∧ (s.mayQueue f a1 = true → (s.queue a1).bound = false →
        ends .mbUnbindQueue .badArg none s ∧ ends .mbResetQueue .badArg none s)
    ∧ (s.mayQueue f a1 = true → (s.queue a1).bound = true →
        ((s.queue a1).grids = [] → ends .mbUnbindQueue .ok none (s.updQueue a1 HwQueue.unbind))
        ∧ ((s.queue a1).grids ≠ [] → exec (.mbUnbindQueue w) s = .next s)
        ∧ ends .mbResetQueue .ok (some (s.queue a1).head) (s.updQueue a1 HwQueue.restart))
    ∧ (f ≠ 0 → ends .mbGrant .denied none s ∧ ends .mbPodPeer .denied none s ∧ ends .mbSetPasid .denied none s
        ∧ ends .mbClearFences .denied none s ∧ ends .mbFwRestart .denied none s)
    ∧ (f = 0 →
        (s.grantBad a1 (grantOf w) = true → ends .mbGrant .badArg none s)
        ∧ (s.grantBad a1 (grantOf w) = false → s.grantWaits a1 (grantOf w) = true → exec (.mbGrant w) s = .next s)
        ∧ (s.grantBad a1 (grantOf w) = false → s.grantWaits a1 (grantOf w) = false →
            ends .mbGrant .ok none { s with grants := assocSet s.grants a1 (grantOf w) })
        ∧ (64 ≤ a1 ∨ 64 ≤ w.a2.toNat ∨ 64 ≤ w.a3.toNat → ends .mbPodPeer .badArg none s)
        ∧ (a1 < 64 → w.a2.toNat < 64 → w.a3.toNat < 64 → ends .mbPodPeer .ok none (s.updContext a1 (fun x => { x with
            peer := if w.a3.toNat = 0x3F then none else some (w.a2.toNat, w.a3.toNat) })))
        ∧ (64 ≤ a1 → ends .mbSetPasid .badArg none s)
        ∧ (a1 < 64 → ends .mbSetPasid .ok none (s.updContext a1 (fun x => { x with
            pasid := if w.a2.getLsbD 31 then some (w.a2.setWidth 20) else none })))
        ∧ ends .mbClearFences .ok none { s with modl := s.modl.writeRecord BringUpRecord.reset.entries }
        ∧ exec (.mbFwRestart w) s = .next { s with modl := { s.modl with fwState := 2 } })

/-! ## Events of waves and workgroups -/

/-- The waits of a wave's lanes end lane by lane, exactly where what they wait for holds: SLEEP at its tck, WAITF with
its flags clear, ACQ and TLWAIT with their word at the threshold; a poll marks the timelines that have reached theirs. Lanes
whose word has come to hold poison trap POISON instead.
CLAUSE_START takes the group the wave chooses through a well-formed header once the flags it waits for are clear;
REPLY_TAKEN_AS_POISONED, 100 microseconds after the save began, completes a word with its registers poisoned; WAVE_END ends
a wave whose lanes have exited (03 R96; 04 R146, R155, R158, R159; 06 R205, R213, R214; 16 R416, R418). That a lane whose word no
longer translates keeps waiting (assumption log, entry 32), that a poll of poison is a read that traps (entry 66), and what the
core's instruction caches hold at a fetch (entry 7) are the model's readings. -/
def Obligations.WaveEventsRun : Prop :=
  ∀ (s : State) (r : WaveRef) (g : Workgroup) (v : Wave), s.wg? (wgOf r) = some g → s.wave? r = some v →
    let reached (a t : W64) : Prop := ∃ y, s.waitValue r g.ctx a.toNat = some y ∧ t.toNat ≤ y
    let ends (i : Instr) (p : LaneWait → Prop) : Prop := ∃ t u, exec i s = .next t ∧ t.wave? r = some u ∧ v.Freed u p
    ends (.evSleepExpiry r) (fun x => ∃ t, x = .sleep t ∧ t ≤ s.tckOf r.core)
    ∧ ends (.evWaitfRelease r) (fun x => ∃ m, x = .waitf m ∧ v.flagsClear m.toNat = true)
    ∧ (v.lanes.any (s.laneReadsPoison r g.ctx) = true → ∀ i ∈ [Instr.evAcqRelease r, .evTlwaitRelease r, .evTimelinePoll r],
      ∃ t, exec i s = .next t ∧ ((s.context g.ctx).stopAll = false → t.wg? (wgOf r) = none)
        ∧ ((s.context g.ctx).stopAll = true → g.preempt = none → (t.wg? (wgOf r)).any (·.saving) = true))
    ∧ (v.lanes.any (s.laneReadsPoison r g.ctx) = false → ends (.evAcqRelease r) (fun x => ∃ o t, x = .acq o t ∧ reached o t)
      ∧ ends (.evTlwaitRelease r) (fun x => ∃ a t c p m, x = .tlwait a t c p m ∧ (m = true ∨ reached a t)))
    ∧ (v.lanes.any (s.laneReadsPoison r g.ctx) = false → ∃ t u, exec (.evTimelinePoll r) s = .next t ∧ t.wave? r = some u ∧ ∀ (n : Nat) (l : Lane), v.lanes[n]? = some l →
        (∀ a b c p m, l.state = .waiting (.tlwait a b c p m) → reached a b →
          u.lanes[n]? = some { l with state := .waiting (.tlwait a b c p true) })
        ∧ ((∀ a b c p m, l.state = .waiting (.tlwait a b c p m) → ¬reached a b) → u.lanes[n]? = some l))
    ∧ (∀ lanes pc ix d, s.cur = .wave r → v.group = none → v.block = .none → v.chooseGroup = some (lanes, pc, ix) →
        pc.toNat < 2 ^ 52 → pc.toNat % 8 = 0 →
        let x := s.translate r.core g.ctx pc.toNat .fetch
        x.1 = .ok d → s.awaitsMember g d = false → (∀ i, i < 8 → s.poisonedByte (d + i) = false) →
        let h := s.fetchAt r.core g.ctx d
        let y := x.2.noteFetch r.core d
        (bits h 56 8 = 0xFF → headerOk h = true →
          (0 < ix ∨ v.flagsClear (bits h 44 12) = true → ∃ t, exec .evClauseStart s = .next t ∧ t.wave? r = some { v with
            done := 0, group := some { lanes := lanes, pc := pc, head := BitVec.ofNat 64 h, ix := ix } })
          ∧ (ix = 0 → v.flagsClear (bits h 44 12) = false → exec .evClauseStart s = .next y))
        ∧ (bits h 56 8 ≠ 0xFF ∨ headerOk h = false → exec .evClauseStart s = .next (y.trapFetch r .illegalWord pc lanes)))
    ∧ (∀ k p, v.pending[k]? = some p → p.reply = true → g.saving = true → g.saveAt + 200000 ≤ s.fck →
        ∃ t u, exec (.evReplyTakenAsPoisoned r k) s = .next t ∧ t.wave? r = some u ∧ u.pending = v.pending.eraseIdx k
          ∧ u.flags = modAt v.flags p.flag (· - 1) ∧ u.vregs = v.vregs
          ∧ ∀ n ∈ p.regs, ∀ l, p.mask.getLsbD l = true → u.poisonedLane n l = true)
    ∧ (v.ended = false → v.liveMask = 0 → v.pending = [] → v.block = .none → v.group = none →
        exec (.evWaveEnd r) s = .next (((s.drainWc r).updWave r (fun v =>
          { v with ended := true, vregs := [], spilled := [], poison := [], spoison := [] })).tryComplete (wgOf r)))

/-- A barrier phase completes once every lane has arrived or exited, and frees the lanes that waited for it; where the
module sheds the workgroup's class it parks. A rendezvous completes once the lanes and the sequencer contexts stand in
it; GBAR once every workgroup of the grid has arrived or has no lane left; TLWAIT.park parks a workgroup whose lanes all wait (06 R208,
R210, R211, R215, R220; 07 R245; 13 R362; 20 R453). That exited lanes do not hold back the park is the model's reading
(assumption log, entry 31). -/
def Obligations.WorkgroupWaitsEnd : Prop :=
  ∀ (s : State) (r : WgRef) (g : Workgroup), s.wg? r = some g →
    let park (p : Park) : Preempt := .saving TrapRecord.reset false (some p)
    (∀ n, n < 8 → let phase := (g.barriers[n]?).getD 0
      let mine (x : LaneWait) : Prop := x = .bar n phase ∨ x = .waitb n phase
      g.waves.any (fun v => !v.ended) = true → g.everyLane (fun l => l.arrivedIn n phase) = true →
      ∃ t u, exec (.evBarrierPhaseCompletion r n) s = .next t ∧ t.wg? r = some u ∧ g.Freed u mine
        ∧ u.barriers = setAt g.barriers n (phase + 1)
        ∧ (covered s.power.level (s.lpbOf g).cls = false → u.preempt = g.preempt)
        ∧ (covered s.power.level (s.lpbOf g).cls = true → g.someWait (fun x => x == .bar n phase) = true → g.saving = false →
            u.preempt = some (park .shedPoint)))
    ∧ (∀ j, g.job = some j → let here (x : SeqState) : Prop := x.halted = true ∨ x.rdv.isSome = true
        (g.someWait (fun x => x == .rdv) = true ∨ j.intake.rdv.isSome = true ∨ j.main.rdv.isSome = true
          ∨ j.outfall.rdv.isSome = true) →
        here j.intake → here j.main → here j.outfall → g.everyLane (fun l => l.state == .waiting .rdv) = true →
        ∃ t u, exec (.evRendezvousCompletion r) s = .next t ∧ t.wg? r = some u ∧ g.Freed u (fun x => x = .rdv)
          ∧ u.rdvs = g.rdvs + 1
          ∧ ∀ c, c ≠ .trap → u.job.map (·.ctx c) = some ((j.ctx c).met (s.lpbOf g).argBase g.wgl))
    ∧ (g.saving = false → g.everyLane (fun l => match l.state with
          | .waiting _ => true
          | _ => false) = true →
        g.someWait (fun x => match x with
          | .tlwait _ _ _ p _ => p
          | _ => false) = true →
        ∃ t u, exec (.evTlwaitPark r) s = .next t ∧ t.wg? r = some u ∧ u.preempt = some (park .timeline)
          ∧ { u with preempt := none, saveAt := 0, job := none } = { g with preempt := none, saveAt := 0, job := none })
    ∧ (∀ x, s.grid? g.grid = some x → s.gridUnstarted x = false →
        (∀ p ∈ s.allWgs, p.2.grid = g.grid → p.2.gbar = true ∨ p.2.lanesExited = true) →
        (∀ p ∈ s.frames, p.2.wg.grid = g.grid → p.2.wg.gbar = true ∨ p.2.wg.lanesExited = true) →
        s.allWgs.any (fun p => p.2.grid == g.grid && p.2.gbar) = true →
        x.stolen.all (fun y => y.2.2.2.length == y.2.2.1) = true →
        ∃ t u, exec (.evGbarCompletion g.grid) s = .next t ∧ t.wg? r = some u ∧ g.Freed u (fun y => y = .gbar) ∧ u.gbar = false
          ∧ (t.grid? g.grid).map (·.gen) = some (x.gen + 1)
          ∧ let tile := s.tile (tileOf r.core)
            ((∀ y, tile.gate.rotBy = some y → y.1 = tile.tck → y.2 ≤ g.grid) →
              (t.tile (tileOf r.core)).gate.rot = (x.gen + 1) % 3))

/-! ## The scheduler -/

/-- A claim takes its range of the grid's indices and its placement starts the range on its core; a gang claim's placement
starts member 0 and then reserves the other cores; relaunches, reserved members and restores start or restore their
workgroup, all beside the room held for a claim on its way or for another grid; a workgroup that starts holds the registers of its kernel's
entry, and one restored holds what its frame held, but for the place of its registers (01 R35; 13 R347-R354, R364, R366; 16
R402). Choices the rules leave open are free values (assumption log, entry 2). -/
def Obligations.ClaimsAndRestores : Prop :=
  ∀ (s : State) (core grid : Nat) (g : Grid), s.grid? grid = some g →
    let fresh (x t : State) (wgl : Nat) : Prop := g.lpb.engine = false → ∀ o,
      placeOne ((x.unpromise core grid).heldOccupants core) g.lpb = some o →
      t.wg? ⟨core, o.slot⟩ = some (workgroupAtStart g wgl o (s.tckOf core)
          (if g.lpb.gang ≤ 1 then [] else s.startCredits g wgl))
        ∧ (t.grid? grid).map (fun y => (y.token, y.waited)) = some (64 * (3 - g.lpb.cls), 0)
    let back (t : State) (f : Nat) : Prop := ∀ x o, s.frame? f = some x → x.poisoned = false → x.wg.job = none →
      x.wg.copies = [] → x.wg.waves.any (fun v => !v.ended) = true →
      placeWaves ((s.unpromise core x.wg.grid).heldOccupants core) (s.lpbOf x.wg) x.liveWaves = some o →
      ∃ u, t.wg? ⟨core, o.slot⟩ = some u
        ∧ u.waves.map Wave.unplaced = x.wg.waves.map (fun v => (v.restored (x.parked == some .timeline)).unplaced) ∧ u.flags = x.wg.flags ||| x.lateFlags
        ∧ u.wgl = x.wg.wgl ∧ u.barriers = x.wg.barriers ∧ u.preempt = none ∧ t.frame? f = none
    (s.nextSource core = some (.claim grid) →
        let n := min g.lpb.claim (g.total - g.next)
        ∃ t, exec (.evClaim core grid) s = .next t ∧ (t.core core).claim = some (grid, g.next, n) ∧ (t.core core).gang = []
          ∧ t.grid? grid = some { g with next := g.next + n } ∧ ∀ k, k ≠ core → t.core k = s.core k)
    ∧ (s.nextSource core = some (.gang grid) →
        ∃ t, exec (.evGangClaim core grid) s = .next t ∧ (t.core core).claim = some (grid, g.next, 1)
          ∧ t.grid? grid = some { g with next := g.next + g.lpb.gang }
          ∧ (t.core core).gang = s.gangCores g.ctx core (g.lpb.gang - 1) ∧ ∀ k, k ≠ core → t.core k = s.core k)
    ∧ (∀ start n, (s.core core).claim = some (grid, start, n) →
        let others := (s.core core).gang
        let s1 := s.updCore core (fun c => { c with claim := none, gang := [] })
        ∃ t, exec (.evPlacement core) s = .next t
          ∧ t = ((List.range n).foldl (fun x i => x.startWg core grid (start + i)) s1).reserveCores grid
              (others.zipIdx.map (fun p => (p.1, start + 1 + p.2, none)))
          ∧ (others.Nodup → ∀ i k, others[i]? = some k → (t.core k).reserve = some ⟨grid, start + 1 + i, none⟩)
          ∧ ∀ wgl, fresh s1 (s1.startWg core grid wgl) wgl)
    ∧ (∀ wgl, s.nextSource core = some (.relaunch grid wgl) →
        ∃ t, exec (.evRelaunch core grid) s = .next t ∧ fresh s t wgl
          ∧ (g.lpb.engine = false → (t.grid? grid).map (·.relaunch) = some (g.relaunch.filter (fun p => p.2 != wgl))))
    ∧ (∀ wgl, s.nextSource core = some .member → (s.core core).reserve = some ⟨grid, wgl, none⟩ →
        ∃ t, exec (.evReservedMemberPlacement core) s = .next t ∧ fresh s t wgl
          ∧ (g.lpb.engine = false → (t.core core).reserve = none))
    ∧ (∀ wgl f, s.nextSource core = some .member → (s.core core).reserve = some ⟨grid, wgl, some f⟩ →
        ∃ t, exec (.evReservedMemberPlacement core) s = .next t ∧ back t f)
    ∧ (∀ f x, s.nextSource core = some (.restore f) → s.frame? f = some x →
        ∃ t, exec (.evRestore core f) s = .next t ∧ back t f)

/-- The tokens of a grid grow by 1 for each 512 fck of waiting; from 192 on it takes the victims of the core that ranks
first, each drained, killed or saved as its estimate says; a drain that outlasts its window, a shed mark whose grace
is over and a watchdog at its limit end or save their workgroup; a park that is due in that tck stands before a kill or a
save; a save moves the workgroup to the lowest free frame, with the record of its cause or of the trap it has outstanding, or
is void where every lane has exited (13 R357-R363; 16 R394, R396, R402, R419). Victims that rank equal are ordered by a free
value (assumption log, entry 2). -/
def Obligations.PreemptionEvents : Prop :=
  ∀ (s : State) (r : WgRef) (w : Workgroup), s.wg? r = some w →
    let tck := s.tckOf r.core
    let sched : TrapRecord := { TrapRecord.reset with src := .scheduler }
    let park (p : Park) : Preempt := .saving TrapRecord.reset false (some p)
    let dueShed : Prop := ∃ n, w.phaseDue n = true ∧ s.phaseParks w n = true
    let dueWait : Prop := ({ w with preempt := none } : Workgroup).timelineParkDue = true
    let parks (u : State) : Prop := (dueShed → (u.wg? r).map (·.preempt) = some (some (park .shedPoint)))
      ∧ (¬dueShed → dueWait → (u.wg? r).map (·.preempt) = some (some (park .timeline)))
    let due : Prop := dueShed ∨ dueWait
    (∀ grid g, s.grid? grid = some g → 512 ≤ g.waited → g.token < 255 →
      ∃ t, exec (.evTokenGrowth grid) s = .next t ∧ t.grid? grid = some { g with token := g.token + 1, waited := g.waited - 512 })
    ∧ (∀ grid g core, s.grid? grid = some g → 192 ≤ g.token → s.waiting g = true →
        let x := s.free
        x.2.victimCore g x.1.toNat = some core →
        exec (.evPreemptionDecision grid) s = .next ((x.2.takeVictims core g [] (x.2.victims core g.lpb.cls x.1.toNat)).foldl
          (fun y slot => y.chooseFor g ⟨core, slot⟩) x.2))
    ∧ (∀ g, let u := s.chooseFor g r
        let window := (256 - g.token) * 64
        (∀ n, w.remaining tck = some n → n ≤ window →
          (u.wg? r).map (·.preempt) = some (some (.drain (tck + window) g.id)))
        ∧ ((∀ n, w.remaining tck = some n → window < n) → u = s.killOrCheckpoint r))
    ∧ (let u := s.killOrCheckpoint r;
        parks u
        ∧ (¬due → w.allExited = true → (u.wg? r).map (·.preempt) = some none)
        ∧ (¬due → w.allExited = false → (s.lpbOf w).idem = true → tck - w.started < 8192 → u.wg? r = none)
        ∧ (¬due → w.allExited = false → (s.lpbOf w).idem = false ∨ 8192 ≤ tck - w.started →
          (u.wg? r).map (·.preempt) = some (some (.saving sched false none))))
    ∧ (∀ at_ grid, w.preempt = some (.drain at_ grid) → at_ ≤ tck →
        exec (.evDrainTimeout r) s = .next (s.killOrCheckpoint r))
    ∧ (∀ at_, w.shed = some at_ → at_ ≤ s.fck → w.allExited = false → w.preempt = none →
        ∃ t, exec (.evShedForce r) s = .next t
          ∧ parks t
          ∧ (¬due → (t.wg? r).map (·.preempt) = some (some (.saving { sched with kind := some .shedForce } false none))))
    ∧ (let limit := (s.context w.ctx).wdLimit.toNat * 1024;
        0 < limit → limit ≤ w.watchdog → exec (.evWatchdog r) s = .next (s.contain r (s.stampRecord r 1000
          { sched with kind := some .watchdog })))
    ∧ (∀ rec_ stop park f, w.preempt = some (.saving rec_ stop park) →
        (w.allExited = true → stop = false → ∃ t, exec (.evSaveCompletion r) s = .next t
          ∧ (t.wg? r).map (·.preempt) = some none)
        ∧ (w.allExited = false ∨ stop = true → w.saveReady (s.repliesLate w) = true → s.freeFrame = some f →
          ∃ t x, exec (.evSaveCompletion r) s = .next t ∧ t.wg? r = none ∧ t.frame? f = some x
            ∧ x.record.kind = (if rec_.kind.isNone then ((s.core r.core).trapOf r.slot).bind (·.kind) else rec_.kind)
            ∧ x.wg.grid = w.grid ∧ x.wg.wgl = w.wgl ∧ x.wg.flags = w.flags
            ∧ x.wg.waves.map (fun v => (v.vregs, v.sregs, v.preds, v.lanes)) =
                w.waves.map (fun v => (v.vregs, v.sregs, v.preds, v.lanes))
            ∧ x.parked = park ∧ x.stopped = (if stop then some s.stops else none)
            ∧ (stop = true → (t.context w.ctx).faultList = (s.context w.ctx).faultList ++ [f])))

/-! ## The sequencer and the engines -/

/-- A job starts at the entries of its image; an overlay that has been loaded stands in the store; SPILLWAY_FULL is
delivered to the handler that g31 names, g28 to g31 taking the kind, TVAL, the pc and 0, with its record formed, and is taken
as a trap of the matrix queue where none is armed. A waiting MSTEP tries its passes again, a stall of 4,096 tck ends in
SPILLWAY_FULL once the earlier words of its queue have completed, no later one started, and a running nest hands over its next
word. A finished word raises its flags and leaves its queue, one behind which another has started first, then the weight loader's,
whose latch replaces its slot's, then the head; an MNOP completes after every earlier word of its queue (07 R229, R240, R246; 08
R261, R265, R268-R271, R275, R276, R283; 11 R339; 16 R401, R403). That the passes that can commit do so in one step, and that a
WLOAD behind an MSTEP that may yet stop for room is held back from completing (assumption log, entry 24), and that an overlay
leaves the rest of the store (entry 55), are the model's choices. -/
def Obligations.EngineEvents : Prop :=
  ∀ (s : State) (core slot : Nat) (g : Workgroup) (j : Job), s.jobSlot core = some slot → s.wg? ⟨core, slot⟩ = some g →
    g.job = some j →
    let r : WgRef := ⟨core, slot⟩
    let img := (s.lpbOf g).seqImg.toNat
    let load := s.overlayLoad r
    let head := (load.2.readVia core g img 64).1.2
    let entry (off : Nat) : Nat := ofBytes ((head.drop off).take 2)
    let g31 := (j.main.g[31]?).getD 0
    let armed : Prop := j.main.halted = false ∧ g31 ≠ 0 ∧ g31.toNat % 4 = 0 ∧ g31.toNat < 0xE000
    (j.started = false → j.intake.trapped = false → g.preempt = none →
        (load.1 = true → ∃ t, exec (.evSequencerJobStart r) s = .next t ∧ t.job? r = some { j with
          started := true, intake := { j.intake with pc := entry 0x0C }, main := { j.main with pc := entry 0x0E },
          outfall := { j.outfall with pc := entry 0x10 } })
        ∧ (load.1 = false → exec (.evSequencerJobStart r) s = .next load.2))
    ∧ (∀ o, j.ovl = some o → ∃ t, exec (.evOvlLoadComplete core) s = .next t
        ∧ (t.core core).store = cellsPut (s.core core).store o.at_ o.bytes ∧ t.job? r = some { j with ovl := none })
    ∧ (∀ x, j.spwStop = some x → x.delivered = false → j.main.trapped = false → (∀ o, j.ovl = some o → o.ctx ≠ .main) →
        g.saving = false → j.matrixQ.trapped = false → (s.core core).trap.item = none →
        (armed → ∃ t, exec (.evSpillwayHandlerDelivery r) s = .next t
          ∧ t.job? r = some { j.deliver x.tval g31 with spwStop := some { x with delivered := true } }
          ∧ (t.core core).trap.rec_.kind = some .spillwayFull ∧ (t.core core).trap.rec_.src = .matrixQ
          ∧ (t.core core).trap.rec_.stamp = s.tckOf core
          ∧ (j.main.rdv = none → (t.job? r).map (·.main) = some {
              ((((j.main.setG 28 6).setG 29 x.tval).setG 30 (BitVec.ofNat 64 j.main.pc)).setG 31 0) with
                pc := g31.toNat, copySince := none }))
        ∧ (¬armed → ∃ item, exec (.evSpillwayHandlerDelivery r) s = .next (s.takeTrap r item)
            ∧ item.who = .engine slot .matrix ∧ item.record.kind = some .spillwayFull ∧ item.record.src = .matrixQ))
    ∧ (∀ n x rest, j.nest = some n → n.next (s.lpbOf g) g.wgl 8 = some (x, rest) → j.matrixQ.trapped = false →
        j.drainQ.trapped = false → g.saving = false → (j.queue (queueOf x.opx)).held < 32 →
        ∃ t, exec (.evNestWordGeneration core) s = .next t
          ∧ t.job? r = some { j.handOver x.opx x.w n.ticket true x.astray with nest := rest })
    ∧ (∀ eq, g.waves.any (fun v => !v.ended) = true →
        let q := j.queue eq
        let may (x : QueueWord) : Prop := q.mayEnd g.saving x = true
        let behind := findIx (fun x => q.mayEnd g.saving x.1) q.finishing
        let leaves (f : BitVec 6) (p : Job → EngineQ → Prop) : Prop := ∃ t k, exec (.evMatrixWordCompletion core eq) s = .next t
          ∧ (t.wg? r).map (·.flags) = some (g.flags ||| f) ∧ t.job? r = some k ∧ p k (k.queue eq)
        (∀ x, x.opx ≠ 0 → x.opx ≠ 1 → may x) ∧ (∀ x y, x.opx = 0 → may x → y ∈ q.open_ → y.before x = false)
        ∧ (∀ n x, behind = some n → q.finishing[n]? = some x →
          leaves x.2 (fun k y => y.finishing = q.finishing.eraseIdx n ∧ y.loader = q.loader ∧ y.words = q.words ∧ k.slots = j.slots))
        ∧ (∀ l, behind = none → eq = .matrix → q.loader = some l → l.phase = .finished → may l.q → s.unitFree core eq true = true →
          leaves 0 (fun k y => y.finishing = q.finishing ∧ y.loader = none ∧ y.words = q.words
            ∧ k.slots = setAt j.slots l.q.w.c.toNat l.latch))
        ∧ (∀ x rest, behind = none → (∀ l, q.loader = some l → l.phase ≠ .finished ∨ ¬may l.q) → q.words = x :: rest →
          q.phase = .finished → may x → s.unitFree core eq false = true →
          leaves q.sticky (fun k y => y.finishing = q.finishing ∧ y.loader = q.loader ∧ y.words = rest ∧ k.slots = j.slots)))
    ∧ (∀ c n, s.headWord? core .matrix = some c → j.matrixQ.phase = .stalled n → 4096 ≤ n → s.earlierOpen c = false →
        ∃ t k, exec (.evSpillwayStallExpiry core) s = .next t ∧ t.job? r = some k ∧ k.matrixQ.phase = .stopped
          ∧ k.matrixQ.loader.all (fun x => !x.phase.started) = true
          ∧ k.spwStop = some { tval := engineTval c.q.w.d.toNat j.matrixQ.pass c.q.ticket, delivered := false, drain := none }
          ∧ (t.core core).spw = (s.core core).spw)
    ∧ (∀ c l, s.headWord? core .matrix = some c → c.q.opx = 2 → j.matrixQ.phase = .running ∨ (∃ n, j.matrixQ.phase = .stalled n) →
        j.matrixQ.trapped = false → g.saving = false → c.q.raced = [] → (j.slots[c.q.w.c.toNat]?).join = some l →
        intActivation c.q.w.fmt.toNat = false →
        let w := c.q.w
        let p := j.matrixQ.pass
        p ≤ extP w →
        (∀ n, p ≤ n → n < extP w → let v := vectorParts w (w.a.toNat + n * w.astr.toNat)
          inScratch (s.lpbOf g).scratch v = true ∧ g.poisonedIn v = false ∧ g.emptyIn v = false) →
        let run := (List.range' p (extP w - p)).foldl (fun (a : Tile × BitVec 6) n =>
          let o := floatPass l w a.1 n (readVector g w (w.a.toNat + n * w.astr.toNat))
          (o.1, a.2 ||| o.2)) (s.accTile core w.d.toNat, j.matrixQ.sticky)
        ∃ t q, exec (.evPassCommit core) s = .next t ∧ (t.job? r).map (·.matrixQ) = some q ∧ q.phase = .finished
          ∧ q.pass = extP w ∧ q.sticky = run.2 ∧ t.accTile core w.d.toNat = run.1)

/-! ## Headgate, voltage and the shelf -/

/-- Headgate, voltage and the shelf. The word that starts next with a demand joins its tile's headgate, for the tck it will
occupy its unit; the headgate takes a boundary that is due, grants the first waiting word while its load leaves room under
the ramp, and lays its filler anew; at a boundary the position rises by one under waiting words and falls by one where the
load is within the floor below. Of a module that is ready, a ramp table is accepted where it never falls from 1 to 255, and it
comes into force while the headgate is idle. The policy firmware writes the lowest point whose level limit reaches the tile's highest
clipped request, and nothing else; a tile moves to it, its rail's arrival ends the move, and LVCAP follows the rail. A shelf frame that is not valid is counted and has no other effect; a valid one ends LOSS and
makes a reply due, whose bytes carry the level; silence after LOSSTIME raises LOSS and its level; a level decided comes
into force, but in no tck in which the level before has decided, and marks the workgroups whose class it newly covers, takes
the mark of those it covers no longer, and leaves the others (20 R449-R454; 21 R456-R458; 22 R462-R464, R469, R472-R478; 25
R495). -/
def Obligations.PowerEvents : Prop :=
  (∀ (s : State) (tile : Nat),
       let x := s.tile tile
       let y := x.gate
       let gate (i : Instr) (p : Headgate) : Prop := ∃ t, exec i s = .next t ∧ t.tile tile = { x with gate := p }
       let half (v : W64) : List Nat := (List.range 8).map (fun i => v.toNat / 2 ^ (8 * i) % 256)
       let table (n : Bool) (v : W64) : List Nat :=
         let now := y.pend.getD y.ramp
         if n then now.take 8 ++ half v else half v ++ now.drop 8
       let z := if y.due x.tck then y.bounded tile else y
       (∀ core eq c, tileOf core = tile → s.startWord? core eq = some c → (c.job.queue eq).nextPhase = .waiting →
           c.job.demand c.q ≠ 0 → c.wg.saving = false → s.mayBegin c.r c.job eq = true → s.unitFree core eq c.loader = true →
           ∃ t, exec (.evHeadgateDemand core eq) s = .next t
             ∧ (t.tile tile).gate.waiting = y.waiting ++ [⟨core, eq, c.loader, c.job.demand c.q, x.tck,
                 occupancy c.q (if c.loader then 0 else (c.job.queue eq).advance.pass)⟩]
             ∧ (t.job? c.r).map (fun j => if c.loader then (j.queue eq).loader.map (·.phase) else some (j.queue eq).phase)
                 = some (some .presented))
       ∧ ((∀ d, z.first s.mayGrant = some d → z.grants d = false) → ∃ t, exec (.evHeadgateGrant tile) s = .next t
           ∧ t.tile tile = { x with gate := z.placed tile } ∧ t.cores = s.cores)
       ∧ (∀ d, z.first s.mayGrant = some d → z.grants d = true → ∃ t, exec (.evHeadgateGrant tile) s = .next t
           ∧ d ∈ (t.tile tile).gate.holding)
       ∧ (∀ r, y.start = some r → r + 4 ≤ x.tck → ∃ t, exec (.evHeadgateBoundary tile) s = .next t
           ∧ (t.tile tile).gate.pos = (if y.waiting ≠ [] then min (y.pos + 1) 15
               else if 1 ≤ y.pos ∧ y.load ≤ y.floorOf then y.pos - 1 else y.pos)
           ∧ (t.tile tile).gate.holding = y.holding ∧ (t.tile tile).gate.waiting = y.waiting)
       ∧ (∀ n v, s.modl.ready = true → (rampOk (table n v) = true → gate (.evHgrampWrite tile n v) { y with pend := some (table n v) })
           ∧ (rampOk (table n v) = false → gate (.evHgrampWrite tile n v) { y with badRamp := true }))
       ∧ (∀ r, y.pend = some r → y.idle = true → gate (.evRampTableInForce tile) { y with ramp := r, pend := none })
       ∧ (∀ p, s.modl.fwState ≠ 1 ∨ x.wanted ≠ some p.toNat → exec (.evVmboxWrite tile p) s = .next s)
       ∧ (∀ j, s.modl.fwState = 1 → s.firmwarePoint tile = some j →
           let limit (i : Nat) : Nat := ((x.opTab[i]?).getD (0, 0)).2
           (s.chooseFirmware tile).tile tile = { x with wanted := some j } ∧ s.highestRequest tile ≤ limit j
             ∧ ∀ i, i < j → limit i < s.highestRequest tile)
       ∧ (∀ p, s.modl.fwState = 1 → x.wanted = some p.toNat →
           (x.moving = true → ∃ t, exec (.evVmboxWrite tile p) s = .next t
               ∧ t.tile tile = { x with wanted := none, pend := some p.toNat })
           ∧ (x.moving = false → x.target ≠ p.toNat → ∃ t, exec (.evVmboxWrite tile p) s = .next t
               ∧ (t.tile tile).target = p.toNat ∧ (t.tile tile).moving = (x.rail != x.volts p.toNat)
               ∧ (t.tile tile).rail = x.rail ∧ (t.tile tile).pend = none))
       ∧ (x.moving = true → x.rail = x.volts x.target →
           (x.pend = none → ∃ t, exec (.evRailMoveComplete tile) s = .next t ∧ (t.tile tile).moving = false
             ∧ (t.tile tile).target = x.target ∧ (t.tile tile).rail = x.rail)
           ∧ (∀ p, x.pend = some p → ∃ t, exec (.evRailMoveComplete tile) s = .next t ∧ (t.tile tile).target = p
             ∧ (t.tile tile).pend = none ∧ (t.tile tile).moving = (x.rail != x.volts p)))
       ∧ ∃ t, exec (.evRailPassesPoint tile) s = .next t ∧ t.tile tile = { x with lvCap := x.levelCap })
  ∧ (∀ (s : State),
       let p := s.power
       (∀ bytes, s.modl.shelfOff = false →
           (shelfValid bytes = false → exec (.evShelfFrame bytes) s = .next { s with power := { p with crcErr := p.crcErr + 1 } })
           ∧ (shelfValid bytes = true → ∃ t, exec (.evShelfFrame bytes) s = .next t ∧ { t with power := p } = s
             ∧ t.power.link = true ∧ t.power.loss = false ∧ t.power.arrival = s.fck ∧ t.power.frames = p.frames + 1
             ∧ t.power.lastSeq = BitVec.ofNat 8 (frameByte bytes 2) ∧ t.power.level = p.level
             ∧ t.power.replyDue = some (BitVec.ofNat 8 (frameByte bytes 2), max t.power.slv p.floor)))
       ∧ (∀ draw vin seq level, p.replyDue = some (seq, level) → ∃ t, exec (.evShelfReply draw vin) s = .next t
           ∧ { t with power := p } = s ∧ t.power.replyDue = none ∧ t.power.draw = draw ∧ t.power.reply.length = 12
           ∧ frameByte t.power.reply 0 = 0x5A ∧ frameByte t.power.reply 1 = 0x81 ∧ frameByte t.power.reply 2 = seq.toNat
           ∧ (level < 4 → frameByte t.power.reply 3 = level + if p.loss then 4 else 0)
           ∧ frameByte t.power.reply 4 + 256 * frameByte t.power.reply 5 = draw.toNat
           ∧ frameByte t.power.reply 6 + 256 * frameByte t.power.reply 7 = vin.toNat)
       ∧ (p.link = true → p.loss = false → p.lossTime ≠ 0 → p.arrival + p.lossTime.toNat * 2000 ≤ s.fck →
           ∃ t, exec .evShelfLoss s = .next t ∧ t.power.loss = true ∧ t.power.slv = max p.slv p.lossLvl ∧ t.power.window = none
             ∧ t.power.level = p.level)
       ∧ (s.modl.ready = false → ∀ v, exec (.evShedctlWrite v) s = .next s)
       ∧ (s.modl.ready = true → ∀ v, ∃ t, exec (.evShedctlWrite v) s = .next t ∧ t.power.floor = v.toNat % 4 ∧ t.power.lossLvl = v.toNat / 16 % 4
           ∧ t.power.slv = p.slv ∧ t.power.level = p.level)
       ∧ (s.levelUsed = true → exec .evShedLevelChange s = .next s)
       ∧ (∀ k rest, p.decided = k :: rest → s.levelUsed = false → ∃ t, exec .evShedLevelChange s = .next t ∧ t.power = { p with level := k, decided := rest }
           ∧ ∀ r w, s.wg? r = some w →
             let cls := (s.lpbOf w).cls
             let on (level : Nat) : Prop := 1 ≤ level ∧ level ≤ cls
             (¬on k → t.wg? r = some { w with shed := none })
             ∧ (on k → on p.level → t.wg? r = some w)
             ∧ (on k → ¬on p.level → t.wg? r = some { w with shed := some (s.fck + p.grace * 2000) })))

/-! ## Copies -/

/-- A copy ring's next published entry takes the slot that is its in the order of arrival, and a malformed or poisoned one
stops the ring; a chunk whose elements translate is performed, one that faults is not and traps, and one with a source that
is not there yet waits; chunks complete in order; a stream element goes to its lane, which has room, or is discarded where
the lane has exited; a copy whose chunks are all complete leaves its slot (07 R236, R255, R259, R260; 16 R418; 18 R430, R431,
R435-R439). That a chunk moves in one step (assumption log, entry 60), which free slot a command takes (entry 63), that a poisoned
ring entry stops its ring with a record of kind POISON (entry 66), and what the record of a malformed one holds (entry 58), are the
model's choices. -/
def Obligations.CopyEvents : Prop :=
  (∀ (s : State) (r : WgRef) (w : Workgroup) (v : RingView) (slot : Nat), s.wg? r = some w →
    let k := w.ring.taken
    w.ring.views.find? (fun v => decide (k < v.upto)) = some v →
    s.copySlotFor r.core (arrivalKey v.since (some r.slot)) = some slot →
    w.ring.stopped = false → w.saving = false → k < w.ring.tail →
    let at_ := v.base + 32 * (k % v.entries)
    let b := w.readScratch at_ 32
    let cmd := (List.range 4).map (fun i => BitVec.ofNat 64 (ofBytes ((b.drop (8 * i)).take 8)))
    (w.padPoisoned at_ 32 = true → exec (.evCopyAcceptance r) s = .next (s.stopRing r .poison))
    ∧ (w.padPoisoned at_ 32 = false → (copyCmd cmd).isSome = true → ∃ t u, exec (.evCopyAcceptance r) s = .next t ∧ t.wg? r = some u
      ∧ u.copies = w.copies ++ [newCopy cmd (.ring k) v.timeline r.core slot] ∧ u.ring = { w.ring with taken := k + 1 }
      ∧ u.scratch = cellsPut w.scratch 0x10 (toBytes 8 (k + 1)))
    ∧ (w.padPoisoned at_ 32 = false → (copyCmd cmd).isSome = false →
        exec (.evCopyAcceptance r) s = .next (s.stopRing r .illegalWord)))
  ∧ (∀ (s : State) (core slot : Nat) (r : WgRef) (x : CopyRef), s.copyAt? core slot = some x → x.owner = .wg r →
      s.wg? r = some x.wg →
      let mine (t : State) (f : Copy → Copy) : Prop := (t.wg? r).map (·.copies) =
        some (x.wg.copies.map (fun c => if c.inSlot core slot then f c else c))
      let live : Prop := x.wg.waves.any (fun v => !v.ended) = true
      (∀ k l, x.nextChunk = some k → x.held = false → (x.cmd.dk = 3 → x.cmd.aux / 8 < x.wg.waves.length) →
          x.cmd.op ≠ .bitplane →
          let g := x.cmd.chunkRange k
          let m := s.mapElems x ((List.range (g.2 - g.1)).map (fun i => g.1 + i))
          (m.1 = .ok l → exec (.evCopyChunkStart core slot) s =
            .next ((m.2.updCopy x (fun c => { c with running := c.running ++ [k] })).performElems x (m.2.ownSource x) l))
          ∧ (m.1 = .wait → exec (.evCopyChunkStart core slot) s = .next m.2)
          ∧ (∀ e va acc, m.1 = .fault e va acc → exec (.evCopyChunkStart core slot) s = .next (m.2.copyFault x k e va acc)))
      ∧ (∀ k rest, x.copy.running = k :: rest → (x.cmd.dk = 3 → (x.cmd.chunkRange k).2 ≤ x.copy.sent) →
          ∃ t, exec (.evCopyChunkCompletion core slot) s = .next t ∧ mine t (fun c => { c with
            done := k + 1, running := rest, marks := c.marks.filter (fun i => decide ((x.cmd.chunkRange k).2 ≤ i)) }))
      ∧ (∀ v rest u, x.copy.fetched = v :: rest → x.cmd.dk = 3 → x.wg.waves[x.cmd.aux / 8]? = some u →
          (x.wg.copies.takeWhile (fun c => !c.inSlot core slot)).any (fun c => match copyCmd c.cmd with
            | some k => k.owes (x.cmd.aux / 8) (x.cmd.aux % 8) c.sent (x.copy.sent % 32)
            | none => false) = false →
          let q := x.cmd.aux % 8
          let lane := x.copy.sent % 32
          let passed (c : Copy) : Copy := { c with sent := c.sent + 1, fetched := rest }
          (∀ l, u.ended = false → u.lanes[lane]? = some l → l.state ≠ .exited → ((u.stream q).lane lane).length < 8 →
            q < u.streams.length → ∃ t y, exec (.evStreamDelivery core slot) s = .next t ∧ mine t passed
              ∧ t.wave? ⟨r.core, r.slot, x.cmd.aux / 8⟩ = some y ∧ (y.stream q).lane lane = (u.stream q).lane lane ++ [v])
          ∧ (u.laneGone lane = false → 8 ≤ ((u.stream q).lane lane).length →
              exec (.evStreamDelivery core slot) s = .next s)
          ∧ (u.laneGone lane = true → ∃ t, exec (.evStreamDelivery core slot) s = .next t ∧ mine t passed
              ∧ t.wave? ⟨r.core, r.slot, x.cmd.aux / 8⟩ = some u))
      ∧ (x.cmd.chunks ≤ x.copy.done → x.copy.fault = none → s.timelineWaits x.wg.ctx x.copy.timeline = false → live → ∃ t, exec (.evCopyCompletion core slot) s = .next t
          ∧ (t.wg? r).map (·.copies) = some (x.wg.copies.filter (fun c => !c.inSlot core slot))))

/-! ## The front end and the host -/

/-- QTAIL moves forward within its ring, and two writes of one fck come to the same in either order; a queue's waits end, one that
a write has met without another read; launches leave the overflow ring and the launch queues in their order; a held mailbox command
runs once the firmware runs; the host's words of a context page, CERR, its register writes, its memory accesses and its answers to
AtomicOps have their effect on a module that is ready, refused register accesses only marking FERR, DENIED for a page not granted
and MMIO_WIDTH for a wrong width or alignment (00 R9, R10; 06 R213; 11 R319-R342; 14 R388; 16 R406-R414; 25 R495-R499). Which pages
device code reaches, the policy writer's number, the extent of BAR 2 and the first CAS (assumption log, entries 10, 20, 21 and 48),
the rounds of the device launches (entry 45), that an access that is refused for both reasons sets both bits (entry 63), and that
the overflow ring moves while its context is in error (entry 68), are the model's choices. -/
def Obligations.FrontAndHostEvents : Prop :=
  ∀ (s : State),
    (∀ q, let x := s.queue q
      let then_ (i : Instr) (y : HwQueue) : Prop := ∃ t, exec i s = .next t ∧ t.queue q = y
        ∧ { t with queues := [] } = { s with queues := [] } ∧ ∀ p, p ≠ q → t.queue p = s.queue p
      (s.modl.ready = true → (x.burstIn s.fck).values = [] →
          (∀ v, then_ (.evQtailWrite q v) (if x.halted = true then x else
            { (if x.bound = false ∨ v.toNat ≤ x.tail then x
              else if 2 ^ x.log2 < v.toNat - x.head then { x with tailJump := true, halted := true }
              else { x with tail := v.toNat } : HwQueue) with
              burst := some { x.burstIn s.fck with values := [v.toNat] } }))
          ∧ ∀ a b, ∃ t u t2 u2, exec (.evQtailWrite q a) s = .next t ∧ exec (.evQtailWrite q b) t = .next t2
              ∧ exec (.evQtailWrite q b) s = .next u ∧ exec (.evQtailWrite q a) u = .next u2 ∧ t2.queue q = u2.queue q)
      ∧ (∀ a b sc, x.halted = false → x.wait = .timeline a b sc true → exec (.evTlWaitRelease q) s = .next (s.nextPacket q 3))
      ∧ (∀ a b sc d v, x.halted = false → x.wait = .timeline a b sc false → s.feTimelineValue x.ctx a.toNat = (.ok d, v) →
          let u := s.feTimelineRead x.ctx a.toNat
          (b.toNat ≤ v → exec (.evTlWaitRelease q) s = .next (u.nextPacket q 3))
          ∧ (v < b.toNat → exec (.evTlWaitRelease q) s = .next u))
      ∧ (x.wait = .grids [] → then_ (.evParsingResumes q) { x with wait := .none }))
    ∧ (∀ ctx, let c := s.context ctx
        let then_ (i : Instr) (y : Context) : Prop := ∃ t, exec i s = .next t ∧ t.context ctx = y
          ∧ { t with contexts := [] } = { s with contexts := [] } ∧ ∀ k, k ≠ ctx → t.context k = s.context k
        (∀ cls lpb rest b, c.ovf = (cls, lpb) :: rest → ((c.launchQ[cls]?).getD []).length < 64 →
          s.feSpan ctx (c.ovfSlot 0) 256 ≠ .wait → s.readFe ctx (c.ovfSlot 0) 256 = some b →
          ∃ t, exec (.evOverflowMove ctx) s = .next t ∧ t.context ctx = { c with
              ovf := rest, ovfHead := (c.ovfHead + 1) % max 1 c.ovfEnt,
              launchQ := modAt c.launchQ cls (fun q => q ++ [(lpb, b)]) }
            ∧ { t with contexts := [], cores := [] } = { s with contexts := [], cores := [] }
            ∧ ∀ k, k ≠ ctx → t.context k = s.context k)
        ∧ (∀ cls lpb b rest, c.launchQ[cls]? = some ((lpb, b) :: rest) → cls < 4 →
            s.launchWaits ctx b = false →
            let fresh := s.launchCands.filter (fun x => !s.served.contains x)
            let turn := if fresh = [] then s.launchCands else fresh
            (cls, ctx) ∈ turn → (∀ x ∈ turn, cls ≤ x.1) →
            exec (.evDeviceLaunchDequeue ctx) s = .next ((State.updContext
              { s with served := (cls, ctx) :: (if fresh = [] then [] else s.served) } ctx
              (fun c => { c with launchQ := setAt c.launchQ cls rest })).acceptLaunch ctx lpb (some b) cls true false []))
        ∧ (s.modl.ready = true → ∀ v, then_ (.evCtxerrWrite ctx v) { c with
            lpbInvalid := c.lpbInvalid && !v.getLsbD 2, refusals := if v.getLsbD 2 then 0 else c.refusals,
            errOffset := if v.getLsbD 2 then 0 else c.errOffset, errQueue := if v.getLsbD 2 then 0 else c.errQueue,
            errDevice := c.errDevice && !v.getLsbD 2, unreadable := c.unreadable && !v.getLsbD 4,
            tlFail := c.tlFail && !v.getLsbD 1 })
        ∧ (∀ frame x, s.modl.ready = true → c.faultList.head? = some frame → s.frame? frame = some x →
            (∃ t, exec (.evFresumeResume ctx frame) s = .next t ∧ (t.context ctx).faultList = c.faultList.drop 1
              ∧ t.frame? frame = some { x with stopped := none })
            ∧ (∃ t, exec (.evFresumeKill ctx frame) s = .next t ∧ t.frame? frame = none))
        ∧ (∀ v, s.modl.ready = true → bits v.toNat 6 6 = 0 → v.toNat < 2 ^ 52 → v.toNat % 64 ≤ 40 →
            then_ (.evTlbinv ctx v) { c with tlbInv := c.tlbInv ++ [(v.toNat / 4096 * 4096, v.toNat % 64)] })
        ∧ (∀ va n rest, c.tlbInv = (va, n) :: rest → ∃ t, exec (.evTlbinvComplete ctx) s = .next t
            ∧ (t.context ctx).tlbInv = rest
            ∧ (∀ k, ∀ e ∈ (t.core k).tlb, e.ctx = ctx → rangesMeet va (2 ^ n * 4096) e.va e.size = false)
            ∧ (∀ p ∈ t.l2tlb, p.2.ctx = ctx → rangesMeet va (2 ^ n * 4096) p.2.va p.2.size = false)
            ∧ ∀ p ∈ t.walkCache, p.2.ctx = ctx →
                rangesMeet va (2 ^ n * 4096) p.2.va (levelSize (p.2.level - 1)) = false))
    ∧ (s.modl.ready = false → ∀ core v ctx h q, ∀ i ∈ [Instr.evCerrWrite core v, .evCtxerrWrite ctx v, .evTlbinv ctx v,
        .evQtailWrite q v, .evPosecommit h v], exec i s = .next s)
    ∧ (∀ core v, s.modl.ready = true → let c := s.core core
        ∃ t, exec (.evCerrWrite core v) s = .next t ∧ (∀ k, k ≠ core → t.core k = s.core k)
          ∧ t.core core = { c with
              stray := c.stray && !v.getLsbD 0, strayBy := if v.getLsbD 0 then 0 else c.strayBy,
              more := c.more && !v.getLsbD 1 })
    ∧ (∀ f, (s.mailbox f).busy = true → s.modl.ready = true → let m := s.mailbox f
        (s.modl.fwState = 1 →
          (∀ i, decodeMail (m.word 0) (m.word 1) (m.word 2) (m.word 3) f = some i →
            exec (.evMailboxCompletion f) s = exec i s)
          ∧ (decodeMail (m.word 0) (m.word 1) (m.word 2) (m.word 3) f = none →
            exec (.evMailboxCompletion f) s = .next (s.mailDone f .badCmd none)))
        ∧ (s.modl.fwState = 2 → f = 0 → (m.word 0).toNat % 256 = 7 →
          exec (.evMailboxCompletion f) s = .next (if s.modl.policy.ok s.modl.policy.useB = true
            then State.mailDone { s with modl := ({ s.modl with fwState := 1 } : ModuleState).loadPolicy } f .ok none
            else State.mailDone { s with modl := ({ s.modl with fwState := 3, fwFail := true } : ModuleState).settle } f
              .noResource none)))
    ∧ (∀ f dpa off v, place dpa = .regs off → f ≤ 16 → s.modl.ready = true →
        (s.pageGranted f (regPage off) = false → ∀ size, exec (.evRegisterWrite f dpa size v) s =
          .next (s.setFerr f (if size = 8 ∧ off % 8 = 0 then 2 else 3)))
        ∧ (s.pageGranted f (regPage off) = true →
          (∀ size, size ≠ 8 ∨ off % 8 ≠ 0 → exec (.evRegisterWrite f dpa size v) s = .next (s.setFerr f 1))
          ∧ (off % 8 = 0 → exec (.evRegisterWrite f dpa 8 v) s = .next (s.writeReg off v false)
            ∧ (∀ q, regPage off = .queue q → off % 4096 = 0 → exec (.evRegisterWrite f dpa 8 v) s = exec (.evQtailWrite q v) s)
            ∧ (∀ n, regPage off = .core n → off % 4096 = 0x20 → exec (.evRegisterWrite f dpa 8 v) s = exec (.evCerrWrite n v) s)
            ∧ ∀ h, regPage off = .head h → off % 4096 = 0x140 →
                exec (.evRegisterWrite f dpa 8 v) s = exec (.evPosecommit h v) s)))
    ∧ (∀ f off bytes a, s.modl.ready = true → s.memWf → (∀ i, i < bytes.length → s.bar2 f (off + i) = some (a + i)) →
        (∀ i, i < bytes.length → inPool (a + i) 1 = false) →
        (∃ t, exec (.evHostPostedWrite f off bytes) s = .next t
          ∧ (∀ i, i < bytes.length → cellAt t.mem (a + i) = (bytes[i]?).getD 0)
          ∧ ∀ e, e < a ∨ a + bytes.length ≤ e → cellAt t.mem e = cellAt s.mem e)
        ∧ ∃ t, exec (.evHostMemoryRead f off bytes.length) s = .next t ∧ t.modl.reply = s.readMem a bytes.length
            ∧ t.mem = s.mem)
    ∧ (∀ op v, s.hostOps.find? (fun o => o.id == op.id) = some op → s.memWf →
        (op.add = true → v ≠ op.expect → exec (.evHostAtomicopCompletion op.id (some v)) s = .next { s with
          hostOps := s.hostOps.map (fun o => if o.id = op.id then { o with expect := v } else o) })
        ∧ (op.add = false ∨ v = op.expect → ∃ t, exec (.evHostAtomicopCompletion op.id (some v)) s = .next t
            ∧ t.hostOps = s.hostOps.filter (fun o => o.id != op.id)
            ∧ t.readWord op.addr = (if op.add then min maxWord (v.toNat + op.value.toNat) else op.value.toNat)
            ∧ (∀ q, op.who = .queue q → (s.queue q).wait = .hostOp op.id → ∃ n, t.queue q = (n : HwQueue)
                ∧ n.head = ((s.queue q).advance 3).head ∧ n.bufs = ((s.queue q).advance 3).bufs ∧ n.wait = .none))
        ∧ (∀ q, op.who = .queue q → (s.queue q).wait = .hostOp op.id →
            ∃ t, exec (.evHostAtomicopCompletion op.id none) s = .next t ∧ t.queue q = (s.queue q).advance 3
              ∧ (t.context op.ctx).tlFail = true ∧ t.mem = s.mem))

/-! ## Presentation -/

/-- A write that sets RUN starts a head whose registers keep the limits, its line cores on its program, and otherwise
sets CFGERR; one that clears it lets the frame end, which stops the head and its line cores. Each line start passes
the line's pixels to the scan and takes the record to latch, once all that the line before makes due has happened; each guard point
closes a line with every visible pixel written, but for a line that a cleared RUN leaves unpresented; a band goes to the lowest rank
that is due, an overdue one is aborted and counted, its EMITs in flight counting as late; a captured frame is counted once none of
its lines is left in the path, and POSECOMMIT publishes the staged record (23 R480, R481; 24 R484-R488, R491, R494; 25 R495). The
check of a DisplayPort stream, the band of a faulted core, and the registers that the capture limits are tested against, are the
model's readings (assumption log, entries 18, 46 and 69). -/
def Obligations.PresentationEvents : Prop :=
  ∀ (s : State) (h : Nat),
    let x := s.head h
    let then_ (i : Instr) (y : Head) : Prop := ∃ t, exec i s = .next t ∧ t.head h = y ∧ (∀ k, k ≠ h → t.head k = s.head k)
    let met : Prop := x.latchedTo = x.line + x.latch + 1 ∧ x.closedTo = x.line + x.guard + 1
      ∧ s.lineCores.all (fun p => !(p.2.head == some h && s.overdue p.2)) = true ∧ s.dueBand h = none
    (∀ v : W64, s.modl.ready = true → v.getLsbD 0 = true → x.run = false → x.running = false →
        let s1 := s.updHead h (fun x => x.setControl v.toNat)
        (s1.runRefused h = true → then_ (.evRunSet h v) { x.setControl v.toNat with cfgErr := true })
        ∧ (s1.runRefused h = false → ∃ t, exec (.evRunSet h v) s = .next t ∧ (t.head h).run = true
            ∧ (t.head h).running = true ∧ (t.head h).line = 0 ∧ (t.head h).start = s.lck ∧ (t.head h).stopAt = none
            ∧ (t.head h).closedTo = x.guard
            ∧ ∀ n, n < 16 → v.getLsbD (16 + n) = true → (t.lineCore n).head = some h ∧ (t.lineCore n).band = none
                ∧ (t.lineCore n).store = s.loadBundles x.lpAddr (x.lpLen + 1)))
    ∧ (∀ v : W64, s.modl.ready = true → v.getLsbD 0 = true → x.run = false → x.running = true → then_ (.evRunSet h v) { x with cfgErr := true })
    ∧ (∀ v : W64, s.modl.ready = true → v.getLsbD 0 = false → x.run = true →
        then_ (.evRunClear h v) { x with run := false, stopAt := some ((x.line / (x.vtot + 1) + 1) * (x.vtot + 1)) })
    ∧ (x.running = true → x.stopAt = some (x.line + 1) → x.lineDue s.lck = true → met →
        ∃ t, exec (.evHeadStop h) s = .next t
          ∧ t.head h = { x with running := false, stopAt := none, frames := [], fifo := [], scan := [] }
          ∧ ∀ n, t.lineCore n = if (s.lineCore n).head = some h then
              { s.lineCore n with head := none, band := none, stopped := true } else s.lineCore n)
    ∧ (x.running = true → x.stopAt ≠ some (x.line + 1) → x.lineDue s.lck = true → met →
        ∃ t, exec (.evLineStart h) s = .next t ∧ (t.head h).line = x.line + 1 ∧ (t.head h).snap = x.record s.fck
          ∧ (t.head h).scan = (x.fifo.filter (fun p => p.1 == x.line + 1)).map (fun p => p.2)
          ∧ (t.head h).fifo = x.fifo.filter (fun p => x.line + 1 < p.1) ∧ t.lineCores = s.lineCores ∧ t.mem = s.mem)
    ∧ (x.running = true → x.latchedTo < x.line + x.latch + 1 → then_ (.evPoseLatch h) { x with
        latched := ((x.latchedTo, x.snap) :: x.latched).take 256, latchedTo := x.latchedTo + 1 })
    ∧ (¬met → exec (.evLineStart h) s = .next s ∧ exec (.evHeadStop h) s = .next s)
    ∧ (x.running = true → x.closedTo ≤ x.line + x.guard → ∃ t, exec (.evGuardPoint h) s = .next t
        ∧ (t.head h).closedTo = x.closedTo + 1 ∧ (∀ e ∈ x.fifo, e ∈ (t.head h).fifo)
        ∧ (∀ n, x.stopAt = some n → n ≤ x.closedTo → (t.head h).fifo = x.fifo)
        ∧ (x.closedTo % (x.vtot + 1) ≤ x.vact → (∀ n, x.stopAt = some n → x.closedTo < n) → ∀ p, p ≤ x.hact →
            (t.head h).fifo.any (fun e => e.1 == x.closedTo && e.2.1 == p) = true))
    ∧ (∀ core rank f k, x.assigned.zipIdx.findSome? (fun p =>
          (s.bandReady h p.2 p.1).map (fun b => (p.1, p.2, b.1, b.2))) = some (core, rank, f, k) →
        let c := s.lineCore core
        let first := f * (x.vtot + 1) + k * x.bandLines
        let rows := min x.bandLines (x.vact + 1 - k * x.bandLines)
        ∃ t, exec (.evBandDispatch h) s = .next t ∧ (∀ n, n ≠ core → t.lineCore n = s.lineCore n)
          ∧ t.lineCore core = { c with
              pc := 0, band := some ⟨h, f, first, rows⟩,
              k := setAt (setAt (setAt c.k 1 (BitVec.ofNat 32 first)) 2 (BitVec.ofNat 32 rows)) 3 (BitVec.ofNat 32 rank) }
          ∧ (t.head h).next = setAt x.next rank (x.bandAfter x.assigned.length rank f k))
    ∧ (∀ n b, (s.lineCore n).band = some b → s.overdue (s.lineCore n) = true → b.head = h →
        let c := s.lineCore n
        let lost := (c.results.filterMap (·.emit)).filter (fun e =>
          x.running && decide (0 ≤ e.line) && decide (e.line.toNat % (x.vtot + 1) ≤ x.vact))
        ∃ t, exec (.evBandAbort n) s = .next t
          ∧ t.lineCore n = { c with band := none, results := c.results.filter (fun r => r.emit.isNone) }
          ∧ t.head h = { x with overrun := x.overrun + 1, late := x.late + BitVec.ofNat 32 lost.length })
    ∧ (∀ f rest, x.capDone = f :: rest → ∃ t, exec (.evCaptureFrameDone h) s = .next t ∧ (t.head h).capDone = rest
        ∧ (t.head h).capCnt = x.capCnt + 1
        ∧ (∃ n, (t.head h).capQ = x.capQ.drop n) ∧ ∀ e ∈ (t.head h).capQ, e.1 ≠ f)
    ∧ (s.modl.ready = true → then_ (.evPosecommit h 1) { x with
        before := x.record s.fck, publishedAt := s.fck, poseSeq := x.poseSeq + 1,
        published := x.poseW.flatMap (fun (w : W64) => [w.setWidth 32, (w >>> 32).setWidth 32]) })
    ∧ ∀ v, v ≠ 1 → exec (.evPosecommit h v) s = .next s

/-! ## The module and the pod -/

/-- The token of the pod's current generation is taken and carries the module's entry; a steal reserves a range and
sends it, a stolen range stands as claims, reports and losses reach the home grid; requests of other modules read and
write local memory. Loss of power clears the module but for its flash; a start runs the bring-up steps; errors poison
what they hit; images, counters, measurements and sensors answer their requests (00 R8; 14 R386; 16 R418; 25 R495,
R500-R508). On an ordered flow the writes and atomics of an agent are performed in the order it sent them; before READY a request
reads 0 and writes nothing. The form of the failure list (assumption log, entry 22), the steals made (entry 23), that local memory
reads 0 after a loss of power (entry 3), and the form of a pod answer (entry 49), are the model's choices. -/
def Obligations.ModuleAndPodEvents : Prop :=
  ∀ (s : State),
    let me := s.modl.modNum
    let load := min 0xFFFFFF s.podLoad
    let idle := min 1023 s.podIdle
    let mine (t : State) (gen : W32) (es : List TokenEntry) : Prop := t.pod.gen = gen ∧ t.pod.seen = gen ∧ t.pod.seenAt = s.fck
      ∧ (∀ m, m ≠ me → t.pod.entries[m]? = es[m]?)
      ∧ (me < es.length → ∃ e, t.pod.entries[me]? = some e ∧ e.load = BitVec.ofNat 24 load ∧ e.idle = BitVec.ofNat 10 idle
          ∧ (e.sv = true ↔ load = 0 ∧ 64 ≤ idle) ∧ (e.sv = true → e.want = BitVec.ofNat 16 idle))
    (∀ (gen : W32) es, (gen.toNat < s.pod.seen.toNat → exec (.evWaterTurnToken gen es) s = .next s)
        ∧ (s.pod.seen.toNat ≤ gen.toNat → ∃ t, exec (.evWaterTurnToken gen es) s = .next t ∧ mine t gen es))
    ∧ (s.pod.seenAt + 200000 ≤ s.fck → ∃ t, exec (.evTokenRegeneration false) s = .next t
        ∧ mine t (s.pod.seen + 1) PodState.reset.entries)
    ∧ (∀ thief want g, s.pod.steals.find? (fun p => p.1 == thief) = some (thief, want) →
        leastBy (fun (g : Grid) => g.id) (s.grids.filter (fun g => g.home.isNone
          && ((s.context g.ctx).peer.bind (fun p => if p.1 = thief then some p.2 else none)).isSome)) = some g →
        let n := min want ((g.total - g.next) / 2) / g.lpb.gang * g.lpb.gang
        (n = 0 ∨ s.mayStart g = false → ∃ t, exec (.evSteal thief) s = .next t ∧ t.grids = s.grids ∧ t.pod.sent = s.pod.sent
          ∧ t.pod.steals = s.pod.steals.erase (thief, want))
        ∧ (0 < n → s.mayStart g = true → ∃ t x, exec (.evSteal thief) s = .next t ∧ t.pod.steals = s.pod.steals.erase (thief, want)
          ∧ (∀ y, s.grid? g.id = some y → t.grid? g.id = some { y with
              next := y.next + n, stolen := y.stolen ++ [(thief, g.next, n, [])] })
          ∧ t.pod.sent = s.pod.sent ++ [x] ∧ x.victim = me ∧ x.grid = g.id ∧ x.start = g.next ∧ x.count = n
          ∧ x.lpb = g.lpbAddr.toNat))
    ∧ (∀ range, s.readFe range.ctx range.lpb 256 = none →
        (s.feSpan range.ctx range.lpb 256 = .wait → exec (.evStealRangeArrival range) s = .next s)
        ∧ (s.feSpan range.ctx range.lpb 256 ≠ .wait → ∃ t, exec (.evStealRangeArrival range) s = .next t ∧ t.grids = s.grids
          ∧ (t.context range.ctx).lpbInvalid = true))
    ∧ (∀ range b k, s.readFe range.ctx range.lpb 256 = some b → s.readFe range.ctx (parseLpb b).kimg.toNat 256 = some k →
        ∃ t g, exec (.evStealRangeArrival range) s = .next t ∧ t.grids = s.grids ++ [g] ∧ t.mem = s.mem ∧ g.id = s.accepts
          ∧ g.ctx = range.ctx ∧ g.lpb = parseLpb b ∧ g.next = range.start ∧ g.total = range.start + range.count
          ∧ g.home = some (range.victim, range.grid))
    ∧ (∀ grid wgl g, s.grid? grid = some g → g.next < g.total → ∃ t, exec (.evStolenCompletionReport grid wgl) s = .next t
        ∧ (t.grid? grid).map (·.stolen) = some (g.stolen.map (fun x =>
            if x.2.1 ≤ wgl ∧ wgl < x.2.1 + x.2.2.1 ∧ wgl ∉ x.2.2.2 then (x.1, x.2.1, x.2.2.1, x.2.2.2 ++ [wgl]) else x)))
    ∧ (∀ thief, ∃ t, exec (.evThiefUnreachable thief) s = .next t ∧ ∀ g ∈ t.grids, ∀ x ∈ g.stolen, x.1 ≠ thief)
    ∧ (∀ q : PodRequest, q.addr < localBytes → s.modl.ready = false → ∃ t, exec (.evPodRequestArrival q) s = .next t
        ∧ t.mem = s.mem ∧ ∀ n, q.op = .read n → t.pod.responses = s.pod.responses ++ [(q.source, List.replicate n 0)])
    ∧ (∀ (q : PodRequest) k, q.addr < localBytes → s.modl.ready = true → q.order = some k → podReads q.op = false →
        (k ≠ s.pod.performedOf q → exec (.evPodRequestArrival q) s = .next s)
        ∧ (k = s.pod.performedOf q → ∃ t, exec (.evPodRequestArrival q) s = .next t ∧ t.pod.performedOf q = k + 1))
    ∧ (∀ m ctx flow agent order a n, a + n ≤ localBytes → 0 < n → s.memWf → s.modl.ready = true →
        let req (op : PodOp) : PodRequest := ⟨m, ctx, flow, agent, order, a, op⟩
        (∀ k, order = some k → k = s.pod.performedOf (req (.read n))) →
        let answers (op : PodOp) (b : List Byte) (new : List Byte) : Prop :=
          ∃ t, exec (.evPodRequestArrival (req op)) s = .next t ∧ t.pod.responses = s.pod.responses ++ [(m, b)]
            ∧ (∀ i, i < new.length → cellAt t.mem (a + i) = (new[i]?).getD 0)
            ∧ ∀ e, e < a ∨ a + new.length ≤ e → cellAt t.mem e = cellAt s.mem e
        let old := ofBytes (s.readMem a n)
        answers (.read n) (s.readMem a n) []
        ∧ (∀ v, answers (.add v n) (toBytes n old) (toBytes n (old + v.toNat))
            ∧ answers (.exch v n) (toBytes n old) (toBytes n v.toNat))
        ∧ (∀ c v, answers (.cas c v n) (toBytes n old)
            (toBytes n (if old = c.toNat % 2 ^ (8 * n) then v.toNat else old)))
        ∧ (∀ ty k rnd (v : W64), wtypeBits ty / 8 = n →
            let x := atomOp ty (k : BitVec 3).toNat rnd old (v.toNat % 2 ^ (8 * n))
            answers (.atom ty k rnd v) (toBytes n old ++ toBytes 1 x.2.toNat) (toBytes n x.1))
        ∧ (∀ b : List Byte, b.length = n → ∃ t, exec (.evPodRequestArrival (req (.write b))) s = .next t
            ∧ (∀ i, i < n → cellAt t.mem (a + i) = (b[i]?).getD 0)
            ∧ ∀ e, e < a ∨ a + n ≤ e → cellAt t.mem e = cellAt s.mem e)
        ∧ (n = 8 → ∀ v, ∃ t, exec (.evPodRequestArrival (req (.tladd v))) s = .next t
            ∧ t.readWord a = min maxWord (s.readWord a + v.toNat))
        ∧ (n = 8 → ∀ v, ∃ t, exec (.evPodRequestArrival (req (.tlset v))) s = .next t ∧ t.readWord a = v.toNat))
    ∧ (∀ i, i ∈ [Instr.evThermalTrip, .evInputUndervoltage] → ∃ t, exec i s = .next t ∧ t.modl.ready = false
        ∧ t.modl.powered = false ∧ t.cores = [] ∧ t.grids = [] ∧ t.modl.config = s.modl.config
        ∧ t.modl.recordA = s.modl.recordA ∧ (s.memWf → ∀ a, a < localBytes → cellAt t.mem a = unlisted))
    ∧ (∀ fails, (s.modl.ready = true → exec (.evPowerUp fails) s = .next s)
        ∧ (s.modl.ready = false → exec (.evPowerUp fails) s = .next (State.bringUp { s.powerLoss with
            modl := { s.powerLoss.modl with powered := true } } fails ((List.range 24).map (· + 1)))))
    ∧ (∀ a, ∃ t, exec (.evUncorrectableError (.memory a)) s = .next t ∧ a ∈ t.poison ∧ t.mem = s.mem)
    ∧ (∀ f x, s.frame? f = some x → ∃ t, exec (.evUncorrectableError (.frame f)) s = .next t
        ∧ t.frame? f = some { x with poisoned := true })
    ∧ (∀ r v n, s.wave? r = some v → ∃ t u, exec (.evUncorrectableError (.scalar r n)) s = .next t ∧ t.wave? r = some u
        ∧ n ∈ u.spoison ∧ { u with spoison := [] } = { v with spoison := [] })
    ∧ (∃ t, exec (.evUncorrectableError .device) s = .next t ∧ t.modl.uncErr = true ∧ t.modl.replace = true)
    ∧ (∀ n nonce d, s.modl.measured[n]? = some d → ∃ t, exec (.evSpdmMeasurements (n + 1) nonce) s = .next t
        ∧ t.modl.reply = d ++ Config.signature (d ++ nonce))
    ∧ (∀ im bytes counter, let f := s.modl.slots im
        (∃ t, exec (.evPldmFirmwareUpdate im bytes) s = .next t ∧ (t.modl.slots im).image (!f.useB) = bytes
          ∧ (t.modl.slots im).image f.useB = f.image f.useB ∧ (t.modl.slots im).updated = true)
        ∧ ∃ t, exec (.evPldmActivation im counter) s = .next t
          ∧ t.modl.slots im = { f with minCounter := max f.minCounter counter })
    ∧ (∀ n, ∃ t, exec (.evPldmSensorRead n) s = .next t ∧ t.modl.reply.length = 8
        ∧ (n = .replace → t.modl.reply = toBytes 8 s.modl.replace.toNat))

/-! ## Steps, words and the memory -/

/-- A step runs the instruction that the turn's agent fetches, and then what follows from every step in its own moment: the
wave's next word with its literal, or its clause start; the sequencer word of the first context of the wheel, or of the trap
context; the word of an engine queue that starts next, or the weight loader's that goes on; a packet; a mailbox command; an
event (03 R88, R94; 07 R222, R230; 08 R261, R262; 11 R319-R322, R340). The agenda is the model's own (assumption log, entry
1). -/
def Obligations.StepRunsTheDecodedWord : Prop :=
  ∀ (s : State) (turn : Turn) (rest : List Turn), s.agenda = turn :: rest →
    let z : State := { s with agenda := rest }
    let reached (x : State) (g : Workgroup) (d : Nat) : Prop :=
      x.awaitsMember g d = false ∧ ∀ i, i < 8 → x.poisonedByte (d + i) = false
    (∀ r g v q, turn = .wave r → r.core < 768 → z.wg? (wgOf r) = some g → z.wave? r = some v → v.ended = false →
        g.saving = false → v.block.stops = false →
        (v.group = none → step s = settled (exec .evClauseStart { z with cur := .wave r }))
        ∧ (v.group = some q → q.ix < q.words → ∀ d, let x := z.translate r.core g.ctx q.wordAddr.toNat .fetch
          x.1 = .ok d → reached z g d → let n := z.fetchAt r.core g.ctx d
          let x1 := x.2.noteFetch r.core d
          (∀ i, selectsLit n = false → decodeWave (BitVec.ofNat 64 n) none = some i →
            step s = settled (exec i { x1 with cur := .wave r }))
          ∧ (∀ i e, selectsLit n = true → q.illegal n = false → q.ix + 1 < q.words →
              let y := x1.translate r.core g.ctx (q.wordAddr + 8).toNat .fetch
              y.1 = .ok e → reached x1 g e →
              decodeWave (BitVec.ofNat 64 n) (some (BitVec.ofNat 64 (x1.fetchAt r.core g.ctx e))) = some i →
              step s = settled (exec i { y.2.noteFetch r.core e with cur := .wave r }))))
    ∧ (∀ core, turn = .seq core → core < 768 →
        let u := z.updCore core (fun c => { c with wheel := (c.wheel + 1) % 8 })
        (∀ slot g j i, (u.core core).trap.item = none → u.jobSlot core = some slot → u.wg? ⟨core, slot⟩ = some g →
          g.job = some j → g.saving = false → j.started = true → j.ended = false →
          let ctx := wheelOwner (z.core core).wheel
          let pc := (j.ctx ctx).pc
          let n := u.noteCopyWaits core slot j
          j.waits ctx = false → pc < 0xE000 → j.loading pc = false → decodeSeq (n.storeWord core pc) = some i →
          (∀ op w c, seqOpcode i = some (op, w) → n.seqIssue? core ctx (n.storeWord core pc) = some c →
            c.blocked n op w = false → step s = settled (exec i { n with cur := .seq core ctx })))
        ∧ (∀ i, (u.core core).trap.item.isSome = true → (u.core core).trap.escalating = false → u.trapLoading core = false →
            let pc := (u.core core).trap.pc
            pc ≤ 0xFFFC → decodeSeq (u.storeWord core pc) = some i → pc ≠ 0xE000 ∨ u.storeWord core pc ≠ 0 →
            ∀ op w c, seqOpcode i = some (op, w) → u.seqIssue? core .trap (u.storeWord core pc) = some c →
              c.blocked u op w = false → step s = settled (exec i { u with cur := .seq core .trap })))
    ∧ (∀ core q c f, turn = .engine core q → core < 768 → assoc matrixOps c.q.opx = some f →
        (q = .matrix → z.loaderResumes core = some c →
          step s = settled (exec (f c.q.w) { z with cur := .engine core q }))
        ∧ ((q = .matrix → z.loaderResumes core = none) → z.startWord? core q = some c → z.wordStarts c = true →
          step s = settled (exec (f c.q.w) { z.updHead' c EngineQ.advance with cur := .engine core q })))
    ∧ (∀ q h d e i n body, turn = .packet q → q < 256 → z.modl.ready = true → let x := z.queue q
        x.bound = true → x.halted = false → x.wait = .none → x.room 1 = .fits →
        let a := z.feWords x.ctx [x.wordVa 0]
        a.1 = (.ok d, [h]) → n = bits h.toNat 8 16 → 0 < n → x.room n = .fits →
        let b := a.2.feWords x.ctx ((List.range (n - 1)).map (fun i => x.wordVa (i + 1)))
        b.1 = (.ok e, body) → decodePacket h body = some i → h.toNat / 2 ^ 24 % 256 = 0 →
        step s = settled (exec i { b.2 with cur := .packet q }))
    ∧ (∀ f i, turn = .mail f → f < 17 → (z.mailbox f).busy = true → z.modl.ready = true → z.modl.fwState = 1 →
        let m := z.mailbox f
        decodeMail (m.word 0) (m.word 1) (m.word 2) (m.word 3) f = some i →
        step s = settled (exec i { z with cur := .mail f }))
    ∧ ∀ i, turn = .event i → step s = settled (exec i { z with cur := .none })

/-- Words written out from the encoding tables decode to the instruction they stand for: ADD, LD and FFMA of chapter 3's
example with its literal, an ADD with an immediate pair, the sequencer's MUL with two token markers, MCLR, MSTEP, a line
slot, a packet header and a mailbox command (03 R85, R88, R92, R104, R107, R109; 11 R322, R341). -/
def Obligations.DecodedWords : Prop :=
  let w : WWord := ⟨.s32, 0, 0, false, false, 0, 7, .v 1, .imm 5, .v 0, .rn⟩
  let mat : MWord := ⟨3, false, 0, 0, 0, 0, 0, 0, 0, 0, .rn, false, 0, 0, 0, 0, 0⟩
  decodeWave 0x0120000701050030 none = some (.wAdd w)
  ∧ decodeWave 0xA08000090407684C none = some (.wLd { w with
      t := .b32, d := 9, a := .s 4, b := .v 7, c := .ctl ⟨.dv, .acq, .plain⟩ })
  ∧ decodeWave 0x83C0740A0B0C800D (some 0x000000003FC00000) = some (.wFfma { w with
      t := .f32, p := 3, pn := true, l := 4, d := 10, a := .v 11, b := .v 12, c := .lit 0x3FC00000, rnd := .rz })
  ∧ decodeWave 0x0118041415012C3C none = some (.wAdd { w with
      t := .s16, m := 8, l := 4, d := 20, a := .v 21, b := .pair 300 })
  ∧ decodeSeq 0x270A6380 = some (.seqMul { tu := true, gd := true, td := false, gu := false, d := 5, a := 6, b := 7, imm := 0 })
  ∧ decodeMatrix (5 * 2 ^ 188 + 3 * 2 ^ 185) = some (.mClr mat)
  ∧ decodeMatrix (2 * 2 ^ 188 + 1 * 2 ^ 185 + 1 * 2 ^ 184 + 0x0C * 2 ^ 179 + 15 * 2 ^ 167 + 7 * 2 ^ 161 + 3 * 2 ^ 155
      + 2 * 2 ^ 138 + 0x80 * 2 ^ 108 + 0x40 * 2 ^ 68) = some (.mStep { mat with
      d := 1, c := true, fmt := 12, kx := 15, nx := 7, px := 3, hg := 2, a := 128, astr := 64 })
  ∧ decodeSlot 1 (0x01 * 2 ^ 26 + 1 * 2 ^ 18 + 2 * 2 ^ 13 + 3 * 2 ^ 8) = some (.lHadd
      { slot := 1, y := 0, yn := false, d := 1, a := 2, b := 3, c := 0, m := 0 })
  ∧ decodePacket (2 * 2 ^ 32 + 3 * 2 ^ 8 + 0x03) [0x1000, 7] = some (.pkTlWait ⟨2, 3, [0x1000, 7]⟩)
  ∧ decodeMail 0x03 5 0x600 0x2000 0 = some (.mbBindQueue ⟨0, 5, 0x600, 0x2000⟩)

/-- Decoding what the encoder writes gives the instruction back, for every wave word, sequencer word, matrix word, line
slot, packet and mailbox command whose fields keep the limits of its form, with every operand at every value its form
admits (03 R85-R92, R104-R111; 11 R322, R323, R341; 25 R498). -/
def Obligations.DecodeOfEncode : Prop :=
  ∀ i : Instr, WellFormed i →
    (∀ op w, waveOpcode i = some (op, w) → decodeWave (encodeWaveWord op w) (literalsOf w).head? = some i)
    ∧ (∀ op w f, seqOpcode i = some (op, w) → seqForm op = some f → decodeSeq (encodeSeqWord op f.fmt w) = some i)
    ∧ (∀ op w, matrixOpcode i = some (op, w) → decodeMatrix (encodeMatrixWord op w) = some i)
    ∧ (∀ slot op w, lineOpcode i = some (slot, op, w) → decodeSlot w.slot.toNat (encodeSlotWord op w) = some i)
    ∧ (∀ ty w, packetType i = some (ty, w) → decodePacket (encodePacketHeader ty w) w.body = some i)
    ∧ (∀ c w, mailCode i = some (c, w) → decodeMail (BitVec.ofNat 64 c) w.a1 w.a2 w.a3 w.func = some i)

/-- The memory beyond the caches, s.mem, keeps its canonical form, one entry for a byte that is not as an unlisted byte reads,
in rising addresses, through every step that leads to a next state (00 R4; 01 R45). Of scratchpads, instruction stores, line
buffers and saved frames, which are lists of cells of their own, nothing is said here. -/
def Obligations.StepsKeepMemoryCanonical : Prop :=
  ∀ s t : State, s.Inv → step s = .next t → t.Inv

/-- The machine after reset: its memory is in canonical form and lists nothing, no workgroup is resident, no grid
accepted, no queue bound, no head runs, the shed level is 0, and every accumulator tile has no owner, is EMPTY and
holds zeros (00 R8; 08 R263; 11 R318; 22 R475). That memory lists nothing, and so reads 0, is the model's choice
(assumption log, entry 3). -/
def Obligations.ResetState : Prop :=
  let s := State.reset
  s.Inv ∧ s.mem = [] ∧ s.allWgs = [] ∧ s.grids = [] ∧ s.frames = [] ∧ (∀ q, (s.queue q).bound = false)
    ∧ (∀ h, (s.head h).running = false ∧ (s.head h).run = false) ∧ s.power.level = 0 ∧ (∀ c, (s.context c).created = false)
    ∧ ∀ core tile, (s.accTile core tile).owner = none ∧ (s.accTile core tile).kind = .empty ∧ (s.accTile core tile).fold = none
        ∧ ∀ n, (s.accTile core tile).elem n = 0
end

