-- ==== Sys2Proof/Laws/State.lean ====
section
/-! SUPPORT. What the updates of State leave as it was, field by field, and what they change: the reads of a
unit after a change of a unit. -/

namespace Sys2Proof.Machine

/-! ## Lists of pairs -/

theorem assoc_assocSet_self {α : Type} (l : List (Nat × α)) (n : Nat) (v : α) : assoc (assocSet l n v) n = some v := by
  induction l with
  | nil => simp [assocSet, assoc]
  | cons p rest ih =>
    obtain ⟨k, x⟩ := p
    by_cases h : n < k
    · simp [assocSet, assoc, h]
    · by_cases e : n = k
      · subst e; simp [assocSet, assoc]
      · simp [assocSet, assoc, h, e, ih, Ne.symm e]

theorem assoc_assocSet_of_ne {α : Type} (l : List (Nat × α)) {m n : Nat} (v : α) (hne : m ≠ n) :
    assoc (assocSet l n v) m = assoc l m := by
  induction l with
  | nil => simp [assocSet, assoc, Ne.symm hne]
  | cons p rest ih =>
    obtain ⟨k, x⟩ := p
    by_cases h : n < k
    · simp [assocSet, assoc, h, Ne.symm hne]
    · by_cases e : n = k
      · subst e; simp [assocSet, assoc, Ne.symm hne]
      · simp only [assocSet, if_neg h, if_neg e, assoc, ih]

@[simp] theorem assoc_assocSet {α : Type} (l : List (Nat × α)) (m n : Nat) (v : α) :
    assoc (assocSet l n v) m = if m = n then some v else assoc l m := by
  by_cases h : m = n
  · subst h; simp [assoc_assocSet_self]
  · simp [assoc_assocSet_of_ne l v h, h]

@[simp] theorem modAt_length {α : Type} (l : List α) (i : Nat) (f : α → α) : (modAt l i f).length = l.length := by
  induction l generalizing i with
  | nil => simp [modAt]
  | cons x rest ih => cases i <;> simp [modAt, ih]

@[simp] theorem setAt_length {α : Type} (l : List α) (i : Nat) (v : α) : (setAt l i v).length = l.length := by
  induction l generalizing i with
  | nil => simp [setAt]
  | cons x rest ih => cases i <;> simp [setAt, ih]

theorem modAt_getElem? {α : Type} (l : List α) (i j : Nat) (f : α → α) :
    (modAt l i f)[j]? = if j = i then (l[j]?).map f else l[j]? := by
  induction l generalizing i j with
  | nil => simp [modAt]
  | cons x rest ih => cases i <;> cases j <;> simp [modAt, ih]

theorem setAt_getElem? {α : Type} (l : List α) (i j : Nat) (v : α) :
    (setAt l i v)[j]? = if j = i then (l[j]?).map (fun _ => v) else l[j]? := by
  induction l generalizing i j with
  | nil => simp [setAt]
  | cons x rest ih => cases i <;> cases j <;> simp [setAt, ih]

/-! ## setCore -/

@[simp] theorem State.setCore_mem (s : State) (n : Nat) (c : ComputeCore) : (s.setCore n c).mem = s.mem := rfl
@[simp] theorem State.setCore_poison (s : State) (n : Nat) (c : ComputeCore) : (s.setCore n c).poison = s.poison := rfl
@[simp] theorem State.setCore_fck (s : State) (n : Nat) (c : ComputeCore) : (s.setCore n c).fck = s.fck := rfl
@[simp] theorem State.setCore_lck (s : State) (n : Nat) (c : ComputeCore) : (s.setCore n c).lck = s.lck := rfl
@[simp] theorem State.setCore_tiles (s : State) (n : Nat) (c : ComputeCore) : (s.setCore n c).tiles = s.tiles := rfl
@[simp] theorem State.setCore_islands (s : State) (n : Nat) (c : ComputeCore) : (s.setCore n c).islands = s.islands := rfl
@[simp] theorem State.setCore_l2tlb (s : State) (n : Nat) (c : ComputeCore) : (s.setCore n c).l2tlb = s.l2tlb := rfl
@[simp] theorem State.setCore_walkCache (s : State) (n : Nat) (c : ComputeCore) : (s.setCore n c).walkCache = s.walkCache := rfl
@[simp] theorem State.setCore_grids (s : State) (n : Nat) (c : ComputeCore) : (s.setCore n c).grids = s.grids := rfl
@[simp] theorem State.setCore_accepts (s : State) (n : Nat) (c : ComputeCore) : (s.setCore n c).accepts = s.accepts := rfl
@[simp] theorem State.setCore_frames (s : State) (n : Nat) (c : ComputeCore) : (s.setCore n c).frames = s.frames := rfl
@[simp] theorem State.setCore_stops (s : State) (n : Nat) (c : ComputeCore) : (s.setCore n c).stops = s.stops := rfl
@[simp] theorem State.setCore_saves (s : State) (n : Nat) (c : ComputeCore) : (s.setCore n c).saves = s.saves := rfl
@[simp] theorem State.setCore_contexts (s : State) (n : Nat) (c : ComputeCore) : (s.setCore n c).contexts = s.contexts := rfl
@[simp] theorem State.setCore_queues (s : State) (n : Nat) (c : ComputeCore) : (s.setCore n c).queues = s.queues := rfl
@[simp] theorem State.setCore_bind (s : State) (n : Nat) (c : ComputeCore) : (s.setCore n c).bind = s.bind := rfl
@[simp] theorem State.setCore_mail (s : State) (n : Nat) (c : ComputeCore) : (s.setCore n c).mail = s.mail := rfl
@[simp] theorem State.setCore_grants (s : State) (n : Nat) (c : ComputeCore) : (s.setCore n c).grants = s.grants := rfl
@[simp] theorem State.setCore_ferr (s : State) (n : Nat) (c : ComputeCore) : (s.setCore n c).ferr = s.ferr := rfl
@[simp] theorem State.setCore_served (s : State) (n : Nat) (c : ComputeCore) : (s.setCore n c).served = s.served := rfl
@[simp] theorem State.setCore_hostOps (s : State) (n : Nat) (c : ComputeCore) : (s.setCore n c).hostOps = s.hostOps := rfl
@[simp] theorem State.setCore_hostOpId (s : State) (n : Nat) (c : ComputeCore) : (s.setCore n c).hostOpId = s.hostOpId := rfl
@[simp] theorem State.setCore_power (s : State) (n : Nat) (c : ComputeCore) : (s.setCore n c).power = s.power := rfl
@[simp] theorem State.setCore_presv (s : State) (n : Nat) (c : ComputeCore) : (s.setCore n c).presv = s.presv := rfl
@[simp] theorem State.setCore_heads (s : State) (n : Nat) (c : ComputeCore) : (s.setCore n c).heads = s.heads := rfl
@[simp] theorem State.setCore_lineCores (s : State) (n : Nat) (c : ComputeCore) : (s.setCore n c).lineCores = s.lineCores := rfl
@[simp] theorem State.setCore_lineLast (s : State) (n : Nat) (c : ComputeCore) : (s.setCore n c).lineLast = s.lineLast := rfl
@[simp] theorem State.setCore_pod (s : State) (n : Nat) (c : ComputeCore) : (s.setCore n c).pod = s.pod := rfl
@[simp] theorem State.setCore_modl (s : State) (n : Nat) (c : ComputeCore) : (s.setCore n c).modl = s.modl := rfl
@[simp] theorem State.setCore_agenda (s : State) (n : Nat) (c : ComputeCore) : (s.setCore n c).agenda = s.agenda := rfl
@[simp] theorem State.setCore_cur (s : State) (n : Nat) (c : ComputeCore) : (s.setCore n c).cur = s.cur := rfl
@[simp] theorem State.setCore_freeCount (s : State) (n : Nat) (c : ComputeCore) : (s.setCore n c).freeCount = s.freeCount := rfl

/-! ## updCore -/

@[simp] theorem State.updCore_mem (s : State) (n : Nat) (f : ComputeCore → ComputeCore) : (s.updCore n f).mem = s.mem := rfl
@[simp] theorem State.updCore_poison (s : State) (n : Nat) (f : ComputeCore → ComputeCore) : (s.updCore n f).poison = s.poison := rfl
@[simp] theorem State.updCore_fck (s : State) (n : Nat) (f : ComputeCore → ComputeCore) : (s.updCore n f).fck = s.fck := rfl
@[simp] theorem State.updCore_lck (s : State) (n : Nat) (f : ComputeCore → ComputeCore) : (s.updCore n f).lck = s.lck := rfl
@[simp] theorem State.updCore_tiles (s : State) (n : Nat) (f : ComputeCore → ComputeCore) : (s.updCore n f).tiles = s.tiles := rfl
@[simp] theorem State.updCore_islands (s : State) (n : Nat) (f : ComputeCore → ComputeCore) : (s.updCore n f).islands = s.islands := rfl
@[simp] theorem State.updCore_l2tlb (s : State) (n : Nat) (f : ComputeCore → ComputeCore) : (s.updCore n f).l2tlb = s.l2tlb := rfl
@[simp] theorem State.updCore_walkCache (s : State) (n : Nat) (f : ComputeCore → ComputeCore) : (s.updCore n f).walkCache = s.walkCache := rfl
@[simp] theorem State.updCore_grids (s : State) (n : Nat) (f : ComputeCore → ComputeCore) : (s.updCore n f).grids = s.grids := rfl
@[simp] theorem State.updCore_accepts (s : State) (n : Nat) (f : ComputeCore → ComputeCore) : (s.updCore n f).accepts = s.accepts := rfl
@[simp] theorem State.updCore_frames (s : State) (n : Nat) (f : ComputeCore → ComputeCore) : (s.updCore n f).frames = s.frames := rfl
@[simp] theorem State.updCore_stops (s : State) (n : Nat) (f : ComputeCore → ComputeCore) : (s.updCore n f).stops = s.stops := rfl
@[simp] theorem State.updCore_saves (s : State) (n : Nat) (f : ComputeCore → ComputeCore) : (s.updCore n f).saves = s.saves := rfl
@[simp] theorem State.updCore_contexts (s : State) (n : Nat) (f : ComputeCore → ComputeCore) : (s.updCore n f).contexts = s.contexts := rfl
@[simp] theorem State.updCore_queues (s : State) (n : Nat) (f : ComputeCore → ComputeCore) : (s.updCore n f).queues = s.queues := rfl
@[simp] theorem State.updCore_bind (s : State) (n : Nat) (f : ComputeCore → ComputeCore) : (s.updCore n f).bind = s.bind := rfl
@[simp] theorem State.updCore_mail (s : State) (n : Nat) (f : ComputeCore → ComputeCore) : (s.updCore n f).mail = s.mail := rfl
@[simp] theorem State.updCore_grants (s : State) (n : Nat) (f : ComputeCore → ComputeCore) : (s.updCore n f).grants = s.grants := rfl
@[simp] theorem State.updCore_ferr (s : State) (n : Nat) (f : ComputeCore → ComputeCore) : (s.updCore n f).ferr = s.ferr := rfl
@[simp] theorem State.updCore_served (s : State) (n : Nat) (f : ComputeCore → ComputeCore) : (s.updCore n f).served = s.served := rfl
@[simp] theorem State.updCore_hostOps (s : State) (n : Nat) (f : ComputeCore → ComputeCore) : (s.updCore n f).hostOps = s.hostOps := rfl
@[simp] theorem State.updCore_hostOpId (s : State) (n : Nat) (f : ComputeCore → ComputeCore) : (s.updCore n f).hostOpId = s.hostOpId := rfl
@[simp] theorem State.updCore_power (s : State) (n : Nat) (f : ComputeCore → ComputeCore) : (s.updCore n f).power = s.power := rfl
@[simp] theorem State.updCore_presv (s : State) (n : Nat) (f : ComputeCore → ComputeCore) : (s.updCore n f).presv = s.presv := rfl
@[simp] theorem State.updCore_heads (s : State) (n : Nat) (f : ComputeCore → ComputeCore) : (s.updCore n f).heads = s.heads := rfl
@[simp] theorem State.updCore_lineCores (s : State) (n : Nat) (f : ComputeCore → ComputeCore) : (s.updCore n f).lineCores = s.lineCores := rfl
@[simp] theorem State.updCore_lineLast (s : State) (n : Nat) (f : ComputeCore → ComputeCore) : (s.updCore n f).lineLast = s.lineLast := rfl
@[simp] theorem State.updCore_pod (s : State) (n : Nat) (f : ComputeCore → ComputeCore) : (s.updCore n f).pod = s.pod := rfl
@[simp] theorem State.updCore_modl (s : State) (n : Nat) (f : ComputeCore → ComputeCore) : (s.updCore n f).modl = s.modl := rfl
@[simp] theorem State.updCore_agenda (s : State) (n : Nat) (f : ComputeCore → ComputeCore) : (s.updCore n f).agenda = s.agenda := rfl
@[simp] theorem State.updCore_cur (s : State) (n : Nat) (f : ComputeCore → ComputeCore) : (s.updCore n f).cur = s.cur := rfl
@[simp] theorem State.updCore_freeCount (s : State) (n : Nat) (f : ComputeCore → ComputeCore) : (s.updCore n f).freeCount = s.freeCount := rfl

/-! ## updTile -/

@[simp] theorem State.updTile_mem (s : State) (n : Nat) (f : Tile64 → Tile64) : (s.updTile n f).mem = s.mem := rfl
@[simp] theorem State.updTile_poison (s : State) (n : Nat) (f : Tile64 → Tile64) : (s.updTile n f).poison = s.poison := rfl
@[simp] theorem State.updTile_fck (s : State) (n : Nat) (f : Tile64 → Tile64) : (s.updTile n f).fck = s.fck := rfl
@[simp] theorem State.updTile_lck (s : State) (n : Nat) (f : Tile64 → Tile64) : (s.updTile n f).lck = s.lck := rfl
@[simp] theorem State.updTile_islands (s : State) (n : Nat) (f : Tile64 → Tile64) : (s.updTile n f).islands = s.islands := rfl
@[simp] theorem State.updTile_cores (s : State) (n : Nat) (f : Tile64 → Tile64) : (s.updTile n f).cores = s.cores := rfl
@[simp] theorem State.updTile_l2tlb (s : State) (n : Nat) (f : Tile64 → Tile64) : (s.updTile n f).l2tlb = s.l2tlb := rfl
@[simp] theorem State.updTile_walkCache (s : State) (n : Nat) (f : Tile64 → Tile64) : (s.updTile n f).walkCache = s.walkCache := rfl
@[simp] theorem State.updTile_grids (s : State) (n : Nat) (f : Tile64 → Tile64) : (s.updTile n f).grids = s.grids := rfl
@[simp] theorem State.updTile_accepts (s : State) (n : Nat) (f : Tile64 → Tile64) : (s.updTile n f).accepts = s.accepts := rfl
@[simp] theorem State.updTile_frames (s : State) (n : Nat) (f : Tile64 → Tile64) : (s.updTile n f).frames = s.frames := rfl
@[simp] theorem State.updTile_stops (s : State) (n : Nat) (f : Tile64 → Tile64) : (s.updTile n f).stops = s.stops := rfl
@[simp] theorem State.updTile_saves (s : State) (n : Nat) (f : Tile64 → Tile64) : (s.updTile n f).saves = s.saves := rfl
@[simp] theorem State.updTile_contexts (s : State) (n : Nat) (f : Tile64 → Tile64) : (s.updTile n f).contexts = s.contexts := rfl
@[simp] theorem State.updTile_queues (s : State) (n : Nat) (f : Tile64 → Tile64) : (s.updTile n f).queues = s.queues := rfl
@[simp] theorem State.updTile_bind (s : State) (n : Nat) (f : Tile64 → Tile64) : (s.updTile n f).bind = s.bind := rfl
@[simp] theorem State.updTile_mail (s : State) (n : Nat) (f : Tile64 → Tile64) : (s.updTile n f).mail = s.mail := rfl
@[simp] theorem State.updTile_grants (s : State) (n : Nat) (f : Tile64 → Tile64) : (s.updTile n f).grants = s.grants := rfl
@[simp] theorem State.updTile_ferr (s : State) (n : Nat) (f : Tile64 → Tile64) : (s.updTile n f).ferr = s.ferr := rfl
@[simp] theorem State.updTile_served (s : State) (n : Nat) (f : Tile64 → Tile64) : (s.updTile n f).served = s.served := rfl
@[simp] theorem State.updTile_hostOps (s : State) (n : Nat) (f : Tile64 → Tile64) : (s.updTile n f).hostOps = s.hostOps := rfl
@[simp] theorem State.updTile_hostOpId (s : State) (n : Nat) (f : Tile64 → Tile64) : (s.updTile n f).hostOpId = s.hostOpId := rfl
@[simp] theorem State.updTile_power (s : State) (n : Nat) (f : Tile64 → Tile64) : (s.updTile n f).power = s.power := rfl
@[simp] theorem State.updTile_presv (s : State) (n : Nat) (f : Tile64 → Tile64) : (s.updTile n f).presv = s.presv := rfl
@[simp] theorem State.updTile_heads (s : State) (n : Nat) (f : Tile64 → Tile64) : (s.updTile n f).heads = s.heads := rfl
@[simp] theorem State.updTile_lineCores (s : State) (n : Nat) (f : Tile64 → Tile64) : (s.updTile n f).lineCores = s.lineCores := rfl
@[simp] theorem State.updTile_lineLast (s : State) (n : Nat) (f : Tile64 → Tile64) : (s.updTile n f).lineLast = s.lineLast := rfl
@[simp] theorem State.updTile_pod (s : State) (n : Nat) (f : Tile64 → Tile64) : (s.updTile n f).pod = s.pod := rfl
@[simp] theorem State.updTile_modl (s : State) (n : Nat) (f : Tile64 → Tile64) : (s.updTile n f).modl = s.modl := rfl
@[simp] theorem State.updTile_agenda (s : State) (n : Nat) (f : Tile64 → Tile64) : (s.updTile n f).agenda = s.agenda := rfl
@[simp] theorem State.updTile_cur (s : State) (n : Nat) (f : Tile64 → Tile64) : (s.updTile n f).cur = s.cur := rfl
@[simp] theorem State.updTile_freeCount (s : State) (n : Nat) (f : Tile64 → Tile64) : (s.updTile n f).freeCount = s.freeCount := rfl

/-! ## updContext -/

@[simp] theorem State.updContext_mem (s : State) (n : Nat) (f : Context → Context) : (s.updContext n f).mem = s.mem := rfl
@[simp] theorem State.updContext_poison (s : State) (n : Nat) (f : Context → Context) : (s.updContext n f).poison = s.poison := rfl
@[simp] theorem State.updContext_fck (s : State) (n : Nat) (f : Context → Context) : (s.updContext n f).fck = s.fck := rfl
@[simp] theorem State.updContext_lck (s : State) (n : Nat) (f : Context → Context) : (s.updContext n f).lck = s.lck := rfl
@[simp] theorem State.updContext_tiles (s : State) (n : Nat) (f : Context → Context) : (s.updContext n f).tiles = s.tiles := rfl
@[simp] theorem State.updContext_islands (s : State) (n : Nat) (f : Context → Context) : (s.updContext n f).islands = s.islands := rfl
@[simp] theorem State.updContext_cores (s : State) (n : Nat) (f : Context → Context) : (s.updContext n f).cores = s.cores := rfl
@[simp] theorem State.updContext_l2tlb (s : State) (n : Nat) (f : Context → Context) : (s.updContext n f).l2tlb = s.l2tlb := rfl
@[simp] theorem State.updContext_walkCache (s : State) (n : Nat) (f : Context → Context) : (s.updContext n f).walkCache = s.walkCache := rfl
@[simp] theorem State.updContext_grids (s : State) (n : Nat) (f : Context → Context) : (s.updContext n f).grids = s.grids := rfl
@[simp] theorem State.updContext_accepts (s : State) (n : Nat) (f : Context → Context) : (s.updContext n f).accepts = s.accepts := rfl
@[simp] theorem State.updContext_frames (s : State) (n : Nat) (f : Context → Context) : (s.updContext n f).frames = s.frames := rfl
@[simp] theorem State.updContext_stops (s : State) (n : Nat) (f : Context → Context) : (s.updContext n f).stops = s.stops := rfl
@[simp] theorem State.updContext_saves (s : State) (n : Nat) (f : Context → Context) : (s.updContext n f).saves = s.saves := rfl
@[simp] theorem State.updContext_queues (s : State) (n : Nat) (f : Context → Context) : (s.updContext n f).queues = s.queues := rfl
@[simp] theorem State.updContext_bind (s : State) (n : Nat) (f : Context → Context) : (s.updContext n f).bind = s.bind := rfl
@[simp] theorem State.updContext_mail (s : State) (n : Nat) (f : Context → Context) : (s.updContext n f).mail = s.mail := rfl
@[simp] theorem State.updContext_grants (s : State) (n : Nat) (f : Context → Context) : (s.updContext n f).grants = s.grants := rfl
@[simp] theorem State.updContext_ferr (s : State) (n : Nat) (f : Context → Context) : (s.updContext n f).ferr = s.ferr := rfl
@[simp] theorem State.updContext_served (s : State) (n : Nat) (f : Context → Context) : (s.updContext n f).served = s.served := rfl
@[simp] theorem State.updContext_hostOps (s : State) (n : Nat) (f : Context → Context) : (s.updContext n f).hostOps = s.hostOps := rfl
@[simp] theorem State.updContext_hostOpId (s : State) (n : Nat) (f : Context → Context) : (s.updContext n f).hostOpId = s.hostOpId := rfl
@[simp] theorem State.updContext_power (s : State) (n : Nat) (f : Context → Context) : (s.updContext n f).power = s.power := rfl
@[simp] theorem State.updContext_presv (s : State) (n : Nat) (f : Context → Context) : (s.updContext n f).presv = s.presv := rfl
@[simp] theorem State.updContext_heads (s : State) (n : Nat) (f : Context → Context) : (s.updContext n f).heads = s.heads := rfl
@[simp] theorem State.updContext_lineCores (s : State) (n : Nat) (f : Context → Context) : (s.updContext n f).lineCores = s.lineCores := rfl
@[simp] theorem State.updContext_lineLast (s : State) (n : Nat) (f : Context → Context) : (s.updContext n f).lineLast = s.lineLast := rfl
@[simp] theorem State.updContext_pod (s : State) (n : Nat) (f : Context → Context) : (s.updContext n f).pod = s.pod := rfl
@[simp] theorem State.updContext_modl (s : State) (n : Nat) (f : Context → Context) : (s.updContext n f).modl = s.modl := rfl
@[simp] theorem State.updContext_agenda (s : State) (n : Nat) (f : Context → Context) : (s.updContext n f).agenda = s.agenda := rfl
@[simp] theorem State.updContext_cur (s : State) (n : Nat) (f : Context → Context) : (s.updContext n f).cur = s.cur := rfl
@[simp] theorem State.updContext_freeCount (s : State) (n : Nat) (f : Context → Context) : (s.updContext n f).freeCount = s.freeCount := rfl

/-! ## updQueue -/

@[simp] theorem State.updQueue_mem (s : State) (n : Nat) (f : HwQueue → HwQueue) : (s.updQueue n f).mem = s.mem := rfl
@[simp] theorem State.updQueue_poison (s : State) (n : Nat) (f : HwQueue → HwQueue) : (s.updQueue n f).poison = s.poison := rfl
@[simp] theorem State.updQueue_fck (s : State) (n : Nat) (f : HwQueue → HwQueue) : (s.updQueue n f).fck = s.fck := rfl
@[simp] theorem State.updQueue_lck (s : State) (n : Nat) (f : HwQueue → HwQueue) : (s.updQueue n f).lck = s.lck := rfl
@[simp] theorem State.updQueue_tiles (s : State) (n : Nat) (f : HwQueue → HwQueue) : (s.updQueue n f).tiles = s.tiles := rfl
@[simp] theorem State.updQueue_islands (s : State) (n : Nat) (f : HwQueue → HwQueue) : (s.updQueue n f).islands = s.islands := rfl
@[simp] theorem State.updQueue_cores (s : State) (n : Nat) (f : HwQueue → HwQueue) : (s.updQueue n f).cores = s.cores := rfl
@[simp] theorem State.updQueue_l2tlb (s : State) (n : Nat) (f : HwQueue → HwQueue) : (s.updQueue n f).l2tlb = s.l2tlb := rfl
@[simp] theorem State.updQueue_walkCache (s : State) (n : Nat) (f : HwQueue → HwQueue) : (s.updQueue n f).walkCache = s.walkCache := rfl
@[simp] theorem State.updQueue_grids (s : State) (n : Nat) (f : HwQueue → HwQueue) : (s.updQueue n f).grids = s.grids := rfl
@[simp] theorem State.updQueue_accepts (s : State) (n : Nat) (f : HwQueue → HwQueue) : (s.updQueue n f).accepts = s.accepts := rfl
@[simp] theorem State.updQueue_frames (s : State) (n : Nat) (f : HwQueue → HwQueue) : (s.updQueue n f).frames = s.frames := rfl
@[simp] theorem State.updQueue_stops (s : State) (n : Nat) (f : HwQueue → HwQueue) : (s.updQueue n f).stops = s.stops := rfl
@[simp] theorem State.updQueue_saves (s : State) (n : Nat) (f : HwQueue → HwQueue) : (s.updQueue n f).saves = s.saves := rfl
@[simp] theorem State.updQueue_contexts (s : State) (n : Nat) (f : HwQueue → HwQueue) : (s.updQueue n f).contexts = s.contexts := rfl
@[simp] theorem State.updQueue_bind (s : State) (n : Nat) (f : HwQueue → HwQueue) : (s.updQueue n f).bind = s.bind := rfl
@[simp] theorem State.updQueue_mail (s : State) (n : Nat) (f : HwQueue → HwQueue) : (s.updQueue n f).mail = s.mail := rfl
@[simp] theorem State.updQueue_grants (s : State) (n : Nat) (f : HwQueue → HwQueue) : (s.updQueue n f).grants = s.grants := rfl
@[simp] theorem State.updQueue_ferr (s : State) (n : Nat) (f : HwQueue → HwQueue) : (s.updQueue n f).ferr = s.ferr := rfl
@[simp] theorem State.updQueue_served (s : State) (n : Nat) (f : HwQueue → HwQueue) : (s.updQueue n f).served = s.served := rfl
@[simp] theorem State.updQueue_hostOps (s : State) (n : Nat) (f : HwQueue → HwQueue) : (s.updQueue n f).hostOps = s.hostOps := rfl
@[simp] theorem State.updQueue_hostOpId (s : State) (n : Nat) (f : HwQueue → HwQueue) : (s.updQueue n f).hostOpId = s.hostOpId := rfl
@[simp] theorem State.updQueue_power (s : State) (n : Nat) (f : HwQueue → HwQueue) : (s.updQueue n f).power = s.power := rfl
@[simp] theorem State.updQueue_presv (s : State) (n : Nat) (f : HwQueue → HwQueue) : (s.updQueue n f).presv = s.presv := rfl
@[simp] theorem State.updQueue_heads (s : State) (n : Nat) (f : HwQueue → HwQueue) : (s.updQueue n f).heads = s.heads := rfl
@[simp] theorem State.updQueue_lineCores (s : State) (n : Nat) (f : HwQueue → HwQueue) : (s.updQueue n f).lineCores = s.lineCores := rfl
@[simp] theorem State.updQueue_lineLast (s : State) (n : Nat) (f : HwQueue → HwQueue) : (s.updQueue n f).lineLast = s.lineLast := rfl
@[simp] theorem State.updQueue_pod (s : State) (n : Nat) (f : HwQueue → HwQueue) : (s.updQueue n f).pod = s.pod := rfl
@[simp] theorem State.updQueue_modl (s : State) (n : Nat) (f : HwQueue → HwQueue) : (s.updQueue n f).modl = s.modl := rfl
@[simp] theorem State.updQueue_agenda (s : State) (n : Nat) (f : HwQueue → HwQueue) : (s.updQueue n f).agenda = s.agenda := rfl
@[simp] theorem State.updQueue_cur (s : State) (n : Nat) (f : HwQueue → HwQueue) : (s.updQueue n f).cur = s.cur := rfl
@[simp] theorem State.updQueue_freeCount (s : State) (n : Nat) (f : HwQueue → HwQueue) : (s.updQueue n f).freeCount = s.freeCount := rfl

/-! ## updMailbox -/

@[simp] theorem State.updMailbox_mem (s : State) (n : Nat) (f : Mailbox → Mailbox) : (s.updMailbox n f).mem = s.mem := rfl
@[simp] theorem State.updMailbox_poison (s : State) (n : Nat) (f : Mailbox → Mailbox) : (s.updMailbox n f).poison = s.poison := rfl
@[simp] theorem State.updMailbox_fck (s : State) (n : Nat) (f : Mailbox → Mailbox) : (s.updMailbox n f).fck = s.fck := rfl
@[simp] theorem State.updMailbox_lck (s : State) (n : Nat) (f : Mailbox → Mailbox) : (s.updMailbox n f).lck = s.lck := rfl
@[simp] theorem State.updMailbox_tiles (s : State) (n : Nat) (f : Mailbox → Mailbox) : (s.updMailbox n f).tiles = s.tiles := rfl
@[simp] theorem State.updMailbox_islands (s : State) (n : Nat) (f : Mailbox → Mailbox) : (s.updMailbox n f).islands = s.islands := rfl
@[simp] theorem State.updMailbox_cores (s : State) (n : Nat) (f : Mailbox → Mailbox) : (s.updMailbox n f).cores = s.cores := rfl
@[simp] theorem State.updMailbox_l2tlb (s : State) (n : Nat) (f : Mailbox → Mailbox) : (s.updMailbox n f).l2tlb = s.l2tlb := rfl
@[simp] theorem State.updMailbox_walkCache (s : State) (n : Nat) (f : Mailbox → Mailbox) : (s.updMailbox n f).walkCache = s.walkCache := rfl
@[simp] theorem State.updMailbox_grids (s : State) (n : Nat) (f : Mailbox → Mailbox) : (s.updMailbox n f).grids = s.grids := rfl
@[simp] theorem State.updMailbox_accepts (s : State) (n : Nat) (f : Mailbox → Mailbox) : (s.updMailbox n f).accepts = s.accepts := rfl
@[simp] theorem State.updMailbox_frames (s : State) (n : Nat) (f : Mailbox → Mailbox) : (s.updMailbox n f).frames = s.frames := rfl
@[simp] theorem State.updMailbox_stops (s : State) (n : Nat) (f : Mailbox → Mailbox) : (s.updMailbox n f).stops = s.stops := rfl
@[simp] theorem State.updMailbox_saves (s : State) (n : Nat) (f : Mailbox → Mailbox) : (s.updMailbox n f).saves = s.saves := rfl
@[simp] theorem State.updMailbox_contexts (s : State) (n : Nat) (f : Mailbox → Mailbox) : (s.updMailbox n f).contexts = s.contexts := rfl
@[simp] theorem State.updMailbox_queues (s : State) (n : Nat) (f : Mailbox → Mailbox) : (s.updMailbox n f).queues = s.queues := rfl
@[simp] theorem State.updMailbox_bind (s : State) (n : Nat) (f : Mailbox → Mailbox) : (s.updMailbox n f).bind = s.bind := rfl
@[simp] theorem State.updMailbox_grants (s : State) (n : Nat) (f : Mailbox → Mailbox) : (s.updMailbox n f).grants = s.grants := rfl
@[simp] theorem State.updMailbox_ferr (s : State) (n : Nat) (f : Mailbox → Mailbox) : (s.updMailbox n f).ferr = s.ferr := rfl
@[simp] theorem State.updMailbox_served (s : State) (n : Nat) (f : Mailbox → Mailbox) : (s.updMailbox n f).served = s.served := rfl
@[simp] theorem State.updMailbox_hostOps (s : State) (n : Nat) (f : Mailbox → Mailbox) : (s.updMailbox n f).hostOps = s.hostOps := rfl
@[simp] theorem State.updMailbox_hostOpId (s : State) (n : Nat) (f : Mailbox → Mailbox) : (s.updMailbox n f).hostOpId = s.hostOpId := rfl
@[simp] theorem State.updMailbox_power (s : State) (n : Nat) (f : Mailbox → Mailbox) : (s.updMailbox n f).power = s.power := rfl
@[simp] theorem State.updMailbox_presv (s : State) (n : Nat) (f : Mailbox → Mailbox) : (s.updMailbox n f).presv = s.presv := rfl
@[simp] theorem State.updMailbox_heads (s : State) (n : Nat) (f : Mailbox → Mailbox) : (s.updMailbox n f).heads = s.heads := rfl
@[simp] theorem State.updMailbox_lineCores (s : State) (n : Nat) (f : Mailbox → Mailbox) : (s.updMailbox n f).lineCores = s.lineCores := rfl
@[simp] theorem State.updMailbox_lineLast (s : State) (n : Nat) (f : Mailbox → Mailbox) : (s.updMailbox n f).lineLast = s.lineLast := rfl
@[simp] theorem State.updMailbox_pod (s : State) (n : Nat) (f : Mailbox → Mailbox) : (s.updMailbox n f).pod = s.pod := rfl
@[simp] theorem State.updMailbox_modl (s : State) (n : Nat) (f : Mailbox → Mailbox) : (s.updMailbox n f).modl = s.modl := rfl
@[simp] theorem State.updMailbox_agenda (s : State) (n : Nat) (f : Mailbox → Mailbox) : (s.updMailbox n f).agenda = s.agenda := rfl
@[simp] theorem State.updMailbox_cur (s : State) (n : Nat) (f : Mailbox → Mailbox) : (s.updMailbox n f).cur = s.cur := rfl
@[simp] theorem State.updMailbox_freeCount (s : State) (n : Nat) (f : Mailbox → Mailbox) : (s.updMailbox n f).freeCount = s.freeCount := rfl

/-! ## updHead -/

@[simp] theorem State.updHead_mem (s : State) (n : Nat) (f : Head → Head) : (s.updHead n f).mem = s.mem := rfl
@[simp] theorem State.updHead_poison (s : State) (n : Nat) (f : Head → Head) : (s.updHead n f).poison = s.poison := rfl
@[simp] theorem State.updHead_fck (s : State) (n : Nat) (f : Head → Head) : (s.updHead n f).fck = s.fck := rfl
@[simp] theorem State.updHead_lck (s : State) (n : Nat) (f : Head → Head) : (s.updHead n f).lck = s.lck := rfl
@[simp] theorem State.updHead_tiles (s : State) (n : Nat) (f : Head → Head) : (s.updHead n f).tiles = s.tiles := rfl
@[simp] theorem State.updHead_islands (s : State) (n : Nat) (f : Head → Head) : (s.updHead n f).islands = s.islands := rfl
@[simp] theorem State.updHead_cores (s : State) (n : Nat) (f : Head → Head) : (s.updHead n f).cores = s.cores := rfl
@[simp] theorem State.updHead_l2tlb (s : State) (n : Nat) (f : Head → Head) : (s.updHead n f).l2tlb = s.l2tlb := rfl
@[simp] theorem State.updHead_walkCache (s : State) (n : Nat) (f : Head → Head) : (s.updHead n f).walkCache = s.walkCache := rfl
@[simp] theorem State.updHead_grids (s : State) (n : Nat) (f : Head → Head) : (s.updHead n f).grids = s.grids := rfl
@[simp] theorem State.updHead_accepts (s : State) (n : Nat) (f : Head → Head) : (s.updHead n f).accepts = s.accepts := rfl
@[simp] theorem State.updHead_frames (s : State) (n : Nat) (f : Head → Head) : (s.updHead n f).frames = s.frames := rfl
@[simp] theorem State.updHead_stops (s : State) (n : Nat) (f : Head → Head) : (s.updHead n f).stops = s.stops := rfl
@[simp] theorem State.updHead_saves (s : State) (n : Nat) (f : Head → Head) : (s.updHead n f).saves = s.saves := rfl
@[simp] theorem State.updHead_contexts (s : State) (n : Nat) (f : Head → Head) : (s.updHead n f).contexts = s.contexts := rfl
@[simp] theorem State.updHead_queues (s : State) (n : Nat) (f : Head → Head) : (s.updHead n f).queues = s.queues := rfl
@[simp] theorem State.updHead_bind (s : State) (n : Nat) (f : Head → Head) : (s.updHead n f).bind = s.bind := rfl
@[simp] theorem State.updHead_mail (s : State) (n : Nat) (f : Head → Head) : (s.updHead n f).mail = s.mail := rfl
@[simp] theorem State.updHead_grants (s : State) (n : Nat) (f : Head → Head) : (s.updHead n f).grants = s.grants := rfl
@[simp] theorem State.updHead_ferr (s : State) (n : Nat) (f : Head → Head) : (s.updHead n f).ferr = s.ferr := rfl
@[simp] theorem State.updHead_served (s : State) (n : Nat) (f : Head → Head) : (s.updHead n f).served = s.served := rfl
@[simp] theorem State.updHead_hostOps (s : State) (n : Nat) (f : Head → Head) : (s.updHead n f).hostOps = s.hostOps := rfl
@[simp] theorem State.updHead_hostOpId (s : State) (n : Nat) (f : Head → Head) : (s.updHead n f).hostOpId = s.hostOpId := rfl
@[simp] theorem State.updHead_power (s : State) (n : Nat) (f : Head → Head) : (s.updHead n f).power = s.power := rfl
@[simp] theorem State.updHead_presv (s : State) (n : Nat) (f : Head → Head) : (s.updHead n f).presv = s.presv := rfl
@[simp] theorem State.updHead_lineCores (s : State) (n : Nat) (f : Head → Head) : (s.updHead n f).lineCores = s.lineCores := rfl
@[simp] theorem State.updHead_lineLast (s : State) (n : Nat) (f : Head → Head) : (s.updHead n f).lineLast = s.lineLast := rfl
@[simp] theorem State.updHead_pod (s : State) (n : Nat) (f : Head → Head) : (s.updHead n f).pod = s.pod := rfl
@[simp] theorem State.updHead_modl (s : State) (n : Nat) (f : Head → Head) : (s.updHead n f).modl = s.modl := rfl
@[simp] theorem State.updHead_agenda (s : State) (n : Nat) (f : Head → Head) : (s.updHead n f).agenda = s.agenda := rfl
@[simp] theorem State.updHead_cur (s : State) (n : Nat) (f : Head → Head) : (s.updHead n f).cur = s.cur := rfl
@[simp] theorem State.updHead_freeCount (s : State) (n : Nat) (f : Head → Head) : (s.updHead n f).freeCount = s.freeCount := rfl

/-! ## updLineCore -/

@[simp] theorem State.updLineCore_mem (s : State) (n : Nat) (f : LineCore → LineCore) : (s.updLineCore n f).mem = s.mem := rfl
@[simp] theorem State.updLineCore_poison (s : State) (n : Nat) (f : LineCore → LineCore) : (s.updLineCore n f).poison = s.poison := rfl
@[simp] theorem State.updLineCore_fck (s : State) (n : Nat) (f : LineCore → LineCore) : (s.updLineCore n f).fck = s.fck := rfl
@[simp] theorem State.updLineCore_lck (s : State) (n : Nat) (f : LineCore → LineCore) : (s.updLineCore n f).lck = s.lck := rfl
@[simp] theorem State.updLineCore_tiles (s : State) (n : Nat) (f : LineCore → LineCore) : (s.updLineCore n f).tiles = s.tiles := rfl
@[simp] theorem State.updLineCore_islands (s : State) (n : Nat) (f : LineCore → LineCore) : (s.updLineCore n f).islands = s.islands := rfl
@[simp] theorem State.updLineCore_cores (s : State) (n : Nat) (f : LineCore → LineCore) : (s.updLineCore n f).cores = s.cores := rfl
@[simp] theorem State.updLineCore_l2tlb (s : State) (n : Nat) (f : LineCore → LineCore) : (s.updLineCore n f).l2tlb = s.l2tlb := rfl
@[simp] theorem State.updLineCore_walkCache (s : State) (n : Nat) (f : LineCore → LineCore) : (s.updLineCore n f).walkCache = s.walkCache := rfl
@[simp] theorem State.updLineCore_grids (s : State) (n : Nat) (f : LineCore → LineCore) : (s.updLineCore n f).grids = s.grids := rfl
@[simp] theorem State.updLineCore_accepts (s : State) (n : Nat) (f : LineCore → LineCore) : (s.updLineCore n f).accepts = s.accepts := rfl
@[simp] theorem State.updLineCore_frames (s : State) (n : Nat) (f : LineCore → LineCore) : (s.updLineCore n f).frames = s.frames := rfl
@[simp] theorem State.updLineCore_stops (s : State) (n : Nat) (f : LineCore → LineCore) : (s.updLineCore n f).stops = s.stops := rfl
@[simp] theorem State.updLineCore_saves (s : State) (n : Nat) (f : LineCore → LineCore) : (s.updLineCore n f).saves = s.saves := rfl
@[simp] theorem State.updLineCore_contexts (s : State) (n : Nat) (f : LineCore → LineCore) : (s.updLineCore n f).contexts = s.contexts := rfl
@[simp] theorem State.updLineCore_queues (s : State) (n : Nat) (f : LineCore → LineCore) : (s.updLineCore n f).queues = s.queues := rfl
@[simp] theorem State.updLineCore_bind (s : State) (n : Nat) (f : LineCore → LineCore) : (s.updLineCore n f).bind = s.bind := rfl
@[simp] theorem State.updLineCore_mail (s : State) (n : Nat) (f : LineCore → LineCore) : (s.updLineCore n f).mail = s.mail := rfl
@[simp] theorem State.updLineCore_grants (s : State) (n : Nat) (f : LineCore → LineCore) : (s.updLineCore n f).grants = s.grants := rfl
@[simp] theorem State.updLineCore_ferr (s : State) (n : Nat) (f : LineCore → LineCore) : (s.updLineCore n f).ferr = s.ferr := rfl
@[simp] theorem State.updLineCore_served (s : State) (n : Nat) (f : LineCore → LineCore) : (s.updLineCore n f).served = s.served := rfl
@[simp] theorem State.updLineCore_hostOps (s : State) (n : Nat) (f : LineCore → LineCore) : (s.updLineCore n f).hostOps = s.hostOps := rfl
@[simp] theorem State.updLineCore_hostOpId (s : State) (n : Nat) (f : LineCore → LineCore) : (s.updLineCore n f).hostOpId = s.hostOpId := rfl
@[simp] theorem State.updLineCore_power (s : State) (n : Nat) (f : LineCore → LineCore) : (s.updLineCore n f).power = s.power := rfl
@[simp] theorem State.updLineCore_presv (s : State) (n : Nat) (f : LineCore → LineCore) : (s.updLineCore n f).presv = s.presv := rfl
@[simp] theorem State.updLineCore_heads (s : State) (n : Nat) (f : LineCore → LineCore) : (s.updLineCore n f).heads = s.heads := rfl
@[simp] theorem State.updLineCore_lineLast (s : State) (n : Nat) (f : LineCore → LineCore) : (s.updLineCore n f).lineLast = s.lineLast := rfl
@[simp] theorem State.updLineCore_pod (s : State) (n : Nat) (f : LineCore → LineCore) : (s.updLineCore n f).pod = s.pod := rfl
@[simp] theorem State.updLineCore_modl (s : State) (n : Nat) (f : LineCore → LineCore) : (s.updLineCore n f).modl = s.modl := rfl
@[simp] theorem State.updLineCore_agenda (s : State) (n : Nat) (f : LineCore → LineCore) : (s.updLineCore n f).agenda = s.agenda := rfl
@[simp] theorem State.updLineCore_cur (s : State) (n : Nat) (f : LineCore → LineCore) : (s.updLineCore n f).cur = s.cur := rfl
@[simp] theorem State.updLineCore_freeCount (s : State) (n : Nat) (f : LineCore → LineCore) : (s.updLineCore n f).freeCount = s.freeCount := rfl

/-! ## setFerr -/

@[simp] theorem State.setFerr_mem (s : State) (n : Nat) (b : BitVec 2) : (s.setFerr n b).mem = s.mem := rfl
@[simp] theorem State.setFerr_poison (s : State) (n : Nat) (b : BitVec 2) : (s.setFerr n b).poison = s.poison := rfl
@[simp] theorem State.setFerr_fck (s : State) (n : Nat) (b : BitVec 2) : (s.setFerr n b).fck = s.fck := rfl
@[simp] theorem State.setFerr_lck (s : State) (n : Nat) (b : BitVec 2) : (s.setFerr n b).lck = s.lck := rfl
@[simp] theorem State.setFerr_tiles (s : State) (n : Nat) (b : BitVec 2) : (s.setFerr n b).tiles = s.tiles := rfl
@[simp] theorem State.setFerr_islands (s : State) (n : Nat) (b : BitVec 2) : (s.setFerr n b).islands = s.islands := rfl
@[simp] theorem State.setFerr_cores (s : State) (n : Nat) (b : BitVec 2) : (s.setFerr n b).cores = s.cores := rfl
@[simp] theorem State.setFerr_l2tlb (s : State) (n : Nat) (b : BitVec 2) : (s.setFerr n b).l2tlb = s.l2tlb := rfl
@[simp] theorem State.setFerr_walkCache (s : State) (n : Nat) (b : BitVec 2) : (s.setFerr n b).walkCache = s.walkCache := rfl
@[simp] theorem State.setFerr_grids (s : State) (n : Nat) (b : BitVec 2) : (s.setFerr n b).grids = s.grids := rfl
@[simp] theorem State.setFerr_accepts (s : State) (n : Nat) (b : BitVec 2) : (s.setFerr n b).accepts = s.accepts := rfl
@[simp] theorem State.setFerr_frames (s : State) (n : Nat) (b : BitVec 2) : (s.setFerr n b).frames = s.frames := rfl
@[simp] theorem State.setFerr_stops (s : State) (n : Nat) (b : BitVec 2) : (s.setFerr n b).stops = s.stops := rfl
@[simp] theorem State.setFerr_saves (s : State) (n : Nat) (b : BitVec 2) : (s.setFerr n b).saves = s.saves := rfl
@[simp] theorem State.setFerr_contexts (s : State) (n : Nat) (b : BitVec 2) : (s.setFerr n b).contexts = s.contexts := rfl
@[simp] theorem State.setFerr_queues (s : State) (n : Nat) (b : BitVec 2) : (s.setFerr n b).queues = s.queues := rfl
@[simp] theorem State.setFerr_bind (s : State) (n : Nat) (b : BitVec 2) : (s.setFerr n b).bind = s.bind := rfl
@[simp] theorem State.setFerr_mail (s : State) (n : Nat) (b : BitVec 2) : (s.setFerr n b).mail = s.mail := rfl
@[simp] theorem State.setFerr_grants (s : State) (n : Nat) (b : BitVec 2) : (s.setFerr n b).grants = s.grants := rfl
@[simp] theorem State.setFerr_served (s : State) (n : Nat) (b : BitVec 2) : (s.setFerr n b).served = s.served := rfl
@[simp] theorem State.setFerr_hostOps (s : State) (n : Nat) (b : BitVec 2) : (s.setFerr n b).hostOps = s.hostOps := rfl
@[simp] theorem State.setFerr_hostOpId (s : State) (n : Nat) (b : BitVec 2) : (s.setFerr n b).hostOpId = s.hostOpId := rfl
@[simp] theorem State.setFerr_power (s : State) (n : Nat) (b : BitVec 2) : (s.setFerr n b).power = s.power := rfl
@[simp] theorem State.setFerr_presv (s : State) (n : Nat) (b : BitVec 2) : (s.setFerr n b).presv = s.presv := rfl
@[simp] theorem State.setFerr_heads (s : State) (n : Nat) (b : BitVec 2) : (s.setFerr n b).heads = s.heads := rfl
@[simp] theorem State.setFerr_lineCores (s : State) (n : Nat) (b : BitVec 2) : (s.setFerr n b).lineCores = s.lineCores := rfl
@[simp] theorem State.setFerr_lineLast (s : State) (n : Nat) (b : BitVec 2) : (s.setFerr n b).lineLast = s.lineLast := rfl
@[simp] theorem State.setFerr_pod (s : State) (n : Nat) (b : BitVec 2) : (s.setFerr n b).pod = s.pod := rfl
@[simp] theorem State.setFerr_modl (s : State) (n : Nat) (b : BitVec 2) : (s.setFerr n b).modl = s.modl := rfl
@[simp] theorem State.setFerr_agenda (s : State) (n : Nat) (b : BitVec 2) : (s.setFerr n b).agenda = s.agenda := rfl
@[simp] theorem State.setFerr_cur (s : State) (n : Nat) (b : BitVec 2) : (s.setFerr n b).cur = s.cur := rfl
@[simp] theorem State.setFerr_freeCount (s : State) (n : Nat) (b : BitVec 2) : (s.setFerr n b).freeCount = s.freeCount := rfl

/-! ## setWg -/

@[simp] theorem State.setWg_mem (s : State) (r : WgRef) (w : Workgroup) : (s.setWg r w).mem = s.mem := rfl
@[simp] theorem State.setWg_poison (s : State) (r : WgRef) (w : Workgroup) : (s.setWg r w).poison = s.poison := rfl
@[simp] theorem State.setWg_fck (s : State) (r : WgRef) (w : Workgroup) : (s.setWg r w).fck = s.fck := rfl
@[simp] theorem State.setWg_lck (s : State) (r : WgRef) (w : Workgroup) : (s.setWg r w).lck = s.lck := rfl
@[simp] theorem State.setWg_tiles (s : State) (r : WgRef) (w : Workgroup) : (s.setWg r w).tiles = s.tiles := rfl
@[simp] theorem State.setWg_islands (s : State) (r : WgRef) (w : Workgroup) : (s.setWg r w).islands = s.islands := rfl
@[simp] theorem State.setWg_l2tlb (s : State) (r : WgRef) (w : Workgroup) : (s.setWg r w).l2tlb = s.l2tlb := rfl
@[simp] theorem State.setWg_walkCache (s : State) (r : WgRef) (w : Workgroup) : (s.setWg r w).walkCache = s.walkCache := rfl
@[simp] theorem State.setWg_grids (s : State) (r : WgRef) (w : Workgroup) : (s.setWg r w).grids = s.grids := rfl
@[simp] theorem State.setWg_accepts (s : State) (r : WgRef) (w : Workgroup) : (s.setWg r w).accepts = s.accepts := rfl
@[simp] theorem State.setWg_frames (s : State) (r : WgRef) (w : Workgroup) : (s.setWg r w).frames = s.frames := rfl
@[simp] theorem State.setWg_stops (s : State) (r : WgRef) (w : Workgroup) : (s.setWg r w).stops = s.stops := rfl
@[simp] theorem State.setWg_saves (s : State) (r : WgRef) (w : Workgroup) : (s.setWg r w).saves = s.saves := rfl
@[simp] theorem State.setWg_contexts (s : State) (r : WgRef) (w : Workgroup) : (s.setWg r w).contexts = s.contexts := rfl
@[simp] theorem State.setWg_queues (s : State) (r : WgRef) (w : Workgroup) : (s.setWg r w).queues = s.queues := rfl
@[simp] theorem State.setWg_bind (s : State) (r : WgRef) (w : Workgroup) : (s.setWg r w).bind = s.bind := rfl
@[simp] theorem State.setWg_mail (s : State) (r : WgRef) (w : Workgroup) : (s.setWg r w).mail = s.mail := rfl
@[simp] theorem State.setWg_grants (s : State) (r : WgRef) (w : Workgroup) : (s.setWg r w).grants = s.grants := rfl
@[simp] theorem State.setWg_ferr (s : State) (r : WgRef) (w : Workgroup) : (s.setWg r w).ferr = s.ferr := rfl
@[simp] theorem State.setWg_served (s : State) (r : WgRef) (w : Workgroup) : (s.setWg r w).served = s.served := rfl
@[simp] theorem State.setWg_hostOps (s : State) (r : WgRef) (w : Workgroup) : (s.setWg r w).hostOps = s.hostOps := rfl
@[simp] theorem State.setWg_hostOpId (s : State) (r : WgRef) (w : Workgroup) : (s.setWg r w).hostOpId = s.hostOpId := rfl
@[simp] theorem State.setWg_power (s : State) (r : WgRef) (w : Workgroup) : (s.setWg r w).power = s.power := rfl
@[simp] theorem State.setWg_presv (s : State) (r : WgRef) (w : Workgroup) : (s.setWg r w).presv = s.presv := rfl
@[simp] theorem State.setWg_heads (s : State) (r : WgRef) (w : Workgroup) : (s.setWg r w).heads = s.heads := rfl
@[simp] theorem State.setWg_lineCores (s : State) (r : WgRef) (w : Workgroup) : (s.setWg r w).lineCores = s.lineCores := rfl
@[simp] theorem State.setWg_lineLast (s : State) (r : WgRef) (w : Workgroup) : (s.setWg r w).lineLast = s.lineLast := rfl
@[simp] theorem State.setWg_pod (s : State) (r : WgRef) (w : Workgroup) : (s.setWg r w).pod = s.pod := rfl
@[simp] theorem State.setWg_modl (s : State) (r : WgRef) (w : Workgroup) : (s.setWg r w).modl = s.modl := rfl
@[simp] theorem State.setWg_agenda (s : State) (r : WgRef) (w : Workgroup) : (s.setWg r w).agenda = s.agenda := rfl
@[simp] theorem State.setWg_cur (s : State) (r : WgRef) (w : Workgroup) : (s.setWg r w).cur = s.cur := rfl
@[simp] theorem State.setWg_freeCount (s : State) (r : WgRef) (w : Workgroup) : (s.setWg r w).freeCount = s.freeCount := rfl

/-! ## dropWg -/

@[simp] theorem State.dropWg_mem (s : State) (r : WgRef) : (s.dropWg r).mem = s.mem := rfl
@[simp] theorem State.dropWg_poison (s : State) (r : WgRef) : (s.dropWg r).poison = s.poison := rfl
@[simp] theorem State.dropWg_fck (s : State) (r : WgRef) : (s.dropWg r).fck = s.fck := rfl
@[simp] theorem State.dropWg_lck (s : State) (r : WgRef) : (s.dropWg r).lck = s.lck := rfl
@[simp] theorem State.dropWg_tiles (s : State) (r : WgRef) : (s.dropWg r).tiles = s.tiles := rfl
@[simp] theorem State.dropWg_islands (s : State) (r : WgRef) : (s.dropWg r).islands = s.islands := rfl
@[simp] theorem State.dropWg_l2tlb (s : State) (r : WgRef) : (s.dropWg r).l2tlb = s.l2tlb := rfl
@[simp] theorem State.dropWg_walkCache (s : State) (r : WgRef) : (s.dropWg r).walkCache = s.walkCache := rfl
@[simp] theorem State.dropWg_grids (s : State) (r : WgRef) : (s.dropWg r).grids = s.grids := rfl
@[simp] theorem State.dropWg_accepts (s : State) (r : WgRef) : (s.dropWg r).accepts = s.accepts := rfl
@[simp] theorem State.dropWg_frames (s : State) (r : WgRef) : (s.dropWg r).frames = s.frames := rfl
@[simp] theorem State.dropWg_stops (s : State) (r : WgRef) : (s.dropWg r).stops = s.stops := rfl
@[simp] theorem State.dropWg_saves (s : State) (r : WgRef) : (s.dropWg r).saves = s.saves := rfl
@[simp] theorem State.dropWg_contexts (s : State) (r : WgRef) : (s.dropWg r).contexts = s.contexts := rfl
@[simp] theorem State.dropWg_queues (s : State) (r : WgRef) : (s.dropWg r).queues = s.queues := rfl
@[simp] theorem State.dropWg_bind (s : State) (r : WgRef) : (s.dropWg r).bind = s.bind := rfl
@[simp] theorem State.dropWg_mail (s : State) (r : WgRef) : (s.dropWg r).mail = s.mail := rfl
@[simp] theorem State.dropWg_grants (s : State) (r : WgRef) : (s.dropWg r).grants = s.grants := rfl
@[simp] theorem State.dropWg_ferr (s : State) (r : WgRef) : (s.dropWg r).ferr = s.ferr := rfl
@[simp] theorem State.dropWg_served (s : State) (r : WgRef) : (s.dropWg r).served = s.served := rfl
@[simp] theorem State.dropWg_hostOps (s : State) (r : WgRef) : (s.dropWg r).hostOps = s.hostOps := rfl
@[simp] theorem State.dropWg_hostOpId (s : State) (r : WgRef) : (s.dropWg r).hostOpId = s.hostOpId := rfl
@[simp] theorem State.dropWg_power (s : State) (r : WgRef) : (s.dropWg r).power = s.power := rfl
@[simp] theorem State.dropWg_presv (s : State) (r : WgRef) : (s.dropWg r).presv = s.presv := rfl
@[simp] theorem State.dropWg_heads (s : State) (r : WgRef) : (s.dropWg r).heads = s.heads := rfl
@[simp] theorem State.dropWg_lineCores (s : State) (r : WgRef) : (s.dropWg r).lineCores = s.lineCores := rfl
@[simp] theorem State.dropWg_lineLast (s : State) (r : WgRef) : (s.dropWg r).lineLast = s.lineLast := rfl
@[simp] theorem State.dropWg_pod (s : State) (r : WgRef) : (s.dropWg r).pod = s.pod := rfl
@[simp] theorem State.dropWg_modl (s : State) (r : WgRef) : (s.dropWg r).modl = s.modl := rfl
@[simp] theorem State.dropWg_agenda (s : State) (r : WgRef) : (s.dropWg r).agenda = s.agenda := rfl
@[simp] theorem State.dropWg_cur (s : State) (r : WgRef) : (s.dropWg r).cur = s.cur := rfl
@[simp] theorem State.dropWg_freeCount (s : State) (r : WgRef) : (s.dropWg r).freeCount = s.freeCount := rfl

/-! ## updGrid -/

@[simp] theorem State.updGrid_mem (s : State) (n : Nat) (f : Grid → Grid) : (s.updGrid n f).mem = s.mem := rfl
@[simp] theorem State.updGrid_poison (s : State) (n : Nat) (f : Grid → Grid) : (s.updGrid n f).poison = s.poison := rfl
@[simp] theorem State.updGrid_fck (s : State) (n : Nat) (f : Grid → Grid) : (s.updGrid n f).fck = s.fck := rfl
@[simp] theorem State.updGrid_lck (s : State) (n : Nat) (f : Grid → Grid) : (s.updGrid n f).lck = s.lck := rfl
@[simp] theorem State.updGrid_tiles (s : State) (n : Nat) (f : Grid → Grid) : (s.updGrid n f).tiles = s.tiles := rfl
@[simp] theorem State.updGrid_islands (s : State) (n : Nat) (f : Grid → Grid) : (s.updGrid n f).islands = s.islands := rfl
@[simp] theorem State.updGrid_cores (s : State) (n : Nat) (f : Grid → Grid) : (s.updGrid n f).cores = s.cores := rfl
@[simp] theorem State.updGrid_l2tlb (s : State) (n : Nat) (f : Grid → Grid) : (s.updGrid n f).l2tlb = s.l2tlb := rfl
@[simp] theorem State.updGrid_walkCache (s : State) (n : Nat) (f : Grid → Grid) : (s.updGrid n f).walkCache = s.walkCache := rfl
@[simp] theorem State.updGrid_accepts (s : State) (n : Nat) (f : Grid → Grid) : (s.updGrid n f).accepts = s.accepts := rfl
@[simp] theorem State.updGrid_frames (s : State) (n : Nat) (f : Grid → Grid) : (s.updGrid n f).frames = s.frames := rfl
@[simp] theorem State.updGrid_stops (s : State) (n : Nat) (f : Grid → Grid) : (s.updGrid n f).stops = s.stops := rfl
@[simp] theorem State.updGrid_saves (s : State) (n : Nat) (f : Grid → Grid) : (s.updGrid n f).saves = s.saves := rfl
@[simp] theorem State.updGrid_contexts (s : State) (n : Nat) (f : Grid → Grid) : (s.updGrid n f).contexts = s.contexts := rfl
@[simp] theorem State.updGrid_queues (s : State) (n : Nat) (f : Grid → Grid) : (s.updGrid n f).queues = s.queues := rfl
@[simp] theorem State.updGrid_bind (s : State) (n : Nat) (f : Grid → Grid) : (s.updGrid n f).bind = s.bind := rfl
@[simp] theorem State.updGrid_mail (s : State) (n : Nat) (f : Grid → Grid) : (s.updGrid n f).mail = s.mail := rfl
@[simp] theorem State.updGrid_grants (s : State) (n : Nat) (f : Grid → Grid) : (s.updGrid n f).grants = s.grants := rfl
@[simp] theorem State.updGrid_ferr (s : State) (n : Nat) (f : Grid → Grid) : (s.updGrid n f).ferr = s.ferr := rfl
@[simp] theorem State.updGrid_served (s : State) (n : Nat) (f : Grid → Grid) : (s.updGrid n f).served = s.served := rfl
@[simp] theorem State.updGrid_hostOps (s : State) (n : Nat) (f : Grid → Grid) : (s.updGrid n f).hostOps = s.hostOps := rfl
@[simp] theorem State.updGrid_hostOpId (s : State) (n : Nat) (f : Grid → Grid) : (s.updGrid n f).hostOpId = s.hostOpId := rfl
@[simp] theorem State.updGrid_power (s : State) (n : Nat) (f : Grid → Grid) : (s.updGrid n f).power = s.power := rfl
@[simp] theorem State.updGrid_presv (s : State) (n : Nat) (f : Grid → Grid) : (s.updGrid n f).presv = s.presv := rfl
@[simp] theorem State.updGrid_heads (s : State) (n : Nat) (f : Grid → Grid) : (s.updGrid n f).heads = s.heads := rfl
@[simp] theorem State.updGrid_lineCores (s : State) (n : Nat) (f : Grid → Grid) : (s.updGrid n f).lineCores = s.lineCores := rfl
@[simp] theorem State.updGrid_lineLast (s : State) (n : Nat) (f : Grid → Grid) : (s.updGrid n f).lineLast = s.lineLast := rfl
@[simp] theorem State.updGrid_pod (s : State) (n : Nat) (f : Grid → Grid) : (s.updGrid n f).pod = s.pod := rfl
@[simp] theorem State.updGrid_modl (s : State) (n : Nat) (f : Grid → Grid) : (s.updGrid n f).modl = s.modl := rfl
@[simp] theorem State.updGrid_agenda (s : State) (n : Nat) (f : Grid → Grid) : (s.updGrid n f).agenda = s.agenda := rfl
@[simp] theorem State.updGrid_cur (s : State) (n : Nat) (f : Grid → Grid) : (s.updGrid n f).cur = s.cur := rfl
@[simp] theorem State.updGrid_freeCount (s : State) (n : Nat) (f : Grid → Grid) : (s.updGrid n f).freeCount = s.freeCount := rfl

/-! ## updWg -/

@[simp] theorem State.updWg_mem (s : State) (r : WgRef) (f : Workgroup → Workgroup) : (s.updWg r f).mem = s.mem := by
  unfold State.updWg; split <;> rfl
@[simp] theorem State.updWg_poison (s : State) (r : WgRef) (f : Workgroup → Workgroup) : (s.updWg r f).poison = s.poison := by
  unfold State.updWg; split <;> rfl
@[simp] theorem State.updWg_fck (s : State) (r : WgRef) (f : Workgroup → Workgroup) : (s.updWg r f).fck = s.fck := by
  unfold State.updWg; split <;> rfl
@[simp] theorem State.updWg_lck (s : State) (r : WgRef) (f : Workgroup → Workgroup) : (s.updWg r f).lck = s.lck := by
  unfold State.updWg; split <;> rfl
@[simp] theorem State.updWg_tiles (s : State) (r : WgRef) (f : Workgroup → Workgroup) : (s.updWg r f).tiles = s.tiles := by
  unfold State.updWg; split <;> rfl
@[simp] theorem State.updWg_islands (s : State) (r : WgRef) (f : Workgroup → Workgroup) : (s.updWg r f).islands = s.islands := by
  unfold State.updWg; split <;> rfl
@[simp] theorem State.updWg_l2tlb (s : State) (r : WgRef) (f : Workgroup → Workgroup) : (s.updWg r f).l2tlb = s.l2tlb := by
  unfold State.updWg; split <;> rfl
@[simp] theorem State.updWg_walkCache (s : State) (r : WgRef) (f : Workgroup → Workgroup) : (s.updWg r f).walkCache = s.walkCache := by
  unfold State.updWg; split <;> rfl
@[simp] theorem State.updWg_grids (s : State) (r : WgRef) (f : Workgroup → Workgroup) : (s.updWg r f).grids = s.grids := by
  unfold State.updWg; split <;> rfl
@[simp] theorem State.updWg_accepts (s : State) (r : WgRef) (f : Workgroup → Workgroup) : (s.updWg r f).accepts = s.accepts := by
  unfold State.updWg; split <;> rfl
@[simp] theorem State.updWg_frames (s : State) (r : WgRef) (f : Workgroup → Workgroup) : (s.updWg r f).frames = s.frames := by
  unfold State.updWg; split <;> rfl
@[simp] theorem State.updWg_stops (s : State) (r : WgRef) (f : Workgroup → Workgroup) : (s.updWg r f).stops = s.stops := by
  unfold State.updWg; split <;> rfl
@[simp] theorem State.updWg_saves (s : State) (r : WgRef) (f : Workgroup → Workgroup) : (s.updWg r f).saves = s.saves := by
  unfold State.updWg; split <;> rfl
@[simp] theorem State.updWg_contexts (s : State) (r : WgRef) (f : Workgroup → Workgroup) : (s.updWg r f).contexts = s.contexts := by
  unfold State.updWg; split <;> rfl
@[simp] theorem State.updWg_queues (s : State) (r : WgRef) (f : Workgroup → Workgroup) : (s.updWg r f).queues = s.queues := by
  unfold State.updWg; split <;> rfl
@[simp] theorem State.updWg_bind (s : State) (r : WgRef) (f : Workgroup → Workgroup) : (s.updWg r f).bind = s.bind := by
  unfold State.updWg; split <;> rfl
@[simp] theorem State.updWg_mail (s : State) (r : WgRef) (f : Workgroup → Workgroup) : (s.updWg r f).mail = s.mail := by
  unfold State.updWg; split <;> rfl
@[simp] theorem State.updWg_grants (s : State) (r : WgRef) (f : Workgroup → Workgroup) : (s.updWg r f).grants = s.grants := by
  unfold State.updWg; split <;> rfl
@[simp] theorem State.updWg_ferr (s : State) (r : WgRef) (f : Workgroup → Workgroup) : (s.updWg r f).ferr = s.ferr := by
  unfold State.updWg; split <;> rfl
@[simp] theorem State.updWg_served (s : State) (r : WgRef) (f : Workgroup → Workgroup) : (s.updWg r f).served = s.served := by
  unfold State.updWg; split <;> rfl
@[simp] theorem State.updWg_hostOps (s : State) (r : WgRef) (f : Workgroup → Workgroup) : (s.updWg r f).hostOps = s.hostOps := by
  unfold State.updWg; split <;> rfl
@[simp] theorem State.updWg_hostOpId (s : State) (r : WgRef) (f : Workgroup → Workgroup) : (s.updWg r f).hostOpId = s.hostOpId := by
  unfold State.updWg; split <;> rfl
@[simp] theorem State.updWg_power (s : State) (r : WgRef) (f : Workgroup → Workgroup) : (s.updWg r f).power = s.power := by
  unfold State.updWg; split <;> rfl
@[simp] theorem State.updWg_presv (s : State) (r : WgRef) (f : Workgroup → Workgroup) : (s.updWg r f).presv = s.presv := by
  unfold State.updWg; split <;> rfl
@[simp] theorem State.updWg_heads (s : State) (r : WgRef) (f : Workgroup → Workgroup) : (s.updWg r f).heads = s.heads := by
  unfold State.updWg; split <;> rfl
@[simp] theorem State.updWg_lineCores (s : State) (r : WgRef) (f : Workgroup → Workgroup) : (s.updWg r f).lineCores = s.lineCores := by
  unfold State.updWg; split <;> rfl
@[simp] theorem State.updWg_lineLast (s : State) (r : WgRef) (f : Workgroup → Workgroup) : (s.updWg r f).lineLast = s.lineLast := by
  unfold State.updWg; split <;> rfl
@[simp] theorem State.updWg_pod (s : State) (r : WgRef) (f : Workgroup → Workgroup) : (s.updWg r f).pod = s.pod := by
  unfold State.updWg; split <;> rfl
@[simp] theorem State.updWg_modl (s : State) (r : WgRef) (f : Workgroup → Workgroup) : (s.updWg r f).modl = s.modl := by
  unfold State.updWg; split <;> rfl
@[simp] theorem State.updWg_agenda (s : State) (r : WgRef) (f : Workgroup → Workgroup) : (s.updWg r f).agenda = s.agenda := by
  unfold State.updWg; split <;> rfl
@[simp] theorem State.updWg_cur (s : State) (r : WgRef) (f : Workgroup → Workgroup) : (s.updWg r f).cur = s.cur := by
  unfold State.updWg; split <;> rfl
@[simp] theorem State.updWg_freeCount (s : State) (r : WgRef) (f : Workgroup → Workgroup) : (s.updWg r f).freeCount = s.freeCount := by
  unfold State.updWg; split <;> rfl

/-! ## updWave -/

@[simp] theorem State.updWave_mem (s : State) (r : WaveRef) (f : Wave → Wave) : (s.updWave r f).mem = s.mem := by
  unfold State.updWave; simp
@[simp] theorem State.updWave_poison (s : State) (r : WaveRef) (f : Wave → Wave) : (s.updWave r f).poison = s.poison := by
  unfold State.updWave; simp
@[simp] theorem State.updWave_fck (s : State) (r : WaveRef) (f : Wave → Wave) : (s.updWave r f).fck = s.fck := by
  unfold State.updWave; simp
@[simp] theorem State.updWave_lck (s : State) (r : WaveRef) (f : Wave → Wave) : (s.updWave r f).lck = s.lck := by
  unfold State.updWave; simp
@[simp] theorem State.updWave_tiles (s : State) (r : WaveRef) (f : Wave → Wave) : (s.updWave r f).tiles = s.tiles := by
  unfold State.updWave; simp
@[simp] theorem State.updWave_islands (s : State) (r : WaveRef) (f : Wave → Wave) : (s.updWave r f).islands = s.islands := by
  unfold State.updWave; simp
@[simp] theorem State.updWave_l2tlb (s : State) (r : WaveRef) (f : Wave → Wave) : (s.updWave r f).l2tlb = s.l2tlb := by
  unfold State.updWave; simp
@[simp] theorem State.updWave_walkCache (s : State) (r : WaveRef) (f : Wave → Wave) : (s.updWave r f).walkCache = s.walkCache := by
  unfold State.updWave; simp
@[simp] theorem State.updWave_grids (s : State) (r : WaveRef) (f : Wave → Wave) : (s.updWave r f).grids = s.grids := by
  unfold State.updWave; simp
@[simp] theorem State.updWave_accepts (s : State) (r : WaveRef) (f : Wave → Wave) : (s.updWave r f).accepts = s.accepts := by
  unfold State.updWave; simp
@[simp] theorem State.updWave_frames (s : State) (r : WaveRef) (f : Wave → Wave) : (s.updWave r f).frames = s.frames := by
  unfold State.updWave; simp
@[simp] theorem State.updWave_stops (s : State) (r : WaveRef) (f : Wave → Wave) : (s.updWave r f).stops = s.stops := by
  unfold State.updWave; simp
@[simp] theorem State.updWave_saves (s : State) (r : WaveRef) (f : Wave → Wave) : (s.updWave r f).saves = s.saves := by
  unfold State.updWave; simp
@[simp] theorem State.updWave_contexts (s : State) (r : WaveRef) (f : Wave → Wave) : (s.updWave r f).contexts = s.contexts := by
  unfold State.updWave; simp
@[simp] theorem State.updWave_queues (s : State) (r : WaveRef) (f : Wave → Wave) : (s.updWave r f).queues = s.queues := by
  unfold State.updWave; simp
@[simp] theorem State.updWave_bind (s : State) (r : WaveRef) (f : Wave → Wave) : (s.updWave r f).bind = s.bind := by
  unfold State.updWave; simp
@[simp] theorem State.updWave_mail (s : State) (r : WaveRef) (f : Wave → Wave) : (s.updWave r f).mail = s.mail := by
  unfold State.updWave; simp
@[simp] theorem State.updWave_grants (s : State) (r : WaveRef) (f : Wave → Wave) : (s.updWave r f).grants = s.grants := by
  unfold State.updWave; simp
@[simp] theorem State.updWave_ferr (s : State) (r : WaveRef) (f : Wave → Wave) : (s.updWave r f).ferr = s.ferr := by
  unfold State.updWave; simp
@[simp] theorem State.updWave_served (s : State) (r : WaveRef) (f : Wave → Wave) : (s.updWave r f).served = s.served := by
  unfold State.updWave; simp
@[simp] theorem State.updWave_hostOps (s : State) (r : WaveRef) (f : Wave → Wave) : (s.updWave r f).hostOps = s.hostOps := by
  unfold State.updWave; simp
@[simp] theorem State.updWave_hostOpId (s : State) (r : WaveRef) (f : Wave → Wave) : (s.updWave r f).hostOpId = s.hostOpId := by
  unfold State.updWave; simp
@[simp] theorem State.updWave_power (s : State) (r : WaveRef) (f : Wave → Wave) : (s.updWave r f).power = s.power := by
  unfold State.updWave; simp
@[simp] theorem State.updWave_presv (s : State) (r : WaveRef) (f : Wave → Wave) : (s.updWave r f).presv = s.presv := by
  unfold State.updWave; simp
@[simp] theorem State.updWave_heads (s : State) (r : WaveRef) (f : Wave → Wave) : (s.updWave r f).heads = s.heads := by
  unfold State.updWave; simp
@[simp] theorem State.updWave_lineCores (s : State) (r : WaveRef) (f : Wave → Wave) : (s.updWave r f).lineCores = s.lineCores := by
  unfold State.updWave; simp
@[simp] theorem State.updWave_lineLast (s : State) (r : WaveRef) (f : Wave → Wave) : (s.updWave r f).lineLast = s.lineLast := by
  unfold State.updWave; simp
@[simp] theorem State.updWave_pod (s : State) (r : WaveRef) (f : Wave → Wave) : (s.updWave r f).pod = s.pod := by
  unfold State.updWave; simp
@[simp] theorem State.updWave_modl (s : State) (r : WaveRef) (f : Wave → Wave) : (s.updWave r f).modl = s.modl := by
  unfold State.updWave; simp
@[simp] theorem State.updWave_agenda (s : State) (r : WaveRef) (f : Wave → Wave) : (s.updWave r f).agenda = s.agenda := by
  unfold State.updWave; simp
@[simp] theorem State.updWave_cur (s : State) (r : WaveRef) (f : Wave → Wave) : (s.updWave r f).cur = s.cur := by
  unfold State.updWave; simp
@[simp] theorem State.updWave_freeCount (s : State) (r : WaveRef) (f : Wave → Wave) : (s.updWave r f).freeCount = s.freeCount := by
  unfold State.updWave; simp

/-! ## updJob -/

@[simp] theorem State.updJob_mem (s : State) (r : WgRef) (f : Job → Job) : (s.updJob r f).mem = s.mem := by
  unfold State.updJob; simp
@[simp] theorem State.updJob_poison (s : State) (r : WgRef) (f : Job → Job) : (s.updJob r f).poison = s.poison := by
  unfold State.updJob; simp
@[simp] theorem State.updJob_fck (s : State) (r : WgRef) (f : Job → Job) : (s.updJob r f).fck = s.fck := by
  unfold State.updJob; simp
@[simp] theorem State.updJob_lck (s : State) (r : WgRef) (f : Job → Job) : (s.updJob r f).lck = s.lck := by
  unfold State.updJob; simp
@[simp] theorem State.updJob_tiles (s : State) (r : WgRef) (f : Job → Job) : (s.updJob r f).tiles = s.tiles := by
  unfold State.updJob; simp
@[simp] theorem State.updJob_islands (s : State) (r : WgRef) (f : Job → Job) : (s.updJob r f).islands = s.islands := by
  unfold State.updJob; simp
@[simp] theorem State.updJob_l2tlb (s : State) (r : WgRef) (f : Job → Job) : (s.updJob r f).l2tlb = s.l2tlb := by
  unfold State.updJob; simp
@[simp] theorem State.updJob_walkCache (s : State) (r : WgRef) (f : Job → Job) : (s.updJob r f).walkCache = s.walkCache := by
  unfold State.updJob; simp
@[simp] theorem State.updJob_grids (s : State) (r : WgRef) (f : Job → Job) : (s.updJob r f).grids = s.grids := by
  unfold State.updJob; simp
@[simp] theorem State.updJob_accepts (s : State) (r : WgRef) (f : Job → Job) : (s.updJob r f).accepts = s.accepts := by
  unfold State.updJob; simp
@[simp] theorem State.updJob_frames (s : State) (r : WgRef) (f : Job → Job) : (s.updJob r f).frames = s.frames := by
  unfold State.updJob; simp
@[simp] theorem State.updJob_stops (s : State) (r : WgRef) (f : Job → Job) : (s.updJob r f).stops = s.stops := by
  unfold State.updJob; simp
@[simp] theorem State.updJob_saves (s : State) (r : WgRef) (f : Job → Job) : (s.updJob r f).saves = s.saves := by
  unfold State.updJob; simp
@[simp] theorem State.updJob_contexts (s : State) (r : WgRef) (f : Job → Job) : (s.updJob r f).contexts = s.contexts := by
  unfold State.updJob; simp
@[simp] theorem State.updJob_queues (s : State) (r : WgRef) (f : Job → Job) : (s.updJob r f).queues = s.queues := by
  unfold State.updJob; simp
@[simp] theorem State.updJob_bind (s : State) (r : WgRef) (f : Job → Job) : (s.updJob r f).bind = s.bind := by
  unfold State.updJob; simp
@[simp] theorem State.updJob_mail (s : State) (r : WgRef) (f : Job → Job) : (s.updJob r f).mail = s.mail := by
  unfold State.updJob; simp
@[simp] theorem State.updJob_grants (s : State) (r : WgRef) (f : Job → Job) : (s.updJob r f).grants = s.grants := by
  unfold State.updJob; simp
@[simp] theorem State.updJob_ferr (s : State) (r : WgRef) (f : Job → Job) : (s.updJob r f).ferr = s.ferr := by
  unfold State.updJob; simp
@[simp] theorem State.updJob_served (s : State) (r : WgRef) (f : Job → Job) : (s.updJob r f).served = s.served := by
  unfold State.updJob; simp
@[simp] theorem State.updJob_hostOps (s : State) (r : WgRef) (f : Job → Job) : (s.updJob r f).hostOps = s.hostOps := by
  unfold State.updJob; simp
@[simp] theorem State.updJob_hostOpId (s : State) (r : WgRef) (f : Job → Job) : (s.updJob r f).hostOpId = s.hostOpId := by
  unfold State.updJob; simp
@[simp] theorem State.updJob_power (s : State) (r : WgRef) (f : Job → Job) : (s.updJob r f).power = s.power := by
  unfold State.updJob; simp
@[simp] theorem State.updJob_presv (s : State) (r : WgRef) (f : Job → Job) : (s.updJob r f).presv = s.presv := by
  unfold State.updJob; simp
@[simp] theorem State.updJob_heads (s : State) (r : WgRef) (f : Job → Job) : (s.updJob r f).heads = s.heads := by
  unfold State.updJob; simp
@[simp] theorem State.updJob_lineCores (s : State) (r : WgRef) (f : Job → Job) : (s.updJob r f).lineCores = s.lineCores := by
  unfold State.updJob; simp
@[simp] theorem State.updJob_lineLast (s : State) (r : WgRef) (f : Job → Job) : (s.updJob r f).lineLast = s.lineLast := by
  unfold State.updJob; simp
@[simp] theorem State.updJob_pod (s : State) (r : WgRef) (f : Job → Job) : (s.updJob r f).pod = s.pod := by
  unfold State.updJob; simp
@[simp] theorem State.updJob_modl (s : State) (r : WgRef) (f : Job → Job) : (s.updJob r f).modl = s.modl := by
  unfold State.updJob; simp
@[simp] theorem State.updJob_agenda (s : State) (r : WgRef) (f : Job → Job) : (s.updJob r f).agenda = s.agenda := by
  unfold State.updJob; simp
@[simp] theorem State.updJob_cur (s : State) (r : WgRef) (f : Job → Job) : (s.updJob r f).cur = s.cur := by
  unfold State.updJob; simp
@[simp] theorem State.updJob_freeCount (s : State) (r : WgRef) (f : Job → Job) : (s.updJob r f).freeCount = s.freeCount := by
  unfold State.updJob; simp

/-! ## updFrame -/

@[simp] theorem State.updFrame_mem (s : State) (n : Nat) (f : Frame → Frame) : (s.updFrame n f).mem = s.mem := by
  unfold State.updFrame; split <;> rfl
@[simp] theorem State.updFrame_poison (s : State) (n : Nat) (f : Frame → Frame) : (s.updFrame n f).poison = s.poison := by
  unfold State.updFrame; split <;> rfl
@[simp] theorem State.updFrame_fck (s : State) (n : Nat) (f : Frame → Frame) : (s.updFrame n f).fck = s.fck := by
  unfold State.updFrame; split <;> rfl
@[simp] theorem State.updFrame_lck (s : State) (n : Nat) (f : Frame → Frame) : (s.updFrame n f).lck = s.lck := by
  unfold State.updFrame; split <;> rfl
@[simp] theorem State.updFrame_tiles (s : State) (n : Nat) (f : Frame → Frame) : (s.updFrame n f).tiles = s.tiles := by
  unfold State.updFrame; split <;> rfl
@[simp] theorem State.updFrame_islands (s : State) (n : Nat) (f : Frame → Frame) : (s.updFrame n f).islands = s.islands := by
  unfold State.updFrame; split <;> rfl
@[simp] theorem State.updFrame_cores (s : State) (n : Nat) (f : Frame → Frame) : (s.updFrame n f).cores = s.cores := by
  unfold State.updFrame; split <;> rfl
@[simp] theorem State.updFrame_l2tlb (s : State) (n : Nat) (f : Frame → Frame) : (s.updFrame n f).l2tlb = s.l2tlb := by
  unfold State.updFrame; split <;> rfl
@[simp] theorem State.updFrame_walkCache (s : State) (n : Nat) (f : Frame → Frame) : (s.updFrame n f).walkCache = s.walkCache := by
  unfold State.updFrame; split <;> rfl
@[simp] theorem State.updFrame_grids (s : State) (n : Nat) (f : Frame → Frame) : (s.updFrame n f).grids = s.grids := by
  unfold State.updFrame; split <;> rfl
@[simp] theorem State.updFrame_accepts (s : State) (n : Nat) (f : Frame → Frame) : (s.updFrame n f).accepts = s.accepts := by
  unfold State.updFrame; split <;> rfl
@[simp] theorem State.updFrame_stops (s : State) (n : Nat) (f : Frame → Frame) : (s.updFrame n f).stops = s.stops := by
  unfold State.updFrame; split <;> rfl
@[simp] theorem State.updFrame_saves (s : State) (n : Nat) (f : Frame → Frame) : (s.updFrame n f).saves = s.saves := by
  unfold State.updFrame; split <;> rfl
@[simp] theorem State.updFrame_contexts (s : State) (n : Nat) (f : Frame → Frame) : (s.updFrame n f).contexts = s.contexts := by
  unfold State.updFrame; split <;> rfl
@[simp] theorem State.updFrame_queues (s : State) (n : Nat) (f : Frame → Frame) : (s.updFrame n f).queues = s.queues := by
  unfold State.updFrame; split <;> rfl
@[simp] theorem State.updFrame_bind (s : State) (n : Nat) (f : Frame → Frame) : (s.updFrame n f).bind = s.bind := by
  unfold State.updFrame; split <;> rfl
@[simp] theorem State.updFrame_mail (s : State) (n : Nat) (f : Frame → Frame) : (s.updFrame n f).mail = s.mail := by
  unfold State.updFrame; split <;> rfl
@[simp] theorem State.updFrame_grants (s : State) (n : Nat) (f : Frame → Frame) : (s.updFrame n f).grants = s.grants := by
  unfold State.updFrame; split <;> rfl
@[simp] theorem State.updFrame_ferr (s : State) (n : Nat) (f : Frame → Frame) : (s.updFrame n f).ferr = s.ferr := by
  unfold State.updFrame; split <;> rfl
@[simp] theorem State.updFrame_served (s : State) (n : Nat) (f : Frame → Frame) : (s.updFrame n f).served = s.served := by
  unfold State.updFrame; split <;> rfl
@[simp] theorem State.updFrame_hostOps (s : State) (n : Nat) (f : Frame → Frame) : (s.updFrame n f).hostOps = s.hostOps := by
  unfold State.updFrame; split <;> rfl
@[simp] theorem State.updFrame_hostOpId (s : State) (n : Nat) (f : Frame → Frame) : (s.updFrame n f).hostOpId = s.hostOpId := by
  unfold State.updFrame; split <;> rfl
@[simp] theorem State.updFrame_power (s : State) (n : Nat) (f : Frame → Frame) : (s.updFrame n f).power = s.power := by
  unfold State.updFrame; split <;> rfl
@[simp] theorem State.updFrame_presv (s : State) (n : Nat) (f : Frame → Frame) : (s.updFrame n f).presv = s.presv := by
  unfold State.updFrame; split <;> rfl
@[simp] theorem State.updFrame_heads (s : State) (n : Nat) (f : Frame → Frame) : (s.updFrame n f).heads = s.heads := by
  unfold State.updFrame; split <;> rfl
@[simp] theorem State.updFrame_lineCores (s : State) (n : Nat) (f : Frame → Frame) : (s.updFrame n f).lineCores = s.lineCores := by
  unfold State.updFrame; split <;> rfl
@[simp] theorem State.updFrame_lineLast (s : State) (n : Nat) (f : Frame → Frame) : (s.updFrame n f).lineLast = s.lineLast := by
  unfold State.updFrame; split <;> rfl
@[simp] theorem State.updFrame_pod (s : State) (n : Nat) (f : Frame → Frame) : (s.updFrame n f).pod = s.pod := by
  unfold State.updFrame; split <;> rfl
@[simp] theorem State.updFrame_modl (s : State) (n : Nat) (f : Frame → Frame) : (s.updFrame n f).modl = s.modl := by
  unfold State.updFrame; split <;> rfl
@[simp] theorem State.updFrame_agenda (s : State) (n : Nat) (f : Frame → Frame) : (s.updFrame n f).agenda = s.agenda := by
  unfold State.updFrame; split <;> rfl
@[simp] theorem State.updFrame_cur (s : State) (n : Nat) (f : Frame → Frame) : (s.updFrame n f).cur = s.cur := by
  unfold State.updFrame; split <;> rfl
@[simp] theorem State.updFrame_freeCount (s : State) (n : Nat) (f : Frame → Frame) : (s.updFrame n f).freeCount = s.freeCount := by
  unfold State.updFrame; split <;> rfl

/-! ## writeMem -/

@[simp] theorem State.writeMem_fck (s : State) (a : Nat) (b : List Byte) : (s.writeMem a b).fck = s.fck := rfl
@[simp] theorem State.writeMem_lck (s : State) (a : Nat) (b : List Byte) : (s.writeMem a b).lck = s.lck := rfl
@[simp] theorem State.writeMem_tiles (s : State) (a : Nat) (b : List Byte) : (s.writeMem a b).tiles = s.tiles := rfl
@[simp] theorem State.writeMem_islands (s : State) (a : Nat) (b : List Byte) : (s.writeMem a b).islands = s.islands := rfl
@[simp] theorem State.writeMem_cores (s : State) (a : Nat) (b : List Byte) : (s.writeMem a b).cores = s.cores := rfl
@[simp] theorem State.writeMem_l2tlb (s : State) (a : Nat) (b : List Byte) : (s.writeMem a b).l2tlb = s.l2tlb := rfl
@[simp] theorem State.writeMem_walkCache (s : State) (a : Nat) (b : List Byte) : (s.writeMem a b).walkCache = s.walkCache := rfl
@[simp] theorem State.writeMem_grids (s : State) (a : Nat) (b : List Byte) : (s.writeMem a b).grids = s.grids := rfl
@[simp] theorem State.writeMem_accepts (s : State) (a : Nat) (b : List Byte) : (s.writeMem a b).accepts = s.accepts := rfl
@[simp] theorem State.writeMem_frames (s : State) (a : Nat) (b : List Byte) : (s.writeMem a b).frames = s.frames := rfl
@[simp] theorem State.writeMem_stops (s : State) (a : Nat) (b : List Byte) : (s.writeMem a b).stops = s.stops := rfl
@[simp] theorem State.writeMem_saves (s : State) (a : Nat) (b : List Byte) : (s.writeMem a b).saves = s.saves := rfl
@[simp] theorem State.writeMem_contexts (s : State) (a : Nat) (b : List Byte) : (s.writeMem a b).contexts = s.contexts := rfl
@[simp] theorem State.writeMem_queues (s : State) (a : Nat) (b : List Byte) : (s.writeMem a b).queues = s.queues := rfl
@[simp] theorem State.writeMem_bind (s : State) (a : Nat) (b : List Byte) : (s.writeMem a b).bind = s.bind := rfl
@[simp] theorem State.writeMem_mail (s : State) (a : Nat) (b : List Byte) : (s.writeMem a b).mail = s.mail := rfl
@[simp] theorem State.writeMem_grants (s : State) (a : Nat) (b : List Byte) : (s.writeMem a b).grants = s.grants := rfl
@[simp] theorem State.writeMem_ferr (s : State) (a : Nat) (b : List Byte) : (s.writeMem a b).ferr = s.ferr := rfl
@[simp] theorem State.writeMem_served (s : State) (a : Nat) (b : List Byte) : (s.writeMem a b).served = s.served := rfl
@[simp] theorem State.writeMem_hostOps (s : State) (a : Nat) (b : List Byte) : (s.writeMem a b).hostOps = s.hostOps := rfl
@[simp] theorem State.writeMem_hostOpId (s : State) (a : Nat) (b : List Byte) : (s.writeMem a b).hostOpId = s.hostOpId := rfl
@[simp] theorem State.writeMem_power (s : State) (a : Nat) (b : List Byte) : (s.writeMem a b).power = s.power := rfl
@[simp] theorem State.writeMem_presv (s : State) (a : Nat) (b : List Byte) : (s.writeMem a b).presv = s.presv := rfl
@[simp] theorem State.writeMem_heads (s : State) (a : Nat) (b : List Byte) : (s.writeMem a b).heads = s.heads := rfl
@[simp] theorem State.writeMem_lineCores (s : State) (a : Nat) (b : List Byte) : (s.writeMem a b).lineCores = s.lineCores := rfl
@[simp] theorem State.writeMem_lineLast (s : State) (a : Nat) (b : List Byte) : (s.writeMem a b).lineLast = s.lineLast := rfl
@[simp] theorem State.writeMem_pod (s : State) (a : Nat) (b : List Byte) : (s.writeMem a b).pod = s.pod := rfl
@[simp] theorem State.writeMem_modl (s : State) (a : Nat) (b : List Byte) : (s.writeMem a b).modl = s.modl := rfl
@[simp] theorem State.writeMem_agenda (s : State) (a : Nat) (b : List Byte) : (s.writeMem a b).agenda = s.agenda := rfl
@[simp] theorem State.writeMem_cur (s : State) (a : Nat) (b : List Byte) : (s.writeMem a b).cur = s.cur := rfl
@[simp] theorem State.writeMem_freeCount (s : State) (a : Nat) (b : List Byte) : (s.writeMem a b).freeCount = s.freeCount := rfl

/-! ## Units after a change of a unit -/

@[simp] theorem State.setCore_core (s : State) (n m : Nat) (c : ComputeCore) :
    (s.setCore n c).core m = if m = n then c else s.core m := by
  unfold State.setCore State.core; simp; split <;> simp

@[simp] theorem State.updCore_core (s : State) (n m : Nat) (f : ComputeCore → ComputeCore) :
    (s.updCore n f).core m = if m = n then f (s.core n) else s.core m := by
  unfold State.updCore; simp

@[simp] theorem State.updTile_tile (s : State) (n m : Nat) (f : Tile64 → Tile64) :
    (s.updTile n f).tile m = if m = n then f (s.tile n) else s.tile m := by
  unfold State.updTile State.tile; simp; split <;> simp

@[simp] theorem State.updContext_context (s : State) (n m : Nat) (f : Context → Context) :
    (s.updContext n f).context m = if m = n then f (s.context n) else s.context m := by
  unfold State.updContext State.context; simp; split <;> simp

@[simp] theorem State.updQueue_queue (s : State) (n m : Nat) (f : HwQueue → HwQueue) :
    (s.updQueue n f).queue m = if m = n then f (s.queue n) else s.queue m := by
  unfold State.updQueue State.queue; simp; split <;> simp

@[simp] theorem State.updMailbox_mailbox (s : State) (n m : Nat) (f : Mailbox → Mailbox) :
    (s.updMailbox n f).mailbox m = if m = n then f (s.mailbox n) else s.mailbox m := by
  unfold State.updMailbox State.mailbox; simp; split <;> simp

@[simp] theorem State.updHead_head (s : State) (n m : Nat) (f : Head → Head) :
    (s.updHead n f).head m = if m = n then f (s.head n) else s.head m := by
  unfold State.updHead State.head; simp; split <;> simp

@[simp] theorem State.updLineCore_lineCore (s : State) (n m : Nat) (f : LineCore → LineCore) :
    (s.updLineCore n f).lineCore m = if m = n then f (s.lineCore n) else s.lineCore m := by
  unfold State.updLineCore State.lineCore; simp; split <;> simp

@[simp] theorem State.setWg_wg? (s : State) (r q : WgRef) (w : Workgroup) :
    (s.setWg r w).wg? q = if q = r then some w else s.wg? q := by
  obtain ⟨c, n⟩ := r; obtain ⟨d, m⟩ := q
  unfold State.setWg State.wg?; simp
  by_cases h : d = c
  · subst h; simp
  · simp [h]

@[simp] theorem State.updWg_wg? (s : State) (r q : WgRef) (f : Workgroup → Workgroup) :
    (s.updWg r f).wg? q = if q = r then (s.wg? q).map f else s.wg? q := by
  unfold State.updWg
  split
  · next w h => by_cases e : q = r <;> simp [e, h]
  · next h => by_cases e : q = r <;> simp [e, h]

/-- A resident wave after a change of a wave. -/
theorem State.updWave_wave? (s : State) (r q : WaveRef) (f : Wave → Wave) :
    (s.updWave r f).wave? q = if q = r then (s.wave? q).map f else s.wave? q := by
  obtain ⟨c, n, i⟩ := r; obtain ⟨d, m, j⟩ := q
  unfold State.updWave State.wave? wgOf
  by_cases h : (⟨d, m⟩ : WgRef) = ⟨c, n⟩
  · simp only [WgRef.mk.injEq] at h; obtain ⟨rfl, rfl⟩ := h
    simp only [State.updWg_wg?, if_true]
    cases s.wg? ⟨d, m⟩ <;> simp [modAt_getElem?]
  · have h' : ¬((⟨d, m, j⟩ : WaveRef) = ⟨c, n, i⟩) := by
      intro e; apply h; cases e; rfl
    simp [h, h']

/-- A wave after a change of its workgroup that keeps its waves. -/
theorem State.updWg_wave? (s : State) (r : WgRef) (q : WaveRef) (f : Workgroup → Workgroup)
    (hf : ∀ w, (f w).waves = w.waves) : (s.updWg r f).wave? q = s.wave? q := by
  unfold State.wave?
  simp only [State.updWg_wg?]
  by_cases h : wgOf q = r <;> simp [h]
  cases s.wg? r <;> simp [hf]

end Sys2Proof.Machine
end

