-- ==== Sys2Proof/Laws/Memory.lean ====
section
/-! SUPPORT. The laws of memory: what a byte reads as after a write, and that every memory operation keeps the
canonical form. -/

namespace Sys2Proof.Machine

/-! ## Lists of cells -/

/-- The canonical form, taken apart at the head. -/
theorem cellsWf_cons (a : Nat) (b : Byte) (rest : List Host.Cell) :
    cellsWf ((a, b) :: rest) = true ↔ b ≠ unlisted ∧ (∀ c ∈ rest, a < c.1) ∧ cellsWf rest = true := by
  induction rest generalizing a b with
  | nil => simp [cellsWf]
  | cons p rest ih =>
    obtain ⟨c, d⟩ := p
    have h := ih c d
    simp only [cellsWf, Bool.and_eq_true, bne_iff_ne, ne_eq, decide_eq_true_eq, List.mem_cons, forall_eq_or_imp]
    constructor
    · rintro ⟨⟨h1, h2⟩, h3⟩
      exact ⟨h1, ⟨h2, fun x hx => lt_trans h2 ((h.1 h3).2.1 x hx)⟩, h3⟩
    · rintro ⟨h1, ⟨h2, -⟩, h3⟩
      exact ⟨⟨h1, h2⟩, h3⟩

/-- A byte below every listed address is unlisted. -/
theorem cellAt_below (m : List Host.Cell) (x : Nat) (h : ∀ c ∈ m, x < c.1) : cellAt m x = unlisted := by
  cases m with
  | nil => rfl
  | cons p rest => obtain ⟨a, b⟩ := p; simp [cellAt, h (a, b) (by simp)]

/-- Addresses of a written list: the old ones, and the written one. -/
theorem mem_cellPut (m : List Host.Cell) (x : Nat) (v : Byte) (c : Host.Cell) (h : c ∈ cellPut m x v) :
    c ∈ m ∨ c.1 = x := by
  induction m with
  | nil => simp only [cellPut] at h; split at h <;> simp_all
  | cons p rest ih =>
    obtain ⟨a, b⟩ := p
    simp only [cellPut] at h
    split at h
    · split at h <;> simp_all
      rcases h with rfl | h | h <;> simp_all
    · split at h
      · split at h <;> simp_all
        rcases h with rfl | h <;> simp_all
      · simp only [List.mem_cons] at h ⊢
        rcases h with h | h
        · exact .inl (.inl h)
        · rcases ih h with h | h
          · exact .inl (.inr h)
          · exact .inr h

/-- A write keeps the canonical form. -/
theorem cellsWf_cellPut (m : List Host.Cell) (x : Nat) (v : Byte) (h : cellsWf m = true) :
    cellsWf (cellPut m x v) = true := by
  induction m with
  | nil =>
    by_cases e : v = unlisted
    · simp [cellPut, e, cellsWf]
    · simp [cellPut, e, cellsWf]
  | cons p rest ih =>
    obtain ⟨a, b⟩ := p
    have hh := (cellsWf_cons a b rest).1 h
    obtain ⟨hb, hlt, hr⟩ := hh
    by_cases h1 : x < a
    · by_cases e : v = unlisted
      · simpa [cellPut, h1, e] using h
      · simp only [cellPut, if_pos h1, if_neg e]
        refine (cellsWf_cons _ _ _).2 ⟨e, ?_, h⟩
        intro c hc
        rcases List.mem_cons.1 hc with rfl | hc
        · exact h1
        · exact lt_trans h1 (hlt c hc)
    · by_cases h2 : x = a
      · by_cases e : v = unlisted
        · simpa [cellPut, h1, h2, e] using hr
        · subst h2
          simp only [cellPut, if_neg h1, if_true, if_neg e]
          exact (cellsWf_cons _ _ _).2 ⟨e, hlt, hr⟩
      · simp only [cellPut, if_neg h1, if_neg h2]
        refine (cellsWf_cons _ _ _).2 ⟨hb, ?_, ih hr⟩
        intro c hc
        rcases mem_cellPut rest x v c hc with hc | hc
        · exact hlt c hc
        · omega

/-- What a byte reads as after a write. -/
theorem cellAt_cellPut (m : List Host.Cell) (x y : Nat) (v : Byte) (h : cellsWf m = true) :
    cellAt (cellPut m x v) y = if y = x then v else cellAt m y := by
  induction m with
  | nil =>
    by_cases e : v = unlisted <;> by_cases h1 : y = x <;> simp [cellPut, e, cellAt, h1]
  | cons p rest ih =>
    obtain ⟨a, b⟩ := p
    obtain ⟨hb, hlt, hr⟩ := (cellsWf_cons a b rest).1 h
    by_cases h1 : x < a
    · by_cases e : v = unlisted
      · by_cases h2 : y = x
        · subst h2; simp [cellPut, h1, e, cellAt]
        · simp [cellPut, h1, e, h2]
      · simp only [cellPut, if_pos h1, if_neg e]
        by_cases h2 : y = x
        · subst h2; simp [cellAt]
        · by_cases h3 : y < x
          · have h4 : y < a := lt_trans h3 h1
            simp [cellAt, h2, h3, h4]
          · simp only [cellAt, if_neg h3, if_neg h2]
    · by_cases h2 : x = a
      · subst h2
        by_cases e : v = unlisted
        · simp only [cellPut, if_neg h1, if_true, if_pos e]
          by_cases h3 : y = x
          · subst h3
            simp [cellAt_below rest y hlt, e]
          · by_cases h4 : y < x
            · have h5 : cellAt rest y = unlisted := cellAt_below rest y (fun c hc => lt_trans h4 (hlt c hc))
              simp [h3, h4, h5, cellAt]
            · simp [h3, h4, cellAt]
        · simp only [cellPut, if_neg h1, if_true, if_neg e]
          by_cases h3 : y = x
          · subst h3; simp [cellAt]
          · simp [cellAt, h3]
      · simp only [cellPut, if_neg h1, if_neg h2]
        have hi := ih hr
        by_cases h3 : y < a
        · have h4 : y ≠ x := by omega
          simp [cellAt, h3, h4]
        · by_cases h4 : y = a
          · have h5 : a ≠ x := fun h => h2 h.symm
            subst h4
            simp [cellAt, h5]
          · simp [cellAt, h3, h4, hi]

/-- A write of bytes keeps the canonical form. -/
theorem cellsWf_cellsPut (m : List Host.Cell) (a : Nat) (b : List Byte) (h : cellsWf m = true) :
    cellsWf (cellsPut m a b) = true := by
  induction b generalizing m a with
  | nil => simpa [cellsPut] using h
  | cons x rest ih => exact ih _ _ (cellsWf_cellPut m a x h)

/-- What a byte reads as after a write of bytes. -/
theorem cellAt_cellsPut (m : List Host.Cell) (a : Nat) (b : List Byte) (y : Nat) (h : cellsWf m = true) :
    cellAt (cellsPut m a b) y = if a ≤ y ∧ y < a + b.length then (b[y - a]?).getD 0 else cellAt m y := by
  induction b generalizing m a with
  | nil => simp [cellsPut]
  | cons x rest ih =>
    simp only [cellsPut, ih _ _ (cellsWf_cellPut m a x h), cellAt_cellPut m a y x h, List.length_cons]
    by_cases h1 : y = a
    · subst h1; simp
    · by_cases h2 : a + 1 ≤ y ∧ y < a + 1 + rest.length
      · have h3 : a ≤ y ∧ y < a + (rest.length + 1) := by omega
        obtain ⟨k, rfl⟩ : ∃ k, y = a + 1 + k := ⟨y - (a + 1), by omega⟩
        have h4 : a + 1 + k - (a + 1) = k := by omega
        have h5 : a + 1 + k - a = k + 1 := by omega
        simp [h2, h3, h4, h5]
      · have h3 : ¬(a ≤ y ∧ y < a + (rest.length + 1)) := by omega
        simp only [if_neg h2, if_neg h3, if_neg h1]

/-- Dropping cells keeps the canonical form. -/
theorem cellsWf_filter (m : List Host.Cell) (p : Host.Cell → Bool) (h : cellsWf m = true) :
    cellsWf (m.filter p) = true := by
  induction m with
  | nil => simp [cellsWf]
  | cons c rest ih =>
    obtain ⟨a, b⟩ := c
    obtain ⟨hb, hlt, hr⟩ := (cellsWf_cons a b rest).1 h
    by_cases e : p (a, b) = true
    · rw [List.filter_cons_of_pos e]
      exact (cellsWf_cons _ _ _).2 ⟨hb, fun c hc => hlt c (List.mem_filter.1 hc).1, ih hr⟩
    · rw [List.filter_cons_of_neg e]
      exact ih hr

/-! ## Memory operations keep the canonical form -/

theorem State.writeMem_memWf (s : State) (a : Nat) (b : List Byte) (h : s.memWf) : (s.writeMem a b).memWf :=
  cellsWf_cellsPut _ _ _ h

/-- What a byte beyond L1 reads as after a write. -/
theorem State.writeMem_at (s : State) (a : Nat) (b : List Byte) (y : Nat) (h : s.memWf) :
    cellAt (s.writeMem a b).mem y = if a ≤ y ∧ y < a + b.length then (b[y - a]?).getD 0 else cellAt s.mem y :=
  cellAt_cellsPut _ _ _ _ h

/-- A fold of changes that keep the canonical form keeps it. -/
theorem foldl_memWf {α : Type} (l : List α) (f : State → α → State) (hf : ∀ s x, s.memWf → (f s x).memWf)
    (s : State) (h : s.memWf) : (l.foldl f s).memWf := by
  induction l generalizing s with
  | nil => exact h
  | cons x rest ih => exact ih _ (hf s x h)

theorem State.writeBackLine_memWf (s : State) (x : L1Line) (h : s.memWf) : (s.writeBackLine x).memWf := by
  unfold State.writeBackLine
  refine foldl_memWf _ _ (fun s i hs => ?_) _ h
  split
  · exact State.writeMem_memWf _ _ _ hs
  · exact hs

theorem State.updCore_memWf (s : State) (n : Nat) (f : ComputeCore → ComputeCore) (h : s.memWf) :
    (s.updCore n f).memWf := h

theorem State.writeBack_memWf (s : State) (core : Nat) (p : Nat → Bool) (h : s.memWf) : (s.writeBack core p).memWf := by
  unfold State.writeBack
  exact foldl_memWf _ _ (fun s x hs => State.writeBackLine_memWf s x hs) _ h

theorem State.invalidate_memWf (s : State) (core : Nat) (p : Nat → Bool) (h : s.memWf) : (s.invalidate core p).memWf :=
  State.writeBack_memWf s core p h

/-- A filled line leaves memory as it was. -/
theorem State.fillLine_mem (s : State) (core a : Nat) (fresh : Bool) : (s.fillLine core a fresh).2.mem = s.mem := by
  unfold State.fillLine
  dsimp only
  split
  · split <;> rfl
  · rfl

theorem State.readL1_mem (s : State) (core a : Nat) (fresh : Bool) : (s.readL1 core a fresh).2.mem = s.mem :=
  s.fillLine_mem core a fresh


theorem State.settleL1_memWf (s : State) (core d : Nat) (h : s.memWf) : (s.settleL1 core d).memWf := by
  unfold State.settleL1
  split
  · split
    · exact h
    · exact State.updCore_memWf _ _ _ (State.writeBackLine_memWf s _ h)
  · exact h

/-- A byte performed beyond the L1 comes after the dirty bytes of its line (14 R369). -/
theorem State.writeThrough_mem (s : State) (core a : Nat) (b : Byte) :
    (s.writeThrough core a b).mem = ((s.settleL1 core a).writeMem a [b]).mem := by
  unfold State.writeThrough
  dsimp only
  split <;> rfl

theorem State.writeThrough_memWf (s : State) (core a : Nat) (b : Byte) (h : s.memWf) : (s.writeThrough core a b).memWf := by
  unfold State.memWf
  rw [State.writeThrough_mem]
  exact State.writeMem_memWf _ _ _ (s.settleL1_memWf core a h)

/-- A plain local store stays in the L1, or, where that has no room, is performed: the memory beyond keeps its form
(14 R376). -/
theorem State.writeL1_memWf (s : State) (core a : Nat) (b : Byte) (h : s.memWf) : (s.writeL1 core a b).memWf := by
  have hf : (s.fillLine core a false).2.memWf := by unfold State.memWf; rw [s.fillLine_mem]; exact h
  unfold State.writeL1
  dsimp only
  split
  · exact State.writeThrough_memWf _ _ _ _ hf
  · exact hf

/-- A scratchpad window is no memory: its writes leave memory as it was (01 R47). -/
theorem State.writeWindow_mem (s : State) (core off : Nat) (b : Byte) : (s.writeWindow core off b).mem = s.mem := by
  unfold State.writeWindow
  split <;> simp

theorem State.performCell_memWf (s : State) (core : Nat) (c : Host.Cell) (h : s.memWf) : (s.performCell core c).memWf := by
  unfold State.performCell
  split
  · exact (congrArg (fun m => cellsWf m = true) (s.writeWindow_mem _ _ _)).mpr h
  · exact State.writeThrough_memWf _ _ _ _ h

theorem State.drainWc_memWf (s : State) (r : WaveRef) (h : s.memWf) : (s.drainWc r).memWf := by
  unfold State.drainWc
  split
  · exact h
  · dsimp only [State.memWf]
    rw [State.updWave_mem]
    exact foldl_memWf _ _ (fun s c hs => s.performCell_memWf r.core c hs) _ h

theorem State.releaseCore_memWf (s : State) (core : Nat) (h : s.memWf) : (s.releaseCore core).memWf :=
  State.writeBack_memWf _ _ _ h

theorem State.acquireCore_memWf (s : State) (core : Nat) (h : s.memWf) : (s.acquireCore core).memWf :=
  State.invalidate_memWf _ _ _ h

theorem State.drainWg_memWf (s : State) (r : WgRef) (h : s.memWf) : (s.drainWg r).memWf := by
  unfold State.drainWg
  split
  · exact h
  · exact foldl_memWf _ _ (fun s i hs => State.drainWc_memWf s _ hs) _ h

theorem State.releaseWg_memWf (s : State) (r : WgRef) (h : s.memWf) : (s.releaseWg r).memWf :=
  State.releaseCore_memWf _ _ (s.drainWg_memWf r h)

/-- Memory after reset lists nothing (00 R8). -/
theorem State.reset_memWf : State.reset.memWf := rfl

end Sys2Proof.Machine
end

