-- ==== Sys2Proof/Laws/Wave.lean ====
section
/-! SUPPORT. What a wave word's issue comes to once it is ready, and what the shared operations on a wave's
registers leave as it was. -/

namespace Sys2Proof.Machine

/-! ## Issue -/

theorem foldl_keep {α β : Type} (l : List α) (f : β → α → β) (b : β) (h : ∀ b x, x ∈ l → f b x = b) : l.foldl f b = b := by
  induction l generalizing b with
  | nil => rfl
  | cons x rest ih => rw [List.foldl_cons, h b x (List.mem_cons_self ..)]; exact ih b (fun b y hy => h b y (List.mem_cons_of_mem _ hy))

/-- What a ready word's context and form satisfy. -/
theorem State.ready?_spec {op : Nat} {w : WWord} {s : State} {c : WaveCtx} {f : WaveForm} (h : s.ready? op w = some (c, f)) :
    s.waveCtx? w = some c ∧ waveForm op w = some f ∧ fieldsFit op f w = true ∧ c.streamsReady w = true
      ∧ c.meetsPending f w = false ∧ c.poisonHit f w = false ∧ c.heldBack op w = false := by
  unfold State.ready? at h
  split at h
  · next c' f' hc hf =>
    split at h
    · next hb =>
      simp only [Option.some.injEq, Prod.mk.injEq] at h
      obtain ⟨rfl, rfl⟩ := h
      simp only [Bool.and_eq_true, Bool.not_eq_true'] at hb
      exact ⟨hc, hf, hb.1.1.1.1, hb.1.1.1.2, hb.1.1.2, hb.1.2, hb.2⟩
    · cases h
  · cases h

/-- A ready word runs its body on its form, its context and the state. -/
theorem rawWord_ready {op : Nat} {w : WWord} {s : State} {c : WaveCtx} {f : WaveForm}
    (h : s.ready? op w = some (c, f)) (body : WaveForm → WaveCtx → State → State) :
    rawWord op w s body = .next (body f c s) := by
  obtain ⟨hc, hf, h1, h2, h3, h4, h5⟩ := State.ready?_spec h
  simp [rawWord, issueTry, hc, hf, h1, h2, h3, h4, h5]

theorem waveWord_ready {op : Nat} {w : WWord} {s : State} {c : WaveCtx} {f : WaveForm}
    (h : s.ready? op w = some (c, f)) (body : WaveForm → WaveCtx → State → State) :
    waveWord op w s body = .next (body f c (s.countIssue c.r)) := by
  unfold waveWord; rw [rawWord_ready h]

/-- Where a ready word's wave stands. -/
theorem State.waveCtx?_spec {w : WWord} {s : State} {c : WaveCtx} (h : s.waveCtx? w = some c) :
    s.cur = .wave c.r ∧ s.wg? (wgOf c.r) = some c.wg ∧ c.wg.waves[c.r.wave]? = some c.wv ∧ c.wv.group = some c.g
      ∧ c.act = c.g.lanes &&& c.wv.guard w.p w.pn := by
  unfold State.waveCtx? at h
  split at h <;> try cases h
  next r hr =>
  split at h <;> try cases h
  next wg hg =>
  split at h <;> try cases h
  next wv hv =>
  split at h <;> try cases h
  next g hgr =>
  exact ⟨hr, hg, hv, hgr, rfl⟩

/-- The wave of a ready word. -/
theorem State.ready?_wave {op : Nat} {w : WWord} {s : State} {c : WaveCtx} {f : WaveForm}
    (h : s.ready? op w = some (c, f)) : s.wave? c.r = some c.wv := by
  obtain ⟨_, hg, hv, _, _⟩ := State.waveCtx?_spec (State.ready?_spec h).1
  simp [State.wave?, hg, hv]

/-! ## What stays -/

theorem State.OnlyWave.refl (s : State) (r : WaveRef) : s.OnlyWave s r :=
  ⟨rfl, fun _ => rfl, fun _ => rfl, fun _ _ => rfl⟩

theorem State.OnlyWave.trans {s t u : State} {r : WaveRef} (h : s.OnlyWave t r) (k : t.OnlyWave u r) : s.OnlyWave u r :=
  ⟨k.off.trans h.off, fun n => (k.cores n).trans (h.cores n), fun q => (k.groups q).trans (h.groups q),
   fun q hq => (k.waves q hq).trans (h.waves q hq)⟩

theorem State.updWg_shell (s : State) (r : WgRef) (f : Workgroup → Workgroup) (k : Nat) :
    ((s.updWg r f).core k).shell = (s.core k).shell := by
  unfold State.updWg
  split
  · unfold State.setWg
    rw [State.updCore_core]
    by_cases h : k = r.core
    · subst h; simp [ComputeCore.shell]
    · simp [h]
  · rfl

theorem State.updWg_offCores (s : State) (r : WgRef) (f : Workgroup → Workgroup) : (s.updWg r f).offCores = s.offCores := by
  unfold State.updWg
  split <;> rfl

/-- A change of wave `r` leaves the rest. -/
theorem State.updWave_onlyWave (s : State) (r : WaveRef) (f : Wave → Wave) : s.OnlyWave (s.updWave r f) r := by
  refine ⟨s.updWg_offCores _ _, fun k => s.updWg_shell _ _ k, fun q => ?_, fun q hq => ?_⟩
  · unfold State.updWave
    rw [State.updWg_wg?]
    split
    · cases s.wg? q <;> simp [Workgroup.shell]
    · rfl
  · rw [State.updWave_wave?, if_neg hq]

/-- A change of another wave's placement, or of wave `r`, leaves the rest. -/
theorem State.placeWave_onlyWave (s : State) (r p : WaveRef) (f : Wave → Wave) (hf : ∀ v, (f v).unplaced = v.unplaced) :
    s.OnlyWave (s.updWave p f) r := by
  refine ⟨s.updWg_offCores _ _, fun k => s.updWg_shell _ _ k, fun q => ?_, fun q _ => ?_⟩
  · unfold State.updWave
    rw [State.updWg_wg?]
    split
    · cases s.wg? q <;> simp [Workgroup.shell]
    · rfl
  · rw [State.updWave_wave?]
    split
    · cases s.wave? q <;> simp [hf]
    · rfl

/-- A change of the flag word and watchdog count of the wave's own workgroup. -/
theorem State.updWg_onlyWave (s : State) (r : WaveRef) (f : Workgroup → Workgroup) (hw : ∀ g, (f g).waves = g.waves)
    (hf : ∀ g, (f g).shell true = g.shell true) : s.OnlyWave (s.updWg (wgOf r) f) r := by
  refine ⟨s.updWg_offCores _ _, fun k => s.updWg_shell _ _ k, fun q => ?_, fun q _ => ?_⟩
  · rw [State.updWg_wg?]
    split
    · next h => subst h; cases s.wg? (wgOf r) <;> simp [hf]
    · rfl
  · rw [State.updWg_wave? _ _ _ _ hw]

/-- A change of the counts of 01 R35. -/
theorem State.updCore_onlyWave (s : State) (r : WaveRef) (n : Nat) (f : ComputeCore → ComputeCore)
    (hw : ∀ c, (f c).wgs = c.wgs) (hf : ∀ c, (f c).shell = c.shell) : s.OnlyWave (s.updCore n f) r := by
  have hg : ∀ q, (s.updCore n f).wg? q = s.wg? q := by
    intro q; unfold State.wg?; rw [State.updCore_core]; split
    · next h => rw [hw, h]
    · rfl
  refine ⟨rfl, fun k => ?_, fun q => by rw [hg], fun q _ => by unfold State.wave?; rw [hg]⟩
  rw [State.updCore_core]; split
  · next h => rw [hf, h]
  · rfl

theorem State.free_onlyWave (s : State) (r : WaveRef) : s.OnlyWave s.free.2 r :=
  ⟨rfl, fun _ => rfl, fun _ => rfl, fun _ _ => rfl⟩

theorem State.updCore_wave? (s : State) (n : Nat) (f : ComputeCore → ComputeCore) (hw : ∀ c, (f c).wgs = c.wgs) (q : WaveRef) :
    (s.updCore n f).wave? q = s.wave? q := by
  unfold State.wave? State.wg?; rw [State.updCore_core]; split
  · next h => rw [hw, h]
  · rfl

theorem State.spillOne_onlyWave (s : State) (core part : Nat) (r : WaveRef) : s.OnlyWave (s.spillOne core part) r := by
  unfold State.spillOne
  dsimp only
  split
  · refine (s.free_onlyWave r).trans ((State.placeWave_onlyWave _ r _ _ ?_).trans (State.updCore_onlyWave _ r _ _ ?_ ?_))
      <;> intro _ <;> rfl
  · exact .refl s r

/-- Spilling leaves every wave's registers. -/
theorem State.spillOne_wave? (s : State) (core part : Nat) (q : WaveRef) :
    ((s.spillOne core part).wave? q).map Wave.unplaced = (s.wave? q).map Wave.unplaced := by
  unfold State.spillOne
  dsimp only
  split
  · rw [State.updCore_wave?]
    · rw [State.updWave_wave?]
      split
      · change Option.map _ (Option.map _ (s.wave? q)) = _
        cases s.wave? q <;> rfl
      · rfl
    · intro _; rfl
  · rfl

theorem State.countIssue_onlyWave (s : State) (r : WaveRef) : s.OnlyWave (s.countIssue r) r :=
  (s.updWave_onlyWave r _).trans (State.updWg_onlyWave _ r _ (fun _ => rfl) (fun _ => rfl))

theorem State.raise_onlyWave (s : State) (r : WaveRef) (f : BitVec 6) : s.OnlyWave (s.raise (wgOf r) f) r := by
  unfold State.raise
  split
  · exact .refl s r
  · exact s.updWg_onlyWave r _ (fun _ => rfl) (fun _ => rfl)

theorem State.ensurePhys_onlyWave (s : State) (r : WaveRef) (n : Nat) : s.OnlyWave (s.ensurePhys r n) r := by
  unfold State.ensurePhys
  split
  · exact .refl s r
  · split
    · exact .refl s r
    · dsimp only
      split
      · exact .refl s r
      · have h1 : ∀ b : Bool, ∀ part, s.OnlyWave (if b = true then s.spillOne r.core part else s) r := by
          intro b part; cases b <;> simp [State.OnlyWave.refl, State.spillOne_onlyWave]
        split
        · refine State.OnlyWave.trans ?_ ((State.updWave_onlyWave _ r _).trans (State.updCore_onlyWave _ r _ _ ?_ ?_))
          · split
            · exact s.spillOne_onlyWave _ _ r
            · exact .refl s r
          · intro _; rfl
          · intro _; rfl
        · refine State.OnlyWave.trans ?_ (State.updWave_onlyWave _ r _)
          split
          · exact s.spillOne_onlyWave _ _ r
          · exact .refl s r

theorem State.writeVec_onlyWave (s : State) (r : WaveRef) (n : Nat) (m : Lanes) (v : List W32) :
    s.OnlyWave (s.writeVec r n m v) r := by
  unfold State.writeVec
  split
  · exact .refl s r
  · exact (s.ensurePhys_onlyWave r n).trans (State.updWave_onlyWave _ r _)

theorem State.writeTyped_onlyWave (s : State) (r : WaveRef) (t : WType) (d : Nat) (m : Lanes) (v : List Nat) :
    s.OnlyWave (s.writeTyped r t d m v) r := by
  unfold State.writeTyped
  split
  · exact (s.writeVec_onlyWave r _ m _).trans (State.writeVec_onlyWave _ r _ m _)
  · exact s.writeVec_onlyWave r _ m _

theorem State.writeS_onlyWave (s : State) (r : WaveRef) (n v : Nat) : s.OnlyWave (s.writeS r n v) r :=
  s.updWave_onlyWave r _

theorem State.writeP_onlyWave (s : State) (r : WaveRef) (n : Nat) (m b : Lanes) : s.OnlyWave (s.writeP r n m b) r := by
  unfold State.writeP
  split
  · exact .refl s r
  · exact s.updWave_onlyWave r _

theorem State.foldl_onlyWave {α : Type} (l : List α) (f : State → α → State) (r : WaveRef)
    (hf : ∀ (s : State) x, s.OnlyWave (f s x) r) (s : State) : s.OnlyWave (l.foldl f s) r := by
  induction l generalizing s with
  | nil => exact .refl s r
  | cons x rest ih => exact (hf s x).trans (ih (f s x))

theorem State.setFree_onlyWave (s : State) (r : WaveRef) (n : Nat) : s.OnlyWave { s with freeCount := n } r :=
  ⟨rfl, fun _ => rfl, fun _ => rfl, fun _ _ => rfl⟩

/-- Reading registers and streams changes nothing but the wave that reads them. -/
theorem State.takeOperands_onlyWave (s : State) (c : WaveCtx) (f : WaveForm) (w : WWord) :
    s.OnlyWave (s.takeOperands c f w) c.r := by
  unfold State.takeOperands
  dsimp only
  have h1 : s.OnlyWave (if c.wv.spilled.isEmpty then s
      else ((readRegs f w).filter (fun n => c.wv.spilled.contains n)).foldl (fun s n => s.ensurePhys c.r n) s) c.r := by
    split
    · exact .refl s c.r
    · exact State.foldl_onlyWave _ _ c.r (fun s n => s.ensurePhys_onlyWave c.r n) s
  refine h1.trans ?_
  generalize (if c.wv.spilled.isEmpty then s
      else ((readRegs f w).filter (fun n => c.wv.spilled.contains n)).foldl (fun s n => s.ensurePhys c.r n) s) = s1
  have h2 : s1.OnlyWave (if (streamsOf w).isEmpty then s1
      else { s1.updWave c.r (fun v => v.takeStreams c.act (streamsOf w)) with freeCount := s1.freeCount + 96 }) c.r := by
    split
    · exact .refl s1 c.r
    · exact (s1.updWave_onlyWave c.r _).trans (State.setFree_onlyWave _ c.r _)
  refine h2.trans ?_
  generalize (if (streamsOf w).isEmpty then s1
      else { s1.updWave c.r (fun v => v.takeStreams c.act (streamsOf w)) with freeCount := s1.freeCount + 96 }) = s2
  split
  · exact .refl s2 c.r
  · exact s2.updWave_onlyWave c.r _

theorem State.noteShedPoint_onlyWave (s : State) (core : Nat) (r : WaveRef) : s.OnlyWave (s.noteShedPoint core) r :=
  State.updCore_onlyWave s r core (fun c => { c with levelAt := some (s.tckOf core) }) (fun _ => rfl) (fun _ => rfl)

/-- Reading operands changes nothing but the wave that reads them, and its core's last use of the shedding level. -/
theorem State.consume_onlyWave (s : State) (c : WaveCtx) (f : WaveForm) (w : WWord) : s.OnlyWave (s.consume c f w) c.r := by
  unfold State.consume
  split
  · exact (s.noteShedPoint_onlyWave _ _).trans (State.takeOperands_onlyWave _ c f w)
  · exact s.takeOperands_onlyWave c f w

theorem State.nextWord_onlyWave (s : State) (r : WaveRef) (n : Nat) : s.OnlyWave (s.nextWord r n) r := s.updWave_onlyWave r _

/-! ## What becomes of the wave -/

theorem Wave.vreg_of_unplaced {u v : Wave} (h : u.unplaced = v.unplaced) :
    u.bare = v.bare ∧ u.streams = v.streams ∧ u.poison = v.poison ∧ u.vregs = v.vregs := by
  simp only [Wave.unplaced, Wave.mk.injEq] at h
  obtain ⟨h1, -, h3, h4, h5, h6, h7, h8, h9, h10, h11, h12, h13, h14, h15, h16, h17, h18⟩ := h
  exact ⟨by simp [Wave.bare, h4, h5, h6, h7, h9, h10, h11, h12, h13, h14, h15, h16, h17, h18], h8, h3, h1⟩

/-- A wave after one of its registers has been given a physical register: every register reads as before. -/
theorem State.ensurePhys_wave? {s : State} {r : WaveRef} {v : Wave} (n : Nat) (h : s.wave? r = some v) :
    ∃ u, (s.ensurePhys r n).wave? r = some u ∧ u.bare = v.bare ∧ u.streams = v.streams ∧ u.poison = v.poison
      ∧ ∀ m, u.vreg m = v.vreg m := by
  have key : ∀ t : State, (t.wave? r).map Wave.unplaced = (s.wave? r).map Wave.unplaced →
      ∃ u, t.wave? r = some u ∧ u.unplaced = v.unplaced := by
    intro t ht; rw [h] at ht
    cases hu : t.wave? r with
    | none => rw [hu] at ht; simp at ht
    | some u => rw [hu] at ht; simp at ht; exact ⟨u, rfl, ht⟩
  unfold State.wave? at h
  cases hg : s.wg? (wgOf r) with
  | none => rw [hg] at h; simp at h
  | some g =>
  rw [hg] at h
  have hv : g.waves[r.wave]? = some v := by simpa using h
  unfold State.ensurePhys
  simp only [hg, hv]
  have hw : s.wave? r = some v := by simp [State.wave?, hg, hv]
  split
  · exact ⟨v, hw, rfl, rfl, rfl, fun _ => rfl⟩
  · have hsp : ∃ u, (if 768 ≤ s.physInUse r.core ((g.part + r.wave) % 6) then
        s.spillOne r.core ((g.part + r.wave) % 6) else s).wave? r = some u ∧ u.unplaced = v.unplaced := by
      apply key
      split
      · exact s.spillOne_wave? _ _ r
      · rfl
    obtain ⟨u, hu, hu'⟩ := hsp
    obtain ⟨e1, e2, e3, e4⟩ := Wave.vreg_of_unplaced hu'
    split
    · rw [State.updCore_wave? _ r.core _ (by intro _; rfl), State.updWave_wave?, if_pos rfl, hu]
      exact ⟨_, rfl, e1, e2, e3, fun m => by simp [Wave.vreg, e4]⟩
    · next hm _ =>
      rw [State.updWave_wave?, if_pos rfl, hu]
      refine ⟨_, rfl, e1, e2, e3, fun m => ?_⟩
      simp only [Wave.vreg, assoc_assocSet]
      split
      · next e =>
        subst e
        have : assoc v.vregs m = none := by
          cases hx : assoc v.vregs m with
          | none => rfl
          | some x => simp_all
        simp [this]
      · rw [e4]

/-- What a write of lanes of a vector register leaves in its wave. -/
structure Wave.Wrote (v u : Wave) (n : Nat) (mask : Lanes) (vals : List W32) : Prop where
  bare : u.bare = v.bare
  streams : u.streams = v.streams
  other : ∀ m, m ≠ n → u.vreg m = v.vreg m
  lane : ∀ l, l < 32 → ((u.vreg n)[l]?).getD 0 =
    if mask.getLsbD l then (vals[l]?).getD 0 else ((v.vreg n)[l]?).getD 0
  poison : ∀ m l, u.poisonedLane m l = (v.poisonedLane m l && !(m == n && mask.getLsbD l))

theorem mergeLanes_getElem? (mask : Lanes) (old new : List W32) (l : Nat) (h : l < 32) :
    ((mergeLanes mask old new)[l]?).getD 0 = if mask.getLsbD l then (new[l]?).getD 0 else (old[l]?).getD 0 := by
  simp [mergeLanes, h]

theorem poison_clear (l : List (Nat × Lanes)) (n : Nat) (mask : Lanes) (m i : Nat) :
    ((l.map (fun p => if p.1 = n then (p.1, p.2 &&& ~~~mask) else p)).filter (fun p => p.2 != 0)).any
        (fun p => p.1 == m && p.2.getLsbD i)
      = (l.any (fun p => p.1 == m && p.2.getLsbD i) && !(m == n && mask.getLsbD i)) := by
  induction l with
  | nil => simp
  | cons x rest ih =>
    obtain ⟨a, b⟩ := x
    have drop : ∀ q : Nat × Lanes, ((if q.2 != 0 then [q] else []).any (fun p => p.1 == m && p.2.getLsbD i))
        = (q.1 == m && q.2.getLsbD i) := by
      intro q
      by_cases hq : (q.2 != 0) = true
      · rw [if_pos hq]; simp
      · rw [if_neg hq]
        have : q.2 = 0 := by simpa using hq
        simp [this]
    have hsplit : ∀ (q : Nat × Lanes) (r : List (Nat × Lanes)), ((q :: r).filter (fun p => p.2 != 0))
        = (if q.2 != 0 then [q] else []) ++ r.filter (fun p => p.2 != 0) := by
      intro q r
      by_cases hq : (q.2 != 0) = true
      · rw [List.filter_cons, if_pos hq, if_pos hq]; rfl
      · rw [List.filter_cons, if_neg hq, if_neg hq]; rfl
    rw [List.map_cons, hsplit, List.any_append, drop, ih, List.any_cons]
    by_cases ha : a = n
    · rw [if_pos ha]
      by_cases hm : a = m
      · by_cases hi : i < 32
        · simp only [BitVec.getLsbD_and, BitVec.getLsbD_not, hi, decide_true, ← hm, ha, beq_self_eq_true]
          cases b.getLsbD i <;> cases mask.getLsbD i <;> simp
        · have h1 : b.getLsbD i = false := BitVec.getLsbD_of_ge _ _ (by omega)
          have h2 : mask.getLsbD i = false := BitVec.getLsbD_of_ge _ _ (by omega)
          simp [h1, h2]
      · have h1 : (a == m) = false := by simp [hm]
        have h2 : (m == n) = false := by rw [← ha]; simp [Ne.symm hm]
        simp only [h1, h2]; simp
    · rw [if_neg ha]
      by_cases hm : a = m
      · have h2 : (m == n) = false := by rw [← hm]; simp [ha]
        simp only [h2]; simp
      · have h1 : (a == m) = false := by simp [hm]
        simp only [h1]; simp

theorem State.writeVec_wave? {s : State} {r : WaveRef} {v : Wave} (n : Nat) (mask : Lanes) (vals : List W32)
    (h : s.wave? r = some v) : ∃ u, (s.writeVec r n mask vals).wave? r = some u ∧ v.Wrote u n mask vals := by
  unfold State.writeVec
  split
  · next hm =>
    subst hm
    exact ⟨v, h, ⟨rfl, rfl, fun _ _ => rfl, fun l _ => by simp, fun m l => by simp⟩⟩
  · obtain ⟨u, hu, b1, b2, b3, b4⟩ := State.ensurePhys_wave? n h
    rw [State.updWave_wave?, if_pos rfl, hu]
    refine ⟨_, rfl, ⟨b1, b2, fun m hm => ?_, fun l hl => ?_, fun m l => ?_⟩⟩
    · simp only [Wave.vreg, assoc_assocSet, if_neg hm]; exact b4 m
    · simp only [Wave.vreg, assoc_assocSet, if_true, Option.getD_some]
      rw [mergeLanes_getElem? _ _ _ _ hl]
      have := b4 n
      simp only [Wave.vreg] at this
      rw [this]
    · simp only [Wave.poisonedLane]
      rw [poison_clear, b3]

/-- A wave after its operands have been read: streams have given up their elements, last uses are freed, and
every other register reads as before (01 R34; 18 R431). -/
theorem State.takeOperands_wave? {s : State} {c : WaveCtx} (f : WaveForm) (w : WWord) {v : Wave} (h : s.wave? c.r = some v) :
    ∃ u, (s.takeOperands c f w).wave? c.r = some u ∧ u.bare = v.bare ∧ u.streams = (v.takeStreams c.act (streamsOf w)).streams
      ∧ (∀ m, m ∉ c.lastUses f w → u.vreg m = v.vreg m) ∧ (∀ m ∈ c.lastUses f w, u.vreg m = zeroLanes)
      ∧ ∀ m l, u.poisonedLane m l = (v.poisonedLane m l && !(c.lastUses f w).contains m) := by
  have fold : ∀ (l : List Nat) (s : State) (v : Wave), s.wave? c.r = some v → ∃ u,
      (l.foldl (fun s n => s.ensurePhys c.r n) s).wave? c.r = some u ∧ u.bare = v.bare ∧ u.streams = v.streams
        ∧ u.poison = v.poison ∧ ∀ m, u.vreg m = v.vreg m := by
    intro l
    induction l with
    | nil => intro s v h; exact ⟨v, h, rfl, rfl, rfl, fun _ => rfl⟩
    | cons n rest ih =>
      intro s v h
      obtain ⟨u, hu, a1, a2, a3, a4⟩ := State.ensurePhys_wave? n h
      obtain ⟨x, hx, b1, b2, b3, b4⟩ := ih _ u hu
      exact ⟨x, hx, b1.trans a1, b2.trans a2, b3.trans a3, fun m => (b4 m).trans (a4 m)⟩
  have take : ∀ (l : List Nat) (v : Wave), (v.takeStreams c.act l).bare = v.bare ∧ (v.takeStreams c.act l).poison = v.poison
      ∧ (v.takeStreams c.act l).vregs = v.vregs
      ∧ ∀ u : Wave, u.streams = v.streams → (u.takeStreams c.act l).streams = (v.takeStreams c.act l).streams := by
    intro l
    unfold Wave.takeStreams
    induction l with
    | nil => intro v; exact ⟨rfl, rfl, rfl, fun u hu => hu⟩
    | cons n rest ih =>
      intro v
      simp only [List.foldl_cons]
      obtain ⟨a1, a2, a3, a4⟩ := ih { v with streams := modAt v.streams n (fun q =>
        { held := (q.held.map (fun p => if c.act.getLsbD p.1 then (p.1, p.2.drop 1) else p)).filter
            (fun p => !p.2.isEmpty) }) }
      exact ⟨a1, a2, a3, fun u hu => a4 _ (by simp [hu])⟩
  unfold State.takeOperands
  dsimp only
  have h1 : ∃ u, (if c.wv.spilled.isEmpty then s
      else ((readRegs f w).filter (fun n => c.wv.spilled.contains n)).foldl (fun s n => s.ensurePhys c.r n) s).wave? c.r = some u
        ∧ u.bare = v.bare ∧ u.streams = v.streams ∧ u.poison = v.poison ∧ ∀ m, u.vreg m = v.vreg m := by
    split
    · exact ⟨v, h, rfl, rfl, rfl, fun _ => rfl⟩
    · exact fold _ s v h
  generalize (if c.wv.spilled.isEmpty then s
      else ((readRegs f w).filter (fun n => c.wv.spilled.contains n)).foldl (fun s n => s.ensurePhys c.r n) s) = s1 at h1 ⊢
  obtain ⟨u1, hu1, a1, a2, a3, a4⟩ := h1
  have h2 : ∃ u, (if (streamsOf w).isEmpty then s1
      else { s1.updWave c.r (fun v => v.takeStreams c.act (streamsOf w)) with freeCount := s1.freeCount + 96 }).wave? c.r = some u
        ∧ u.bare = v.bare ∧ u.streams = (v.takeStreams c.act (streamsOf w)).streams ∧ u.poison = v.poison
        ∧ ∀ m, u.vreg m = v.vreg m := by
    split
    · next he =>
      have : streamsOf w = [] := by simpa using he
      exact ⟨u1, hu1, a1, by rw [this]; exact a2, a3, a4⟩
    · obtain ⟨b1, b2, b3, b4⟩ := take (streamsOf w) u1
      refine ⟨u1.takeStreams c.act (streamsOf w), ?_, b1.trans a1, ?_, b2.trans a3, fun m => ?_⟩
      · change (s1.updWave c.r (fun v => v.takeStreams c.act (streamsOf w))).wave? c.r = _
        rw [State.updWave_wave?, if_pos rfl, hu1]; rfl
      · exact (take (streamsOf w) v).2.2.2 u1 a2
      · rw [← a4 m]; simp [Wave.vreg, b3]
  generalize (if (streamsOf w).isEmpty then s1
      else { s1.updWave c.r (fun v => v.takeStreams c.act (streamsOf w)) with freeCount := s1.freeCount + 96 }) = s2 at h2 ⊢
  obtain ⟨u2, hu2, c1, c2, c3, c4⟩ := h2
  have hfree : ∀ (l : List (Nat × List W32)) (k : List Nat) (m : Nat),
      assoc (l.filter (fun p => !k.contains p.1)) m = if m ∈ k then none else assoc l m := by
    intro l k m
    induction l with
    | nil => simp [assoc]
    | cons x rest ih =>
      obtain ⟨a, b⟩ := x
      by_cases ha : a ∈ k
      · have : (!k.contains (a, b).1) = false := by simp [ha]
        rw [List.filter_cons, if_neg (by simp [ha]), ih]
        by_cases hm : m ∈ k
        · simp [hm]
        · simp only [if_neg hm, assoc]
          rw [if_neg (by intro e; subst e; exact hm ha)]
      · rw [List.filter_cons, if_pos (by simp [ha])]
        simp only [assoc, ih]
        by_cases e : a = m
        · subst e; simp [ha]
        · simp [e]
  by_cases he : (c.lastUses f w).isEmpty = true
  · rw [if_pos he]
    have he' : c.lastUses f w = [] := by simpa using he
    refine ⟨u2, hu2, c1, c2, fun m _ => c4 m, fun m hm => ?_, fun m l => ?_⟩
    · rw [he'] at hm; simp at hm
    · rw [he']; simp [Wave.poisonedLane, c3]
  · rw [if_neg he, State.updWave_wave?, if_pos rfl, hu2]
    refine ⟨_, rfl, ?_, ?_, fun m hm => ?_, fun m hm => ?_, fun m l => ?_⟩
    · simp only [Wave.freeRegs, if_neg he]; exact c1
    · simp only [Wave.freeRegs, if_neg he]; exact c2
    · rw [← c4 m]; simp only [Wave.freeRegs, if_neg he, Wave.vreg, hfree, if_neg hm]
    · simp only [Wave.freeRegs, if_neg he, Wave.vreg, hfree, if_pos hm, Option.getD_none]
    · simp only [Wave.freeRegs, if_neg he, Wave.poisonedLane, List.any_filter, c3]
      induction v.poison with
      | nil => simp
      | cons p rest ih =>
        rw [List.any_cons, List.any_cons, ih]
        by_cases e : p.1 = m
        · subst e
          cases (c.lastUses f w).contains p.1 <;> simp
        · have : (p.1 == m) = false := by simp [e]
          simp only [this]; simp

theorem State.noteShedPoint_wave? (s : State) (core : Nat) (r : WaveRef) : (s.noteShedPoint core).wave? r = s.wave? r :=
  State.updCore_wave? s core (fun c => { c with levelAt := some (s.tckOf core) }) (fun _ => rfl) r

/-- The same with the level's use noted. -/
theorem State.consume_wave? {s : State} {c : WaveCtx} (f : WaveForm) (w : WWord) {v : Wave} (h : s.wave? c.r = some v) :
    ∃ u, (s.consume c f w).wave? c.r = some u ∧ u.bare = v.bare ∧ u.streams = (v.takeStreams c.act (streamsOf w)).streams
      ∧ (∀ m, m ∉ c.lastUses f w → u.vreg m = v.vreg m) ∧ (∀ m ∈ c.lastUses f w, u.vreg m = zeroLanes)
      ∧ ∀ m l, u.poisonedLane m l = (v.poisonedLane m l && !(c.lastUses f w).contains m) := by
  unfold State.consume
  split
  · exact State.takeOperands_wave? f w ((s.noteShedPoint_wave? _ _).trans h)
  · exact State.takeOperands_wave? f w h

theorem State.writeS_wave? {s : State} {r : WaveRef} {v : Wave} (n x : Nat) (h : s.wave? r = some v) :
    (s.writeS r n x).wave? r =
      some { v with sregs := setAt v.sregs n (BitVec.ofNat 64 x), spoison := v.spoison.filter (fun m => m != n) } := by
  unfold State.writeS; rw [State.updWave_wave?, if_pos rfl, h]; rfl

theorem State.writeP_wave? {s : State} {r : WaveRef} {v : Wave} (n : Nat) (m b : Lanes) (h : s.wave? r = some v) :
    (s.writeP r n m b).wave? r = some (if n = 0 then v else
      { v with preds := modAt v.preds n (fun p => (p &&& ~~~m) ||| (b &&& m)) }) := by
  unfold State.writeP
  split
  · exact h
  · rw [State.updWave_wave?, if_pos rfl, h]; rfl

theorem State.raise_wave? (s : State) (q : WgRef) (f : BitVec 6) (r : WaveRef) : (s.raise q f).wave? r = s.wave? r := by
  unfold State.raise
  split
  · rfl
  · exact State.updWg_wave? _ _ _ _ (by intro _; rfl)

theorem State.countIssue_wave? {s : State} {r : WaveRef} {v : Wave} (h : s.wave? r = some v) :
    (s.countIssue r).wave? r = some { v with issued := v.issued + 1 } := by
  unfold State.countIssue
  rw [State.updWg_wave? _ (wgOf r) _ _ (by intro _; rfl), State.updWave_wave?, if_pos rfl, h]; rfl

theorem State.nextWord_wave? {s : State} {r : WaveRef} {v : Wave} (n : Nat) (h : s.wave? r = some v) :
    (s.nextWord r n).wave? r = some (v.pass n) := by
  unfold State.nextWord
  rw [State.updWave_wave?, if_pos rfl, h]; rfl

theorem State.writeTyped_wave? {s : State} {r : WaveRef} {v : Wave} (t : WType) (d : Nat) (mask : Lanes) (vals : List Nat)
    (h : s.wave? r = some v) : ∃ u, (s.writeTyped r t d mask vals).wave? r = some u ∧ u.bare = v.bare ∧ u.streams = v.streams
      ∧ (∀ m, m ≠ d → (isWide t = true → m ≠ d + 1) → u.vreg m = v.vreg m)
      ∧ (∀ l, l < 32 → mask.getLsbD l = true → u.laneValue (isWide t) d l = imageOf t (at_ vals l))
      ∧ (∀ l, l < 32 → mask.getLsbD l = false → ((u.vreg d)[l]?).getD 0 = ((v.vreg d)[l]?).getD 0
          ∧ ((u.vreg (d + 1))[l]?).getD 0 = ((v.vreg (d + 1))[l]?).getD 0)
      ∧ (∀ m l, u.poisonedLane m l = (v.poisonedLane m l && !((m == d || (isWide t && m == d + 1)) && mask.getLsbD l))) := by
  unfold State.writeTyped
  by_cases hw : isWide t = true
  · simp only [hw, if_true]
    obtain ⟨x, hx, a⟩ := State.writeVec_wave? d mask (vals.map (fun v => BitVec.ofNat 32 v)) h
    obtain ⟨u, hu, b⟩ := State.writeVec_wave? (d + 1) mask (vals.map (fun v => BitVec.ofNat 32 (v / 2 ^ 32))) hx
    have hd : u.vreg d = x.vreg d := b.other d (by omega)
    refine ⟨u, hu, b.bare.trans a.bare, b.streams.trans a.streams, fun m h1 h2 => (b.other m (h2 trivial)).trans (a.other m h1),
      fun l hl hm => ?_, fun l hl hm => ⟨?_, ?_⟩, fun m l => ?_⟩
    · have e1 := a.lane l hl; have e2 := b.lane l hl
      simp only [hm, if_true] at e1 e2
      simp only [Wave.laneValue, imageOf, hw, if_true, hd, e1, e2, List.getElem?_map, at_]
      cases vals[l]? with
      | none => simp
      | some y => simp; omega
    · rw [hd, a.lane l hl, if_neg (by simp [hm])]
    · rw [b.lane l hl, if_neg (by simp [hm]), a.other (d + 1) (by omega)]
    · rw [b.poison, a.poison]
      cases v.poisonedLane m l <;> cases (m == d) <;> cases (m == d + 1) <;> cases mask.getLsbD l <;> rfl
  · have hw' : isWide t = false := by simpa using hw
    simp only [hw', Bool.false_eq_true, if_false]
    obtain ⟨u, hu, a⟩ := State.writeVec_wave? d mask (vals.map (fun v => BitVec.ofNat 32 (extendTo t 32 v))) h
    refine ⟨u, hu, a.bare, a.streams, fun m h1 _ => a.other m h1, fun l hl hm => ?_, fun l hl hm => ⟨?_, ?_⟩, fun m l => ?_⟩
    · have e1 := a.lane l hl
      simp only [hm, if_true] at e1
      simp only [Wave.laneValue, imageOf, hw', Bool.false_eq_true, if_false, e1, List.getElem?_map, at_]
      cases vals[l]? with
      | none => simp [extendTo, signed, wrap]
      | some y => simp
    · rw [a.lane l hl, if_neg (by simp [hm])]
    · rw [a.other (d + 1) (by omega)]
    · rw [a.poison]; simp

/-! ## The flag word -/

/-- The flag word of a workgroup. -/
def State.flagsAt (s : State) (q : WgRef) : Option (BitVec 6) := (s.wg? q).map (·.flags)

theorem State.raise_flagsAt (s : State) (q : WgRef) (f : BitVec 6) :
    (s.raise q f).flagsAt q = (s.flagsAt q).map (· ||| f) := by
  unfold State.raise State.flagsAt
  split
  · next h => subst h; cases s.wg? q <;> simp
  · rw [State.updWg_wg?, if_pos rfl]; cases s.wg? q <;> rfl

theorem State.updWave_flagsAt (s : State) (r : WaveRef) (f : Wave → Wave) (q : WgRef) :
    (s.updWave r f).flagsAt q = s.flagsAt q := by
  unfold State.updWave State.flagsAt
  rw [State.updWg_wg?]
  split
  · cases s.wg? q <;> rfl
  · rfl

theorem State.updCore_flagsAt (s : State) (n : Nat) (f : ComputeCore → ComputeCore) (hw : ∀ c, (f c).wgs = c.wgs) (q : WgRef) :
    (s.updCore n f).flagsAt q = s.flagsAt q := by
  unfold State.flagsAt State.wg?
  rw [State.updCore_core]; split
  · next h => rw [hw, h]
  · rfl

theorem State.countIssue_flagsAt (s : State) (r : WaveRef) (q : WgRef) : (s.countIssue r).flagsAt q = s.flagsAt q := by
  unfold State.countIssue
  rw [State.flagsAt, State.updWg_wg?]
  split
  · rw [Option.map_map]
    exact s.updWave_flagsAt r _ q
  · exact s.updWave_flagsAt r _ q

theorem State.spillOne_flagsAt (s : State) (core part : Nat) (q : WgRef) : (s.spillOne core part).flagsAt q = s.flagsAt q := by
  unfold State.spillOne
  dsimp only
  split
  · rw [State.updCore_flagsAt _ core _ (by intro _; rfl), State.updWave_flagsAt]; rfl
  · rfl

theorem State.ensurePhys_flagsAt (s : State) (r : WaveRef) (n : Nat) (q : WgRef) :
    (s.ensurePhys r n).flagsAt q = s.flagsAt q := by
  unfold State.ensurePhys
  split
  · rfl
  · split
    · rfl
    · dsimp only
      have h : ∀ part, (if 768 ≤ s.physInUse r.core part then s.spillOne r.core part else s).flagsAt q = s.flagsAt q := by
        intro part; split
        · exact s.spillOne_flagsAt _ _ q
        · rfl
      split
      · rfl
      · split
        · rw [State.updCore_flagsAt _ r.core _ (by intro _; rfl), State.updWave_flagsAt, h]
        · rw [State.updWave_flagsAt, h]

theorem State.writeVec_flagsAt (s : State) (r : WaveRef) (n : Nat) (m : Lanes) (v : List W32) (q : WgRef) :
    (s.writeVec r n m v).flagsAt q = s.flagsAt q := by
  unfold State.writeVec
  split
  · rfl
  · rw [State.updWave_flagsAt, State.ensurePhys_flagsAt]

theorem State.writeTyped_flagsAt (s : State) (r : WaveRef) (t : WType) (d : Nat) (m : Lanes) (v : List Nat) (q : WgRef) :
    (s.writeTyped r t d m v).flagsAt q = s.flagsAt q := by
  unfold State.writeTyped
  split
  · rw [State.writeVec_flagsAt, State.writeVec_flagsAt]
  · rw [State.writeVec_flagsAt]

theorem State.takeOperands_flagsAt (s : State) (c : WaveCtx) (f : WaveForm) (w : WWord) (q : WgRef) :
    (s.takeOperands c f w).flagsAt q = s.flagsAt q := by
  have fold : ∀ (l : List Nat) (s : State), (l.foldl (fun s n => s.ensurePhys c.r n) s).flagsAt q = s.flagsAt q := by
    intro l
    induction l with
    | nil => intro s; rfl
    | cons n rest ih => intro s; rw [List.foldl_cons, ih, State.ensurePhys_flagsAt]
  unfold State.takeOperands
  dsimp only
  have h1 : (if c.wv.spilled.isEmpty then s
      else ((readRegs f w).filter (fun n => c.wv.spilled.contains n)).foldl (fun s n => s.ensurePhys c.r n) s).flagsAt q
        = s.flagsAt q := by
    split
    · rfl
    · exact fold _ s
  generalize (if c.wv.spilled.isEmpty then s
      else ((readRegs f w).filter (fun n => c.wv.spilled.contains n)).foldl (fun s n => s.ensurePhys c.r n) s) = s1 at h1 ⊢
  have h2 : (if (streamsOf w).isEmpty then s1
      else { s1.updWave c.r (fun v => v.takeStreams c.act (streamsOf w)) with freeCount := s1.freeCount + 96 }).flagsAt q
        = s.flagsAt q := by
    split
    · exact h1
    · exact (s1.updWave_flagsAt c.r _ q).trans h1
  generalize (if (streamsOf w).isEmpty then s1
      else { s1.updWave c.r (fun v => v.takeStreams c.act (streamsOf w)) with freeCount := s1.freeCount + 96 }) = s2 at h2 ⊢
  split
  · exact h2
  · rw [State.updWave_flagsAt, h2]

theorem State.consume_flagsAt (s : State) (c : WaveCtx) (f : WaveForm) (w : WWord) (q : WgRef) :
    (s.consume c f w).flagsAt q = s.flagsAt q := by
  unfold State.consume
  rw [State.takeOperands_flagsAt]
  split
  · exact s.updCore_flagsAt _ (fun x => { x with levelAt := some (s.tckOf c.r.core) }) (fun _ => rfl) q
  · rfl

end Sys2Proof.Machine
end

