-- ==== Sys2Proof/Laws/Seq.lean ====
section
/-! SUPPORT. What a sequencer word that issues does to its context, its rings and the rest of the machine. -/

namespace Sys2Proof.Machine

/-- What a ready sequencer word's context and form satisfy. -/
theorem State.seqReady?_spec {op : Nat} {w : SWord} {s : State} {c : SeqIssue} {f : SeqForm}
    (h : s.seqReady? op w = some (c, f)) :
    ∃ core ctx, s.cur = .seq core ctx ∧ seqForm op = some f ∧ s.seqIssue? core ctx (encodeSeqWord op f.fmt w) = some c
      ∧ seqRefused op ctx w = none ∧ (seqRegs f op w).any (fun n => n != 0 && c.st.ldgs.any (fun l => l.reg == n)) = false
      ∧ (ctx = .trap ∨ tokensReady c.job ctx w = true) ∧ c.readsPoison op w = false := by
  unfold State.seqReady? at h
  split at h
  · next core ctx f' hc hf =>
    split at h
    · next c' hi =>
      split at h
      · next hb =>
        simp only [Option.some.injEq, Prod.mk.injEq] at h
        obtain ⟨rfl, rfl⟩ := h
        simp only [Bool.and_eq_true, Bool.not_eq_true', Bool.or_eq_true, beq_iff_eq, Option.isNone_iff_eq_none] at hb
        exact ⟨core, ctx, hc, hf, hi, hb.1.1.1, hb.1.1.2, hb.1.2, hb.2⟩
      · cases h
    · cases h
  · cases h

/-- Where the issuing context of a user word stands. -/
theorem State.seqIssue?_user {s : State} {core : Nat} {ctx : SeqCtx} {x : W32} {c : SeqIssue} (hc : ctx ≠ .trap)
    (h : s.seqIssue? core ctx x = some c) :
    c.r.core = core ∧ c.ctx = ctx ∧ s.jobSlot core = some c.r.slot ∧ s.wg? c.r = some c.wg ∧ c.wg.job = some c.job
      ∧ c.st = c.job.ctx ctx := by
  unfold State.seqIssue? at h
  split at h
  · exact absurd rfl hc
  · split at h
    · cases h
    · next slot hs =>
      split at h
      · cases h
      · next g hg =>
        cases hj : g.job with
        | none => simp [hj] at h
        | some j =>
          simp only [hj, Option.map_some, Option.some.injEq] at h
          subst h
          exact ⟨rfl, rfl, hs, hg, hj, rfl⟩

/-- The workgroup of a trap has its place on the core that services it. -/
theorem State.trapOwner_core {s : State} {core : Nat} {t : TrapItem} {p : WgRef × Workgroup}
    (h : s.trapOwner core t = some p) : p.1.core = core := by
  unfold State.trapOwner at h
  dsimp only at h
  split at h
  · split at h
    · next r _ =>
      cases hw : s.wg? r with
      | none => simp [hw] at h
      | some w =>
        simp only [hw, Option.map_some, Option.some.injEq] at h
        subst h
        dsimp only
        split <;> simp_all
    · obtain ⟨x, -, rfl⟩ := Option.map_eq_some_iff.mp h; rfl
  · obtain ⟨x, -, rfl⟩ := Option.map_eq_some_iff.mp h; rfl
  · obtain ⟨x, -, rfl⟩ := Option.map_eq_some_iff.mp h; rfl

/-- Where the trap context stands. -/
theorem State.seqIssue?_trap {s : State} {core : Nat} {x : W32} {c : SeqIssue} (h : s.seqIssue? core .trap x = some c) :
    c.r.core = core ∧ c.ctx = .trap ∧ c.st = (s.core core).trap.asSeq
      ∧ ∃ t, (s.core core).trap.item = some t ∧ s.trapOwner core t = some (c.r, c.wg) := by
  unfold State.seqIssue? at h
  simp only at h
  split at h
  · cases h
  · next t ht =>
    cases hg : s.trapOwner core t with
    | none => simp [hg] at h
    | some p =>
      simp only [hg, Option.map_some, Option.some.injEq] at h
      subst h
      exact ⟨State.trapOwner_core hg, rfl, rfl, t, ht, hg⟩

/-- The context of an issue is the one it was asked for. -/
theorem State.seqIssue?_who {s : State} {core : Nat} {ctx : SeqCtx} {x : W32} {c : SeqIssue}
    (h : s.seqIssue? core ctx x = some c) : c.r.core = core ∧ c.ctx = ctx := by
  by_cases hc : ctx = .trap
  · subst hc; exact ⟨(s.seqIssue?_trap h).1, (s.seqIssue?_trap h).2.1⟩
  · exact ⟨(s.seqIssue?_user hc h).1, (s.seqIssue?_user hc h).2.1⟩

/-- A ready word runs its body. -/
theorem seqWord_ready {op : Nat} {w : SWord} {s : State} {c : SeqIssue} {f : SeqForm}
    (h : s.seqReady? op w = some (c, f)) (body : SeqFmt → SeqIssue → State → SeqDone) :
    seqWord op w s body = match body f.fmt c s with
      | .stall t => .next t
      | .trap k acc code va needs t => .next (t.seqTrap c k acc code va needs)
      | .go on t => .next (t.seqDone c w on) := by
  obtain ⟨core, ctx, h1, h2, h3, h4, h5, h6, h7⟩ := State.seqReady?_spec h
  have hw := (State.seqIssue?_who h3).2
  have h6' : ¬ (ctx ≠ .trap ∧ tokensReady c.job ctx w = false) := by
    rintro ⟨a, b⟩; rcases h6 with h6 | h6
    · exact a h6
    · rw [b] at h6; cases h6
  unfold seqWord
  rw [h1, h2]
  simp only [h3, h4, h5, h7, Bool.false_eq_true, if_false, if_neg h6']
  cases hb : body f.fmt c s <;> simp [State.seqDone, hw]

/-! ## What changes -/

/-- Changing the workgroup that carries a core's job leaves it the one that carries it. -/
theorem State.updWg_jobSlot {s : State} {r : WgRef} {g : Workgroup} (hs : s.jobSlot r.core = some r.slot)
    (hg : s.wg? r = some g) (hj : g.job.isSome = true) (f : Workgroup → Workgroup) (hf : (f g).job.isSome = true) :
    (s.updWg r f).jobSlot r.core = some r.slot := by
  have key : ∀ (l : List (Nat × Workgroup)) (n : Nat) (v : Workgroup), v.job.isSome = true →
      (l.find? (fun p => p.2.job.isSome)).map (·.1) = some n → (∃ x, assoc l n = some x ∧ x.job.isSome = true) →
      ((assocSet l n v).find? (fun p => p.2.job.isSome)).map (·.1) = some n := by
    intro l n v hv
    induction l with
    | nil => intro h; simp at h
    | cons p rest ih =>
      obtain ⟨k, x⟩ := p
      intro h1 h2
      by_cases a : n < k
      · simp [assocSet, a, hv]
      · by_cases b : n = k
        · simp [assocSet, b, hv]
        · simp only [assocSet, if_neg a, if_neg b]
          have hx : x.job.isSome = false := by
            by_contra hc
            simp only [Bool.not_eq_false] at hc
            simp [hc] at h1
            exact b h1.symm
          simp only [List.find?_cons, hx] at h1 ⊢
          apply ih h1
          simpa [assoc, Ne.symm b] using h2
  unfold State.updWg
  rw [hg]
  unfold State.setWg State.jobSlot
  rw [State.updCore_core]
  simp only [if_true]
  exact key _ _ _ hf hs ⟨g, hg, hj⟩

theorem State.OnlySeq.refl (s : State) (c : SeqIssue) : s.OnlySeq s c :=
  ⟨rfl, fun _ => rfl, fun _ _ => rfl, fun _ => ⟨rfl, rfl⟩, fun _ _ => rfl, rfl, rfl, fun _ _ => rfl⟩

theorem State.OnlySeq.trans {s t u : State} {c : SeqIssue} (h : s.OnlySeq t c) (k : t.OnlySeq u c) : s.OnlySeq u c :=
  ⟨k.off.trans h.off, fun n => (k.cores n).trans (h.cores n), fun n x => (k.trap n x).trans (h.trap n x),
   fun n => ⟨(k.traps n).1.trans (h.traps n).1, (k.traps n).2.trans (h.traps n).2⟩,
   fun q x => (k.groups q x).trans (h.groups q x), k.group.trans h.group, k.job.trans h.job,
   fun n x => (k.contexts n x).trans (h.contexts n x)⟩

/-- A core but for its workgroups, after a change of one of them. -/
theorem State.updWg_bareCore (s : State) (r : WgRef) (f : Workgroup → Workgroup) (k : Nat) :
    { (s.updWg r f).core k with wgs := [] } = { s.core k with wgs := [] } := by
  unfold State.updWg
  split
  · unfold State.setWg
    rw [State.updCore_core]
    by_cases h : k = r.core
    · subst h; simp
    · simp [h]
  · rfl

theorem ComputeCore.bare_trap {a b : ComputeCore} (h : { a with wgs := [] } = { b with wgs := [] }) : a.trap = b.trap := by
  cases a; cases b; simp only [ComputeCore.mk.injEq] at h ⊢; tauto

theorem ComputeCore.bare_shell {a b : ComputeCore} (h : { a with wgs := [] } = { b with wgs := [] }) :
    { a with wgs := [], trap := .reset } = { b with wgs := [], trap := .reset } := by
  cases a; cases b; simp only [ComputeCore.mk.injEq] at h ⊢; tauto

/-- A change of one context of a job, its rings, or the watchdog count. -/
theorem State.updWg_onlySeq (s : State) (c : SeqIssue) (f : Workgroup → Workgroup)
    (h1 : ∀ g, { f g with job := none, watchdog := 0 } = { g with job := none, watchdog := 0 })
    (h2 : ∀ g, (f g).job.map Job.shell = g.job.map Job.shell)
    (h3 : ∀ g k, k ≠ c.ctx → (f g).job.map (·.ctx k) = g.job.map (·.ctx k)) : s.OnlySeq (s.updWg c.r f) c := by
  refine ⟨s.updWg_offCores _ _, fun k => ComputeCore.bare_shell (s.updWg_bareCore _ _ k),
    fun k _ => ComputeCore.bare_trap (s.updWg_bareCore _ _ k), fun k => ?_, fun q hq => ?_, ?_, ?_, fun k hk => ?_⟩
  · have := ComputeCore.bare_trap (s.updWg_bareCore c.r f k); simp [this]
  · rw [State.updWg_wg?, if_neg hq]
  · rw [State.updWg_wg?, if_pos rfl]; cases s.wg? c.r <;> simp [h1]
  · unfold State.job?; rw [State.updWg_wg?, if_pos rfl]
    cases s.wg? c.r with
    | none => rfl
    | some g => exact h2 g
  · unfold State.job?; rw [State.updWg_wg?, if_pos rfl]
    cases s.wg? c.r with
    | none => rfl
    | some g => exact h3 g k hk

theorem Job.updCtx_ctx (j : Job) (a b : SeqCtx) (f : SeqState → SeqState) :
    (j.updCtx a f).ctx b = if b = a ∧ b ≠ .trap then f (j.ctx b) else j.ctx b := by
  cases a <;> cases b <;> simp [Job.updCtx, Job.ctx]

theorem Job.updCtx_shell (j : Job) (a : SeqCtx) (f : SeqState → SeqState) : (j.updCtx a f).shell = j.shell := by
  cases a <;> rfl

theorem Job.takeTokens_parts (j : Job) (ctx : SeqCtx) (w : SWord) (on : PushOn) :
    (j.takeTokens ctx w on).shell = j.shell ∧ ∀ k, (j.takeTokens ctx w on).ctx k = j.ctx k := by
  have u1 : ∀ (j : Job) f, (j.updUpForward ctx f).shell = j.shell ∧ ∀ k, (j.updUpForward ctx f).ctx k = j.ctx k := by
    intro j f; unfold Job.updUpForward; split <;> exact ⟨rfl, fun k => by cases k <;> rfl⟩
  have u2 : ∀ (j : Job) f, (j.updUpReturn ctx f).shell = j.shell ∧ ∀ k, (j.updUpReturn ctx f).ctx k = j.ctx k := by
    intro j f; unfold Job.updUpReturn; split <;> exact ⟨rfl, fun k => by cases k <;> rfl⟩
  have u3 : ∀ (j : Job) f, (j.updDownForward ctx f).shell = j.shell ∧ ∀ k, (j.updDownForward ctx f).ctx k = j.ctx k := by
    intro j f; unfold Job.updDownForward; split <;> exact ⟨rfl, fun k => by cases k <;> rfl⟩
  have u4 : ∀ (j : Job) f, (j.updDownReturn ctx f).shell = j.shell ∧ ∀ k, (j.updDownReturn ctx f).ctx k = j.ctx k := by
    intro j f; unfold Job.updDownReturn; split <;> exact ⟨rfl, fun k => by cases k <;> rfl⟩
  have u5 : ∀ (j : Job) p, (j.completePushes p).shell = j.shell ∧ ∀ k, (j.completePushes p).ctx k = j.ctx k := by
    intro j p; exact ⟨rfl, fun k => by cases k <;> rfl⟩
  unfold Job.takeTokens
  cases w.tu <;> cases w.td <;> cases w.gd <;> cases w.gu <;>
    refine ⟨by simp [u1, u2, u3, u4, u5], fun k => by simp [u1, u2, u3, u4, u5]⟩

/-- Changing the registers of the issuing context. -/
theorem State.updSeq_onlySeq (s : State) (c : SeqIssue) (f : SeqState → SeqState) : s.OnlySeq (s.updSeq c f) c := by
  by_cases hc : c.ctx = .trap
  · have e : s.updSeq c f = s.updCore c.r.core (fun k => { k with trap := k.trap.put (f k.trap.asSeq) }) := by
      unfold State.updSeq; rw [hc]
    have hg : ∀ q, (s.updSeq c f).wg? q = s.wg? q := by
      intro q; rw [e]; unfold State.wg?; rw [State.updCore_core]; split
      · next h => rw [h]
      · rfl
    refine ⟨by rw [e]; rfl, fun k => ?_, fun k hk => ?_, fun k => ?_, fun q _ => hg q, by rw [hg], by unfold State.job?; rw [hg],
      fun k _ => by unfold State.job?; rw [hg]⟩
    · rw [e, State.updCore_core]; split
      · next h => rw [h]
      · rfl
    · rw [e, State.updCore_core]; rcases hk with hk | hk
      · exact absurd hc hk
      · rw [if_neg hk]
    · rw [e, State.updCore_core]; split
      · next h => rw [h]; exact ⟨rfl, rfl⟩
      · exact ⟨rfl, rfl⟩
  · have e : s.updSeq c f = s.updWg c.r (fun w => { w with job := w.job.map (fun j => j.updCtx c.ctx f) }) := by
      unfold State.updSeq State.updJob; split
      · next h => exact absurd h hc
      · rfl
    rw [e]
    refine s.updWg_onlySeq c _ (fun _ => rfl) (fun g => ?_) (fun g k hk => ?_)
    · cases g.job <;> simp [Job.updCtx_shell]
    · cases g.job <;> simp [Job.updCtx_ctx, hk]

/-- The pops, pushes and count of an issued word. -/
theorem State.seqDone_onlySeq (s : State) (c : SeqIssue) (w : SWord) (on : PushOn) : s.OnlySeq (s.seqDone c w on) c := by
  unfold State.seqDone State.countSeq
  refine State.OnlySeq.trans (t := s.updJob c.r (fun j => if c.ctx = .trap then j else j.takeTokens c.ctx w on)) ?_
    ((State.updSeq_onlySeq _ c (fun x => { x with issued := x.issued + 1 })).trans ?_)
  · unfold State.updJob
    refine s.updWg_onlySeq c _ (fun _ => rfl) (fun g => ?_) (fun g k hk => ?_)
    · cases g.job with
      | none => rfl
      | some j => by_cases hc : c.ctx = .trap <;> simp [hc, (j.takeTokens_parts _ _ _).1]
    · cases g.job with
      | none => rfl
      | some j => by_cases hc : c.ctx = .trap <;> simp [hc, (j.takeTokens_parts _ _ _).2]
  · exact State.updWg_onlySeq _ c _ (fun _ => rfl) (fun _ => rfl) (fun _ _ _ => rfl)

theorem assocSet_assocSet {α : Type} (l : List (Nat × α)) (n : Nat) (u v : α) :
    assocSet (assocSet l n u) n v = assocSet l n v := by
  induction l with
  | nil => simp [assocSet]
  | cons p rest ih =>
    obtain ⟨k, x⟩ := p
    by_cases a : n < k
    · simp [assocSet, a]
    · by_cases b : n = k
      · subst b; simp [assocSet]
      · simp [assocSet, a, b, ih]

theorem State.updWg_updWg (s : State) (r : WgRef) (f g : Workgroup → Workgroup) :
    (s.updWg r f).updWg r g = s.updWg r (fun w => g (f w)) := by
  cases h : s.wg? r with
  | none => have e : s.updWg r f = s := by unfold State.updWg; rw [h]
            rw [e]; unfold State.updWg; rw [h]
  | some w =>
    have h2 : (s.updWg r f).wg? r = some (f w) := by rw [State.updWg_wg?, if_pos rfl, h]; rfl
    conv_lhs => unfold State.updWg
    rw [h]
    have e : s.updWg r f = s.setWg r (f w) := by unfold State.updWg; rw [h]
    rw [e] at h2
    simp only [h2]
    unfold State.updWg
    rw [h]
    unfold State.setWg State.updCore State.setCore State.core
    simp [assocSet_assocSet]

/-- A user word that issues, as one change of its workgroup. -/
theorem State.seqDone_eq (s : State) (c : SeqIssue) (hc : c.ctx ≠ .trap) (f : SeqState → SeqState) (w : SWord) (on : PushOn) :
    (s.updSeq c f).seqDone c w on = s.updWg c.r (fun g => { g with watchdog := 0, job := g.job.map (fun j =>
      ((j.updCtx c.ctx f).takeTokens c.ctx w on).updCtx c.ctx (fun x => { x with issued := x.issued + 1 })) }) := by
  have e : ∀ (s : State) f, s.updSeq c f = s.updWg c.r (fun w => { w with job := w.job.map (fun j => j.updCtx c.ctx f) }) := by
    intro s f; unfold State.updSeq State.updJob; split
    · next h => exact absurd h hc
    · rfl
  unfold State.seqDone State.countSeq State.updJob
  rw [e, e, State.updWg_updWg, State.updWg_updWg, State.updWg_updWg]
  congr 1; funext g
  simp only [Option.map_map, if_neg hc]
  rfl

/-- The registers of a user context after a word that changes them by `f` and issues. -/
theorem State.seqDone_user {s : State} {c : SeqIssue} {x : W32} (hc : c.ctx ≠ .trap)
    (h : s.seqIssue? c.r.core c.ctx x = some c) (f : SeqState → SeqState) (w : SWord) (on : PushOn) :
    ((s.updSeq c f).seqDone c w on).seqOf? c = some (c.after f)
      ∧ (((s.updSeq c f).seqDone c w on).job? c.r).map Job.rings = some (c.job.takeTokens c.ctx w on).rings := by
  obtain ⟨-, -, hs, hg, hj, hst⟩ := State.seqIssue?_user hc h
  rw [s.seqDone_eq c hc]
  generalize hF : (fun (g : Workgroup) => ({ g with watchdog := 0, job := g.job.map (fun j =>
      ((j.updCtx c.ctx f).takeTokens c.ctx w on).updCtx c.ctx (fun x => { x with issued := x.issued + 1 })) } : Workgroup)) = F
  have hFj : (F c.wg).job = some (((c.job.updCtx c.ctx f).takeTokens c.ctx w on).updCtx c.ctx (fun x => { x with issued := x.issued + 1 })) := by
    rw [← hF]; simp [hj]
  have b : (s.updWg c.r F).wg? c.r = some (F c.wg) := by rw [State.updWg_wg?, if_pos rfl, hg]; rfl
  refine ⟨?_, ?_⟩
  · unfold State.seqOf?
    split
    · next h => exact absurd h hc
    · unfold State.job?
      simp only [b, Option.bind_some, hFj, Option.map_some]
      rw [Job.updCtx_ctx]; simp only [true_and, ne_eq, hc, not_false_eq_true, if_true]
      rw [(Job.takeTokens_parts _ _ _ _).2, Job.updCtx_ctx]
      simp [hc, SeqIssue.after, hst]
  · unfold State.job?
    rw [b]
    simp only [Option.bind_some, hFj, Option.map_some]
    have rr : ∀ (j : Job) f, (j.updCtx c.ctx f).rings = j.rings := by intro j f; cases c.ctx <;> rfl
    have tt : ∀ (j : Job) f, ((j.updCtx c.ctx f).takeTokens c.ctx w on).rings = (j.takeTokens c.ctx w on).rings := by
      intro j f
      unfold Job.takeTokens
      cases c.ctx <;> cases w.tu <;> cases w.td <;> cases w.gd <;> cases w.gu <;> rfl
    rw [rr, tt]

/-- The registers of the trap context after a word that changes them by `f` and issues. -/
theorem State.seqDone_trap {s : State} {c : SeqIssue} {x : W32} (hc : c.ctx = .trap)
    (h : s.seqIssue? c.r.core .trap x = some c) (f : SeqState → SeqState) (w : SWord) (on : PushOn)
    (hf : ∀ y : TrapCtx, f y.asSeq = { SeqState.reset with g := (f y.asSeq).g, pc := (f y.asSeq).pc, ldgs := (f y.asSeq).ldgs, poison := (f y.asSeq).poison }) :
    ((s.updSeq c f).seqDone c w on).seqOf? c = some (c.after f) := by
  obtain ⟨-, -, hst, -⟩ := State.seqIssue?_trap h
  have htr : (((s.updSeq c f).seqDone c w on).core c.r.core).trap =
      (s.core c.r.core).trap.put (f (s.core c.r.core).trap.asSeq) := by
    have e : ∀ (s : State) f, s.updSeq c f = s.updCore c.r.core (fun k => { k with trap := k.trap.put (f k.trap.asSeq) }) := by
      intro s f; unfold State.updSeq; rw [hc]
    have tw : ∀ (s : State) F, ((s.updWg c.r F).core c.r.core).trap = (s.core c.r.core).trap :=
      fun s F => ComputeCore.bare_trap (s.updWg_bareCore _ _ _)
    unfold State.seqDone State.countSeq State.updJob
    rw [tw, e, State.updCore_core, if_pos rfl]
    simp only [tw, e, State.updCore_core, if_true]
    rfl
  unfold State.seqOf?
  rw [hc]
  simp only [SeqIssue.after, hc, if_true, htr, hst]
  rw [hf]; rfl

end Sys2Proof.Machine
end

