-- ==== Sys2Proof/Laws/Words.lean ====
section
/-! SUPPORT. What the common shapes of wave words come to once they are ready: one lemma for each shape. -/

namespace Sys2Proof.Machine

/-- The state in which a ready word's body finds its wave and flag word. -/
theorem State.ready?_consumed {op : Nat} {w : WWord} {s : State} {c : WaveCtx} {f : WaveForm}
    (h : s.ready? op w = some (c, f)) :
    (∃ u, ((s.countIssue c.r).consume c f w).wave? c.r = some u ∧ u.bare = ({ c.wv with issued := c.wv.issued + 1 } : Wave).bare
      ∧ u.streams = (c.wv.takeStreams c.act (streamsOf w)).streams
      ∧ (∀ m, m ∉ c.lastUses f w → u.vreg m = c.wv.vreg m) ∧ (∀ m ∈ c.lastUses f w, u.vreg m = zeroLanes)
      ∧ ∀ m l, u.poisonedLane m l = (c.wv.poisonedLane m l && !(c.lastUses f w).contains m))
    ∧ ((s.countIssue c.r).consume c f w).flagsAt (wgOf c.r) = some c.wg.flags := by
  have hv := State.countIssue_wave? (State.ready?_wave h)
  obtain ⟨u, h1, h2, h3, h4, h5, h6⟩ := State.consume_wave? f w hv
  refine ⟨⟨u, h1, h2, ?_, h4, h5, h6⟩, ?_⟩
  · have : ∀ (l : List Nat) (a b : Wave), a.streams = b.streams → (a.takeStreams c.act l).streams = (b.takeStreams c.act l).streams := by
      intro l
      unfold Wave.takeStreams
      induction l with
      | nil => intro a b h; exact h
      | cons n rest ih => intro a b h; simp only [List.foldl_cons]; exact ih _ _ (by simp [h])
    exact h3.trans (this _ _ _ rfl)
  · rw [State.consume_flagsAt, State.countIssue_flagsAt, State.flagsAt, (State.waveCtx?_spec (State.ready?_spec h).1).2.1]; rfl

theorem Wave.pass_parts (v : Wave) (n : Nat) :
    (v.pass n).vregs = v.vregs ∧ (v.pass n).poison = v.poison ∧ (v.pass n).streams = v.streams ∧ (v.pass n).sregs = v.sregs
      ∧ (v.pass n).preds = v.preds ∧ (v.pass n).lstk = v.lstk := by
  unfold Wave.pass
  split
  · exact ⟨rfl, rfl, rfl, rfl, rfl, rfl⟩
  · split <;> exact ⟨rfl, rfl, rfl, rfl, rfl, rfl⟩

/-- A word that writes typed lanes and raises flags. -/
theorem typedWord_ready {op : Nat} {w : WWord} {s : State} {c : WaveCtx} {f : WaveForm} (h : s.ready? op w = some (c, f))
    (t : WType) (vals : List Nat) (fl : BitVec 6) :
    ∃ u v, (((((s.countIssue c.r).consume c f w).writeTyped c.r t w.d.toNat c.act vals).raise (wgOf c.r) fl).nextWord c.r (wordLen w)) = u
      ∧ u.wave? c.r = some v
      ∧ (∀ l, l < 32 → c.act.getLsbD l = true →
          v.laneValue (isWide t) w.d.toNat l = imageOf t (at_ vals l) ∧ v.poisonedLane w.d.toNat l = false)
      ∧ (u.wg? (wgOf c.r)).map (·.flags) = some (c.wg.flags ||| fl) := by
  obtain ⟨⟨x, hx, -, -, -, -, -⟩, hf⟩ := State.ready?_consumed h
  obtain ⟨y, hy, -, -, -, a4, -, a6⟩ := State.writeTyped_wave? t w.d.toNat c.act vals hx
  refine ⟨_, _, rfl, State.nextWord_wave? (wordLen w) (by rw [State.raise_wave?]; exact hy), fun l hl hm => ?_, ?_⟩
  · obtain ⟨p1, p2, -, -, -, -⟩ := Wave.pass_parts y (wordLen w)
    refine ⟨?_, ?_⟩
    · rw [← a4 l hl hm]; simp [Wave.laneValue, Wave.vreg, p1]
    · simp only [Wave.poisonedLane, p2]
      have := a6 w.d.toNat l
      simp only [Wave.poisonedLane] at this
      rw [this]; simp [hm]
  · change State.flagsAt _ _ = _
    unfold State.nextWord
    rw [State.updWave_flagsAt, State.raise_flagsAt, State.writeTyped_flagsAt, hf]; rfl

end Sys2Proof.Machine
end

