-- ==== Sys2Proof/Tests/Slice0.lean ====
section
/-! SUPPORT. The model's own tests: ill-formed terms that the checks refuse, words written out from the encoding tables,
single steps with results the spec's examples give, and for every statement of Certificates/Slice0/Obligations.lean
states and operands that meet its hypotheses, clause by clause. -/

namespace Sys2Proof.Tests

open Sys2Proof Sys2Proof.Machine

set_option Elab.async false

/-! ## States for the tests -/

/-- The wave of a placed word. -/
def wv0 : WaveRef := ⟨0, 0, 0⟩
/-- Its workgroup. -/
def wg0 : WgRef := ⟨0, 0⟩

/-- A wave word that its wave is about to execute. -/
def wordAt (w : Nat) : State := { State.reset.placeWave w with cur := .wave wv0 }

/-- A wave word with fields as given and no guard, rounding or last use. -/
def ww (t : WType) (m : BitVec 4) (d : BitVec 8) (a b c : Operand) : WWord := ⟨t, m, 0, false, false, 0, d, a, b, c, .rn⟩

/-- The memory control byte of no order. -/
def dvRlx : Operand := .ctl ⟨.dv, .rlx, .plain⟩

/-- A well-formed word of an integer row, by the operands its opcode takes. -/
def intSample (o : Nat) (t : WType) (m : BitVec 4) (sc : Bool) : WWord :=
  let r (v : BitVec 8) (s : BitVec 6) : Operand := if sc then .s s else .v v
  ww t m (if o = 0x08 && !sc then 6 else 7) (r 2 2)
    (if [0x0B, 0x0C, 0x13, 0x1C, 0x1D, 0x1E, 0x1F].contains o then .v 0 else .imm 5)
    (if o = 0x08 then r 4 4 else if o = 0x07 ∨ o = 0x1B then r 4 4 else if o = 0x19 ∨ o = 0x1A then .imm 8 else .v 0)

/-- A well-formed word of each opcode of the integer rows. -/
def intSampleOf (sc : Bool) (o : Nat) : WWord :=
  if o = 0x03 ∨ o = 0x04 then intSample o .z32 1 sc
  else if o < 0x10 then intSample o .s32 0 sc
  else if o = 0x1A then intSample o .z32 0 sc
  else intSample o .b32 0 sc

/-- A well-formed word of each wave opcode of rows 2 to 9. -/
def compSample (o : Nat) : WWord :=
  match o with
  | 0x20 => ww .b32 1 7 (.v 2) (.imm 5) (.v 0)
  | 0x21 => ww .b32 0 7 (.v 2) (.v 0) (.v 0)
  | 0x22 => ww .b32 0 7 (.v 2) (.imm 1) (.v 0)
  | 0x23 => ww .s32 2 6 (.v 2) (.v 4) (.v 0)
  | 0x24 => ww .z32 1 7 (.v 0) (.v 0) (.v 0)
  | 0x25 => ww .b32 1 7 (.v 2) (.imm 1) (.v 0)
  | 0x26 => ww .b32 0 7 (.v 2) (.imm 3) (.v 0)
  | 0x27 => ww .b32 0 7 (.sp 0) (.v 0) (.v 0)
  | 0x28 => ww .s32 2 1 (.v 2) (.imm 5) (.v 0)
  | 0x29 => ww .b32 0 1 (.v 1) (.v 2) (.imm 6)
  | 0x2A => ww .b64 0 0x1B (.imm 1) (.v 0) (.v 0)
  | 0x61 => ww .b32 0 7 (.s 2) (.v 0) (.v 0)
  | 0x62 => ww .b32 0 7 (.s 2) (.imm 1) (.v 0)
  | 0x63 => ww .s32 2 7 (.s 2) (.s 3) (.v 0)
  | 0x67 => ww .b64 0 7 (.sp 2) (.v 0) (.v 0)
  | 0x30 | 0x32 => ww .s64 0 0 (.imm 2) (.v 0) (.v 0)
  | 0x31 | 0x33 => ww .b64 0 0 (.v 2) (.v 0) (.v 0)
  | 0x34 | 0x35 | 0x38 | 0x39 => ww .s8 0 0 (.v 0) (.v 0) (.v 0)
  | 0x36 | 0x37 | 0x3A => ww .z32 0 0 (.imm 9) (.v 0) (.v 0)
  | 0x3B => ww .b32 0 0 (.imm 1) (.v 0) (.v 0)
  | 0x80 | 0x81 | 0x82 | 0x84 | 0x85 => ww .f32 0 7 (.v 2) (.v 3) (.v 0)
  | 0x83 => ww .f32 0 7 (.v 2) (.v 3) (.v 4)
  | 0x86 => ww .f32 0 1 (.v 2) (.imm 3) (.v 0)
  | 0x87 => ww .f32 0 1 (.v 2) (.imm 3) (.v 0)
  | 0x92 => ww .s8 0 7 (.v 2) (.imm 0x0A) (.imm 0x0C)
  | 0x93 => ww .f16x2 0 7 (.v 2) (.v 3) (.v 0)
  | 0x94 => ww .f16x2 0 7 (.v 2) (.imm 1) (.v 0)
  | 0x95 => ww .f32 0 7 (.v 2) (.v 3) (.v 4)
  | 0x96 => ww .s32 0 7 (.v 2) (.v 3) (.v 4)
  | 0x98 => ww .s32 0 7 (.v 2) (.v 0) (.v 0)
  | 0x99 => ww .s32 0 7 (.v 2) (.imm 0) (.v 0)
  | 0x9A => ww .f32 0 7 (.v 2) (.imm 3) (.v 0)
  | 0x9B => ww .z32 0 5 (.v 1) (.v 0) (.v 0)
  | 0x9C => ww .b32 0 1 (.v 1) (.v 0) (.v 0)
  | _ => ww .f32 0 7 (.v 2) (.v 0) (.v 0)

/-- A well-formed word of each wave opcode of the memory group. -/
def memSample (o : Nat) : WWord :=
  match o with
  | 0xA0 => ww .b32 0 9 (.s 4) (.imm 0) dvRlx
  | 0xA1 => ww .b32 0 0 (.s 4) (.v 3) dvRlx
  | 0xA2 => ww .b32 0 9 (.imm 16) (.imm 0) (.v 0)
  | 0xA3 => ww .b32 0 0 (.imm 16) (.v 3) (.v 0)
  | 0xA4 => ww .b32 0 0 (.imm 1) (.v 3) dvRlx
  | 0xA5 => ww .b32 0 9 (.v 0) (.v 0) dvRlx
  | 0xA6 => ww .b64 0 0 (.s 4) (.imm 0) (.v 0)
  | 0xA7 | 0xA8 => ww .b64 0 0 (.s 4) (.imm 64) dvRlx
  | 0xA9 => ww .s32 0 9 (.s 4) (.imm 1) dvRlx
  | 0xAA => ww .b32 0 9 (.s 4) (.imm 1) dvRlx
  | 0xAB => ww .s32 0 0 (.s 4) (.imm 1) dvRlx
  | 0xAC => ww .b64 0 0 (.s 4) (.s 6) dvRlx
  | 0xAD | 0xAE | 0xAF => ww .b64 0 0 (.s 4) (.imm 1) (.v 0)
  | 0xB0 => ww .s8 1 0 (.v 0) (.v 0) (.ctl ⟨.dv, .ar, .plain⟩)
  | 0xB1 | 0xB3 | 0xB4 => ww .z32 0 0 (.imm 1) (.v 0) (.v 0)
  | 0xB6 | 0xB7 => ww .z64 0 0 (.s 4) (.imm 1) dvRlx
  | 0xB8 => ww .z64 0 0 (.s 4) (.imm 1) dvRlx
  | 0xB9 => ww .b64 0 1 (.s 4) (.v 0) (.v 0)
  | 0xBA => ww .z32 0 0 (.imm 2) (.v 0) (.v 0)
  | 0xBB => ww .z32 0 0 (.imm 5) (.v 0) (.v 0)
  | _ => ww .s8 0 0 (.v 0) (.v 0) (.v 0)

/-- A well-formed word of each wave opcode. -/
def sample (o : Nat) : WWord :=
  if o < 0x20 then intSampleOf false o
  else if 0x40 ≤ o ∧ o < 0x60 then intSampleOf true (o - 0x40)
  else if 0xA0 ≤ o then memSample o
  else compSample o

/-- The word of a sample, about to be executed. -/
def at' (o : Nat) (w : WWord) : State := wordAt (encodeWaveWord o w).toNat

/-- What `p` says of the context and form of a word that may issue. -/
def ready (o : Nat) (w : WWord) (s : State) (p : WaveCtx → WaveForm → Bool) : Bool :=
  match s.ready? o w with
  | some (c, f) => p c f
  | none => false

/-- A word under a guard that no lane passes. -/
def guarded (w : WWord) : WWord := { w with pn := true }

/-- A register of the placed wave. -/
def setS (n : Nat) (v : W64) (s : State) : State := s.updWave wv0 (fun x => { x with sregs := setAt x.sregs n v })
/-- A vector register of the placed wave. -/
def setV (n : Nat) (v : List W32) (s : State) : State := s.updWave wv0 (fun x => { x with vregs := assocSet x.vregs n v })

/-! ## Single steps and values that the spec's examples give -/

/-- The state after a step, where it leads to one. -/
def after (s : State) : Option State :=
  match step s with
  | .next t => some t
  | _ => none

/-- The placed wave word, its wave's v registers given, after one step: what `p` says of the workgroup and the wave. -/
def wordGives (word : Nat) (regs : List (Nat × W32)) (p : Workgroup → Wave → Bool) : Bool :=
  let s := regs.foldl (fun s r => setV r.1 (List.replicate 32 r.2) s) (State.reset.placeWave word)
  (after s).any (fun t => match t.wg? wg0, t.wave? wv0 with
    | some g, some v => p g v
    | _, _ => false)

/-- The 32 bits of a lane of a vector register. -/
def lane32 (v : Wave) (n l : Nat) : Nat := v.laneValue false n l

/-- 04 R129's example: add.s16.sat v20, v21*, 300 with v21 = 0x7F00 gives 0x7FFF, sets SA (bit 5, 01 R38) and frees v21. -/
theorem test_add_saturates : wordGives 0x0118041415012C3C [(21, 0x7F00)] (fun g v =>
    lane32 v 20 0 == 0x7FFF && lane32 v 20 31 == 0x7FFF && g.flags == 0x20 && (assoc v.vregs 21).isNone) = true := by decide +kernel

/-- ADD.s32 wraps: 0x7FFFFFFF + 5 (04 R127). -/
theorem test_add_wraps : wordGives 0x0120000701050030 [(1, 0x7FFFFFFF)] (fun g v =>
    lane32 v 7 3 == 0x80000004 && g.flags == 0) = true := by decide +kernel

/-- SHL.b32 by v3: bits 7:0 of the amount, 32 gives 0 (04 R131). -/
theorem test_shl_by_width : wordGives (0x1580000701030000) [(1, 0xFFFFFFFF), (3, 0x20)] (fun _ v => lane32 v 7 0 == 0) = true
    ∧ wordGives (0x1580000701030000) [(1, 1), (3, 0x104)] (fun _ v => lane32 v 7 0 == 0x10) = true := by decide +kernel

/-- BFX.s32 with start 28 and length 8: the length is cut to 4, and the field's sign extends (04 R132). -/
theorem test_bfx_at_the_top : wordGives 0x1A2000070108003C [(1, 0xB0000000)] (fun _ v => lane32 v 7 0 == 0) = true
    ∧ wordGives 0x1A200007011C083C [(1, 0xB0000000)] (fun _ v => lane32 v 7 0 == 0xFFFFFFFB) = true := by decide +kernel

/-- 05 R172's example: cvt.e4m3.f32.rn.sat v3, v2 of 1,000.0 gives 0x7E with SA and NX (bit 0). -/
theorem test_cvt_example : wordGives 0x9208000302110C3C [(2, 0x447A0000)] (fun g v =>
    lane32 v 3 5 == 0x7E && g.flags == 0x21) = true := by decide +kernel

/-- The outcomes of 02 R70's table by mode: OF and NX, or SA and NX; and 70,000 into f16 (02 R67). -/
theorem test_conversion_table :
    convFF e4m3 .rn false (f32.value 0x447A0000) = (0x7F, 0x05) ∧ convFF e4m3 .rn true (f32.value 0x447A0000) = (0x7E, 0x21)
    ∧ convFF e4m3 .rz false (f32.value 0x447A0000) = (0x7E, 0x05) ∧ convFF e4m3 .rd false (f32.value 0x447A0000) = (0x7E, 0x05)
    ∧ convIF f16 .rn false 70000 = (0x7C00, 0x05) := by decide +kernel

/-- FADD.f32 of 1.5 and 2.5; FFMA with the literal 1.5 of chapter 3's example, without its guard. -/
theorem test_float_words : wordGives 0x80C0000702030000 [(2, 0x3FC00000), (3, 0x40200000)] (fun g v =>
      lane32 v 7 0 == 0x40800000 && g.flags == 0) = true
    ∧ ((after (setV 11 (List.replicate 32 0x40000000) (setV 12 (List.replicate 32 0x40400000)
        ((State.reset.placeWave 0x83C0000A0B0C800D).writeMem 0x40001010 (toBytes 8 0x3FC00000))))).bind (fun t => t.wave? wv0)).any
          (fun v => lane32 v 10 0 == 0x40F00000) = true := by decide +kernel

/-- 02's worked chain: 2^24 and two products of 1 in rows 32 and 33, in full mode, S2 and S4. -/
theorem test_chain_example :
    (let ps := (List.range 64).map (fun r => if r = 32 ∨ r = 33 then f32.value 0x3F800000 else f32.value 0)
     (chainResult f32 0 0x4B800000 ps).1 = 0x4B800000 ∧ (chainResult f32 1 0x4B800000 ps).1 = 0x4B800001
     ∧ (chainResult f32 2 0x4B800000 ps).1 = 0x4B800001) := by decide +kernel

/-- 02's worked spillway run: the narrow accumulator after passes 7, 8, 10, 16, 23 and 24, and the entries emitted by then. -/
theorem test_spillway_example :
    let run (n : Nat) : Int × Nat := (List.range n).foldl (fun (a : Int × Nat) _ =>
      let u := narrowUpdate a.1 1048576
      (u.1, a.2 + if u.2 = some false then 1 else 0)) (0, 0)
    run 7 = (7340032, 0) ∧ run 8 = (-8388608, 1) ∧ run 10 = (-6291456, 1) ∧ run 16 = (0, 1) ∧ run 23 = (7340032, 1)
      ∧ run 24 = (-8388608, 2) := by decide +kernel

/-- 01's worked address: byte 0x12345 of core 517's scratchpad; the byte past a window is nowhere. -/
theorem test_window_address : place 0x004020512345 = .window 517 0x12345 ∧ place 0x0040205C0000 = .none := by decide +kernel

/-- 01 R36's worked case: 20 waves of 160 registers fit once on a core, not twice; 32 waves not at all. -/
theorem test_placement_example :
    let l (n : Nat) : Lpb := { placedLpb false with waves := n, maxRegs := 160 }
    (placeOne [] (l 20)).map (·.part) = some 0 ∧ (placeMany (l 20) 2 []).isNone = true ∧ (placeOne [] (l 32)).isNone = true := by
  decide +kernel

/-- The words and control bytes of 06's examples: st.b64.wc s10, v6 and tlwait.park.dv.acq s21, 1. -/
theorem test_memory_example_words :
    decodeWave 0xA19000000A06624C none = some (.wSt (ww .b64 0 0 (.s 10) (.v 6) (.ctl ⟨.dv, .rlx, .wc⟩)))
    ∧ decodeWave 0xB87100001501687C none = some (.wTlwait (ww .z64 1 0 (.s 21) (.imm 1) (.ctl ⟨.dv, .acq, .plain⟩))) := by decide +kernel

/-- 09's bundle: its slots, and the two reds at a 10-bit head. -/
theorem test_bundle_example :
    decodeSlot 0 0x14143FFC = some (.lBeam ⟨0, 0, false, 5, 1, 31, 31, 4⟩)
    ∧ decodeSlot 1 0x2C102218 = some (.lHlerp ⟨1, 0, false, 4, 1, 2, 3, 0⟩) ∧ decodeSlot 2 0 = some (.lNop ⟨2, 0, false, 0, 0, 0, 0, 0⟩)
    ∧ decodeSlot 3 0x0C20C710 = some (.lSamp ⟨3, 0, false, 8, 6, 7, 2, 0⟩)
    ∧ componentCode 1023 0x3F200000 = 639 ∧ componentCode 1023 0x3F198000 = 613 := by decide +kernel

/-- A sequencer word: li g6, −2, and a word of zeros, which enters the trap context with ILLEGAL_WORD (07 R226, R227, R248). -/
theorem test_sequencer_words :
    ((after (State.reset.placeSeq 0x340DFFFE)).bind (fun t => t.job? wg0)).any (fun j =>
      (j.main.g[6]?).getD 0 == BitVec.ofInt 64 (-2) && j.main.pc == 4) = true
    ∧ (after (State.reset.placeSeq 0)).any (fun t => (t.job? wg0).any (fun j => j.main.trapped) && (t.core 0).trap.pc == 0xE000
        && (t.core 0).trap.item.any (fun x => x.record.kind == some .illegalWord)) = true := by decide +kernel

/-- A wave word that is none traps ILLEGAL_WORD, which contains its workgroup and puts its context in error (16 R392, R393). -/
theorem test_illegal_word_traps : (after (State.reset.placeWave 0)).any (fun t => 
    (t.wg? wg0).isNone && (t.context 0).err) = true := by decide +kernel

/-- 22 R475's window: slv 2, a lowered level of 0 from 450 µs on, and RDELAY 500 µs: at 949 µs SLV stays, at 950 µs it falls. -/
theorem test_restore_window :
    let p : PowerPage := { PowerPage.reset with slv := 2, vLast := some 54000, rdelay := 500, window := some (450 * 2000, 0) }
    (p.evaluate (949 * 2000)).slv = 2 ∧ (p.evaluate (950 * 2000)).slv = 0 := by decide +kernel

/-- LD at issue: the pending word's values are those of memory (06 R183, R190). -/
theorem test_load_reads_memory :
    ((after (setS 4 0x2000 ((State.reset.placeWave 0xA08000090400607C).writeMem 0x40002000 [0x78, 0x56, 0x34, 0x12]))).bind
      (fun t => t.wave? wv0)).any (fun v => decide (v.pending.map (·.kind) = [.result [List.replicate 32 0x12345678]])) = true := by decide +kernel

/-- ST at .dv writes its bytes, in little-endian order, into a dirty line of its core's L1, and memory keeps its own until a
write-back (00 R4; 06 R183; 14 R376). -/
theorem test_store_writes_its_line :
    (after (setS 4 0x2000 (setV 3 (List.replicate 32 0x12345678) (State.reset.placeWave 0xA18000000403604C)))).map
      (fun t => ((t.core 0).l1.map (fun x => (x.bytes.take 4, x.dirty)), t.readMem 0x40002000 4)) =
    some ([([0x78, 0x56, 0x34, 0x12], 0xF)], [0, 0, 0, 0]) := by decide +kernel
/-! ## Every word decodes to its instruction (03 R85, R102, R104-R111; 11 R322, R341)

The numbers are written from the tables of the spec, field by field: the opcode in bits 63:56, and so on. -/

/-- One word of each wave opcode, part 0. -/
def waveWords0 : List (W64 × (WWord → Instr) × Nat) :=
  [(0x0120000702050030, .wAdd, 0x01), (0x0220000702050030, .wSub, 0x02), (0x0361000702050030, .wAddc, 0x03),
    (0x0461000702050030, .wSubb, 0x04), (0x0520000702050030, .wMul, 0x05), (0x0620000702050030, .wMulh, 0x06),
    (0x0720000702050430, .wMad, 0x07), (0x0820000602050430, .wMadw, 0x08), (0x0920000702050030, .wMin, 0x09),
    (0x0A20000702050030, .wMax, 0x0A), (0x0B20000702000000, .wAbs, 0x0B), (0x0C20000702000000, .wNeg, 0x0C),
    (0x1080000702050030, .wAnd, 0x10), (0x1180000702050030, .wOr, 0x11), (0x1280000702050030, .wXor, 0x12),
    (0x1380000702000000, .wNot, 0x13)]
/-- One word of each wave opcode, part 1. -/
def waveWords1 : List (W64 × (WWord → Instr) × Nat) :=
  [(0x1480000702050030, .wAndn, 0x14), (0x1580000702050030, .wShl, 0x15), (0x1680000702050030, .wShr, 0x16),
    (0x1780000702050030, .wSar, 0x17), (0x1880000702050030, .wRot, 0x18), (0x198000070205083C, .wFunnel, 0x19),
    (0x1A6000070205083C, .wBfx, 0x1A), (0x1B80000702050430, .wBfi, 0x1B), (0x1C80000702000000, .wPopc, 0x1C),
    (0x1D80000702000000, .wClz, 0x1D), (0x1E80000702000000, .wCtz, 0x1E), (0x1F80000702000000, .wBrev, 0x1F),
    (0x2081000702050030, .wSel, 0x20), (0x2180000702000000, .wMov, 0x21), (0x2280000702010030, .wMovl, 0x22),
    (0x2322000602040000, .wLea, 0x23)]
/-- One word of each wave opcode, part 2. -/
def waveWords2 : List (W64 × (WWord → Instr) × Nat) :=
  [(0x2461000700000000, .wLane, 0x24), (0x2581000702010030, .wShuf, 0x25), (0x2680000702030030, .wBcast, 0x26),
    (0x2780000710000080, .wRdsp, 0x27), (0x2822000102050030, .wCmp, 0x28), (0x298000010102060C, .wPlog, 0x29),
    (0x2A90001B010000C0, .wWrsp, 0x2A), (0x30300000020000C0, .wBra, 0x30), (0x3190000002000000, .wBrx, 0x31),
    (0x32300000020000C0, .wCall, 0x32), (0x3390000002000000, .wCallx, 0x33), (0x3400000000000000, .wRet, 0x34),
    (0x3500000000000000, .wExit, 0x35), (0x36600000090000C0, .wTrap, 0x36), (0x37600000090000C0, .wBreak, 0x37),
    (0x3800000000000000, .wNop, 0x38)]
/-- One word of each wave opcode, part 3. -/
def waveWords3 : List (W64 × (WWord → Instr) × Nat) :=
  [(0x3900000000000000, .wYield, 0x39), (0x3A600000090000C0, .wSleep, 0x3A), (0x3B800000010000C0, .wWaitf, 0x3B),
    (0x4120000702050070, .wAddScalar, 0x41), (0x4220000702050070, .wSubScalar, 0x42),
    (0x4361000702050070, .wAddcScalar, 0x43), (0x4461000702050070, .wSubbScalar, 0x44),
    (0x4520000702050070, .wMulScalar, 0x45), (0x4620000702050070, .wMulhScalar, 0x46),
    (0x4720000702050474, .wMadScalar, 0x47), (0x4820000702050474, .wMadwScalar, 0x48),
    (0x4920000702050070, .wMinScalar, 0x49), (0x4A20000702050070, .wMaxScalar, 0x4A),
    (0x4B20000702000040, .wAbsScalar, 0x4B), (0x4C20000702000040, .wNegScalar, 0x4C),
    (0x5080000702050070, .wAndScalar, 0x50)]
/-- One word of each wave opcode, part 4. -/
def waveWords4 : List (W64 × (WWord → Instr) × Nat) :=
  [(0x5180000702050070, .wOrScalar, 0x51), (0x5280000702050070, .wXorScalar, 0x52),
    (0x5380000702000040, .wNotScalar, 0x53), (0x5480000702050070, .wAndnScalar, 0x54),
    (0x5580000702050070, .wShlScalar, 0x55), (0x5680000702050070, .wShrScalar, 0x56),
    (0x5780000702050070, .wSarScalar, 0x57), (0x5880000702050070, .wRotScalar, 0x58),
    (0x598000070205087C, .wFunnelScalar, 0x59), (0x5A6000070205087C, .wBfxScalar, 0x5A),
    (0x5B80000702050474, .wBfiScalar, 0x5B), (0x5C80000702000040, .wPopcScalar, 0x5C),
    (0x5D80000702000040, .wClzScalar, 0x5D), (0x5E80000702000040, .wCtzScalar, 0x5E),
    (0x5F80000702000040, .wBrevScalar, 0x5F), (0x6180000702000040, .wMovScalar, 0x61)]
/-- One word of each wave opcode, part 5. -/
def waveWords5 : List (W64 × (WWord → Instr) × Nat) :=
  [(0x6280000702010070, .wMovlScalar, 0x62), (0x6322000702030050, .wLeaScalar, 0x63),
    (0x6790000712000080, .wRdspScalar, 0x67), (0x80C0000702030000, .wFadd, 0x80), (0x81C0000702030000, .wFsub, 0x81),
    (0x82C0000702030000, .wFmul, 0x82), (0x83C0000702030400, .wFfma, 0x83), (0x84C0000702030000, .wFmin, 0x84),
    (0x85C0000702030000, .wFmax, 0x85), (0x86C0000102030030, .wFcmp, 0x86), (0x87C0000102030030, .wFclass, 0x87),
    (0x88C0000702000000, .wFrnd, 0x88), (0x89C0000702000000, .wFract, 0x89), (0x8AC0000702000000, .wRcp, 0x8A),
    (0x8BC0000702000000, .wRsq, 0x8B), (0x8CC0000702000000, .wSqrt, 0x8C)]
/-- One word of each wave opcode, part 6. -/
def waveWords6 : List (W64 × (WWord → Instr) × Nat) :=
  [(0x8DC0000702000000, .wExp2, 0x8D), (0x8EC0000702000000, .wLog2, 0x8E), (0x8FC0000702000000, .wSin, 0x8F),
    (0x90C0000702000000, .wCos, 0x90), (0x91C0000702000000, .wTanh, 0x91), (0x92000007020A0C3C, .wCvt, 0x92),
    (0x93E0000702030000, .wPack, 0x93), (0x94E0000702010030, .wUnpack, 0x94), (0x95C0000702030400, .wDot2, 0x95),
    (0x9620000702030400, .wDot4, 0x96), (0x9820000702000000, .wReduce, 0x98), (0x9920000702000030, .wScan, 0x99),
    (0x9AC0000702030030, .wTopk, 0x9A), (0x9B60000501000000, .wBallot, 0x9B), (0x9C80000101000000, .wVote, 0x9C),
    (0xA08000090400607C, .wLd, 0xA0)]
/-- One word of each wave opcode, part 7. -/
def waveWords7 : List (W64 × (WWord → Instr) × Nat) :=
  [(0xA18000000403604C, .wSt, 0xA1), (0xA2800009100000F0, .wLds, 0xA2), (0xA3800000100300C0, .wSts, 0xA3),
    (0xA4800000010360CC, .wSend, 0xA4), (0xA58000090000600C, .wRecv, 0xA5), (0xA690000004000070, .wPref, 0xA6),
    (0xA79000000440607C, .wWb, 0xA7), (0xA89000000440607C, .wInv, 0xA8), (0xA92000090401607C, .wAtom, 0xA9),
    (0xAA8000090401607C, .wAtomcas, 0xAA), (0xAB2000000401607C, .wRed, 0xAB), (0xAC9000000406605C, .wBind, 0xAC),
    (0xAD90000004010070, .wUnbind, 0xAD), (0xAE90000004010070, .wAcq, 0xAE), (0xAF90000004010070, .wRel, 0xAF),
    (0xB00100000000780C, .wFence, 0xB0)]
/-- One word of each wave opcode, part 8. -/
def waveWords8 : List (W64 × (WWord → Instr) × Nat) :=
  [(0xB1600000010000C0, .wBar, 0xB1), (0xB200000000000000, .wGbar, 0xB2), (0xB3600000010000C0, .wArrive, 0xB3),
    (0xB4600000010000C0, .wWaitb, 0xB4), (0xB500000000000000, .wOpfence, 0xB5), (0xB67000000401607C, .wTladd, 0xB6),
    (0xB77000000401607C, .wTlset, 0xB7), (0xB87000000401607C, .wTlwait, 0xB8), (0xB990000104000040, .wLaunch, 0xB9),
    (0xBA600000020000C0, .wSetperf, 0xBA), (0xBB600000050000C0, .wProgress, 0xBB), (0xBC00000000000000, .wRdv, 0xBC)]
/-- One word of each wave opcode. -/
def waveWords : List (W64 × (WWord → Instr) × Nat) := waveWords0 ++ waveWords1 ++ waveWords2 ++ waveWords3 ++ waveWords4 ++ waveWords5 ++ waveWords6 ++ waveWords7 ++ waveWords8

theorem test_every_wave_word_decodes : waveWords.all (fun p => decide (decodeWave p.1 none = some (p.2.1 (sample p.2.2)))) = true := by
  decide +kernel

/-- One word of each sequencer opcode, with g6 as its destination, g8 and g7 as its sources and the immediate 2, where it has them, part 0. -/
def seqWords0 : List (W32 × (SWord → Instr) × Nat) :=
  [(0x040C8380, .seqAdd, 0x01), (0x080C8380, .seqSub, 0x02), (0x0C0C8380, .seqAnd, 0x03),
    (0x100C8380, .seqOr, 0x04), (0x140C8380, .seqXor, 0x05), (0x180C8380, .seqShl, 0x06),
    (0x1C0C8380, .seqShr, 0x07), (0x200C8380, .seqSar, 0x08), (0x240C8380, .seqMul, 0x09),
    (0x280C8380, .seqSlt, 0x0A), (0x2C0C8380, .seqSltz, 0x0B), (0x300C8002, .seqAddi, 0x0C),
    (0x340C0002, .seqLi, 0x0D), (0x380C0002, .seqLui, 0x0E), (0x40107002, .seqBeq, 0x10),
    (0x44107002, .seqBne, 0x11)]
/-- One word of each sequencer opcode, with g6 as its destination, g8 and g7 as its sources and the immediate 2, where it has them, part 1. -/
def seqWords1 : List (W32 × (SWord → Instr) × Nat) :=
  [(0x48107002, .seqBlt, 0x12), (0x4C107002, .seqBge, 0x13), (0x50000002, .seqJ, 0x14), (0x540C0002, .seqJal, 0x15),
    (0x580C8000, .seqJr, 0x16), (0x600C8002, .seqLdg, 0x18), (0x640C8002, .seqStg, 0x19),
    (0x800C8380, .seqCpy, 0x20), (0x84008000, .seqCpyw, 0x21), (0x880C8002, .seqMw, 0x22),
    (0x8C008002, .seqNest, 0x23), (0x900C0000, .seqGo, 0x24), (0x94008000, .seqNwait, 0x25),
    (0x980C0000, .seqSpw, 0x26), (0x9C0C0000, .seqTok, 0x27), (0xA0008002, .seqPace, 0x28)]
/-- One word of each sequencer opcode, with g6 as its destination, g8 and g7 as its sources and the immediate 2, where it has them, part 2. -/
def seqWords2 : List (W32 × (SWord → Instr) × Nat) :=
  [(0xC00C0000, .seqRdv, 0x30), (0xC4008002, .seqOvl, 0x31), (0xC80C0002, .seqMfc, 0x32),
    (0xCC008002, .seqMtc, 0x33), (0xD0000002, .seqTrap, 0x34), (0xD4000000, .seqEret, 0x35),
    (0xD8000000, .seqHalt, 0x36)]
/-- One word of each sequencer opcode, with g6 as its destination, g8 and g7 as its sources and the immediate 2, where it has them. -/
def seqWords : List (W32 × (SWord → Instr) × Nat) := seqWords0 ++ seqWords1 ++ seqWords2

/-- A well-formed word of each sequencer opcode. -/
def seqSample (o : Nat) : SWord :=
  match seqForm o with
  | some f => { tu := false, gd := false, td := false, gu := false, d := if f.useD then 6 else 0, a := if f.useA then 8 else 0,
                b := if f.useB then 7 else 0, imm := if f.useImm then 2 else 0 }
  | none => ⟨false, false, false, false, 0, 0, 0, 0⟩

theorem test_every_sequencer_word_decodes :
    seqWords.all (fun p => decide (decodeSeq p.1 = some (p.2.1 (seqSample p.2.2)))) = true := by decide +kernel

/-- A matrix word with every field 0. -/
def mat0 : MWord := ⟨0, false, 0, 0, 0, 0, 0, 0, 0, 0, .rn, false, 0, 0, 0, 0, 0⟩

/-- MNOP; WLOAD of codebook weights; MSTEP; MDRAIN; MFOLD, MCLR, MFILL, each with its fields set. -/
theorem test_every_matrix_word_decodes :
    decodeMatrix 0 = some (.mNop mat0)
    ∧ decodeMatrix (1 * 2 ^ 188 + 1 * 2 ^ 184 + 0x13 * 2 ^ 179 + 63 * 2 ^ 167 + 62 * 2 ^ 161 + 16 * 2 ^ 138 + 8 * 2 ^ 108 + 16 * 2 ^ 88
        + 32 * 2 ^ 68) = some (.mWload { mat0 with c := true, fmt := 0x13, kx := 63, nx := 62, hg := 16, a := 8, b := 16, astr := 32 })
    ∧ decodeMatrix (2 * 2 ^ 188 + 7 * 2 ^ 185 + 0x00 * 2 ^ 179 + 20 * 2 ^ 173 + 3 * 2 ^ 155 + 2 * 2 ^ 153 + 1 * 2 ^ 151 + 64 * 2 ^ 44)
        = some (.mStep { mat0 with d := 7, mb := 20, px := 3, spl := 2, spm := 1, pstr := 64 })
    ∧ decodeMatrix (3 * 2 ^ 188 + 5 * 2 ^ 185 + 9 * 2 ^ 161 + 4 * 2 ^ 155 + 0x0A * 2 ^ 146 + 3 * 2 ^ 144 + 1 * 2 ^ 143 + 24 * 2 ^ 88 + 40 * 2 ^ 68)
        = some (.mDrain { mat0 with d := 5, nx := 9, px := 4, dfmt := 0x0A, drnd := .rd, dsat := true, b := 24, astr := 40 })
    ∧ decodeMatrix (4 * 2 ^ 188 + 6 * 2 ^ 185 + 1 * 2 ^ 138 + 48 * 2 ^ 88) = some (.mFold { mat0 with d := 6, hg := 1, b := 48 })
    ∧ decodeMatrix (5 * 2 ^ 188 + 3 * 2 ^ 185) = some (.mClr { mat0 with d := 3 })
    ∧ decodeMatrix (6 * 2 ^ 188 + 1 * 2 ^ 167 + 2 * 2 ^ 161 + 3 * 2 ^ 155 + 4 * 2 ^ 138) = some (.mFill
        { mat0 with kx := 1, nx := 2, px := 3, hg := 4 }) := by
  decide +kernel

/-- One word of each line operation, part 0. -/
def lineSlots0 : List (W32 × (LSlot → Instr) × LSlot) :=
  [(0x00000000, .lNop, ⟨0, 0, false, 0, 0, 0, 0, 0⟩), (0x04006113, .lLoop, ⟨0, 0, false, 0, 3, 1, 2, 3⟩),
    (0x08000113, .lBr, ⟨0, 0, false, 0, 0, 1, 2, 3⟩), (0x0C186113, .lBrc, ⟨0, 0, false, 6, 3, 1, 2, 3⟩),
    (0x10000000, .lHalt, ⟨0, 0, false, 0, 0, 0, 0, 0⟩), (0x14246113, .lBeam, ⟨0, 0, false, 9, 3, 1, 2, 3⟩),
    (0x1824600F, .lPose, ⟨0, 0, false, 9, 3, 0, 1, 7⟩), (0x40246100, .lKadd, ⟨0, 0, false, 9, 3, 1, 0, 0⟩),
    (0x44246113, .lKaddi, ⟨0, 0, false, 9, 3, 1, 2, 3⟩), (0x48246100, .lKsub, ⟨0, 0, false, 9, 3, 1, 0, 0⟩),
    (0x4C246100, .lKmul, ⟨0, 0, false, 9, 3, 1, 0, 0⟩), (0x50246100, .lKand, ⟨0, 0, false, 9, 3, 1, 0, 0⟩)]
/-- One word of each line operation, part 1. -/
def lineSlots1 : List (W32 × (LSlot → Instr) × LSlot) :=
  [(0x54246100, .lKor, ⟨0, 0, false, 9, 3, 1, 0, 0⟩), (0x58246100, .lKxor, ⟨0, 0, false, 9, 3, 1, 0, 0⟩),
    (0x5C246100, .lKshl, ⟨0, 0, false, 9, 3, 1, 0, 0⟩), (0x60246100, .lKshr, ⟨0, 0, false, 9, 3, 1, 0, 0⟩),
    (0x64246100, .lKsar, ⟨0, 0, false, 9, 3, 1, 0, 0⟩), (0x68240113, .lKli, ⟨0, 0, false, 9, 0, 1, 2, 3⟩),
    (0x6C246113, .lKlui, ⟨0, 0, false, 9, 3, 1, 2, 3⟩), (0x70246100, .lKslt, ⟨0, 0, false, 9, 3, 1, 0, 0⟩),
    (0x06A46103, .lHadd, ⟨1, 2, true, 9, 3, 1, 0, 3⟩), (0x0AA46103, .lHsub, ⟨1, 2, true, 9, 3, 1, 0, 3⟩),
    (0x0EA46103, .lHmul, ⟨1, 2, true, 9, 3, 1, 0, 3⟩), (0x12A46113, .lHfma, ⟨1, 2, true, 9, 3, 1, 2, 3⟩)]
/-- One word of each line operation, part 2. -/
def lineSlots2 : List (W32 × (LSlot → Instr) × LSlot) :=
  [(0x16A46103, .lHmin, ⟨1, 2, true, 9, 3, 1, 0, 3⟩), (0x1AA46103, .lHmax, ⟨1, 2, true, 9, 3, 1, 0, 3⟩),
    (0x1E8C812A, .lHcmp, ⟨1, 2, true, 3, 4, 1, 5, 2⟩), (0x22A46114, .lHsel, ⟨1, 2, true, 9, 3, 1, 2, 4⟩),
    (0x26A46039, .lHcvt, ⟨1, 2, true, 9, 3, 0, 7, 1⟩), (0x2AA46000, .lHrcp, ⟨1, 2, true, 9, 3, 0, 0, 0⟩),
    (0x2EA46114, .lHlerp, ⟨1, 2, true, 9, 3, 1, 2, 4⟩), (0x32A4607A, .lHshuf, ⟨1, 2, true, 9, 3, 0, 15, 2⟩),
    (0x80206405, .lPmm, ⟨2, 0, false, 8, 3, 4, 0, 5⟩), (0x11246113, .lHfma, ⟨2, 1, false, 9, 3, 1, 2, 3⟩),
    (0x07A46113, .lLbld, ⟨3, 3, true, 9, 3, 1, 2, 3⟩), (0x0BA46113, .lLbst, ⟨3, 3, true, 9, 3, 1, 2, 3⟩)]
/-- One word of each line operation, part 3. -/
def lineSlots3 : List (W32 × (LSlot → Instr) × LSlot) :=
  [(0x0FA0613C, .lSamp, ⟨3, 3, true, 8, 3, 1, 7, 4⟩), (0x13A46100, .lGath, ⟨3, 3, true, 9, 3, 1, 0, 0⟩),
    (0x1783A110, .lEmit, ⟨3, 3, true, 0, 29, 1, 2, 0⟩), (0x18006003, .lPmw, ⟨3, 0, false, 0, 3, 0, 0, 3⟩)]
/-- One word of each line operation. -/
def lineSlots : List (W32 × (LSlot → Instr) × LSlot) := lineSlots0 ++ lineSlots1 ++ lineSlots2 ++ lineSlots3

theorem test_every_line_slot_decodes :
    lineSlots.all (fun p => decide (decodeSlot p.2.2.slot.toNat p.1 = some (p.2.1 p.2.2))) = true := by decide +kernel

/-- Every packet type, with a type-specific field of 5 and three words; every mailbox command, of function 2. -/
theorem test_every_packet_and_command_decodes :
    [(0x500000300, Instr.pkNop), (0x500000301, Instr.pkLaunchGrid), (0x500000302, Instr.pkIndirect), (0x500000303, Instr.pkTlWait),
      (0x500000304, Instr.pkTlAdd), (0x500000305, Instr.pkTlSet), (0x500000306, Instr.pkBarrier), (0x500000307, Instr.pkPresent)].all (fun p =>
      decide (decodePacket p.1 [7, 9] = some (p.2 ⟨5, 3, [7, 9]⟩))) = true
    ∧ [(0x01, Instr.mbCreateContext), (0x02, Instr.mbDestroyContext), (0x03, Instr.mbBindQueue), (0x04, Instr.mbUnbindQueue),
      (0x05, Instr.mbResetQueue), (0x06, Instr.mbResetContext), (0x07, Instr.mbFwRestart), (0x08, Instr.mbGrant), (0x09, Instr.mbPodPeer),
      (0x0A, Instr.mbSetPasid), (0x0B, Instr.mbClearFences)].all (fun p =>
      decide (decodeMail p.1 7 8 9 2 = some (p.2 ⟨2, 7, 8, 9⟩))) = true := by decide +kernel

/-! ## Words the checks refuse, one for each check (03 R86-R92, R105, R108, R111; 07 R232) -/

/-- ADD.s32 of v1 and 5 into v7, as chapter 3 gives it. -/
def add7 : WWord := ww .s32 0 7 (.v 1) (.imm 5) (.v 0)

theorem test_ill_formed_wave_words :
    -- a type ADD does not take; a modifier it does not take; an unused operand that is not 0
    WellFormed (.wAdd add7) ∧ ¬WellFormed (.wAdd { add7 with t := .f32 }) ∧ ¬WellFormed (.wAdd { add7 with m := 1 })
    ∧ ¬WellFormed (.wAdd { add7 with c := .v 1 }) ∧ ¬WellFormed (.wAdd { add7 with rnd := .rz }) ∧ ¬WellFormed (.wAdd { add7 with u := true })
    -- a pair in a float word; an odd register pair; a scalar destination that does not exist; a vector operand of a scalar word
    ∧ ¬WellFormed (.wFadd { add7 with t := .f32, b := .pair 300 }) ∧ ¬WellFormed (.wAdd { add7 with t := .s64 })
    ∧ ¬WellFormed (.wAddScalar { add7 with a := .s 1, d := 64 }) ∧ ¬WellFormed (.wAddScalar add7)
    -- two literals that differ; a predicate that does not exist; a control byte LD does not take; a word without a destination
    ∧ ¬WellFormed (.wAdd { add7 with a := .lit 1, b := .lit 2 }) ∧ ¬WellFormed (.wCmp { add7 with m := 2, d := 8 })
    ∧ ¬WellFormed (.wLd { sample 0xA0 with c := .ctl ⟨.dv, .rel, .plain⟩ }) ∧ ¬WellFormed (.wExit { sample 0x35 with d := 1 })
    -- special registers that are read only, or do not exist
    ∧ ¬WellFormed (.wWrsp { sample 0x2A with d := 0x10 }) ∧ ¬WellFormed (.wRdsp { sample 0x27 with a := .sp 14 }) := by decide +kernel

/-- A sequencer word of d, a, b and an immediate. -/
def sw (d a b : BitVec 5) (imm : BitVec 22) : SWord := ⟨false, false, false, false, d, a, b, imm⟩

theorem test_ill_formed_sequencer_words :
    ¬WellFormed (.seqJr (sw 1 2 3 0)) ∧ ¬WellFormed (.seqAddi (sw 1 2 0 0x1000)) ∧ ¬WellFormed (.seqCpy (sw 1 0 2 0))
    ∧ ¬WellFormed (.seqCpy (sw 1 6 2 0)) ∧ ¬WellFormed (.seqPace (sw 0 1 0 3)) ∧ ¬WellFormed (.seqRdv (sw 5 0 0 0))
    ∧ ¬WellFormed (.seqHalt (sw 1 0 0 0)) ∧ ¬WellFormed (.seqAdd (sw 1 2 3 1)) := by decide +kernel

theorem test_ill_formed_matrix_words :
    -- an unused field; SPL 3; SPM 3; HG 17; a format and an extent beyond it; MB of a float and beyond 20; a drain format
    ¬WellFormed (.mClr { mat0 with a := 8 }) ∧ ¬WellFormed (.mStep { mat0 with spl := 3 }) ∧ ¬WellFormed (.mStep { mat0 with spm := 3 })
    ∧ ¬WellFormed (.mWload { mat0 with fmt := 0x0C, hg := 17 }) ∧ ¬WellFormed (.mWload { mat0 with fmt := 0x0E })
    ∧ ¬WellFormed (.mWload { mat0 with fmt := 0x0D, nx := 16 }) ∧ ¬WellFormed (.mStep { mat0 with fmt := 0x0C, mb := 1 })
    ∧ ¬WellFormed (.mStep { mat0 with mb := 21 }) ∧ ¬WellFormed (.mDrain { mat0 with dfmt := 0x0E })
    ∧ ¬WellFormed (.mWload { mat0 with fmt := 0x0C, b := 8 }) := by decide +kernel

theorem test_ill_formed_line_slots :
    ¬WellFormed (.lNop ⟨0, 0, false, 1, 0, 0, 0, 0⟩) ∧ ¬WellFormed (.lHadd ⟨1, 0, false, 1, 2, 3, 1, 0⟩)
    ∧ ¬WellFormed (.lBr ⟨0, 1, false, 0, 0, 1, 0, 0⟩) ∧ ¬WellFormed (.lBrc ⟨0, 0, false, 7, 0, 0, 0, 0⟩)
    ∧ ¬WellFormed (.lPmm ⟨1, 0, false, 2, 0, 0, 0, 0⟩) ∧ ¬WellFormed (.lPmm ⟨2, 0, false, 1, 0, 0, 0, 0⟩)
    ∧ ¬WellFormed (.lSamp ⟨3, 0, false, 2, 0, 0, 0, 0⟩) ∧ ¬WellFormed (.lEmit ⟨3, 0, false, 0, 30, 0, 0, 0⟩)
    ∧ ¬WellFormed (.lHcmp ⟨1, 0, false, 4, 0, 0, 0, 0⟩) ∧ ¬WellFormed (.lHadd ⟨0, 0, false, 1, 2, 3, 0, 0⟩) := by decide +kernel

theorem test_ill_formed_packets_and_commands :
    ¬WellFormed (.pkNop ⟨0, 0, []⟩) ∧ ¬WellFormed (.pkNop ⟨0, 65536, []⟩) ∧ ¬WellFormed (.pkTlWait ⟨0, 2, [1, 2]⟩)
    ∧ WellFormed (.pkTlWait ⟨0, 3, [1, 2]⟩) ∧ ¬WellFormed (.mbGrant ⟨17, 0, 0, 0⟩) ∧ WellFormed (.mbGrant ⟨16, 0, 0, 0⟩) := by decide +kernel

/-- Reserved encodings: opcodes of no row, of a header, a special register that does not exist, a stream number of 8, a control byte
of scope 6, of hint 3, and with bit 0; a sequencer word of zeros, format R with bits 6:0, OPX 7, reserved bits of a matrix word, a line
opcode of another slot, a packet type and a command of no row. -/
theorem test_reserved_encodings :
    [0x0020000702050030, 0xFF20000702050030, 0x6020000702050030, 0x278000070E000080, 0x2780000720000080, 0x0120000708050030 + 0x80,
     0xA0800009040760CC, 0xA08000090407664C, 0xA08000090407614C, 0xA0800009040768CC].all (fun w => decide (decodeWave w none = none)) = true
    ∧ [0x00000000, 0x0402A381, 0x3C000000, 0xFC000000].all (fun w => decide (decodeSeq w = none)) = true
    ∧ [7 * 2 ^ 188, 2 ^ 137, 2 ^ 64, 1, 2 ^ 43, 15 * 2 ^ 188].all (fun x => decide (decodeMatrix x = none)) = true
    ∧ decide (decodeSlot 0 0x1C000000 = none) = true ∧ decide (decodeSlot 1 0x80000000 = none) = true
    ∧ decide (decodeSlot 3 0x1C000000 = none) = true ∧ decide (decodePacket 0x108 [] = none) = true ∧ decide (decodeMail 0 0 0 0 0 = none) = true
    ∧ decide (decodeMail 12 0 0 0 0 = none) = true := by decide +kernel

/-- The words chapter 3 writes out (R88, R102, R106). -/
theorem test_example_words :
    decodeWave 0x0120000701050030 none = some (.wAdd add7)
    ∧ decodeWave 0xA08000090407684C none = some (.wLd { ww .b32 0 9 (.s 4) (.v 7) (.ctl ⟨.dv, .acq, .plain⟩) with m := 0 })
    ∧ decodeWave 0x83C0740A0B0C800D (some 0x3FC00000) = some (.wFfma
        { ww .f32 0 10 (.v 11) (.v 12) (.lit 0x3FC00000) with p := 3, pn := true, l := 4, rnd := .rz })
    ∧ decodeSeq 0x270A6380 = some (.seqMul { sw 5 6 7 0 with tu := true, gd := true }) := by decide +kernel

/-- The word of each table row that the host asks for, given back by the decoder that the host asks. -/
theorem test_table_words :
    decodeTableWord 64 0x0120000701050030 = some (.wAdd add7) ∧ decodeTableWord 32 0x270A6380 = decodeSeq 0x270A6380
    ∧ decodeTableWord 128 (0x04000000 * 2 ^ 32) = some (.lHadd ⟨1, 0, false, 0, 0, 0, 0, 0⟩) ∧ decodeTableWord 192 0 = some (.mNop mat0)
    ∧ decodeTableWord 16 0 = none := by decide +kernel
/-! ## Witnesses: words that compute, issue and complete -/

theorem test_integer_words_ready : integerRows.all (fun r =>
    let w := sample r.op
    ready r.op w (at' r.op w) (fun c f => c.act != 0 && r.ok c (c.operands (at' r.op w) f w) f w)) = true := by decide +kernel

theorem test_lane_and_float_words_ready : (laneRows ++ floatRows).all (fun r =>
    let w := sample r.op
    ready r.op w (at' r.op w) (fun c f => c.act != 0 && r.ok c (c.operands (at' r.op w) f w) f w)) = true := by decide +kernel

theorem test_scalar_words_ready : scalarRows.all (fun r =>
    let w := sample r.op
    ready r.op w (at' r.op w) (fun c _ => c.act != 0) && ready r.op (guarded w) (at' r.op w) (fun c _ => c.act == 0)) = true := by
  decide +kernel

theorem test_predicate_words_ready : predicateRows.all (fun r =>
    let w := sample r.op
    ready r.op w (at' r.op w) (fun c _ => c.act != 0 && w.d != 0) && ready r.op { w with d := 0 } (at' r.op w) (fun _ _ => true)) = true := by
  decide +kernel

theorem test_carry_words_ready : [0x03, 0x04, 0x43, 0x44].all (fun o =>
    let w := sample o
    ready o w (at' o w) (fun c _ => (lowLane c.act).isSome && subOp w != 0)
      && ready o { w with m := 0 } (at' o w) (fun c _ => (lowLane c.act).isSome)
      && ready o (guarded w) (at' o w) (fun c _ => c.act == 0)) = true := by decide +kernel

theorem test_computing_words_ready : computingRows.all (fun r =>
    let w := sample r.op
    ready r.op w (at' r.op w) (fun c f => r.ok c (c.operands (at' r.op w) f w) f w)) = true := by decide +kernel

/-- A finite value, the largest one, a quiet and a signalling NaN and an infinity of the formats that have them; a product of an
infinity and 0 is invalid. -/
theorem test_floats_ready :
    [(f64, 0x3FF8000000000000, 0x7FEFFFFFFFFFFFFF), (f32, 0x3FC00000, 0x7F7FFFFF), (f16, 0x3E00, 0x7BFF), (bf16, 0x3FC0, 0x7F7F),
      (e4m3, 0x3C, 0x7E), (e5m2, 0x3E, 0x7B)].all (fun k =>
        decide ((k.1.value k.2.1).exact = some (3 / 2 : ℚ)) && ((k.1.value k.2.2).exact).isSome && (k.1.value k.1.canonNaN).isNaN
          && (k.1.value 0).exact == some 0) = true
    ∧ (f32.value 0x7F800000 = .inf false ∧ f32.value 0xFF800000 = .inf true ∧ (f32.value 0x7FA00000).snan = true
      ∧ (f32.value 0x7F800000).exact = none) := by decide +kernel

/-- Sums, products and a fused product-sum at the edges: a tie to even, an overflow in each mode and under .sat, a zero of each sign,
a subnormal that underflows, an invalid operation (02 R62-R64, R74). -/
theorem test_floats_round :
    e4m3.add .rn false 0x7E 0x7E = (0x7F, 0x05) ∧ e4m3.add .rn true 0x7E 0x7E = (0x7E, 0x21) ∧ e4m3.add .rz false 0x7E 0x7E = (0x7E, 0x05)
    ∧ f16.add .rn false 0x6800 0x3C00 = (0x6800, 1) ∧ f16.add .rn false 0x6801 0x3C00 = (0x6802, 1) ∧ f16.add .ru false 0x6800 0x3C00 = (0x6801, 1)
    ∧ f32.add .rd false 0x3F800000 0xBF800000 = (0x80000000, 0) ∧ f32.add .rn false 0x3F800000 0xBF800000 = (0, 0)
    ∧ f32.mul .rn false 0x80000000 0x40000000 = (0x80000000, 0) ∧ f16.mul .rn false 0x0001 0x3800 = (0, 3)
    ∧ f32.mul .rn false 0x7F800000 0 = (0x7FC00000, 16) ∧ f32.fma .rn false 0x3F800001 0x3F800001 0xBF800002 = (0x28800000, 0) := by
  decide +kernel

theorem test_bit_words_ready : bitRows.all (fun r => ready r.op (sample r.op) (at' r.op (sample r.op)) (fun _ _ => true)) = true := by
  decide +kernel

/-- Under .sat, s8: 127 + 1 is held from above, -127 - 2 from below, 1 + 1 not; without .sat nothing is held. -/
theorem test_exact_words_ready :
    (let w := ww .s8 8 7 (.imm 127) (.imm 1) (.v 0)
     ready 0x01 w (at' 1 w) (fun c f => let x := c.operands (at' 1 w) f w
       decide (satBit w = true ∧ intGreatest .s8 < intOperand .s8 (at_ x.1 0) + intOperand .s8 (at_ x.2.1 0)))) = true
    ∧ (let w := ww .s8 8 7 (.imm 0x81) (.imm 2) (.v 0)
       ready 0x02 w (at' 2 w) (fun c f => let x := c.operands (at' 2 w) f w
         decide (intOperand .s8 (at_ x.1 0) - intOperand .s8 (at_ x.2.1 0) < intLeast .s8))) = true
    ∧ (let w := ww .s8 8 7 (.imm 1) (.imm 1) (.v 0)
       ready 0x01 w (at' 1 w) (fun c f => let x := c.operands (at' 1 w) f w
         decide (intOperand .s8 (at_ x.1 0) + intOperand .s8 (at_ x.2.1 0) ≤ intGreatest .s8 ∧ c.act.getLsbD 31 = true))) = true := by
  decide +kernel

theorem test_wrsp_ready : ([0x1B, 0x1C] : List (BitVec 8)).all (fun d =>
    let w := { compSample 0x2A with d := d }
    ready 0x2A w (at' 0x2A w) (fun c _ => c.act != 0)) = true := by decide +kernel

theorem test_long_words_ready : longRows.all (fun r =>
    let w := sample r.op
    ready r.op w (at' r.op w) (fun c _ => c.act != 0 && ((at' r.op w).bindable? c).isSome)
      && ready r.op (guarded w) (at' r.op w) (fun c _ => c.act == 0 && ((at' r.op w).bindable? c).isSome)) = true := by decide +kernel

/-- An RCP in flight: its result is known and no word has touched its destination. -/
def rcpInFlight : State := (at' 0x38 (sample 0x38)).updWave wv0 (fun v => { v with
  pending := [⟨.result [List.replicate 32 7], 0, .f32, 5, [9], flagNX, false, false, .nothing, 0x1008⟩], flags := modAt v.flags 0 (· + 1) })

theorem test_long_completion : ((rcpInFlight.wave? wv0).bind (fun v => v.pending[0]?)).any (fun p =>
      decide (p.kind = .result [List.replicate 32 7] ∧ p.regs.Nodup ∧ p.regs.length = 1 ∧ p.spoiled = false)) = true
    ∧ (rcpInFlight.wg? wg0).isSome = true := by decide +kernel
/-! ## Witnesses: control words, waits, traps of wave words -/

/-- Lanes of the placed wave at a call depth, their return addresses the header's. -/
def deep (n : Nat) (s : State) : State := s.updWave wv0 (fun v => { v with
  lanes := v.lanes.map (fun l => { l with depth := n, stack := List.replicate (min n 4) 0x1000 }) })

/-- The placed word's clause with one more word after it. -/
def notLast (s : State) : State := s.updWave wv0 (fun v => { v with
  group := v.group.map (fun g => { g with head := g.head + BitVec.ofNat 64 (2 ^ 31) }) })

/-- p1 holds a 1 in lane 0 alone. -/
def lane0 (s : State) : State := s.updWave wv0 (fun v => { v with preds := setAt v.preds 1 1 })

theorem test_control_words_last : [0x30, 0x31, 0x32, 0x33, 0x35].all (fun o =>
      let w := sample o
      ready o w (deep 3 (at' o w)) (fun c _ => c.isLast w && decide (c.depth = 3) && c.act != 0)) = true
    ∧ [1, 4].all (fun n => let w := sample 0x34
      ready 0x34 w (deep n (at' 0x34 w)) (fun c _ => c.isLast w && decide (c.depth = n) && c.act != 0)) = true := by decide +kernel

theorem test_control_words_uniform :
    [(0x30, true), (0x31, false), (0x32, true), (0x33, false)].all (fun p =>
      let w := { sample p.1 with u := true }
      ready p.1 w (at' p.1 w) (fun c f => c.isLast w && c.uniformTarget (c.target (fun n =>
        if p.2 then relTarget c (c.sources (at' p.1 w) f w).1 n else at_ (c.sources (at' p.1 w) f w).1 n)))) = true
    ∧ (let w := { sample 0x34 with u := true }
       ready 0x34 w (deep 1 (at' 0x34 w)) (fun c _ => c.isLast w && c.uniformTarget (c.target
         (fun n => (((c.wv.lanes[n]?).bind (·.stack.head?)).getD 0).toNat)))) = true := by decide +kernel

theorem test_control_words_out_of_place : [0x30, 0x31, 0x32, 0x33, 0x34, 0x35, 0x36, 0x37].all (fun o =>
    let w := sample o
    ready o w (notLast (at' o w)) (fun c _ => !c.isLast w)) = true := by decide +kernel

/-- Under p1 lane 0 alone jumps, and the others go on: the targets differ. -/
theorem test_control_words_diverge :
    [(0x30, true), (0x31, false), (0x32, true), (0x33, false)].all (fun p =>
      let w := { sample p.1 with u := true, p := 1, a := if p.2 then .imm 4 else .v 2 }
      ready p.1 w (lane0 (at' p.1 w)) (fun c f => c.isLast w && !c.uniformTarget (c.target (fun n =>
        if p.2 then relTarget c (c.sources (lane0 (at' p.1 w)) f w).1 n else at_ (c.sources (lane0 (at' p.1 w)) f w).1 n)))) = true
    ∧ (let w := { sample 0x34 with u := true, p := 1 }
       ready 0x34 w (lane0 (deep 1 (at' 0x34 w))) (fun c _ => c.isLast w && !c.uniformTarget (c.target
         (fun n => (((c.wv.lanes[n]?).bind (·.stack.head?)).getD 0).toNat)))) = true := by decide +kernel

/-- A byte off alignment, and the first offset at SCRATCH. -/
theorem test_misaligned_words :
    [0xA9, 0xAA, 0xAB].all (fun o => let w := sample o
      let s := setS 4 0x2001 (at' o w)
      ready o w s (fun c f => (s.bindable? c).isSome && (misaligned (wtypeBits w.t / 8) (c.accesses (at_ (c.sources s f w).1))).length == 32)) = true
    ∧ (let w := { sample 0xA3 with a := .s 4 }
       let s := setS 4 4096 (at' 0xA3 w)
       ready 0xA3 w s (fun c f => (s.badScratch c (accessBytes w) (c.accesses (at_ (c.sources s f w).1))).length == 32)) = true
    ∧ [0xB6, 0xB7].all (fun o => let w := sample o
      let s := setS 4 0x2004 (at' o w)
      ready o w s (fun c f => c.act != 0 && c.wv.done == 0 && uniform (c.sources s f w).1 % 8 != 0)) = true := by decide +kernel

/-- A LINEAR copy of 64 elements into sq0 of wave 0, none delivered. -/
def streamCopy : Copy :=
  { newCopy [BitVec.ofNat 64 (0xC0 + 0x200 + 3 * 2 ^ 10 + 64 * 2 ^ 32), 0x2000, 0, 0] (.seq .intake 1) 0 0 0 with sent := 0 }

theorem test_words_turned_away :
    (let w := { sample 0x01 with m := 5 }
     let s := at' 0x01 w
     waveOpcode (.wAdd w) = some (0x01, w) ∧ (s.waveCtx? w).isSome = true ∧ waveOk 0x01 w = false)
    ∧ (let w := { sample 0x01 with a := .sq 0 }
       let s := (at' 0x01 w).updWg wg0 (fun g => { g with copies := [streamCopy] })
       ((s.waveCtx? w).any (fun c => !c.streamsReady w)) = true ∧ ((waveForm 0x01 w).any (fun f => fieldsFit 0x01 f w)) = true)
    ∧ (let w := sample 0x01
       let s := (at' 0x01 w).updWave wv0 (fun v => { v with poison := [(2, 1)] })
       ((s.waveCtx? w).any (fun c => c.streamsReady w && c.wv.pending.isEmpty
         && (waveForm 0x01 w).any (fun f => fieldsFit 0x01 f w && c.poisonHit f w))) = true)
    ∧ (let w := { sample 0x61 with a := .s 3 }
       let s := (at' 0x61 w).updWave wv0 (fun v => { v with spoison := [3] })
       ((s.waveCtx? w).any (fun c => c.streamsReady w && (waveForm 0x61 w).any (fun f => fieldsFit 0x61 f w
         && !c.meetsPending f w && c.poisonHit f w && (readRegs f w).isEmpty))) = true)
    ∧ [0xA7, 0xA8, 0xAC, 0xAD, 0xAE, 0xAF, 0xB0, 0xB5, 0xB6, 0xB7, 0xB8, 0xB9, 0xBB, 0xA1, 0xA4, 0xAB].all (fun o =>
        ready o (guarded (sample o)) (at' o (sample o)) (fun c _ => c.act == 0)) = true := by decide +kernel

theorem test_trap_words_ready : [0x36, 0x37].all (fun o => let w := sample o
    ready o w (at' o w) (fun c _ => c.isLast w && decide (c.wg.preempt = none) && c.act != 0)
      && ready o (guarded w) (at' o w) (fun c _ => c.isLast w && c.act == 0)) = true := by decide +kernel

/-- Every lane of the wave has arrived in the barrier phase under way. -/
def arrived (s : State) : State := s.updWave wv0 (fun v => { v with
  lanes := v.lanes.map (fun l => { l with arrived := setAt l.arrived 1 1 }) })

theorem test_waiting_words_ready :
    [0x3A, 0x3B, 0xB4, 0xB2].all (fun o => ready o (sample o) (at' o (sample o)) (fun c _ => c.act != 0)) = true
    ∧ ready 0x3A { sample 0x3A with a := .imm 0 } (at' 0x3A (sample 0x3A)) (fun _ _ => true) = true
    ∧ [0xB1, 0xB3].all (fun o => ready o (sample o) (at' o (sample o)) (fun c _ => !c.arrivedAlready 1)
        && ready o (sample o) (arrived (at' o (sample o))) (fun c _ => c.arrivedAlready 1)) = true
    ∧ ready 0xBC (sample 0xBC) ((at' 0xBC (sample 0xBC)).updWg wg0 (fun g => { g with job := some .reset }))
        (fun c _ => c.wg.job.isSome) = true := by decide +kernel

/-- The words that make lanes wait, under p1 which holds lane 0 alone or under no guard, at the last word of their clause or before
it: a rest of the group goes on, or none, inside the clause or past it. -/
theorem test_waiting_words_complete : [0x3A, 0x3B, 0xB1, 0xB2, 0xB3, 0xB4].all (fun o =>
    [false, true].all (fun inside => ([0, 1] : List (BitVec 3)).all (fun p =>
      let w := { sample o with p := p }
      let s := lane0 ((if inside then notLast else id) (at' o w))
      ready o w s (fun c f => decide (c.g.ix + wordLen w < c.g.words) == inside
        && ((c.g.lanes &&& ~~~c.act == 0) == (p == 0)) && !c.arrivedAlready (uniform (c.operands s f w).1 % 8))))) = true := by
  decide +kernel

/-- A long-latency word whose clause names no flag, and one that a pending RECV.acq holds back. -/
theorem test_words_without_flag_or_held_back :
    (let w := sample 0x8A
     let s := (at' 0x8A w).updWave wv0 (fun v => { v with group := v.group.map (fun g => { g with head := 0xFF00000000000000 }) })
     ((s.waveCtx? w).any (fun c => (s.boundFlag c).isNone && (waveForm 0x8A w).any (fun f => fieldsFit 0x8A f w))) = true
       ∧ longLatency 0x8A = true)
    ∧ ([(0xA0, Holds.accesses), (0xA1, .writes)] : List (Nat × Holds)).all (fun k =>
       let w := sample k.1
       let p : Pending := ⟨.recv 0, 0, .b32, 0xFFFFFFFF, [40], 0, false, false, k.2, 0x1008⟩
       let s := (at' k.1 w).updWave wv0 (fun v => { v with pending := [p] })
       (s.waveCtx? w).any (fun c => (s.boundFlag c).isSome && c.streamsReady w && (waveForm k.1 w).any (fun f =>
         fieldsFit k.1 f w && !c.poisonHit f w
           && c.wv.pending.all (fun p => !p.touches (readRegs f w ++ dstRegs f.dst w.d) c.act)) && c.heldBack k.1 w)) = true := by
  decide +kernel

/-! ## Witnesses: memory words -/

/-- The accesses of a word translate. -/
def maps (s : State) (c : WaveCtx) (acc : AccKind) (size : Nat) (l : List (Nat × Nat)) : Bool :=
  match (s.mapLanes c.r c.wg acc size l).1 with
  | .ok _ => true
  | _ => false

/-- s4 holds a mapped, aligned address. -/
def addressed (o : Nat) : State := setS 4 0x2000 (at' o (sample o))

theorem test_loads_and_stores_ready :
    (let w := sample 0xA0
     let s := addressed 0xA0
     ready 0xA0 w s (fun c f => (s.bindable? c).isSome && maps s c .read (accessBytes w)
       (c.accesses (fun i => wrap 64 ((at_ (c.sources s f w).1 i : Int) + signed 32 (at_ (c.sources s f w).2.1 i)))))) = true
    ∧ (let w := sample 0xA1
       let s := addressed 0xA1
       ready 0xA1 w s (fun c f => c.act != 0 && maps s c .write (accessBytes w) (c.accesses (at_ (c.sources s f w).1)))) = true
    ∧ (let w := sample 0xA2
       let s := at' 0xA2 w
       ready 0xA2 w s (fun c f =>
         let l := c.accesses (fun i => wrap 64 ((at_ (c.sources s f w).1 i : Int) + signed 32 (at_ (c.sources s f w).2.1 i)))
         (s.bindable? c).isSome && decide (s.badScratch c (accessBytes w) l = []) && !l.any (fun p => s.inQueue c.wg p.2 (accessBytes w))
           && c.wg.poison.isEmpty && !l.any (fun p => (linesOf p.2 (accessBytes w)).any c.wg.lineEmpty))) = true
    ∧ [16, 8, 4092].all (fun (a : Nat) => let w := { sample 0xA3 with a := .s 4 }
       let s := setS 4 (BitVec.ofNat 64 a) (at' 0xA3 w)
       ready 0xA3 w s (fun c f =>
         let l := c.accesses (at_ (c.sources s f w).1)
         decide (s.badScratch c (accessBytes w) l = []) && !l.any (fun p => decide (p.2 < 8))
           && !l.any (fun p => s.inQueue c.wg p.2 (accessBytes w)))) = true
    ∧ [(2048, true), (2044, false)].all (fun (k : Nat × Bool) =>
       let gang (s : State) : State := { s with grids := s.grids.map (fun (g : Grid) => { g with lpb := { g.lpb with gang := 2 } }) }
       let st := { sample 0xA3 with a := .s 4 }
       let ld := { sample 0xA2 with a := .s 4 }
       ready 0xA3 st (gang (setS 4 (BitVec.ofNat 64 k.1) (at' 0xA3 st))) (fun c f =>
         (c.accesses (at_ (c.sources (gang (at' 0xA3 st)) f st).1)).any (fun p => (gang (at' 0xA3 st)).inQueue c.wg p.2 4) == k.2)
       && ready 0xA2 ld (gang (setS 4 (BitVec.ofNat 64 k.1) (at' 0xA2 ld))) (fun c f =>
         (c.accesses (at_ (c.sources (gang (at' 0xA2 ld)) f ld).1)).any (fun p => (gang (at' 0xA2 ld)).inQueue c.wg p.2 4) == k.2)) = true := by
  decide +kernel

theorem test_atomics_ready : [0xA9, 0xAA, 0xAB].all (fun o => let w := sample o
    let s := addressed o
    ready o w s (fun c f => let l := c.accesses (at_ (c.sources s f w).1)
      let ok (host : Bool) : Bool := match (s.mapLanesBut c.r c.wg .atomic 4 (badAtomic 4 host) l).1 with
        | .ok _ => true
        | _ => false
      c.act != 0 && (s.bindable? c).isSome && ok true && ok (atomToHost w.t w.m.toNat))) = true := by decide +kernel

/-- A compare and swap of local memory whose comparison fails, and one whose comparison holds: memory holds 7 there. -/
theorem test_compare_and_swap :
    (let s := (addressed 0xAA).writeMem 0x40002000 (toBytes 4 7)
     let a : LaneAcc := ⟨0, 0x2000, (List.range 4).map (0x40002000 + ·)⟩
     ((s.casLane wv0 a id 8 9).1, (s.casLane wv0 a id 8 9).2.readMem 0x40002000 4) = (7, [7, 0, 0, 0])
     ∧ ((s.casLane wv0 a id 7 9).1, (s.casLane wv0 a id 7 9).2.readMem 0x40002000 4) = (7, [9, 0, 0, 0])) := by decide +kernel

theorem test_stored_bytes : State.reset.memWf ∧ ((wordAt 0).wave? wv0).isSome = true
    ∧ place 0 = .dram ∧ place 0x3FFFFFFFFF = .dram ∧ ((wordAt 0).wave? wv0).any (fun v => (assoc v.wc 1).isNone) = true
    ∧ lineOfAddr 127 = lineOfAddr 0 ∧ lineOfAddr 128 ≠ lineOfAddr 0 := by decide +kernel

/-- Maps virtual page 0x50000000 of the placed wave's context to a page of device physical memory. -/
def mapped (dpa : Nat) (s : State) : State := s.updCore 0 (fun c => { c with
  tlb := { ctx := 0, va := 0x50000000, size := 4096, leaf := BitVec.ofNat 64 (dpa + 0xF) } :: c.tlb })

/-- Where a timeline word's address lies. -/
def timelineAt (o dpa : Nat) (p : TimelinePlace) : Bool :=
  let w := sample o
  let s := mapped dpa (setS 4 0x50000008 (at' o w))
  ready o w s (fun c f => let a := uniform (c.sources s f w).1
    c.act != 0 && c.wv.done == 0 && a % 8 == 0 && (match (s.mapLanes c.r c.wg .atomic 8 (c.single a)).1 with
      | .ok l => ((l.head?).bind (·.dpas.head?)).any (fun d => decide (timelinePlace d = p))
      | _ => false))

theorem test_timeline_words_ready : [0xB6, 0xB7].all (fun o =>
    timelineAt o 0x40002000 .slice && timelineAt o 0x100000002000 .host && timelineAt o 0x004000000000 .nowhere
      && (let s := (at' o (sample o)).updWave wv0 (fun v => { v with done := 1 })
          ready o (sample o) s (fun c _ => c.act != 0 && c.wv.done != 0))) = true := by decide +kernel

/-- A timeline word of local memory that holds all ones or 5, and a TLADD and a TLSET of 1: the sum is held, the value falls. -/
theorem test_timeline_events :
    [(0xB6, maxWord, true, false), (0xB6, 5, false, false), (0xB7, 5, false, true), (0xB7, 1, false, false)].all
      (fun (k : Nat × Nat × Bool × Bool) =>
        let s := (addressed k.1).writeMem 0x40002000 (toBytes 8 k.2.1)
        (after s).any (fun t => (t.context 0).saturated == k.2.2.1 && (t.context 0).rewound == k.2.2.2
          && (t.context 0).evtAddr == (if k.2.2.1 || k.2.2.2 then 0x2000 else 0))) = true := by decide +kernel

theorem test_threshold_words_ready : [0xB8, 0xAE].all (fun o => let w := sample o
    let s := addressed o
    [(0 : Nat), 1].all (fun v =>
      let s := s.writeMem 0x40002000 (toBytes 8 v)
      ready o w s (fun c f => c.act != 0 && maps s c .read 8 (c.single (uniform (c.sources s f w).1))))) = true := by decide +kernel

/-- BIND of [0x2000, 0x2040) to the object at 8: allowed, and refused where the object has another scope. -/
theorem test_entry_words_ready :
    (let w := { sample 0xAC with b := .imm 8 }
     let s := setS 5 64 (setS 4 0x2000 (at' 0xAC w))
     ready 0xAC w s (fun c _ => c.act != 0 && (bindRegion (s.context 0).regions 0x2000 64 8 .dv none).isSome)) = true
    ∧ (let w := { sample 0xAC with b := .imm 8 }
       let s := (setS 5 64 (setS 4 0x2000 (at' 0xAC w))).updContext 0 (fun k => { k with regions := [⟨0, 8, 8, .cl, none⟩] })
       ready 0xAC w s (fun c _ => c.act != 0 && (bindRegion (s.context 0).regions 0x2000 64 8 .dv none).isNone)) = true
    ∧ ready 0xAD (sample 0xAD) (addressed 0xAD) (fun c _ => c.act != 0) = true
    ∧ (let w := sample 0xAF
       let s := addressed 0xAF
       ready 0xAF w s (fun c f => c.act != 0 && maps s c .write 8 (c.single (uniform (c.sources s f w).1)))) = true := by decide +kernel

theorem test_maintenance_words_ready :
    [0xA7, 0xA8].all (fun o => ready o (sample o) (addressed o) (fun c f =>
      let x := c.sources (addressed o) f (sample o)
      c.act != 0 && decide (uniform x.1 + uniform x.2.1 ≤ 2 ^ 52) && uniform x.2.1 != 0)) = true
    ∧ [0xB5, 0xB0].all (fun o => ready o (sample o) (at' o (sample o)) (fun c _ => c.act != 0)) = true
    ∧ (((at' 0xB5 (sample 0xB5)).updWave wv0 (fun v => { v with block := .maintenance })).wave? wv0).any
        (fun v => decide (v.block = .maintenance)) = true := by decide +kernel

/-- The placed workgroup in a gang of two, its member 1 in a free or a taken receive queue, or gone. -/
def inGang (there : Bool) (credit : Nat) (gone : Bool) (s : State) : State :=
  let s : State := { s with grids := s.grids.map (fun (g : Grid) => { g with lpb := { g.lpb with gang := 2 }, completed := if gone then [1] else [] }) }
  let s := s.updWg wg0 (fun g => { g with credits := [(1, credit)] })
  match s.wg? wg0 with
  | some g => if there then s.updCore 1 (fun c => { c with wgs := [(0, { g with wgl := 1 })] }) else s
  | none => s

theorem test_gang_words_ready :
    ([(true, 3, false), (true, 0, false), (false, 3, false), (false, 0, true)] : List (Bool × Nat × Bool)).all (fun k =>
      let w := sample 0xA4
      let s := inGang k.1 k.2.1 k.2.2 (at' 0xA4 w)
      ready 0xA4 w s (fun c f =>
        let m := uniform (c.sources s f w).1
        let l := s.lpbOf c.wg
        let mine (g : Workgroup) : Bool := g.grid == c.wg.grid && g.wgl == c.wg.wgl / l.gang * l.gang + m
        c.act != 0 && decide (m < 4 ∧ m ≠ c.wg.wgl % l.gang ∧ m < l.gang)
          && (s.allWgs.any (fun p => mine p.2) == k.1) && ((assoc c.wg.credits m).getD 0 == k.2.1)
          && (((s.grid? c.wg.grid).map (fun g => g.completed.contains 1)).getD false == k.2.2))) = true
    ∧ ([(0 : BitVec 8), 2, 4]).all (fun m => let w := { sample 0xA4 with a := .imm m }
      let s := inGang true 3 false (at' 0xA4 w)
      ready 0xA4 w s (fun c _ => c.act != 0 && decide (¬(m.toNat < 4 ∧ m.toNat ≠ c.wg.wgl % 2 ∧ m.toNat < (s.lpbOf c.wg).gang)))) = true
    ∧ ready 0xA5 (sample 0xA5) (at' 0xA5 (sample 0xA5)) (fun c _ => c.act != 0 && ((at' 0xA5 (sample 0xA5)).bindable? c).isSome) = true := by
  decide +kernel

/-- The context's launch queues and overflow ring hold so many launches of class 0. -/
def launches (queued ovf cap : Nat) (err : Bool) (s : State) : State := s.updContext 0 (fun k => { k with
  launchQ := [List.replicate queued (0, []), [], [], []], ovf := List.replicate ovf (0, 0), ovfEnt := cap, err := err })

theorem test_launch_words_ready :
    ([(63, 0, 0, false, true), (64, 0, 0, false, false), (64, 2, 2, false, false), (0, 0, 0, true, false), (0, 1, 1, false, false)] :
        List (Nat × Nat × Nat × Bool × Bool)).all (fun k =>
      let w := sample 0xB9
      let s := launches k.1 k.2.1 k.2.2.1 k.2.2.2.1 (addressed 0xB9)
      ready 0xB9 w s (fun c f =>
        let q := s.context 0
        let full := q.ovf.any (fun e => e.1 == 0) || decide (64 ≤ ((q.launchQ[0]?).getD []).length)
        c.act != 0 && maps s c .read 256 (c.single (uniform (c.sources s f w).1)) && uniform (c.sources s f w).1 % 64 == 0
          && (if k.2.2.2.2 then !q.err && !full else q.err || decide (q.ovfEnt ≤ q.ovf.length) && full))) = true
    ∧ ([(64, 0, 1, 0x3000, true), (3, 1, 2, 0x3000, true), (64, 0, 1, 0x90000000, false)] : List (Nat × Nat × Nat × Nat × Bool)).all (fun k =>
      let w := sample 0xB9
      let s := (launches k.1 k.2.1 k.2.2.1 false (addressed 0xB9)).updContext 0 (fun c => { c with ovfBase := BitVec.ofNat 64 k.2.2.2.1 })
      ready 0xB9 w s (fun c f =>
        let q := s.context 0
        maps s c .read 256 (c.single (uniform (c.sources s f w).1)) && decide (q.ovf.length < q.ovfEnt)
          && (q.ovf.any (fun e => e.1 == 0) || decide (64 ≤ ((q.launchQ[0]?).getD []).length))
          && (match (s.mapLanes c.r c.wg .write 256 (c.single (q.ovfSlot q.ovf.length))).1 with
            | .ok o => k.2.2.2.2 && ((o.head?).bind (·.dpas.head?)).isSome
            | .fault .. => !k.2.2.2.2
            | .wait => false))) = true
    ∧ [0xBA, 0xBB].all (fun o => ready o (sample o) (at' o (sample o)) (fun c _ => c.act != 0)) = true := by decide +kernel

/-- The grid's spill areas hold the return addresses of so many calls, from address 0x2000. -/
def spillArea (entries : Nat) (s : State) : State :=
  { s.updWave wv0 (fun v => { v with lstk := 0x2000 }) with
    grids := s.grids.map (fun g => { g with lpb := { g.lpb with lstkStride := 256 * entries } }) }

theorem test_deep_calls_ready :
    [0x32, 0x33].all (fun o => let w := sample o
      let s := spillArea 2 (deep 5 (at' o w))
      ready o w s (fun c _ => c.isLast w && c.act != 0 && decide (4 ≤ c.depth ∧ c.depth - 4 < (s.lpbOf c.wg).lstkStride / 256)
        && maps s c .write 8 (c.spillAccesses (c.depth - 4)))
      && (let s := spillArea 1 (deep 5 (at' o w))
          ready o w s (fun c _ => c.isLast w && decide ((s.lpbOf c.wg).lstkStride / 256 ≤ c.depth - 4)))) = true
    ∧ (let w := sample 0x34
       let s := spillArea 2 (deep 5 (at' 0x34 w))
       ready 0x34 w s (fun c _ => c.isLast w && decide (5 ≤ c.depth) && maps s c .read 8 (c.spillAccesses (c.depth - 5)))
         && ready 0x34 w (at' 0x34 w) (fun c _ => c.isLast w && decide (c.depth = 0))) = true := by decide +kernel
/-! ## Witnesses: sequencer words -/

/-- A sequencer word that its context is about to execute: main, or the trap context for a word of its own. Core 0's TLB
maps the context's addresses from 0 on to local memory. -/
def seqAt (o : Nat) (w : SWord) : State :=
  match seqForm o with
  | some f =>
    let x := (encodeSeqWord o f.fmt w).toNat
    let s := (State.reset.placeSeq x).updCore 0 (fun c => { c with
      tlb := [{ ctx := 0, va := 0, size := 0x40000000, leaf := 0x4000000F }] })
    { s with cur := .seq 0 (if trapOnly x then .trap else .main) }
  | none => State.reset

/-- A register of main. -/
def setG (n : Nat) (v : W64) (s : State) : State := s.updJob wg0 (fun j => { j with main := j.main.setG n v })
/-- The job of the placed workgroup. -/
def onJob (f : Job → Job) (s : State) : State := s.updJob wg0 f
/-- What `p` says of the issuing context of a word that may issue. -/
def seqReady (o : Nat) (w : SWord) (s : State) (p : SeqIssue → SeqForm → Bool) : Bool :=
  match s.seqReady? o w with
  | some (c, f) => p c f
  | none => false

theorem test_sequencer_arithmetic_ready : seqRows.all (fun r =>
    seqReady r.op (seqSample r.op) (seqAt r.op (seqSample r.op)) (fun c _ => decide (c.ctx ≠ .trap))
      && (let w := { seqSample r.op with d := 0, tu := true, td := true, gu := true, gd := true }
          seqReady r.op w (seqAt r.op w) (fun _ _ => true))) = true := by decide +kernel

/-- Branches that are taken and not taken; targets at both ends of the store, before it and past it. -/
theorem test_sequencer_control_ready :
    seqJumps.all (fun r =>
      let s := if r.op = 0x16 then setG 8 0xFFFC (seqAt r.op (seqSample r.op))
        else if r.op = 0x11 ∨ r.op = 0x12 then setG 7 1 (seqAt r.op (seqSample r.op)) else seqAt r.op (seqSample r.op)
      seqReady r.op (seqSample r.op) s (fun c f => r.taken c (seqSample r.op)
        && decide (0 ≤ r.target c (seqSample r.op) f ∧ r.target c (seqSample r.op) f < 0x10000)
        && decide (r.target c (seqSample r.op) f % 4 = 0))) = true
    ∧ [0x10, 0x13, 0x14, 0x15].all (fun o =>
        let w := { seqSample o with imm := BitVec.ofInt 22 (if o = 0x10 ∨ o = 0x13 then 0xFFF else if o = 0x14 then -1 else 0x1FFFF) }
        seqReady o w (seqAt o w) (fun c f => decide (pcTarget c w f = -4))) = true
    ∧ ([2, 0x10000] : List W64).all (fun v => let w := seqSample 0x16
        seqReady 0x16 w (setG 8 v (seqAt 0x16 w)) (fun c _ => decide (0x10000 ≤ (c.g w.a).toNat ∨ (c.g w.a).toNat % 4 ≠ 0))) = true
    ∧ [(0x10, (1 : W64)), (0x11, 0), (0x12, 0), (0x13, 1)].all (fun p => let w := seqSample p.1
        seqReady p.1 w (setG 7 p.2 (seqAt p.1 w)) (fun c _ => seqJumps.any (fun r => r.op == p.1 && !r.taken c w))) = true := by
  decide +kernel

theorem test_sequencer_memory_ready :
    [(0x18, AccKind.read), (0x19, .write)].all (fun p =>
      let w := { seqSample p.1 with imm := 8 }
      let s := seqAt p.1 w
      seqReady p.1 w s (fun c _ => match (s.mapAccess c.r.core c.wg.ctx 8 8 p.2).1.1 with
        | .ok d => !s.awaitsMember c.wg d
            && (List.range 8).all (fun i => !(s.mapAccess c.r.core c.wg.ctx 8 8 p.2).2.poisonedByte (d + i))
        | _ => false)
      && (let w := { seqSample p.1 with imm := 0xFFF }
          seqReady p.1 w (setG 8 8 (seqAt p.1 w)) (fun c _ => (c.g w.a + BitVec.ofInt 64 (signed 12 w.imm.toNat)).toNat == 7))) = true
    ∧ (((onJob (fun j => { j with main := { j.main with ldgs := [⟨0, 5, 7⟩] } }) (seqAt 0x18 (seqSample 0x18))).seqIssue? 0 .main 0).any
        (fun c => decide (c.st.ldgs = [⟨0, 5, 7⟩]))) = true := by decide +kernel

/-- A LINEAR copy of 16 words between local addresses, in g8 to g11. -/
def copyRegs (s : State) : State :=
  setG 8 (BitVec.ofNat 64 (0x200 + 3 * 2 ^ 10 + 16 * 2 ^ 32)) (setG 9 0x2000 (setG 10 0x3000 (setG 11 0 s)))

/-- The tck of tile 0. -/
def setTck (n : Nat) (s : State) : State := s.updTile 0 (fun t => { t with tck := n })

/-- A copy of main's, numbered 1, in a slot. -/
def copyIn (slot : Nat) : Copy := newCopy [BitVec.ofNat 64 (0x200 + 3 * 2 ^ 10 + 16 * 2 ^ 32), 0x2000, 0x3000, 0] (.seq .main 1) 0 0 slot

theorem test_sequencer_copies_ready :
    (let w := seqSample 0x20
     let cmd (c : SeqIssue) := (List.range 4).map (fun i => c.g (BitVec.ofNat 5 (w.a.toNat + i)))
     seqReady 0x20 w (copyRegs (seqAt 0x20 w)) (fun c _ => (copyCmd (cmd c)).isSome
       && (copyRegs (seqAt 0x20 w)).copySlotFor 0 (arrivalKey (c.st.copySince.getD 0) none) == some 0)
     && seqReady 0x20 w (seqAt 0x20 w) (fun c _ => (copyCmd (cmd c)).isNone)
     && (let s := (seqAt 0x20 w).updWg wg0 (fun g => { g with copies := (List.range 128).map copyIn })
         seqReady 0x20 w s (fun c _ => s.copySlotFor 0 (arrivalKey (c.st.copySince.getD 0) none) == none))
     && (let s := onJob (fun j => { j with intake := { j.intake with copySince := some 0 } })
           ((setTck 9 (copyRegs (seqAt 0x20 w))).updWg wg0 (fun g => { g with copies := (List.range 127).map copyIn }))
         seqReady 0x20 w s (fun c _ => c.st.copySince == none && s.copySlotFor 0 (arrivalKey 9 none) == none
           && s.copySlotFor 0 (arrivalKey 0 none) == some 127))) = true
    ∧ (let w := seqSample 0x21
       let s := (setG 8 1 (seqAt 0x21 w)).updWg wg0 (fun g => { g with copies := [copyIn 0] })
       seqReady 0x21 w s (fun c _ => c.wg.copies.any (copyUpTo c.ctx (c.g w.a).toNat))
         && seqReady 0x21 w (seqAt 0x21 w) (fun c _ => !c.wg.copies.any (copyUpTo c.ctx (c.g w.a).toNat))) = true := by
  decide +kernel

/-- A valid table of one level and one point: WLOAD, MSTEP and MDRAIN of one f32 element. -/
def oneTable : List Byte :=
  toBytes 8 1 ++ toBytes 24 (1 * 2 ^ 188 + 12 * 2 ^ 179) ++ toBytes 24 (2 * 2 ^ 188 + 12 * 2 ^ 179)
    ++ toBytes 24 (3 * 2 ^ 188 + 12 * 2 ^ 146) ++ toBytes 24 0 ++ toBytes 16 1 ++ List.replicate 80 0

/-- Bytes in core 0's store. -/
def stored (off : Nat) (b : List Byte) (s : State) : State := s.updCore 0 (fun c => { c with store := cellsPut c.store off b })

theorem test_matrix_handover_ready :
    ([(0xDFE6, 0, true), (0xDFE7, 0, false), (0xDFEE, 0, false), (6, 0xFF, false)] : List (Nat × Nat × Bool)).all (fun k =>
      let w := seqSample 0x22
      let s := setG 8 (BitVec.ofNat 64 k.1) (stored 8 [BitVec.ofNat 8 k.2.1] (seqAt 0x22 w))
      seqReady 0x22 w s (fun c _ =>
        let off := (c.g w.a + BitVec.ofInt 64 (signed 12 w.imm.toNat)).toNat
        let x := ofBytes (s.storeBytes 0 off 24)
        (decide (off % 8 = 0 ∧ off + 24 ≤ 0xE000) && !matrixReserved x && matrixOk (bits x 188 4) (decodeMatrixFields x)) == k.2.2
          && decide ((c.job.queue .matrix).held < 32))) = true
    ∧ ([(0x4E, true), (0x4D, false), (0x56, false), (0xDF3E, false)] : List (Nat × Bool)).all (fun k =>
      let w := seqSample 0x23
      let s := setG 8 (BitVec.ofNat 64 k.1) (stored 0x50 oneTable (seqAt 0x23 w))
      seqReady 0x23 w s (fun c _ =>
        let off := (c.g w.a + BitVec.ofInt 64 (signed 12 w.imm.toNat)).toNat
        (decide (off % 8 = 0 ∧ off + 200 ≤ 0xE000) && nestOk 4096 (s.storeBytes 0 off 200)) == k.2)) = true
    ∧ (let w := seqSample 0x24
       let s := onJob (fun j => { j with shadow := oneTable }) (seqAt 0x24 w)
       seqReady 0x24 w s (fun c _ => decide (c.job.nest = none) && nestOk 4096 c.job.shadow
           && (nestStart (s.lpbOf c.wg) c.wg.wgl (nestLevelsOf c.job.shadow)).isSome)
         && seqReady 0x24 w (seqAt 0x24 w) (fun c _ => decide (c.job.nest = none) && !nestOk 4096 c.job.shadow)
         && (let s := onJob (fun j => { j with nest := some (nestRunAt oneTable 1 [0]) }) s
             seqReady 0x24 w s (fun c _ => c.job.nest.isSome))) = true
    ∧ (let w := seqSample 0x25
       let s := onJob (fun j => { j with open_ := [(3, 1)] }) (seqAt 0x25 w)
       seqReady 0x25 w (setG 8 3 s) (fun c _ => c.job.open_.any (fun p => decide (p.1 ≤ (c.g w.a).toNat)))
         && seqReady 0x25 w (setG 8 2 s) (fun c _ => !c.job.open_.any (fun p => decide (p.1 ≤ (c.g w.a).toNat)))) = true := by
  decide +kernel

theorem test_status_words_ready :
    [0x26, 0x27, 0x30, 0x36].all (fun o => seqReady o (seqSample o) (seqAt o (seqSample o)) (fun _ _ => true)) = true
    ∧ ([0, 2] : List (BitVec 22)).all (fun q => let w := { seqSample 0x28 with imm := q }
        seqReady 0x28 w (seqAt 0x28 w) (fun _ _ => true)) = true
    ∧ (let w := { seqSample 0x31 with imm := 223 }
       let s := setG 8 0x2000 ((seqAt 0x31 w).writeMem 0x40002000 (toBytes 8 8))
       seqReady 0x31 w s (fun c _ => let o := s.readOverlay 0 c.wg (c.g w.a).toNat
         decide (c.job.ovl = none ∧ w.imm.toNat ≤ 223 ∧ o.1.1 = .ok 0 ∧ 256 * w.imm.toNat + o.1.2.2.length ≤ 0xE000))) = true
    ∧ ([255, 0] : List (BitVec 22)).all (fun b => let w := { seqSample 0x31 with imm := b }
       let s := (seqAt 0x31 w).writeMem 0x40002000 (toBytes 8 8)
       let s : State := { s.updCore 0 (fun c => { c with trap := { c.trap with item := some placedTrap, g := setAt c.trap.g 8 0x2000 } }) with
         cur := .seq 0 .trap }
       seqReady 0x31 w s (fun c _ => let o := s.readOverlay 0 c.wg (c.g w.a).toNat
         decide (c.ctx = .trap ∧ o.1.1 = .ok 0 ∧ o.1.2.2.length = 8 ∧ 256 * w.imm.toNat + o.1.2.2.length ≤ 0x10000))) = true := by
  decide +kernel

theorem test_trap_context_ready :
    ([0, 2, 7, 8, 23, 24] : List (BitVec 22)).all (fun n => let w := { seqSample 0x32 with imm := n }
      let s := seqAt 0x32 w
      seqReady 0x32 w s (fun c _ => (s.core 0).trap.item.any (fun t => (s.readCr c t w.imm.toNat).isSome == decide (n.toNat < 24)))) = true
    ∧ ([2, 6, 7, 3] : List (BitVec 22)).all (fun n => let w := { seqSample 0x33 with imm := n }
        seqReady 0x33 w (seqAt 0x33 w) (fun _ _ => true)) = true
    ∧ (let s := seqAt 0x35 (seqSample 0x35)
       seqReady 0x35 (seqSample 0x35) s (fun _ _ => (s.core 0).trap.item.isSome)) = true
    ∧ (let s := seqAt 0x34 (seqSample 0x34)
       seqReady 0x34 (seqSample 0x34) s (fun c _ => decide (c.ctx ≠ .trap) && (s.core 0).trap.item.isNone && (s.core 0).trapQ.isEmpty)) = true
    ∧ (let s : State := { (seqAt 0x34 (seqSample 0x34)).updCore 0 (fun c => { c with trap := { c.trap with item := some placedTrap } }) with
         cur := .seq 0 .trap }
       seqReady 0x34 (seqSample 0x34) s (fun c _ => decide (c.ctx = .trap) && (s.core 0).trap.item.isSome)) = true := by
  decide +kernel

/-- Each word in main, intake or the trap context, where it may not stand; token bits of a ring intake has not; a pop of an
empty ring; a register that an LDG owes; a poisoned register. -/
theorem test_sequencer_words_turned_away :
    seqWho.all (fun p =>
      let w := seqSample p.1
      let s : State := { seqAt p.1 w with cur := .seq 0 .intake }
      let s := s.updCore 0 (fun c => { c with trap := { c.trap with item := none } })
      match seqForm p.1 with
      | some f => (s.seqIssue? 0 .intake (encodeSeqWord p.1 f.fmt w)).any (fun c =>
          !tokenBitsOk .intake { w with tu := true } && tokenBitsOk .intake { w with td := true }
            && !tokensReady { c.job with ringIR := .reset } .intake { w with td := true } && c.st.ldgs.isEmpty)
      | none => false) = true
    ∧ whoTrap .main .intake = some .illegalWord ∧ whoTrap .trap .main = some .priv ∧ whoTrap .user .trap = some .illegalWord
    ∧ whoTrap .all .main = none ∧ whoTrap .user .main = none ∧ whoTrap .main .main = none ∧ whoTrap .trap .trap = none
    ∧ [(true, false), (false, true), (false, false)].all (fun k =>
        let w := { seqSample 0x01 with tu := !k.1 && !k.2 }
        let s := onJob (fun j => { j with main := { j.main with
          ldgs := if k.1 then [⟨0, 8, 7⟩] else [], poison := if k.2 then [8] else [] } }) (seqAt 0x01 (seqSample 0x01))
        match seqForm 0x01 with
        | some f => (s.seqIssue? 0 .main (encodeSeqWord 0x01 f.fmt w)).any (fun c => tokenBitsOk .main w
            && (seqRegs f 0x01 w).any (fun n => n != 0 && c.st.ldgs.any (fun l => l.reg == n)) == k.1
            && c.readsPoison 0x01 w == k.2 && tokensReady { c.job with ringIF := .reset } .main w == (k.1 || k.2))
        | none => false) = true := by
  decide +kernel
/-! ## Witnesses: matrix words and line cores -/

/-- A matrix word that its queue is about to start. -/
def matrixAt (opx : Nat) (w : MWord) : State :=
  { State.reset.placeMatrix (encodeMatrixWord opx w) with cur := .engine 0 (queueOf opx) }

/-- What `p` says of the place of a matrix word that starts. -/
def matrixReady (opx : Nat) (w : MWord) (s : State) (p : HeadCtx → Bool) : Bool :=
  match s.matrixReady? opx w with
  | some c => p c
  | none => false

/-- WLOAD of one f32 weight. -/
def oneLoad : MWord := { mat0 with fmt := 0x0C }
/-- A copy into scratchpad line 0 that has not completed. -/
def fillsLine : Copy := newCopy [BitVec.ofNat 64 (0x40 + 0x200 + 3 * 2 ^ 10 + 16 * 2 ^ 32), 0x2000, 0, 0] (.seq .intake 1) 0 0 0

theorem test_matrix_words_ready :
    matrixReady 1 oneLoad (matrixAt 1 oneLoad) (fun c => c.loader && !c.wg.emptyIn (wordReads 1 oneLoad none)) = true
    ∧ (let s := (matrixAt 1 oneLoad).updWg wg0 (fun g => { g with copies := [fillsLine] })
       matrixReady 1 oneLoad s (fun c => c.wg.emptyIn (wordReads 1 oneLoad none))) = true
    ∧ [5, 6, 0].all (fun o => matrixReady o mat0 (matrixAt o mat0) (fun _ => true)) = true := by decide +kernel

/-- MSTEP of one element with a latch of its formats in slot 0. -/
def stepAt (fmt act : Nat) (w : MWord) : State :=
  onJob' (matrixAt 2 { w with fmt := BitVec.ofNat 5 act }) where
  onJob' (s : State) : State := s.updJob wg0 (fun j => { j with slots := [some ⟨fmt, 1, 1, [[1]], []⟩, none] })

theorem test_matrix_steps_ready :
    [(12, 12, false), (0, 0, true)].all (fun k =>
      let w := { mat0 with fmt := BitVec.ofNat 5 k.2.1, pstr := 32 }
      let s := stepAt k.1 k.2.1 w
      matrixReady 2 w s (fun c => decide (c.eq = .matrix ∧ c.job.matrixQ.pass = 0 ∧ intActivation w.fmt.toNat = k.2.2)
        && ((c.job.slots[0]?).join).any (fun l => (chainOf l.fmt w.fmt.toNat).isSome)
        && (List.range (extP w)).all (fun r => let p := vectorParts w (w.a.toNat + r * w.astr.toNat)
            inScratch (s.lpbOf c.wg).scratch p && !c.wg.poisonedIn p && !c.wg.emptyIn p))) = true := by decide +kernel

/-- An integer MSTEP of two passes, each of which carries out of its element, with entries in the spillway. -/
def carrying (l : List SpwEntry) (spm : BitVec 2) (earlier : Bool) : State :=
  let w := { mat0 with pstr := 32, px := 1, astr := 16, spm := spm }
  let s := (stepAt 0 0 w).updWg wg0 (fun g => (g.writeScratch 128 [1]).writeScratch 144 [1])
  let s := s.updAccTile 0 0 (fun t => { t with kind := .int, elems := [(0, 0x7FFFFF), (64, 0x7FFFFF)] })
  let s := s.updJob wg0 (fun j => { j with matrixQ := { j.matrixQ with
    finishing := if earlier then [(⟨2, mat0, 0, 0, false, false, []⟩, 0)] else [] } })
  s.updCore 0 (fun c => { c with spw := l })

/-- The updates of its first pass. -/
def firstPass (s : State) (c : HeadCtx) : List (Nat × Int × Option Bool) :=
  passUpdates (s.accTile 0 0) 0 (passSums ⟨0, 1, 1, [[1]], []⟩ c.q.w (readVector c.wg c.q.w c.q.w.a.toNat))

/-- It may start, with a latch of its formats and every vector in reach, and its first pass makes one entry; the spillway is full of
its own entries of another tile, or of another workgroup's. -/
theorem test_matrix_steps_full : [(0, [1, 2]), (5, [0, 1, 2])].all (fun (k : Nat × List Nat) => k.2.all (fun spm => [false, true].all (fun earlier =>
    let s := carrying (List.replicate 4096 ⟨⟨0, k.1⟩, 3, 0, false⟩) (BitVec.ofNat 2 spm) earlier
    let w : MWord := { mat0 with pstr := 32, px := 1, astr := 16, spm := BitVec.ofNat 2 spm }
    matrixReady 2 w s (fun c => decide ((c.job.slots[0]?).join = some ⟨0, 1, 1, [[1]], []⟩ ∧ chainOf 0 0 = some .int ∧ extP w = 2 ∧ c.tag = ⟨0, 0⟩)
      && s.earlierOpen c == earlier && decide (((firstPass s c).filter (fun u => u.2.2.isSome)).length = 1)
      && (s.lpbOf c.wg).spwTrap == false && ((s.core 0).spw.any (fun e => e.owner != c.tag)) == (k.1 == 5)
      && (List.range 2).all (fun r => let p := vectorParts w (w.a.toNat + r * w.astr.toNat)
          inScratch (s.lpbOf c.wg).scratch p && !c.wg.poisonedIn p && !c.wg.emptyIn p))))) = true := by decide +kernel

/-- Entries of other tiles leave a pass no entry to annihilate. -/
theorem room_beside (l : List SpwEntry) (tag : OwnerTag) (us : List (Nat × Int × Option Bool)) (h : ∀ e ∈ l, e.tile ≠ 0) :
    roomNeeded l tag 0 us = (us.filter (fun u => u.2.2.isSome)).length := by
  have zero (i : Nat) : entrySum l tag 0 i = 0 := by
    unfold entrySum
    generalize (0 : Int) = n
    induction l with
    | nil => rfl
    | cons e es ih => simp [h e (by simp), ih (fun x hx => h x (by simp [hx]))]
  unfold roomNeeded
  congr 2
  funext u
  rcases u.2.2 with _ | neg
  · rfl
  · simp [zero]

/-- A first pass that makes one entry has no room there. -/
theorem test_matrix_steps_no_room (o : OwnerTag) (spm : BitVec 2) (earlier : Bool) (tag : OwnerTag) (us : List (Nat × Int × Option Bool))
    (h : (us.filter (fun u => u.2.2.isSome)).length = 1) :
    let s := carrying (List.replicate 4096 ⟨o, 3, 0, false⟩) spm earlier
    ¬roomNeeded (s.core 0).spw tag 0 us ≤ s.spwFree 0 := by
  have e (l : List SpwEntry) : ((carrying l spm earlier).core 0).spw = l := rfl
  simp only [State.spwFree, e]
  rw [room_beside _ _ _ (fun x hx => by rw [List.eq_of_mem_replicate hx]; exact (by decide : (3 : Nat) ≠ 0)), h, List.length_replicate]
  decide

theorem test_drain_words_ready :
    (let w := { mat0 with dfmt := 0x0C, px := 1 }
     matrixReady 3 w (matrixAt 3 w) (fun _ => true)) = true
    ∧ matrixReady 4 mat0 ((matrixAt 4 mat0).updWg wg0 (fun g => g)) (fun _ => true) = false
    ∧ (let s : State := { matrixAt 4 mat0 with grids := (matrixAt 4 mat0).grids.map (fun (g : Grid) => { g with lpb := { g.lpb with scratch := 16384 } }) }
       matrixReady 4 mat0 s (fun _ => true)) = true := by decide +kernel

/-- The word of an operation that starts: the weight loader's, or the head word of its queue. -/
def headIs (opx : Nat) (s : State) (p : HeadCtx → Bool) : Bool :=
  match s.cur with
  | .engine core eq => (if opx = 1 then s.loaderWord? core else s.headWord? core eq).any p
  | _ => false

/-- A word as a nest made it, its offset astray or not, an earlier word of its queue open or not. -/
def generated (astray earlier : Bool) (s : State) : State := s.updJob wg0 (fun j =>
  let mark (x : QueueWord) : QueueWord := { x with nest := true, astray := astray }
  let q (x : EngineQ) : EngineQ := { x with
    words := x.words.map mark, loader := x.loader.map (fun (l : LoaderRun) => { l with q := mark l.q }),
    finishing := if earlier then [(⟨0, mat0, 0, 0, false, false, []⟩, 0)] else [] }
  { j with matrixQ := q j.matrixQ, drainQ := q j.drainQ })

/-- Nests' words that fail at their start: one that MW would refuse, one astray, one whose offset lies at SCRATCH; and a tile of
another job, for a word of a nest with and without an earlier word open. -/
theorem test_matrix_words_trap :
    headIs 4 (generated false false (matrixAt 4 { mat0 with c := true })) (fun c => c.q.nest && !matrixOk 4 c.q.w) = true
    ∧ [1, 2, 3, 4].all (fun o => headIs o (generated true false (matrixAt o mat0)) (fun c => c.q.nest && c.q.astray)) = true
    ∧ [(1, true), (2, true), (3, false), (4, false)].all (fun k =>
      let w := if k.2 then { mat0 with a := 4096 } else { mat0 with b := 4096 }
      let s := generated false false (matrixAt k.1 w)
      headIs k.1 s (fun c => c.q.nest && matrixOk k.1 w && !c.q.astray && offsetBeyond (s.lpbOf c.wg).scratch k.1 w
        && decide (c.q.w = w))) = true
    ∧ [2, 3, 4, 5].all (fun o => [(false, false), (true, false), (true, true)].all (fun k =>
      let w := if o = 2 then { mat0 with pstr := 32 } else mat0
      let s := (matrixAt o w).updAccTile 0 0 (fun t => { t with owner := some ⟨1, 3⟩ })
      let s := if k.1 then generated false k.2 s else s
      headIs o s (fun c => c.q.nest == k.1 && !c.q.astray && namesTile o && !offsetBeyond (s.lpbOf c.wg).scratch o w
        && (!k.1 || matrixOk o w) && s.earlierOpen c == k.2
        && decide ((s.accTile 0 0).owner = some ⟨1, 3⟩ ∧ c.tag ≠ ⟨1, 3⟩)))) = true
    ∧ headIs 2 (matrixAt 2 mat0) (fun c => !c.q.nest && decide (((matrixAt 2 mat0).accTile 0 0).owner = none ∧ (c.job.slots[0]?).join = none)) = true := by
  decide +kernel

/-- Words that are misaligned, and words that reach beyond SCRATCH from an offset below it. -/
theorem test_matrix_words_reach :
    ([(1, { oneLoad with a := 1 }, true), (1, { oneLoad with a := 4092, kx := 1, astr := 4 }, false), (3, { mat0 with dfmt := 0x0C, b := 2 }, true),
        (3, { mat0 with dfmt := 0x0C, b := 4092, px := 1, astr := 4 }, false), (4, { mat0 with b := 64 }, true),
        (4, { mat0 with b := 128 }, false)] : List (Nat × MWord × Bool)).all (fun k =>
      let w := k.2.1
      let s := matrixAt k.1 w
      headIs k.1 s (fun c =>
        let n := (s.lpbOf c.wg).scratch
        let al := formatAlign (if k.1 = 1 then w.fmt.toNat else w.dfmt.toNat)
        let off := if k.1 = 4 then w.b.toNat % 128 ≠ 0 else if k.1 = 1 then w.a.toNat % al ≠ 0 ∨ w.astr.toNat % al ≠ 0
          else w.b.toNat % al ≠ 0 ∨ w.astr.toNat % al ≠ 0
        !c.q.nest && !c.q.astray && !offsetBeyond n k.1 w && decide ((s.accTile 0 0).owner = none) && decide off == k.2.2
          && (k.2.2 || (if k.1 = 4 then decide (n < w.b.toNat + 16384)
            else !inScratch n (wordWrites k.1 w none ++ wordReads k.1 w none))))) = true := by decide +kernel

/-- What a list pairs with a key stands in it. -/
theorem mem_of_assoc {α : Type} {l : List (Nat × α)} {k : Nat} {v : α} (h : assoc l k = some v) : (k, v) ∈ l := by
  induction l with
  | nil => simp [assoc] at h
  | cons p l ih =>
    unfold assoc at h
    split at h
    · next e => simp_all [Prod.ext_iff]
    · exact List.mem_cons_of_mem _ (ih h)

/-- A machine whose jobs have no open words keeps what MW asks of those it has handed over. -/
theorem queues_ok_of_empty {s : State}
    (h : s.cores.all (fun p => p.2.wgs.all (fun q => q.2.job.all (fun j => j.openWords.isEmpty))) = true) : s.QueuesOk := by
  intro r g j hg hj x hx
  have hw : ∀ c, assoc s.cores r.core = some c → (r.slot, g) ∈ c.wgs → False := fun c hc hm => by
    have := List.all_eq_true.mp (List.all_eq_true.mp h _ (mem_of_assoc hc)) _ hm
    simp_all
  unfold State.wg? State.core at hg
  cases hc : assoc s.cores r.core with
  | none => simp [hc, ComputeCore.reset, assoc] at hg
  | some c => exact (hw c hc (mem_of_assoc (by simpa [hc] using hg))).elim

/-- MW of a word that its checks pass, in a machine whose queues are as it asks. -/
theorem test_queues_ok :
    let s := setG 8 (BitVec.ofNat 64 0xDFE6) (stored 8 [0] (seqAt 0x22 (seqSample 0x22)))
    s.QueuesOk ∧ seqReady 0x22 (seqSample 0x22) s (fun c _ =>
      let x := ofBytes (s.storeBytes 0 0xDFE8 24)
      (c.g 8 + BitVec.ofInt 64 (signed 12 (seqSample 0x22).imm.toNat)).toNat == 0xDFE8 && !matrixReserved x
        && matrixOk (bits x 188 4) (decodeMatrixFields x) && !offsetBeyond (s.lpbOf c.wg).scratch (bits x 188 4) (decodeMatrixFields x)) = true :=
  ⟨queues_ok_of_empty (by decide +kernel), by decide +kernel⟩

/-- A line slot with every field 0 but those given. -/
def ls (slot : BitVec 2) (d a b c : BitVec 5) (m : BitVec 3) : LSlot := ⟨slot, 0, false, d, a, b, c, m⟩

/-- A bundle of one operation that line core 0 is about to execute, its k registers as given. -/
def lineAt (k : List (Nat × W32)) : State :=
  let s := State.reset.updLineCore 0 (fun _ => { LineCore.reset with
    head := some 0, store := [0], band := some { head := 0, frame := 0, first := 0, lines := 1 } })
  { s.updLineCore 0 (fun c => { c with snap := { c.snap with k := k.foldl (fun l p => setAt l p.1 p.2) c.snap.k } }) with
    cur := .line 0 }

theorem test_line_operations_ready : ((lineAt []).lineCore 0).hWf ∧ (lineAt []).cur = .line 0 := by
  refine ⟨⟨rfl, ?_⟩, rfl⟩
  decide

/-- BEAM at its line and one line early; POSE of line 0 when it is latched and before. -/
theorem test_line_control_ready :
    (let due (w : LSlot) (s : State) := signed 32 ((s.lineCore 0).snap.kr w.a.toNat + BitVec.ofInt 32 (lineSImm w)
        - BitVec.ofNat 32 (s.headOf (s.lineCore 0)).line).toNat
     due (ls 0 1 2 0 0 0) (lineAt []) = 0 ∧ due (ls 0 1 2 0 0 1) (lineAt []) = 1)
    ∧ (lineAt []).poseDue ((lineAt []).lineCore 0) (ls 0 1 2 0 0 0) = false
    ∧ (let s := (lineAt []).updHead 0 (fun x => { x with latchedTo := 1 })
       s.poseDue (s.lineCore 0) (ls 0 1 2 0 0 0) = true) := by decide +kernel

/-- The last offset of 64 bytes in the line buffer and the first past it; the same for a gather and for weights. -/
theorem test_line_memory_ready :
    (let w := ls 3 1 2 0 0 0
     let at_ (k : W32) := ((lineAt [(2, k)]).lineCore 0).snap
     (at_ 262080).lbAddr w + 64 = lineBytes ∧ lineBytes < (at_ 262084).lbAddr w + 64
     ∧ (at_ 262140).gathBad w = false ∧ (at_ 262144).gathBad w = true
     ∧ (at_ 260096).pmwBase w + 2048 = lineBytes ∧ lineBytes < (at_ 260160).pmwBase w + 2048)
    ∧ (let s := (lineAt []).updLineCore 0 (fun c => { c with results := [⟨[(3, List.replicate 16 7)], 0xFFFF, none⟩] })
       (s.lineCore 0).results[0]?.isSome = true) := by decide +kernel

/-- Two EMITs in flight: only the first may arrive. -/
theorem test_emit_arrival_ready :
    (let s := (lineAt []).updLineCore 0 (fun c => { c with results := [⟨[], 0, some ⟨5, [(0, 7)]⟩⟩, ⟨[], 0, some ⟨-1, []⟩⟩] })
     let c := s.lineCore 0
     c.head = some 0 ∧ c.results[0]? = some ⟨[], 0, some ⟨5, [(0, 7)]⟩⟩ ∧ c.results[1]? = some ⟨[], 0, some ⟨-1, []⟩⟩
     ∧ (c.results.take 0).any (fun x => x.emit.isSome) = false ∧ (c.results.take 1).any (fun x => x.emit.isSome) = true) := by
  decide +kernel

/-- EMIT to a head that does not run, to a line before its lines, to a closed line, to a line whose guard point is due, and to an
open one. -/
theorem test_emit_ready :
    (let s := (lineAt [(3, 5), (4, -1)]).updHead 0 (fun x => { x with running := true, vtot := 9, vact := 5, closedTo := 5 })
     let hd := s.head 0
     (s.lineCore 0).head = some 0 ∧ hd.running = true ∧ (State.reset.head 0).running = false
     ∧ hd.unwrap ((s.lineCore 0).snap.kr 4) < 0
     ∧ hd.unwrap ((s.lineCore 0).snap.kr 3) = 5 ∧ 5 % hd.total ≤ hd.vact ∧ hd.closedTo ≤ 5 ∧ hd.closeEnd ≤ 5
     ∧ ({ hd with line := 5 } : Head).closeEnd = 7
     ∧ hd.unwrap ((s.lineCore 0).snap.kr 0) = 0 ∧ 0 < hd.closedTo) := by decide +kernel

/-! ## Witnesses: packets, traps and mailbox commands -/

/-- A state whose queue 0 parses a packet, bound to context 0, whose addresses from 0 on are mapped to local memory. -/
def packetAt (f : HwQueue → HwQueue) : State :=
  let s := ((State.reset.writeMem 0x10000 (toBytes 8 0x20001)).writeMem 0x20000 (toBytes 8 0x4000000F)).updContext 0 (fun c => { c with
    created := true, root := 0x10000 })
  { s.updQueue 0 (fun x => f { x with bound := true, log2 := 6, head := 4, tail := 40 }) with cur := .packet 0 }

theorem test_malformed_packets :
    (let p (t n : Nat) (b : List W64) : PacketWord := ⟨BitVec.ofNat 32 t, n, b⟩
     (p 0 0 []).len = 0 ∧ (p 1 1 []).tspec ≠ 0 ∧ bodyWord (p 0 3 [0x1000, 0]) 1 = 0
     ∧ 2 ^ 20 < bodyWord (p 0 3 [0x1000, 0x100001]) 1 ∧ badAddress (bodyWord (p 3 3 [0x1001, 0]) 0) 8 = true
     ∧ badAddress (bodyWord (p 3 3 [0x10000000000000, 0]) 0) 8 = true
     ∧ packetScope (p 6 3 []).tspec.toNat = none ∧ 16 ≤ (p 16 3 []).tspec.toNat ∧ bit (bodyWord (p 0 3 [8, 0]) 0) 3 = true
     ∧ bufferEntries (p 0 4 [0, 0, 0]) 1 = none ∧ 64 < ((p 0 132 []).len - 2) / 2
     ∧ 3 ≤ ((packetAt (fun x => { x with bufs := List.replicate 3 ⟨0, 4, 0⟩ })).queue 0).bufs.length) := by decide +kernel

theorem test_packets_ready :
    (let s := packetAt id
     let p (t n : Nat) (b : List W64) : PacketWord := ⟨BitVec.ofNat 32 t, n, b⟩
     s.cur = .packet 0 ∧ (s.queue 0).grids = [] ∧ ((packetAt (fun x => { x with grids := [7] })).queue 0).grids ≠ []
     ∧ badAddress (bodyWord (p 0 3 [0x2000, 0x100000]) 0) 8 = false ∧ bodyWord (p 0 3 [0x2000, 0x100000]) 1 ≤ 2 ^ 20
     ∧ s.feTimelineValue 0 0x2000 = (.ok 0x40002000, 0) ∧ packetScope 3 = some .dv ∧ packetScope ((3 + 8) % 8) = some .dv
     ∧ s.translateFe 0 0x2000 .atomic = .ok 0x40002000 ∧ timelinePlace 0x40002000 = .slice ∧ s.memWf
     ∧ bit (bodyWord (p 0 3 [0xF1, 0x2000]) 0) 3 = false ∧ bits (bodyWord (p 0 3 [0xF1, 0x2000]) 0) 8 56 = 0
     ∧ s.feSpan 0 0x2000 64 = .ok 0 ∧ (s.readFe 0 0x2000 64).isSome = true
     ∧ s.feSpan 0 0x2000 256 = .ok 0 ∧ (s.readFe 0 0x2000 256).any (fun b => s.launchWaits 0 b == false) = true
     ∧ bufferEntries (p 1 4 [0x2000, 0x3000, 64 + 3 * 2 ^ 42]) 1 = some [⟨0x3000, 64, .dv, false, false⟩]
     ∧ bufferEntries (p 0 2 [0x2000]) 0 = some []) := by decide +kernel

/-- Traps of each way: a wave's POISON and TRAP, which do not enter the trap context, and a sequencer's. -/
theorem test_ways_of_traps :
    let item (k : TrapKind) (who : TrapWho) : TrapItem := { placedTrap with record := { TrapRecord.reset with kind := some k }, who := who }
    ([(.poison, .wave 0 0, false, false), (.trap, .wave 0 0, false, true), (.trap, .seq 0 .main, true, true),
        (.accOwner, .wave 0 0, true, false), (.illegalWord, .engine 0 .matrix, true, false)] : List (TrapKind × TrapWho × Bool × Bool)).all
      (fun k => let t := item k.1 k.2.1
        ((t.record.kind == some .pageFault || t.record.kind == some .accOwner || !t.who.isWave) == k.2.2.1)
          && ((t.record.kind == some .trap || t.record.kind == some .brk) == k.2.2.2)) = true := by decide +kernel

theorem test_traps_ready :
    (let s := wordAt 0
     let waiting := s.updCore 0 (fun c => { c with trap := { c.trap with item := some placedTrap } })
     (s.wg? wg0).any (fun g => decide (g.preempt = none) && (g.waves[0]?).isSome) = true
     ∧ (s.core 0).trap.item = none ∧ (s.core 0).trapQ = [] ∧ (waiting.core 0).trap.item.isSome = true
     ∧ (s.context 0).stopAll = false ∧ ((s.updContext 0 (fun c => { c with stopAll := true })).context 0).stopAll = true
     ∧ (s.grid? 0).any (fun x => !x.lpb.idem) = true
     ∧ (let t : State := { s with grids := s.grids.map (fun (g : Grid) => { g with lpb := { g.lpb with mode := 3 } }) }
        (t.grid? 0).any (fun x => x.lpb.idem && decide ((assoc x.retries 0).getD 0 < x.lpb.retry)) = true)) := by decide +kernel

/-- A state after bring-up in which function 1 is granted queue 5 and context 9. -/
def grantedState : State := { State.reset with
  grants := [(1, { firstQ := 5, countQ := 1, firstC := 9, countC := 1, heads := false, base := 0, log2 := 0 })] }

theorem test_mail_ready :
    (∀ c, c < 64 → ¬(State.reset.mayContext 2 c = true)) ∧ assoc State.reset.grants 2 = none ∧ (assoc grantedState.grants 1).isSome = true
    ∧ (let s : State := { State.reset with grants := [(1, { firstQ := 5, countQ := 1, firstC := 0, countC := 0, heads := false, base := 0, log2 := 0 })] }
       (assoc s.grants 1).isSome = true ∧ ∀ c, c < 64 → s.mayContext 1 c = false)
    ∧ grantedState.mayContext 1 9 = true ∧ grantedState.mayContext 1 8 = false
    ∧ grantedState.granted 9 = true ∧ grantedState.granted 8 = false
    ∧ (0x10000 % 65536 = 0 ∧ 0x10000 + 65536 ≤ localBytes ∧ inPool 0x10000 65536 = false)
    ∧ (State.reset.context 0).created = false ∧ ((packetAt id).context 0).created = true
    ∧ (packetAt id).grids.any (fun g => g.ctx == 0) = false
    ∧ ({ packetAt id with grids := [newGrid 0 0 none 0 .zero 0 [] []] } : State).grids.any (fun g => g.ctx == 0) = true
    ∧ grantedState.mayQueue 1 5 = true ∧ grantedState.mayQueue 1 6 = false
    ∧ ((packetAt id).queue 1).bound = false ∧ ((packetAt id).queue 0).bound = true
    ∧ (let w : MailWord := ⟨0, 1, 0x600, 0x200⟩
       bits w.a2.toNat 8 5 = 6 ∧ w.a2.toNat % 64 = 0 ∧ w.a3.toNat % (8 * 2 ^ 6) = 0 ∧ bits w.a2.toNat 6 2 = 0)
    ∧ State.reset.grantBad 17 (grantOf ⟨0, 17, 0, 0⟩) = true
    ∧ (let w : MailWord := ⟨0, 1, 5 + 1 * 256 + 9 * 65536 + 2 ^ 24, 0⟩
       State.reset.grantBad 1 (grantOf w) = false ∧ State.reset.grantWaits 1 (grantOf w) = false)
    ∧ (let s : State := { grantedState with grids := [newGrid 0 9 none 0 .zero 0 [] []] }
       s.grantBad 1 (grantOf ⟨0, 1, 0, 0⟩) = false ∧ s.grantWaits 1 (grantOf ⟨0, 1, 0, 0⟩) = true) := by decide +kernel

/-- Every context function 1 may use, and every free context, is created. -/
theorem test_create_context_without_room :
    (let s : State := { grantedState with contexts := (List.range 64).map (fun i => (i, { Context.reset with created := true })) }
     (List.range 64).all (fun c => (s.context c).created) = true ∧ s.mayContext 1 9 = true) := by decide +kernel
/-! ## Witnesses: the events of waves and workgroups -/

/-- Every lane of the placed wave waits, no clause under way. -/
def waits (x : LaneWait) (s : State) : State := s.updWave wv0 (fun v => { v with
  group := none, lanes := v.lanes.map (fun l => { l with state := .waiting x }) })

/-- The placed wave between two clauses, its lanes at the placed header or further on, with a count of flag 0. -/
def between (pc : W64) (ix flag : Nat) (head : Nat) : State :=
  let s := (wordAt 0).updWave wv0 (fun v => { v with
    group := none, lanes := v.lanes.map (fun l => { l with pc := pc, ix := ix }), flags := setAt v.flags 0 flag })
  s.writeMem 0x40001000 (toBytes 8 head)

/-- A clause start's conditions: the group, the address, and the header found there. -/
def startsClause (s : State) (p : Wave → Nat → Nat → Bool) : Bool :=
  match s.wave? wv0, s.wg? wg0 with
  | some v, some g =>
    match v.chooseGroup with
    | some (_, pc, ix) =>
      match (s.translate 0 g.ctx pc.toNat .fetch).1 with
      | .ok d => decide (s.cur = .wave wv0) && v.group.isNone && decide (v.block = .none) && decide (pc.toNat < 2 ^ 52)
          && pc.toNat % 8 == 0 && !s.awaitsMember g d && (List.range 8).all (fun i => !s.poisonedByte (d + i))
          && p v ix (s.fetchAt 0 g.ctx d)
      | _ => false
    | none => false
  | _, _ => false

theorem test_clause_starts_ready :
    (let head := 0xFF * 2 ^ 56 + 2 ^ 44
     startsClause (between 0x1000 0 0 head) (fun v ix h => bits h 56 8 == 0xFF && headerOk h && ix == 0 && v.flagsClear (bits h 44 12))
     ∧ startsClause (between 0x1000 1 1 head) (fun v ix h => bits h 56 8 == 0xFF && headerOk h && ix == 1 && !v.flagsClear (bits h 44 12))
     ∧ startsClause (between 0x1000 0 1 head) (fun v ix h => bits h 56 8 == 0xFF && headerOk h && ix == 0 && !v.flagsClear (bits h 44 12))
     ∧ startsClause (between 0x1000 0 0 (head + 1)) (fun _ _ h => bits h 56 8 == 0xFF && !headerOk h)
     ∧ startsClause (between 0x1000 0 0 (0xFE * 2 ^ 56)) (fun _ _ h => bits h 56 8 != 0xFF)) := by decide +kernel

/-- A timeline at 0x2000 that holds 7, and lanes that wait for 7, for 8, and for 8 with the condition met before. -/
theorem test_wave_events_ready :
    (let s := (wordAt 0).writeMem 0x40002000 (toBytes 8 7)
     s.waitValue wv0 0 0x2000 = some 7 ∧ (s.wg? wg0).any (fun g => g.ctx == 0)
     ∧ ([.sleep 0, .waitf 1, .acq 0x2000 7, .tlwait 0x2000 7 ⟨.dv, .acq, .plain⟩ false false, .tlwait 0x2000 8 ⟨.dv, .acq, .plain⟩ false true,
          .tlwait 0x2000 8 ⟨.dv, .acq, .plain⟩ false false] : List LaneWait).all (fun x => ((waits x s).wave? wv0).any (fun v =>
            v.lanes.all (fun l => l.state == .waiting x) && v.flagsClear 1 && !v.lanes.any (s.laneReadsPoison wv0 0))))
    ∧ [false, true].all (fun stopAll =>
       let s : State := { ((wordAt 0).writeMem 0x40002000 (toBytes 8 7)).updContext 0 (fun c => { c with stopAll := stopAll }) with poison := [0x40002003] }
       ([.acq 0x2000 7, .tlwait 0x2000 7 ⟨.dv, .acq, .plain⟩ false false] : List LaneWait).all (fun x =>
         ((waits x s).wave? wv0).any (fun v => v.lanes.any ((waits x s).laneReadsPoison wv0 0))
           && ((waits x s).wg? wg0).any (fun g => g.preempt.isNone))) = true
    ∧ (let p : Pending := { kind := .result [List.replicate 32 5], flag := 0, ty := .b32, mask := 0xFFFFFFFF, regs := [9], sticky := 0, spoiled := false, reply := true, holds := .nothing, pc := 0x1008 }
       let s : State := { (((wordAt 0).updWave wv0 (fun v => { v with pending := [p], flags := setAt v.flags 0 1 })).updWg wg0 (fun g => { g with
         preempt := some (.saving TrapRecord.reset true none), saveAt := 3 })) with fck := 200003 }
       (s.wave? wv0).any (fun v => v.pending[0]? == some p) && (s.wg? wg0).any (fun g => g.saving && decide (g.saveAt + 200000 ≤ s.fck)))
    ∧ (let s := (wordAt 0).updWave wv0 (fun v => { v with group := none, lanes := v.lanes.map (fun l => { l with state := .exited }) })
       (s.wave? wv0).any (fun v => !v.ended && v.liveMask == 0 && v.pending.isEmpty && decide (v.block = .none) && v.group.isNone)) := by
  decide +kernel

theorem test_workgroup_waits_ready :
    ([0, 7] : List Nat).all (fun n => [0, 1].all (fun level =>
      let s := waits (.bar n 0) (wordAt 0)
      let s : State := { s.updWave wv0 (fun v => { v with lanes := v.lanes.map (fun l => { l with arrived := setAt l.arrived n 1 }) }) with
        grids := s.grids.map (fun (g : Grid) => { g with lpb := { g.lpb with cls := 3 } }), power := { s.power with level := level } }
      (s.wg? wg0).any (fun g => g.waves.any (fun v => !v.ended) && g.everyLane (fun l => l.arrivedIn n 0)
        && (covered s.power.level (s.lpbOf g).cls == (level == 1)) && g.someWait (fun x => x == .bar n 0) && !g.saving)))
    ∧ (let s := (waits .rdv (wordAt 0)).updWg wg0 (fun g => { g with job := some { Job.reset with
         main := { SeqState.reset with rdv := some ⟨false, false, false, false, 4, 0, 0, 0⟩ },
         intake := { SeqState.reset with halted := true }, outfall := { SeqState.reset with halted := true } } })
       (s.wg? wg0).any (fun g => g.someWait (fun x => x == .rdv) && g.everyLane (fun l => l.state == .waiting .rdv)
         && g.job.any (fun j => j.intake.halted && j.main.rdv.isSome && j.outfall.halted)))
    ∧ (let s := waits (.tlwait 0x2000 8 ⟨.dv, .acq, .plain⟩ true false) (wordAt 0)
       (s.wg? wg0).any (fun g => !g.saving && g.everyLane (fun l => match l.state with
         | .waiting _ => true
         | _ => false) && g.someWait (fun x => match x with
         | .tlwait _ _ _ p _ => p
         | _ => false)))
    ∧ (let s := (waits .gbar (wordAt 0)).updWg wg0 (fun g => { g with gbar := true })
       let s : State := { s with grids := s.grids.map (fun (g : Grid) => { g with next := 1 }) }
       (s.grid? 0).any (fun x => !s.gridUnstarted x && x.stolen.isEmpty) && s.allWgs.all (fun p => p.2.gbar) && s.frames.isEmpty
         && (s.tile 0).gate.rotBy.isNone) := by
  decide +kernel

/-! ## Witnesses: the scheduler -/

/-- Core 0 with a grid of which nothing has started, its context bound to tile 0; on a core whose free room is changed
where `f` puts a workgroup. -/
def schedAt (gang total next : Nat) (f : State → State) : State :=
  let g : Grid := newGrid 0 0 none 0 { placedLpb false with gridX := total, gang := gang, claim := 2 } 0x1000 [] []
  f { State.reset with
    grids := [{ g with next := next, total := total }], bind := [(0, { BindRec.reset with tileMask := 1, valid := true })] }

/-- A saved workgroup of the placed grid. -/
def savedFrame : Frame :=
  { record := TrapRecord.reset, lateFlags := 1, tileCore := none, tileMask := 0, wg := placedWg false, tiles := [], entries := [],
    store := [], stopped := none, core := 0, since := some (0, 0), parked := none, poisoned := false }

theorem test_claims_ready :
    (schedAt 1 4 0 id).nextSource 0 = some (.claim 0)
    ∧ (schedAt 2 4 0 id).nextSource 0 = some (.gang 0) ∧ (schedAt 2 4 0 id).gangCores 0 0 1 = [1]
    ∧ (let s := schedAt 1 4 2 (fun s => s.updCore 0 (fun c => { c with claim := some (0, 0, 2) }))
       let x := s.updCore 0 (fun c => { c with claim := none, gang := [] })
       (s.core 0).claim = some (0, 0, 2) ∧ (placeOne ((x.unpromise 0 0).heldOccupants 0) (placedLpb false)).isSome = true)
    ∧ (let s := schedAt 2 4 2 (fun s => s.updCore 0 (fun c => { c with claim := some (0, 0, 1), gang := [1] }))
       (s.core 0).claim = some (0, 0, 1) ∧ (s.core 0).gang = [1] ∧ (s.core 0).gang.Nodup)
    ∧ (let s := schedAt 1 4 4 (fun s => { s with grids := s.grids.map (fun (g : Grid) => { g with relaunch := [(0, 3)] }) })
       s.nextSource 0 = some (.relaunch 0 3) ∧ (placeOne ((s.unpromise 0 0).heldOccupants 0) (placedLpb false)).isSome = true)
    ∧ (let s := schedAt 2 4 2 (fun s => s.updCore 0 (fun c => { c with reserve := some ⟨0, 1, none⟩ }))
       s.nextSource 0 = some .member ∧ (s.core 0).reserve = some ⟨0, 1, none⟩)
    ∧ (let s := schedAt 2 4 2 (fun s => { s with frames := [(5, savedFrame)] }.updCore 0 (fun c => { c with reserve := some ⟨0, 0, some 5⟩ }))
       s.nextSource 0 = some .member ∧ (s.core 0).reserve = some ⟨0, 0, some 5⟩)
    ∧ ([none, some .shedPoint, some .timeline] : List (Option Park)).all (fun park =>
       let s := schedAt 1 1 1 (fun s => { s with frames := [(5, { savedFrame with parked := park })] })
       s.nextSource 0 == some (.restore 5) && (s.frame? 5).any (fun x => !x.poisoned && x.wg.job.isNone && x.wg.copies.isEmpty
         && x.wg.waves.any (fun v => !v.ended) && (placeWaves ((s.unpromise 0 x.wg.grid).heldOccupants 0) (s.lpbOf x.wg) x.liveWaves).isSome)) = true := by decide +kernel

/-- A grid of class 0 that waits with a token, on a core whose one workgroup is of class 3. -/
def waitingAt (token : Nat) : State :=
  let s := wordAt 0
  let low : Grid := { placedGrid false with lpb := { placedLpb false with cls := 3, scratch := 800000 }, next := 1 }
  let high : Grid := { newGrid 1 0 none 0 { placedLpb false with scratch := 700000 } 0x1000 [] [] with token := token, waited := 512 }
  { s with grids := [low, high], fck := 512, bind := [(0, { BindRec.reset with tileMask := 1, valid := true, maxCores := 1 })] }

theorem test_waiting_grid_ready :
    [254, 192].all (fun t => let s := waitingAt t
      (s.grid? 1).any (fun g => decide (512 ≤ g.waited) && s.waiting g && g.token == t && decide (g.token < 255)
        && (!decide (t = 192) || decide (192 ≤ g.token)))) = true := by decide +kernel

/-- The order in which one victim of a core is taken does not depend on the free value. -/
theorem one_victim (s : State) (core cls n : Nat) (h : ((s.core core).wgs.filter (fun p => s.victimFor cls p.2)).length = 1) :
    s.victims core cls n = s.victims core cls (n % 2) := by
  simp [State.victims, h]

/-- The core of the one victim, whatever the free value. -/
theorem test_victim_core (n : Nat) : ((waitingAt 192).free.2.grid? 1).any (fun g =>
    (waitingAt 192).free.2.victimCore g n == some 0) = true := by
  have e : (waitingAt 192).free.2 = { waitingAt 192 with freeCount := 1 } := rfl
  rw [e]
  generalize hs : ({ waitingAt 192 with freeCount := 1 } : State) = s
  have hg : ∃ g, s.grid? 1 = some g ∧ g.lpb.cls = 0 ∧ (s.coreIds.filter (fun c => s.eligible g.ctx c
      && (!(s.cores.any (fun p => p.2.reserve.any (fun r => r.grid == g.id))) || (s.core c).reserve.any (fun r => r.grid == g.id)))) = [0]
      ∧ ((s.core 0).wgs.filter (fun p => s.victimFor 0 p.2)).length = 1
      ∧ (s.victims 0 0 0).length = 1 ∧ (s.victims 0 0 1).length = 1 := by
    subst hs
    exact ⟨_, rfl, by decide +kernel⟩
  obtain ⟨g, hg, hc, hf, h1, h2, h3⟩ := hg
  have hv : (s.victims 0 0 n).length = 1 := by
    rw [one_victim s 0 0 n h1]
    rcases Nat.mod_two_eq_zero_or_one n with h | h <;> rw [h] <;> assumption
  obtain ⟨v, hv⟩ := List.length_eq_one_iff.mp hv
  simp [hg, State.victimCore, hf, hc, hv]

/-- The placed workgroup as a drained one, one that a mark forces out, and so on. -/
def onWg (f : Workgroup → Workgroup) : State := (wordAt 0).updWg wg0 f

/-- Whether a park of the placed workgroup is due: at a phase of barrier `n` that a level covers, and in TLWAIT.park. -/
def parkDue (s : State) : Bool :=
  (s.wg? wg0).any (fun w => (List.range 8).any (fun n => w.phaseDue n && s.phaseParks w n)
    || ({ w with preempt := none } : Workgroup).timelineParkDue)

theorem test_preemption_ready :
    (let s := onWg (fun g => { g with estimate := (4096, 0) })
     let g : Grid := { placedGrid false with token := 192 }
     (s.wg? wg0).any (fun w => w.remaining 0 == some 4096 && decide (4096 ≤ (256 - g.token) * 64)))
    ∧ (let s := onWg (fun g => { g with estimate := (4097, 0) })
       (s.wg? wg0).any (fun w => w.remaining 0 == some 4097) && ((onWg id).wg? wg0).any (fun w => w.remaining 0 == none))
    ∧ (let s := (waits .rdv (wordAt 0)).updWave wv0 (fun v => { v with lanes := v.lanes.map (fun l => { l with state := .exited }) })
       let s := s.updWg wg0 (fun g => { g with preempt := some (.saving TrapRecord.reset false none) })
       (s.wg? wg0).any (fun w => w.allExited))
    ∧ [(0x01, 0, 8191), (0x01, 0, 8192), (0x00, 0, 0)].all (fun k =>
        let s := onWg (fun g => { g with started := k.2.1 })
        let s : State := { s with grids := s.grids.map (fun (g : Grid) => { g with lpb := { g.lpb with mode := BitVec.ofNat 8 k.1 } }), tiles := [(0, { Tile64.reset with tck := k.2.2 })] }
        (s.wg? wg0).any (fun w => !w.allExited && ((s.lpbOf w).idem == (k.1 == 1)) && decide (s.tckOf 0 - w.started = k.2.2)))
    ∧ (let s := onWg (fun g => { g with preempt := some (.drain 0 1) })
       (s.wg? wg0).any (fun w => w.preempt == some (.drain 0 1)) && !parkDue s)
    ∧ (let s := onWg (fun g => { g with shed := some 0 })
       (s.wg? wg0).any (fun w => w.shed == some 0 && !w.allExited && w.preempt.isNone))
    ∧ (let s := (onWg (fun g => { g with watchdog := 1024 })).updContext 0 (fun c => { c with wdLimit := 1 })
       (s.wg? wg0).any (fun w => decide (0 < (s.context w.ctx).wdLimit.toNat * 1024 ∧ (s.context w.ctx).wdLimit.toNat * 1024 ≤ w.watchdog)))
    ∧ [true, false].all (fun stop =>
        let s := onWg (fun g => { g with preempt := some (.saving TrapRecord.reset stop none) })
        (s.wg? wg0).any (fun w => !w.allExited && w.saveReady (s.repliesLate w)) && s.freeFrame == some 0) := by decide +kernel

theorem test_parks_due :
    ([(0, false), (1, true)] : List (Nat × Bool)).all (fun k =>
      let s := waits (.bar 7 0) (wordAt 0)
      let s : State := { s.updWave wv0 (fun v => { v with lanes := v.lanes.map (fun l => { l with arrived := setAt l.arrived 7 1 }) }) with
        grids := s.grids.map (fun (g : Grid) => { g with lpb := { g.lpb with cls := 3 } }), power := { s.power with level := k.1 } }
      parkDue s == k.2)
    ∧ parkDue (waits (.tlwait 0x2000 8 ⟨.dv, .acq, .plain⟩ true false) (wordAt 0)) = true ∧ parkDue (wordAt 0) = false := by
  decide +kernel
/-! ## Witnesses: engines, power, copies -/

/-- What `p` says of the job of core 0 and its workgroup. -/
def jobIs (s : State) (p : Workgroup → Job → Bool) : Bool :=
  s.jobSlot 0 == some 0 && (s.wg? wg0).any (fun g => g.job.any (p g))

/-- A workgroup whose engine job starts: its image at 0x2000, 64 bytes of header with a length, or at an unmapped address. -/
def jobStarts (img : W64) (len : Nat) : State :=
  let s := ((seqAt 0x26 (seqSample 0x26)).updJob wg0 (fun j => { j with started := false })).writeMem 0x40002008 (toBytes 4 len)
  { s with grids := s.grids.map (fun (g : Grid) => { g with lpb := { g.lpb with seqImg := img } }) }

/-- The nest of `oneTable`, at its first word. -/
def nestAt : NestRun := nestRunAt oneTable 1 [0]

theorem test_engine_events_ready :
    [(0x2000, true), (0x80000000, false)].all (fun k => let s := jobStarts (BitVec.ofNat 64 k.1) 8
      jobIs s (fun g j => !j.started && !j.intake.trapped && g.preempt.isNone && (s.overlayLoad wg0).1 == k.2))
    ∧ jobIs (onJob (fun j => { j with ovl := some ⟨.intake, 0, [1]⟩ }) (seqAt 0x26 (seqSample 0x26))) (fun _ j => decide (j.ovl = some ⟨.intake, 0, [1]⟩))
    ∧ ([0xDFFC, 0xE000, 2, 0] : List W64).all (fun v =>
        let s := setG 31 v (onJob (fun j => { j with spwStop := some ⟨5, false, none⟩ }) (seqAt 0x26 (seqSample 0x26)))
        jobIs s (fun g j => j.spwStop == some ⟨5, false, none⟩ && !j.main.trapped && j.ovl.isNone && j.main.rdv.isNone
          && !g.saving && !j.matrixQ.trapped && (s.core 0).trap.item.isNone
          && (let g31 := (j.main.g[31]?).getD 0
              decide (j.main.halted = false ∧ g31 ≠ 0 ∧ g31.toNat % 4 = 0 ∧ g31.toNat < 0xE000) == decide (v = 0xDFFC))))
    ∧ (let s := onJob (fun j => { j with nest := some nestAt }) (seqAt 0x26 (seqSample 0x26))
       jobIs s (fun g j => j.nest == some nestAt && (nestAt.next (s.lpbOf g) g.wgl 8).isSome && !j.matrixQ.trapped && !j.drainQ.trapped
         && !g.saving && decide (j.matrixQ.held < 32)))
    ∧ ([0, 1, 2] : List Nat).all (fun k =>
        let w : QueueWord := ⟨0, mat0, 1, 0, false, false, []⟩
        let s := (matrixAt 2 mat0).updJob wg0 (fun j => { j with matrixQ := { j.matrixQ with
          phase := .finished, finishing := if k = 0 then [(w, 1)] else [],
          loader := if k = 1 then some ⟨w, .finished, true, some ⟨12, 1, 1, [[1]], []⟩⟩ else none } })
        jobIs s (fun g j => j.matrixQ.phase == .finished && g.waves.any (fun v => !v.ended)
          && ((findIx (fun x => j.matrixQ.mayEnd g.saving x.1) j.matrixQ.finishing).isNone == (k != 0))
          && (j.matrixQ.loader.isNone == (k != 1)) && j.matrixQ.loader.all (fun l => j.matrixQ.mayEnd g.saving l.q)
          && j.matrixQ.words.head?.any (fun x => j.matrixQ.mayEnd g.saving x)
          && s.unitFree 0 .matrix true && s.unitFree 0 .matrix false))
    ∧ (let s := (stepAt 12 12 mat0).updJob wg0 (fun j => { j with matrixQ := { j.matrixQ with phase := .stalled 4096 } })
       (s.headWord? 0 .matrix).any (fun c => !s.earlierOpen c) && jobIs s (fun _ j => j.matrixQ.phase == .stalled 4096))
    ∧ ([.running, .stalled 0] : List HeadPhase).all (fun ph =>
        let s := (stepAt 12 12 mat0).updJob wg0 (fun j => { j with matrixQ := { j.matrixQ with phase := ph } })
        jobIs s (fun g j => j.matrixQ.phase == ph && !j.matrixQ.trapped && !g.saving
          && (s.headWord? 0 .matrix).any (fun c => c.q.opx == 2 && c.q.raced.isEmpty && ((j.slots[c.q.w.c.toNat]?).join).isSome
              && !intActivation c.q.w.fmt.toNat && decide (j.matrixQ.pass ≤ extP c.q.w)
              && (List.range (extP c.q.w)).all (fun n => let v := vectorParts c.q.w (c.q.w.a.toNat + n * c.q.w.astr.toNat)
                inScratch (s.lpbOf g).scratch v && !g.poisonedIn v && !g.emptyIn v)))) := by decide +kernel

/-- Tile 0 with a changed headgate. -/
def gated (f : Headgate → Headgate) (s : State) : State := s.updTile 0 (fun t => { t with gate := f t.gate })
/-- A demand of core 0's matrix queue. -/
def demandOf (n : Nat) : Demand := ⟨0, .matrix, false, n, 0, 0⟩

theorem test_headgate_ready :
    ([1, 2] : List Nat).all (fun o =>
       let s := (matrixAt o oneLoad).updJob wg0 (fun j => { j with matrixQ := { j.matrixQ with
         phase := .waiting, loader := j.matrixQ.loader.map (fun l => { l with phase := .waiting }) } })
       (s.startWord? 0 .matrix).any (fun c => (c.job.queue .matrix).nextPhase == .waiting && c.job.demand c.q != 0
         && !c.wg.saving && s.mayBegin c.r c.job .matrix && s.unitFree 0 .matrix c.loader && c.loader == (o == 1)))
    ∧ [(12, true), (13, false)].all (fun k => let y := ((gated (fun g => { g with waiting := [demandOf k.1] }) State.reset).tile 0).gate
        y.first (fun _ => true) == some (demandOf k.1) && y.grants (demandOf k.1) == k.2 && !y.due 0)
    ∧ (let y := ((gated (fun g => { g with start := some 0, waiting := [demandOf 13] }) State.reset).tile 0).gate
       y.due 4 && (y.bounded 0).first (fun _ => true) == some (demandOf 13) && (y.bounded 0).grants (demandOf 13) && !y.grants (demandOf 13)) = true
    ∧ (State.reset.tile 0).gate.first (fun _ => true) = none
    ∧ [([demandOf 1], 15, 0), ([], 1, 12), ([], 1, 13), ([], 0, 0)].all (fun k =>
        let s := (gated (fun g => { g with start := some 0, waiting := k.1, pos := k.2.1, holding := [demandOf k.2.2] }) State.reset).updTile 0
          (fun t => { t with tck := 4 })
        let x := s.tile 0
        x.gate.start == some 0 && decide (0 + 4 ≤ x.tck) && (!k.1.isEmpty || k.2.1 == 0 || decide (x.gate.load ≤ x.gate.floorOf) == (k.2.2 == 12)))
    ∧ rampOk (List.replicate 8 255 ++ List.replicate 8 255) = true ∧ rampOk (List.replicate 8 0 ++ List.replicate 8 255) = false
    ∧ (let y := ((gated (fun g => { g with pend := some (List.replicate 16 1) }) State.reset).tile 0).gate
       y.pend == some (List.replicate 16 1) && y.idle) := by decide +kernel

/-- A module that has started. -/
def started (s : State) : State := { s with modl := { s.modl with ready := true, fwState := 1 } }

theorem test_power_ready :
    (let s : State := { State.reset with modl := { ModuleState.reset with fwState := 1 } }
     let moving (rail : Nat) (p : Option Nat) : State := s.updTile 0 (fun t => { t with moving := true, target := 15, rail := rail, pend := p })
     let point (n : Nat) : State := s.updTile 0 (fun t => { t with wanted := some n })
     ((point 15).tile 0).wanted = some (15 : BitVec 4).toNat ∧ (s.tile 0).wanted ≠ some (15 : BitVec 4).toNat ∧ (s.firmwarePoint 0).isSome = true
     ∧ State.reset.modl.fwState ≠ 1 ∧ s.modl.fwState = 1 ∧ (s.tile 0).moving = false ∧ (s.tile 0).target ≠ (15 : BitVec 4).toNat ∧ ((moving 0 none).tile 0).moving = true
     ∧ ((moving 248000 none).tile 0).rail = ((moving 248000 none).tile 0).volts 15 ∧ ((moving 248000 (some 0)).tile 0).pend = some 0)
    ∧ (let body : List Byte := [1, 7, 3, 0, 0, 0, 0, 0, 0]
       (started State.reset).modl.ready = true ∧ State.reset.modl.ready = false ∧ shelfValid (0xA5 :: body ++ toBytes 2 (crc16 body)) = true ∧ shelfValid (0xA5 :: body ++ toBytes 2 (crc16 body + 1)) = false
       ∧ shelfValid [] = false ∧ State.reset.modl.shelfOff = false)
    ∧ [(1, 2000), (0xFFFF, 0xFFFF * 2000)].all (fun k =>
        let s : State := { State.reset with fck := k.2, power := { PowerPage.reset with link := true, lossTime := BitVec.ofNat 16 k.1 } }
        s.power.link && !s.power.loss && s.power.lossTime != 0 && decide (s.power.arrival + s.power.lossTime.toNat * 2000 ≤ s.fck))
    ∧ (let s : State := { State.reset with power := { PowerPage.reset with replyDue := some (255, 3) } }
       s.power.replyDue = some (255, 3))
    ∧ [(0, 3), (3, 0), (1, 2)].all (fun k =>
        let s : State := { wordAt 0 with power := { PowerPage.reset with level := k.1, decided := [k.2] },
                                         grids := [{ placedGrid false with lpb := { placedLpb false with cls := 3 } }] }
        s.power.decided == [k.2] && !s.levelUsed && (s.wg? wg0).any (fun w => (s.lpbOf w).cls == 3))
    ∧ ((wordAt 0).noteShedPoint 0).levelUsed = true := by decide +kernel

/-- The placed workgroup with a copy ring of one published entry, whose words stand at scratchpad offset 0x40. -/
def ringAt (cmd : List W64) : State :=
  (wordAt 0).updWg wg0 (fun g => ({ g with ring := { CopyRing.reset with tail := 1, views := [⟨1, 0x40, 8, 0, 0⟩] } }).writeScratch
    0x40 (cmd.flatMap (fun (w : W64) => toBytes 8 w.toNat)))

/-- A LINEAR copy of 16 words, and one whose element count is 0. -/
def linear (n : Nat) : List W64 := [BitVec.ofNat 64 (0x200 + 3 * 2 ^ 10 + n * 2 ^ 32), 0x2000, 0x3000, 0]

/-- The placed workgroup with a copy in slot 127. -/
def copying (c : Copy) : State := (wordAt 0).updWg wg0 (fun g => { g with copies := [{ c with slot := 127 }] })

theorem test_copies_ready :
    [(16, true), (0, false)].all (fun k => let s := ringAt (linear k.1)
      (s.wg? wg0).any (fun w => !w.ring.stopped && !w.saving && decide (w.ring.taken < w.ring.tail) && !w.padPoisoned 0x40 32
        && ({ w with poison := [0x5F] } : Workgroup).padPoisoned 0x40 32
        && w.ring.views.any (fun v => decide (w.ring.taken < v.upto) && s.copySlotFor 0 (arrivalKey v.since (some 0)) == some 0)
        && (let b := w.readScratch 0x40 32
            (copyCmd ((List.range 4).map (fun i => BitVec.ofNat 64 (ofBytes ((b.drop (8 * i)).take 8))))).isSome == k.2)))
    ∧ [(linear 16, 0, true), ([BitVec.ofNat 64 (0x200 + 3 * 2 ^ 10 + 16 * 2 ^ 32), 0x80000000, 0x3000, 0], 0, false)].all (fun k =>
        let s := copying { newCopy k.1 (.ring 0) 0 0 0 with done := k.2.1 }
        (s.copyAt? 0 127).any (fun x => x.owner == .wg wg0 && s.wg? wg0 == some x.wg && x.nextChunk == some k.2.1 && !x.held && x.cmd.dk != 3
          && x.cmd.op != .bitplane
          && (let g := x.cmd.chunkRange k.2.1
              (match (s.mapElems x ((List.range (g.2 - g.1)).map (fun i => g.1 + i))).1 with
                | .ok _ => k.2.2
                | .fault _ _ _ => !k.2.2
                | .wait => false))))
    ∧ (let s := copying { newCopy (linear 16) (.ring 0) 0 0 0 with running := [0] }
       (s.copyAt? 0 127).any (fun x => x.copy.running == [0] && x.cmd.dk == 0))
    ∧ (let s := copying { newCopy (linear 16) (.ring 0) 0 0 0 with done := 1 }
       (s.copyAt? 0 127).any (fun x => decide (x.cmd.chunks ≤ x.copy.done) && x.wg.waves.any (fun v => !v.ended)
         && x.copy.fault.isNone && !s.timelineWaits x.wg.ctx x.copy.timeline))
    ∧ (let s := (copying (newCopy [BitVec.ofNat 64 (0x10 + 0x200 + 3 * 2 ^ 10 + 16 * 2 ^ 32), 0, 0x3000, 0] (.ring 0) 0 0 0)).updWg wg0
         (fun g => { g with copies := fillsLine :: g.copies })
       (s.copyAt? 0 127).any (fun x => x.nextChunk == some 0 && !x.held && decide ((s.mapElems x (List.range 16)).1 = .wait))) := by
  decide +kernel

/-- A copy into stream register 0 of wave 0 with one value for lane 31. -/
def delivering : Copy := { streamCopy with sent := 31, fetched := [7] }

theorem test_deliveries_ready :
    [0, 7, 8].all (fun held => let s := (copying delivering).updWave wv0 (fun v => { v with
        streams := setAt v.streams 0 ⟨[(31, List.replicate held 1)]⟩ })
      (s.copyAt? 0 127).any (fun x => x.copy.fetched == [7] && x.cmd.dk == 3 && x.cmd.aux == 0 && x.copy.sent % 32 == 31
        && (x.wg.copies.takeWhile (fun c => !c.inSlot 0 127)).isEmpty && s.wg? wg0 == some x.wg
        && (x.wg.waves[0]?).any (fun u => !u.ended && (u.lanes[31]?).any (fun l => l.state == .live)
            && !u.laneGone 31 && decide (((u.stream 0).lane 31).length = held ∧ held ≤ 8 ∧ 0 < u.streams.length))))
    ∧ (let s := (copying delivering).updWave wv0 (fun v => { v with ended := true })
       (s.copyAt? 0 127).any (fun x => (x.wg.waves[0]?).any (·.laneGone 31)))
    ∧ (let s := copying { delivering with running := [0], sent := 64 }
       (s.copyAt? 0 127).any (fun x => x.cmd.dk == 3 && decide ((x.cmd.chunkRange 0).2 ≤ x.copy.sent))) := by decide +kernel
/-! ## Witnesses: the front end and the host -/

/-- A read of the front end that finds its bytes. -/
def reads (s : State) (va : Nat) : Bool := (s.readFe 0 va 256).isSome

theorem test_queue_events_ready :
    ([(false, 40, 50), (true, 40, 40), (true, 40, 68), (true, 40, 69)] : List (Bool × Nat × Nat)).all (fun k =>
      let x := (packetAt (fun x => { x with bound := k.1 })).queue 0
      (started (packetAt id)).modl.ready && !(packetAt id).modl.ready && !x.halted && (x.burstIn 0).values.isEmpty && x.tail == k.2.1 && x.head == 4 && x.log2 == 6 && (decide (2 ^ x.log2 < k.2.2 - x.head) == decide (k.2.2 = 69)))
    ∧ ([(true, 8), (false, 0), (false, 8)] : List (Bool × Nat)).all (fun k =>
      let s := (packetAt id).updQueue 0 (fun x => { x with wait := .timeline 0x2000 (BitVec.ofNat 64 k.2) .dv k.1 })
      (s.queue 0).wait == .timeline 0x2000 (BitVec.ofNat 64 k.2) .dv k.1 && !(s.queue 0).halted
        && (s.feTimelineValue 0 0x2000).1 == .ok 0x40002000 && (s.feTimelineValue 0 0x2000).2 == 0)
    ∧ (((packetAt id).updQueue 0 (fun x => { x with wait := .grids [] })).queue 0).wait = .grids [] := by decide +kernel

theorem test_launch_queues_ready :
    (let s := (packetAt id).updContext 0 (fun c => { c with
       ovf := [(0, 0x2000)], ovfEnt := 1, ovfBase := 0x3000, launchQ := [List.replicate 63 (0, []), [], [], []] })
     let c := s.context 0
     c.ovf = [(0, 0x2000)] ∧ ((c.launchQ[0]?).getD []).length = 63 ∧ s.feSpan 0 (c.ovfSlot 0) 256 = .ok 0
     ∧ reads s (c.ovfSlot 0) = true)
    ∧ [([], true), ([(3, 0)], false)].all (fun k =>
        let s : State := { (packetAt id).updContext 0 (fun c => { c with launchQ := [[], [], [], [(0x2000, [])]] }) with served := k.1 }
        s.launchWaits 0 [] == false && s.launchCands == [(3, 0)] && ((s.launchCands.filter (fun x => !s.served.contains x)) == [(3, 0)]) == k.2)
    ∧ (let s : State := { ((packetAt id).updContext 0 (fun c => { c with faultList := [7] })) with frames := [(7, { savedFrame with stopped := some 0 })] }
       (s.context 0).faultList.head? = some 7 ∧ (s.frame? 7).isSome = true)
    ∧ [0, 40].all (fun n => bits ((0x2000 : W64) + BitVec.ofNat 64 n).toNat 6 6 == 0 && decide (((0x2000 : W64) + BitVec.ofNat 64 n).toNat % 64 = n))
    ∧ (((packetAt id).updContext 0 (fun c => { c with tlbInv := [(0x2000, 0)] })).context 0).tlbInv = [(0x2000, 0)] := by decide +kernel

/-- A module whose mailbox of function 0 holds a command. -/
def mailed (fw word : Nat) : State :=
  let s := started State.reset
  let s : State := { s with mail := [(0, { Mailbox.reset with busy := true, req := setAt Mailbox.reset.req 0 (BitVec.ofNat 64 word) })] }
  { s with modl := { s.modl with fwState := fw } }

theorem test_host_ready :
    [(0x01, true), (0xFF, false)].all (fun k =>
      let s := mailed 1 k.1
      let m := s.mailbox 0
      m.busy && s.modl.ready && s.modl.fwState == 1 && (decodeMail (m.word 0) (m.word 1) (m.word 2) (m.word 3) 0).isSome == k.2)
    ∧ (mailed 2 7).modl.fwState = 2 ∧ ((mailed 2 7).mailbox 0).word 0 = 7
    ∧ (let s := started State.reset
       s.modl.ready = true ∧ State.reset.modl.ready = false ∧ s.pageGranted 0 (regPage 0x100000) = true ∧ s.pageGranted 16 (regPage 0x100000) = false
       ∧ regPage 0x1FF000 = .queue 255 ∧ regPage 0x400020 = .core 0 ∧ 0x400020 % 4096 = 0x20 ∧ regPage 0x6FF020 = .core 767
       ∧ regPage 0x913140 = .head 3 ∧ 0x913140 % 4096 = 0x140)
    ∧ (let s := started State.reset
       s.memWf ∧ (List.range 8).all (fun i => s.bar2 0 (0x37FFFFFFF8 + i) == some (0x37FFFFFFF8 + i) && !inPool (0x37FFFFFFF8 + i) 1) = true)
    ∧ [(true, 0, 1), (true, 5, 5), (false, 0, 1)].all (fun k =>
        let op : HostOp := ⟨3, 0, 0x100000000000, 0, k.1, 9, BitVec.ofNat 64 k.2.1, none, .queue 0⟩
        let s : State := { (packetAt (fun x => { x with wait := .hostOp 3 })) with hostOps := [op] }
        s.hostOps.find? (fun o => o.id == op.id) == some op && (s.queue 0).wait == .hostOp 3) := by decide +kernel

/-- A device physical address of the register block. -/
theorem test_register_address : ∃ dpa, place dpa = .regs 0x100000 := ⟨0x004100100000, by decide +kernel⟩

/-! ## Witnesses: presentation, the module and the pod -/

/-- Head 0 with registers that keep its limits: 1 pixel in 2 of 4 lines, on line core 0; then changed by `f`. -/
def headAt (f : Head → Head) : State := State.reset.updHead 0 (fun x => f { x with
  cores := 1, vtot := 3, vact := 1, hact := 0, linePer := 32, bandLines := 2 })

/-- RUN with line core 0. -/
def runWord : W64 := 0x10001

theorem test_run_ready :
    ([(1, false), (0, true)] : List (Nat × Bool)).all (fun k =>
      let v : W64 := BitVec.ofNat 64 (1 + 0x10000 * k.1)
      let s := headAt id
      v.getLsbD 0 && !(s.head 0).run && !(s.head 0).running
        && (s.updHead 0 (fun x => x.setControl v.toNat)).runRefused 0 == k.2)
    ∧ (headAt id).runRefused 0 = false ∧ (started (headAt id)).modl.ready = true
    ∧ ((headAt (fun x => { x with running := true })).head 0).running = true
    ∧ runWord.getLsbD 0 = true ∧ runWord.getLsbD 16 = true ∧ (0 : W64).getLsbD 0 = false
    ∧ ((headAt (fun x => { x with run := true })).head 0).run = true := by decide +kernel

/-- The head in the line before its frame's last, latches and guard points done, at a point of time. -/
def beamAt (f : Head → Head) (lck : Nat) : State := { headAt (fun x => f { x with
  run := true, running := true, line := 3, latchedTo := 3 + x.latch + 1, closedTo := 3 + x.guard + 1, next := [(1, 0)] }) with lck := lck }

/-- All that a line makes due has happened. -/
def lineMet (s : State) : Bool :=
  let x := s.head 0
  x.latchedTo == x.line + x.latch + 1 && x.closedTo == x.line + x.guard + 1
    && s.lineCores.all (fun p => !(p.2.head == some 0 && s.overdue p.2)) && (s.dueBand 0).isNone

theorem test_lines_ready :
    (let x := (beamAt id 1).head 0
     x.running = true ∧ x.stopAt ≠ some (x.line + 1) ∧ x.lineDue 1 = true ∧ x.lineDue 0 = false ∧ lineMet (beamAt id 1) = true)
    ∧ (let x := (beamAt (fun x => { x with stopAt := some 4 }) 1).head 0
       x.stopAt = some (x.line + 1) ∧ x.lineDue 1 = true ∧ lineMet (beamAt (fun x => { x with stopAt := some 4 }) 1) = true)
    ∧ (let s := (beamAt id 1).updHead 0 (fun x => { x with latchedTo := x.latchedTo - 1 })
       (s.head 0).latchedTo < (s.head 0).line + (s.head 0).latch + 1 ∧ lineMet s = false)
    ∧ [(1, true, none), (2, false, none), (4, true, some 4), (4, true, some 5)].all (fun (k : Nat × Bool × Option Nat) =>
        let x := ((beamAt (fun x => { x with stopAt := k.2.2 }) 1).updHead 0 (fun x => { x with closedTo := k.1 })).head 0
        decide (x.closedTo ≤ x.line + x.guard) && decide (x.closedTo % (x.vtot + 1) ≤ x.vact) == k.2.1)
    ∧ [(1, true), (0, false)].all (fun k =>
        let s := (beamAt (fun x => { x with lead := k.1 }) 1).updLineCore 0 (fun c => { c with head := some 0 })
        let x := s.head 0
        x.assigned == [0] && (s.bandReady 0 0 0 == some (1, 0)) == k.2)
    ∧ (let s := (beamAt id 1).updLineCore 0 (fun c => { c with head := some 0, band := some ⟨0, 0, 1, 2⟩ })
       (s.lineCore 0).band = some ⟨0, 0, 1, 2⟩ ∧ s.overdue (s.lineCore 0) = true ∧ lineMet s = false)
    ∧ ((beamAt (fun x => { x with capDone := [5] }) 1).head 0).capDone = [5] := by decide +kernel

/-- A grid of 64 workgroups that another module may take from. -/
def shared_ : State :=
  let s := (packetAt id).updContext 0 (fun c => { c with peer := some (5, 0) })
  { s with pod := { s.pod with steals := [(5, 2)] }, modl := { s.modl with measured := [[1]] },
           grids := [{ newGrid 0 0 none 0x2000 { placedLpb false with gridX := 64 } 0x1000 [] [] with next := 1 }] }

/-- A write of module 3's agent 7 on an ordered flow, the second that it sent, at a module that has performed so many. -/
theorem test_pod_flow_ready : [(1, true), (0, false)].all (fun k =>
    let q : PodRequest := ⟨3, 0, 5, 7, some 1, 0x2000, .write [1]⟩
    let s : State := { started State.reset with pod := { State.reset.pod with order := [((3, 0, 5, 7), k.1)] } }
    decide (q.addr < localBytes) && !podReads q.op && s.modl.ready && (q.order == some (s.pod.performedOf q)) == k.2
      && !State.reset.modl.ready) = true := by decide +kernel

/-- The oldest grid that another module may take from may start, or is too small, or waits for the one before it; a range whose LPB
does not translate, and one whose page is being filled. -/
theorem test_steal_turned_away :
    (let oldest (s : State) := leastBy (fun (g : Grid) => g.id) (s.grids.filter (fun g => g.home.isNone
        && ((s.context g.ctx).peer.bind (fun p => if p.1 = 5 then some p.2 else none)).isSome))
     let small : State := { shared_ with grids := shared_.grids.map (fun (g : Grid) => { g with next := 63 }) }
     let held : State := { shared_ with grids := shared_.grids.map (fun (g : Grid) => { g with after := [9] }) }
     (oldest shared_).any (fun g => shared_.mayStart g) = true
     ∧ (oldest small).any (fun g => decide (min 2 ((g.total - g.next) / 2) / g.lpb.gang * g.lpb.gang = 0)) = true
     ∧ (oldest held).any (fun g => held.mayStart g) = false ∧ (oldest held).isSome = true)
    ∧ shared_.feSpan 0 0x80000000 256 ≠ .wait ∧ (shared_.readFe 0 0x80000000 256).isNone = true
    ∧ (let s := shared_.writeMem 0x20008 [4]
       s.feSpan 0 0x40000000 256 = .wait ∧ (s.readFe 0 0x40000000 256).isNone = true) := by decide +kernel

theorem test_pod_ready :
    shared_.pod.steals.find? (fun p => p.1 == 5) = some (5, 2)
    ∧ (shared_.grids.filter (fun g => g.home.isNone && shared_.mayStart g && ((shared_.context g.ctx).peer.bind
        (fun p => if p.1 = 5 then some p.2 else none)).isSome)).map (fun g => (g.id, g.next, g.total)) = [(0, 1, 64)]
    ∧ 0 < min 2 ((64 - 1) / 2) / 1 * 1
    ∧ reads shared_ 0x2000 = true ∧ (shared_.readFe 0 (parseLpb ((shared_.readFe 0 0x2000 256).getD [])).kimg.toNat 256).isSome = true
    ∧ (shared_.grid? 0).any (fun g => decide (g.next < g.total)) = true
    ∧ (0 : W32).toNat < (1 : W32).toNat ∧ shared_.memWf
    ∧ (0x3FFFFFFFF8 + 8 ≤ localBytes ∧ shared_.modl.measured[0]? = some [1])
    ∧ ({ shared_ with fck := 200000 } : State).pod.seenAt + 200000 ≤ 200000
    ∧ ({ shared_ with frames := [(0, savedFrame)] } : State).frame? 0 = some savedFrame
    ∧ State.reset.modl.ready = false ∧ (started State.reset).modl.ready = true := by decide +kernel

/-! ## Witnesses: a step runs the decoded word -/

/-- A clause of one more word: its next word is the placed one. -/
def turnReady (s : State) (p : Group → Nat → Option Nat → Bool) : Bool :=
  match s.agenda, s.wg? wg0, s.wave? wv0 with
  | [.wave r], some g, some v =>
    let z : State := { s with agenda := [] }
    decide (r = wv0) && !v.ended && !g.saving && !v.block.stops && (match v.group with
      | some q => (match (z.translate 0 g.ctx q.wordAddr.toNat .fetch).1 with
        | .ok d => decide (q.ix < q.words) && !z.awaitsMember g d && (List.range 8).all (fun i => !z.poisonedByte (d + i))
            && p q (z.fetchAt 0 g.ctx d)
            (match (z.translate 0 g.ctx (q.wordAddr + 8).toNat .fetch).1 with
              | .ok e => some (z.fetchAt 0 g.ctx e)
              | _ => none)
        | _ => false)
      | none => true)
  | _, _, _ => false

theorem test_turns_of_waves_ready :
    turnReady (State.reset.placeWave 0x0120000701050030) (fun _ n _ => !selectsLit n && (decodeWave (BitVec.ofNat 64 n) none).isSome) = true
    ∧ turnReady (State.reset.placeWave 0x83C0740A0B0C800D) (fun q n e => selectsLit n && !q.illegal n && decide (q.ix + 1 < q.words)
        && e.any (fun e => (decodeWave (BitVec.ofNat 64 n) (some (BitVec.ofNat 64 e))).isSome)) = true
    ∧ turnReady ((State.reset.placeWave 0).updWave wv0 (fun v => { v with group := none })) (fun _ _ _ => false) = true := by decide +kernel

/-- The word of a sequencer sample. -/
def seqWordOf (o : Nat) : Nat :=
  match seqForm o with
  | some f => (encodeSeqWord o f.fmt (seqSample o)).toNat
  | none => 0

/-- A word of main and one of the trap context, placed. -/
theorem test_turns_of_sequencers_ready :
    (let s := State.reset.placeSeq (seqWordOf 0x07)
     let z : State := { s with agenda := [] }
     let u := z.updCore 0 (fun c => { c with wheel := (c.wheel + 1) % 8 })
     s.agenda = [.seq 0] ∧ (u.core 0).trap.item = none ∧ u.jobSlot 0 = some 0 ∧ wheelOwner (z.core 0).wheel = .main
     ∧ (u.wg? wg0).any (fun g => !g.saving && g.job.any (fun j => j.started && !j.ended && !j.waits .main && decide (j.main.pc < 0xE000)
         && !j.loading j.main.pc)) = true
     ∧ (decodeSeq (u.storeWord 0 0)).isSome = true
     ∧ (u.job? wg0).any (fun j => let n := u.noteCopyWaits 0 0 j
         (n.seqIssue? 0 .main (n.storeWord 0 0)).any (fun c => !c.blocked n 0x07 (seqSample 0x07))) = true)
    ∧ (let s := State.reset.placeSeq (seqWordOf 0x33)
       let z : State := { s with agenda := [] }
       let u := z.updCore 0 (fun c => { c with wheel := (c.wheel + 1) % 8 })
       (u.core 0).trap.item.isSome = true ∧ (u.core 0).trap.escalating = false ∧ u.trapLoading 0 = false
       ∧ (u.core 0).trap.pc = 0xE000 ∧ u.storeWord 0 0xE000 ≠ 0
       ∧ (decodeSeq (u.storeWord 0 0xE000)).isSome = true
       ∧ (u.seqIssue? 0 .trap (u.storeWord 0 0xE000)).any (fun c => !c.blocked u 0x33 (seqSample 0x33)) = true) := by decide +kernel

theorem test_other_turns_ready :
    ([1, 2] : List Nat).all (fun o => let s := State.reset.placeMatrix (encodeMatrixWord o oneLoad)
       s.agenda == [.engine 0 .matrix] && (s.loaderResumes 0).isNone
         && (s.startWord? 0 .matrix).any (fun c => s.wordStarts c && (assoc matrixOps c.q.opx).isSome)) = true
    ∧ (let s := (State.reset.placeMatrix (encodeMatrixWord 1 oneLoad)).updJob wg0 (fun j => { j with matrixQ := { j.matrixQ with
         loader := j.matrixQ.loader.map (fun l => { l with phase := .running, begun := true }) } })
       (s.loaderResumes 0).any (fun c => (assoc matrixOps c.q.opx).isSome) = true)
    ∧ (let s : State := { started ((packetAt (fun x => { x with base := 0x4000, head := 63, tail := 64 })).writeMem 0x400041F8
         (toBytes 8 0x106)) with agenda := [.packet 0] }
       let x := s.queue 0
       let a := s.feWords 0 [x.wordVa 0]
       x.bound = true ∧ x.halted = false ∧ x.wait = .none ∧ x.room 1 = .fits ∧ a.1 = (.ok 0, [0x106])
       ∧ bits 0x106 8 16 = 1 ∧ (decodePacket 0x106 []).isSome = true ∧ (a.2.feWords 0 []).1 = (.ok 0, []))
    ∧ (let s : State := { mailed 1 1 with agenda := [.mail 0] }
       let m := s.mailbox 0
       m.busy = true ∧ s.modl.ready = true ∧ s.modl.fwState = 1 ∧ (decodeMail (m.word 0) (m.word 1) (m.word 2) (m.word 3) 0).isSome = true) := by
  decide +kernel

end Sys2Proof.Tests
end

section
/-! ## The canonical form through every step (00 R4; 01 R45)

Every operation of the model either leaves the memory beyond the caches as it was, which its lemma `…_mem` says, or keeps
the canonical form, which its lemma `…_memWf` says: it writes that memory through `State.writeMem` alone, and only the loss
of power drops cells of it. The lemmas stand in the order of the definitions they speak of. -/

namespace Sys2Proof.Machine

open Sys2Proof

/-! ### Folds -/

/-- A fold of changes that leave memory as it was leaves it as it was. -/
@[simp] theorem foldl_mem {α : Type} {l : List α} {f : State → α → State} {s : State} (hf : ∀ s x, (f s x).mem = s.mem) :
    (l.foldl f s).mem = s.mem := by
  induction l generalizing s with
  | nil => rfl
  | cons x rest ih => exact ih.trans (hf s x)

/-- The same for a fold that carries a result beside the state. -/
@[simp] theorem foldl_snd_mem {α β : Type} {l : List α} {f : β × State → α → β × State} {p : β × State}
    (hf : ∀ p x, (f p x).2.mem = p.2.mem) : (l.foldl f p).2.mem = p.2.mem := by
  induction l generalizing p with
  | nil => rfl
  | cons x rest ih => exact ih.trans (hf p x)

/-- A fold that carries a result beside the state keeps the canonical form where each of its changes does. -/
theorem foldl_snd_memWf {α β : Type} {l : List α} {f : β × State → α → β × State} {p : β × State}
    (hf : ∀ p x, p.2.memWf → (f p x).2.memWf) (h : p.2.memWf) : (l.foldl f p).2.memWf := by
  induction l generalizing p with
  | nil => exact h
  | cons x rest ih => exact ih (hf p x h)

/-- A result of an instruction whose next state, where it has one, has its memory in canonical form. -/
def nextMemWf : Res → Prop
  | .next t => t.memWf
  | _ => True

/-- The same of what a turn comes to, before its instructions run. -/
def Fetched.memWf : Fetched → Prop
  | .run _ s => s.memWf
  | .bundle _ _ s => s.memWf
  | .did r => nextMemWf r

/-- The same of what a sequencer word's body gives. -/
def SeqDone.memWf : SeqDone → Prop
  | .stall s => s.memWf
  | .trap _ _ _ _ _ s => s.memWf
  | .go _ s => s.memWf

/-- The same of the pager's fill of a page (16 R404). -/
def Fill.memWf : Fill → Prop
  | .done s => s.memWf
  | .fails _ s => s.memWf
  | .waits => True

/-- The canonical form speaks of the memory alone: a change that leaves it leaves the form. -/
@[simp] theorem State.memWf_iff (s : State) : s.memWf ↔ cellsWf s.mem = true := Iff.rfl

@[simp] theorem nextMemWf_next (t : State) : nextMemWf (.next t) ↔ t.memWf := Iff.rfl
@[simp] theorem Fetched.memWf_run (i : Instr) (t : State) : (Fetched.run i t).memWf ↔ t.memWf := Iff.rfl
@[simp] theorem Fetched.memWf_bundle (n : Nat) (l : List Instr) (t : State) : (Fetched.bundle n l t).memWf ↔ t.memWf := Iff.rfl
@[simp] theorem Fetched.memWf_did (x : Res) : (Fetched.did x).memWf ↔ nextMemWf x := Iff.rfl
@[simp] theorem Fetched.memWf_done (t : State) : (Fetched.done t).memWf ↔ t.memWf := Iff.rfl
@[simp] theorem Fill.memWf_done (t : State) : (Fill.done t).memWf ↔ t.memWf := Iff.rfl
@[simp] theorem Fill.memWf_fails (x : Xlat) (t : State) : (Fill.fails x t).memWf ↔ t.memWf := Iff.rfl
@[simp] theorem SeqDone.memWf_stall (t : State) : (SeqDone.stall t).memWf ↔ t.memWf := Iff.rfl
@[simp] theorem SeqDone.memWf_trap (k : TrapKind) (a : BitVec 5) (c : W32) (v : W64) (l : List Nat) (t : State) :
    (SeqDone.trap k a c v l t).memWf ↔ t.memWf := Iff.rfl
@[simp] theorem SeqDone.memWf_go (p : PushOn) (t : State) : (SeqDone.go p t).memWf ↔ t.memWf := Iff.rfl

/-- A state whose memory is another's has it in canonical form where that has. -/
theorem State.memWf_of_mem {s t : State} (e : t.mem = s.mem) (h : s.memWf) : t.memWf := by
  rw [State.memWf, e]; exact h

@[simp] theorem State.mem_ite (c : Prop) [Decidable c] (s t : State) :
    (if c then s else t).mem = if c then s.mem else t.mem := apply_ite State.mem c s t

@[simp] theorem State.raiseRails_mem (s : State) (l : List Nat) : (s.raiseRails l).mem = s.mem := rfl

@[simp] theorem State.loadPager_mem (s : State) (fails : List Nat) : (s.loadPager fails).mem = s.mem := by
  unfold State.loadPager
  dsimp only
  split
  · rfl
  · refine (foldl_mem fun _ _ => ?_).trans ?_
    · simp
    · rfl

@[simp] theorem State.writeMailbox_mem (s : State) (f off : Nat) (v : W64) :
    (s.writeMailbox f off v).mem = s.mem := by
  unfold State.writeMailbox
  split
  · simp
  · split <;> simp

theorem stateOf_memWf {s : State} {r : Res} (h : s.memWf) (hr : nextMemWf r) : (stateOf s r).memWf := by
  unfold stateOf
  split
  · exact hr
  · exact h

theorem writeQtail_nextMemWf {q : Nat} {v : W64} {s : State} (h : s.memWf) : nextMemWf (writeQtail q v s) := by
  unfold writeQtail
  simpa using h

theorem writeCtxerr_nextMemWf {ctx : Nat} {v : W64} {s : State} (h : s.memWf) : nextMemWf (writeCtxerr ctx v s) := by
  unfold writeCtxerr
  simpa using h

@[simp] theorem State.queueRelaunch_mem (s : State) (grid wgl : Nat) : (s.queueRelaunch grid wgl).mem = s.mem := rfl

@[simp] theorem State.updGate_mem (s : State) (tile : Nat) (f : Headgate → Headgate) :
    (s.updGate tile f).mem = s.mem := rfl

@[simp] theorem State.dropDemands_mem (s : State) (core : Nat) : (s.dropDemands core).mem = s.mem := rfl

@[simp] theorem State.freeTag_mem (s : State) (core : Nat) (tag : OwnerTag) : (s.freeTag core tag).mem = s.mem := rfl

@[simp] theorem State.free_mem (s : State) : s.free.2.mem = s.mem := rfl

@[simp] theorem State.entryScratch_mem (s : State) (core : Nat) (t : TrapItem) :
    (s.entryScratch core t).2.mem = s.mem := by
  unfold State.entryScratch
  split <;> simp

@[simp] theorem State.enterTrap_mem (s : State) (core : Nat) : (s.enterTrap core).mem = s.mem := by
  unfold State.enterTrap
  split <;> simp

@[simp] theorem State.dropTrapsOf_mem (s : State) (core : Nat) (p : TrapWho → Bool) :
    (s.dropTrapsOf core p).mem = s.mem := by
  simp [State.dropTrapsOf]

@[simp] theorem State.dropCopyTraps_mem (s : State) (cs : List Copy) : (s.dropCopyTraps cs).mem = s.mem := by
  simp [State.dropCopyTraps]

@[simp] theorem State.dropTraps_mem (s : State) (r : WgRef) : (s.dropTraps r).mem = s.mem := by
  simp [State.dropTraps]

theorem State.discardWg_memWf {s : State} {r : WgRef} (h : s.memWf) : (s.discardWg r).memWf := by
  unfold State.discardWg
  split
  · exact h
  · dsimp only
    refine State.memWf_of_mem (State.dropWg_mem ..) ?_
    refine State.memWf_of_mem (State.dropCopyTraps_mem ..) ?_
    refine State.memWf_of_mem (State.dropTraps_mem ..) ?_
    split
    · simpa using State.drainWg_memWf _ _ h
    · exact State.drainWg_memWf _ _ h

@[simp] theorem State.discardFrame_mem (s : State) (f : Nat) : (s.discardFrame f).mem = s.mem := by
  unfold State.discardFrame
  split
  · rfl
  · dsimp only
    refine (foldl_mem fun _ _ => ?_).trans ?_
    · simp
    · refine (State.updContext_mem ..).trans ?_
      split <;> simp

@[simp] theorem State.removeGrid_mem (s : State) (id : Nat) : (s.removeGrid id).mem = s.mem := rfl

theorem State.endContextGrids_memWf {s : State} {ctx : Nat} (h : s.memWf) : (s.endContextGrids ctx).memWf := by
  unfold State.endContextGrids
  dsimp only
  refine foldl_memWf _ _ (fun _ _ hs => by simpa using hs) _ ?_
  refine foldl_memWf _ _ (fun _ _ hs => by simpa using hs) _ ?_
  exact foldl_memWf _ _ (fun _ _ hs => State.discardWg_memWf hs) _ h

@[simp] theorem State.haltQueues_mem (s : State) (ctx : Nat) : (s.haltQueues ctx).mem = s.mem := rfl

theorem State.contextError_memWf {s : State} {g : Grid} (h : s.memWf) : (s.contextError g).memWf :=
  State.endContextGrids_memWf (by simpa using h)

theorem State.retryOrError_memWf {s : State} {grid wgl : Nat} (h : s.memWf) : (s.retryOrError grid wgl).memWf := by
  unfold State.retryOrError
  split
  · exact h
  · dsimp only
    split
    · simpa using h
    · exact State.contextError_memWf h

theorem fresumeKill_nextMemWf {ctx frame : Nat} {s : State} (h : s.memWf) : nextMemWf (fresumeKill ctx frame s) := by
  unfold fresumeKill
  split
  · split
    · exact State.retryOrError_memWf (by simpa using h)
    · exact h
  · exact h

theorem fresumeResume_nextMemWf {ctx frame : Nat} {s : State} (h : s.memWf) :
    nextMemWf (fresumeResume ctx frame s) := by
  unfold fresumeResume
  split <;> simpa using h

theorem writeTlbinv_nextMemWf {ctx : Nat} {v : W64} {s : State} (h : s.memWf) : nextMemWf (writeTlbinv ctx v s) := by
  unfold writeTlbinv
  dsimp only
  split <;> simpa using h

theorem State.writeContext_memWf {s : State} {c off : Nat} {v : W64} (h : s.memWf) :
    (s.writeContext c off v).memWf := by
  unfold State.writeContext
  dsimp only
  split
  · exact stateOf_memWf h (writeCtxerr_nextMemWf h)
  · simpa using h
  · simpa using h
  · split
    · exact h
    · split
      · exact stateOf_memWf h (fresumeKill_nextMemWf h)
      · exact stateOf_memWf h (fresumeResume_nextMemWf h)
  · exact stateOf_memWf h (writeTlbinv_nextMemWf h)
  · simpa using h
  · simpa using h
  · exact h

@[simp] theorem State.writeSlots_mem (s : State) (off : Nat) (v : W64) : (s.writeSlots off v).mem = s.mem := by
  unfold State.writeSlots
  dsimp only
  split
  · rfl
  · split <;> rfl

theorem writeCerr_nextMemWf {core : Nat} {v : W64} {s : State} (h : s.memWf) : nextMemWf (writeCerr core v s) :=
  State.updCore_memWf _ _ _ h

theorem writeShedctl_nextMemWf {v : W64} {s : State} (h : s.memWf) : nextMemWf (writeShedctl v s) := by
  unfold writeShedctl
  simpa using h

@[simp] theorem State.writePower_mem (s : State) (off : Nat) (v : W64) : (s.writePower off v).mem = s.mem := by
  unfold State.writePower
  dsimp only
  split
  · rfl
  · split
    · rfl
    · split <;> rfl

theorem execEvVmboxWrite_nextMemWf {tile : Nat} {point : BitVec 4} {s : State} (h : s.memWf) :
    nextMemWf (execEvVmboxWrite tile point s) := by
  unfold execEvVmboxWrite
  split <;> simpa using h

theorem writeHgramp_nextMemWf {tile : Nat} {n : Bool} {v : W64} {s : State} (h : s.memWf) :
    nextMemWf (writeHgramp tile n v s) := by
  unfold writeHgramp
  simpa using h

@[simp] theorem State.writeTile_mem (s : State) (t off : Nat) (v : W64) (policy : Bool) :
    (s.writeTile t off v policy).mem = s.mem := by
  unfold State.writeTile
  split
  · split
    · unfold execEvVmboxWrite
      split <;> rfl
    · rfl
  · split <;> rfl
  · rfl
  · rfl
  · rfl
  · rfl

theorem State.drainCapture_memWf {s : State} {x n : Nat} (h : s.memWf) : (s.drainCapture x n).memWf := by
  unfold State.drainCapture
  dsimp only
  refine State.memWf_of_mem (State.updHead_mem ..) ?_
  refine foldl_memWf _ _ (fun _ _ hs => ?_) _ h
  split
  · exact State.writeMem_memWf _ _ _ hs
  · exact hs

theorem State.captureLine_memWf {s : State} {x f r : Nat} {px : List (Nat × Nat × Nat)} (h : s.memWf) :
    (s.captureLine x f r px).memWf := by
  unfold State.captureLine
  dsimp only
  split
  · exact h
  · simpa using State.drainCapture_memWf (by simpa using h)

theorem State.closeLine_memWf {s : State} {x : Nat} (h : s.memWf) : (s.closeLine x).memWf := by
  unfold State.closeLine
  dsimp only
  split
  · simpa using h
  · exact State.captureLine_memWf (by simpa using h)

theorem State.closeLines_memWf {s : State} {x n : Nat} (h : s.memWf) : (s.closeLines x n).memWf := by
  induction n generalizing s with
  | zero => exact h
  | succ n ih => exact ih (State.closeLine_memWf h)

theorem State.startHead_memWf {s : State} {x : Nat} (h : s.memWf) : (s.startHead x).memWf := by
  unfold State.startHead
  dsimp only
  simpa using State.closeLines_memWf (by simpa using foldl_memWf _ _ (fun _ _ hs => by simpa using hs) _ h)

theorem State.writeHctl_memWf {s : State} {x : Nat} {v : W64} (h : s.memWf) : (s.writeHctl x v).memWf := by
  unfold State.writeHctl
  dsimp only
  split
  · split
    · split
      · simpa using h
      · exact State.startHead_memWf h
    · split
      · simpa using h
      · exact State.startHead_memWf (by simpa using h)
  · split
    · refine State.memWf_of_mem (State.updHead_mem ..) ?_
      split <;> simpa using h
    · split <;> simpa using h

theorem commitPose_nextMemWf {head : Nat} {v : W64} {s : State} (h : s.memWf) : nextMemWf (commitPose head v s) := by
  unfold commitPose
  split <;> simpa using h

theorem State.writeHead_memWf {s : State} {x off : Nat} {v : W64} (h : s.memWf) : (s.writeHead x off v).memWf := by
  unfold State.writeHead
  dsimp only
  split
  · simpa using h
  · split
    · exact State.writeHctl_memWf h
    · split <;> simpa using h
    · split <;> simpa using h
    · split <;> simpa using h
    · split <;> simpa using h
    · simpa using h
    · simpa using h
    · simpa using h
    · simpa using h
    · exact stateOf_memWf h (commitPose_nextMemWf h)
    · exact h

theorem State.writeReg_memWf {s : State} {off : Nat} {v : W64} {policy : Bool} (h : s.memWf) :
    (s.writeReg off v policy).memWf := by
  unfold State.writeReg
  dsimp only
  split
  · simpa using h
  · split
    · exact stateOf_memWf h (writeQtail_nextMemWf h)
    · exact h
  · exact State.writeContext_memWf h
  · split <;> simpa using h
  · split
    · exact stateOf_memWf h (writeCerr_nextMemWf h)
    · exact h
  · simpa using h
  · simpa using h
  · split
    · simpa using h
    · split <;> simpa using h
  · exact State.writeHead_memWf h
  · exact h

theorem State.applyConfig_memWf {s : State} (h : s.memWf) : s.applyConfig.memWf := by
  unfold State.applyConfig
  dsimp only
  simpa using foldl_memWf _ _ (fun _ _ hs => State.writeReg_memWf hs) _ h

theorem State.bringUpStep_memWf {s : State} {fails : List BringUpFail} {step : Nat} (h : s.memWf) :
    (s.bringUpStep fails step).1.memWf := by
  unfold State.bringUpStep
  dsimp only
  split
  · dsimp only
    split <;> exact h
  · exact h
  · exact h
  · simpa using h
  · dsimp only
    split
    · exact State.applyConfig_memWf h
    · exact h
  · exact h
  · exact h
  · dsimp only
    split <;> exact h

theorem State.bringUpSteps_memWf {s : State} {fails : List BringUpFail} {l : List Nat} (h : s.memWf) :
    (s.bringUpSteps fails l).1.memWf := by
  induction l generalizing s with
  | nil => exact h
  | cons n rest ih =>
    have hn : (s.bringUpStep fails n).1.memWf := State.bringUpStep_memWf h
    unfold State.bringUpSteps
    dsimp only
    split
    · exact hn
    · exact ih hn

theorem State.bringUp_memWf {s : State} {fails : List BringUpFail} {steps : List Nat} (h : s.memWf) :
    (s.bringUp fails steps).memWf :=
  State.bringUpSteps_memWf h

/-- The loss of power drops the cells of local memory and keeps the outside world's (00 R8; 25 R508). -/
theorem State.powerLoss_memWf {s : State} (h : s.memWf) : s.powerLoss.memWf := cellsWf_filter _ _ h

theorem State.powered_memWf {s : State} (h : s.memWf) : s.powered.memWf := State.powerLoss_memWf h

theorem execEvPowerUp_nextMemWf {fails : List BringUpFail} {s : State} (h : s.memWf) :
    nextMemWf (execEvPowerUp fails s) := by
  unfold execEvPowerUp
  split
  · exact h
  · exact State.bringUp_memWf (State.powered_memWf h)

@[simp] theorem State.unpromise_mem (s : State) (core grid : Nat) : (s.unpromise core grid).mem = s.mem := rfl

@[simp] theorem State.passFck_mem (s : State) (n : Nat) : (s.passFck n).mem = s.mem := rfl

theorem State.idleMove_memWf {s : State} (h : s.memWf) : s.idleMove.memWf := by
  unfold State.idleMove
  split
  · exact execEvPowerUp_nextMemWf h
  · simpa using h

@[simp] theorem State.tlbPut_mem (s : State) (core : Nat) (e : TlbEntry) : (s.tlbPut core e).mem = s.mem := rfl

@[simp] theorem State.cacheWalk_mem (s : State) (quad ctx va : Nat) : (s.cacheWalk quad ctx va).mem = s.mem := rfl

@[simp] theorem State.lookup_mem (s : State) (core ctx va : Nat) : (s.lookup core ctx va).2.mem = s.mem := by
  unfold State.lookup
  dsimp only
  split
  · rfl
  · split
    · rfl
    · split
      · simp
      · split <;> simp

@[simp] theorem State.translate_mem (s : State) (core ctx va : Nat) (acc : AccKind) :
    (s.translate core ctx va acc).2.mem = s.mem := by
  simp [State.translate]

@[simp] theorem State.updSlotCopies_mem (s : State) (core slot : Nat) (f : Copy → Copy) :
    (s.updSlotCopies core slot f).mem = s.mem := rfl

@[simp] theorem State.setTrapped_mem (s : State) (core : Nat) (who : TrapWho) (b : Bool) :
    (s.setTrapped core who b).mem = s.mem := by
  unfold State.setTrapped
  split <;> simp

@[simp] theorem State.raiseTrap_mem (s : State) (core : Nat) (t : TrapItem) : (s.raiseTrap core t).mem = s.mem := by
  simp [State.raiseTrap]

@[simp] theorem State.withdrawDemands_mem (s : State) (r : WgRef) : (s.withdrawDemands r).mem = s.mem := by
  unfold State.withdrawDemands
  split <;> simp

@[simp] theorem State.beginSave_mem (s : State) (r : WgRef) (t : TrapRecord) (stop : Bool) (park : Option Park) :
    (s.beginSave r t stop park).mem = s.mem := by
  simp [State.beginSave]

theorem State.contain_memWf {s : State} {r : WgRef} {t : TrapRecord} (h : s.memWf) : (s.contain r t).memWf := by
  unfold State.contain
  split
  · exact h
  · split
    · simpa using h
    · exact State.retryOrError_memWf (State.discardWg_memWf h)

theorem State.takeTrap_memWf {s : State} {r : WgRef} {t : TrapItem} (h : s.memWf) : (s.takeTrap r t).memWf := by
  unfold State.takeTrap
  split
  · simpa using h
  · simpa using h
  · split <;> simpa using h
  · split <;> simpa using h
  · split
    · exact State.contain_memWf h
    · simpa using h

theorem State.trapWave_memWf {s : State} {r : WaveRef} {kind : TrapKind} {acc : BitVec 5} {code : W32} {pc va : W64}
    {mask : Lanes} {needs : List Nat} (h : s.memWf) :
    (s.trapWave r kind acc code pc va mask needs).memWf := by
  unfold State.trapWave
  split
  · exact h
  · dsimp only
    exact State.takeTrap_memWf (by simpa using h)

theorem State.trapFetch_memWf {s : State} {r : WaveRef} {k : TrapKind} {pc : W64} {mask : Lanes} (h : s.memWf) :
    (s.trapFetch r k pc mask).memWf := by
  unfold State.trapFetch
  split <;> exact State.trapWave_memWf h

@[simp] theorem State.deviceRead_mem (s : State) (ctx off size : Nat) :
    (s.deviceRead ctx off size).2.mem = s.mem := by
  unfold State.deviceRead
  split <;> simp

@[simp] theorem State.strayAccess_mem (s : State) (core : Nat) (src : BitVec 10) :
    (s.strayAccess core src).mem = s.mem := rfl

@[simp] theorem State.noteStray_mem (s : State) (dpas : List Nat) (src : BitVec 10) :
    (s.noteStray dpas src).mem = s.mem := by
  unfold State.noteStray
  refine (foldl_mem fun _ _ => ?_).trans ?_
  · simp
  · rfl

@[simp] theorem State.noteFetch_mem (s : State) (core d : Nat) : (s.noteFetch core d).mem = s.mem := by
  simp [State.noteFetch]

theorem State.trapXlat_memWf {s : State} {r : WaveRef} {x : Xlat} {pc : W64} {mask : Lanes} (h : s.memWf) :
    (s.trapXlat r x pc mask).memWf := by
  unfold State.trapXlat
  split
  · exact State.trapWave_memWf h
  · exact State.trapFetch_memWf h

theorem State.fetchCode_memWf {s : State} {r : WaveRef} {w : Workgroup} {g : Group} {va : W64}
    {f : Nat → State → Fetched} (h : s.memWf) (hf : ∀ a0 t, t.memWf → (f a0 t).memWf) :
    (s.fetchCode r w g va f).memWf := by
  unfold State.fetchCode
  dsimp only
  split
  · split
    · simpa using h
    · split
      · exact State.trapFetch_memWf (by simpa using h)
      · exact hf _ _ (by simpa using h)
  · simpa using h
  · exact State.trapXlat_memWf (by simpa using h)

theorem State.issueWave_memWf {s : State} {r : WaveRef} {g : Group} {x : Nat} {lit : Option W64} (h : s.memWf) :
    (s.issueWave r g x lit).memWf := by
  unfold State.issueWave
  split
  · simpa using h
  · exact State.trapFetch_memWf h

theorem State.fetchLiteral_memWf {s : State} {r : WaveRef} {w : Workgroup} {g : Group} {x : Nat} (h : s.memWf) :
    (s.fetchLiteral r w g x).memWf := by
  unfold State.fetchLiteral
  split
  · exact State.trapFetch_memWf h
  · split
    · exact State.fetchCode_memWf h (fun _ _ hs => State.issueWave_memWf hs)
    · exact State.issueWave_memWf h

theorem State.fetchWave_memWf {s : State} {r : WaveRef} {w : Workgroup} {g : Group} (h : s.memWf) :
    (s.fetchWave r w g).memWf := by
  unfold State.fetchWave
  split
  · exact h
  · refine State.fetchCode_memWf h (fun _ _ hs => ?_)
    split
    · exact State.fetchLiteral_memWf hs
    · exact State.issueWave_memWf hs

theorem State.turnWave_memWf {s : State} {r : WaveRef} (h : s.memWf) : (s.turnWave r).memWf := by
  unfold State.turnWave
  split
  · split
    · exact h
    · split
      · simpa using h
      · exact State.fetchWave_memWf h
  · exact h

@[simp] theorem State.trapHome_mem (s : State) (core : Nat) (a3 : TrapWho) : (s.trapHome core a3).2.mem = s.mem := by
  unfold State.trapHome
  split <;> simp

@[simp] theorem State.closeTrap_mem (s : State) (core : Nat) : (s.closeTrap core).mem = s.mem := by
  simp [State.closeTrap]

@[simp] theorem State.endService_mem (s : State) (core : Nat) (who : TrapWho) :
    (s.endService core who).mem = s.mem := by
  unfold State.endService
  split <;> simp

@[simp] theorem State.passTrapWord_mem (s : State) (core : Nat) (t : TrapItem) :
    (s.passTrapWord core t).mem = s.mem := by
  unfold State.passTrapWord
  split <;> simp

@[simp] theorem State.holdFault_mem (s : State) (core cs : Nat) (t : TrapItem) :
    (s.holdFault core cs t).mem = s.mem := rfl

@[simp] theorem State.stopFrame_mem (s : State) (f : Nat) (t : TrapRecord) : (s.stopFrame f t).mem = s.mem := by
  unfold State.stopFrame
  split <;> simp

@[simp] theorem State.escalate_mem (s : State) (core : Nat) (t : TrapItem) : (s.escalate core t).mem = s.mem := by
  unfold State.escalate
  dsimp only
  split <;> simp

theorem State.containTrap_memWf {s : State} {core : Nat} {t : TrapItem} {k : TrapKind} (h : s.memWf) :
    (s.containTrap core t k).memWf := by
  unfold State.containTrap
  dsimp only
  split
  · exact State.contain_memWf (by simpa using h)
  · split
    · simpa using h
    · split
      · simpa using h
      · exact State.retryOrError_memWf (by simpa using h)
  · split
    · simpa using h
    · split
      · simpa using h
      · exact State.retryOrError_memWf (by simpa using h)
  · simpa using h

theorem State.trapSeq_memWf {s : State} {r : WgRef} {ctx : SeqCtx} {kind : TrapKind} {acc : BitVec 5} {code : W32}
    {pc : Nat} {va : W64} {word : W32} {needs : List Nat} (h : s.memWf) :
    (s.trapSeq r ctx kind acc code pc va word needs).memWf := by
  unfold State.trapSeq
  split
  · exact h
  · dsimp only
    exact State.takeTrap_memWf h

theorem State.seqTrap_memWf {s : State} {c : SeqIssue} {k : TrapKind} {acc : BitVec 5} {code : W32} {va : W64}
    {needs : List Nat} (h : s.memWf) :
    (s.seqTrap c k acc code va needs).memWf := by
  unfold State.seqTrap
  split
  · split
    · simpa using h
    · exact State.containTrap_memWf h
  · exact State.trapSeq_memWf h

theorem State.trapFetchSeq_memWf {s : State} {core : Nat} {ctx : SeqCtx} {k : TrapKind} {word : W32} (h : s.memWf) :
    (s.trapFetchSeq core ctx k word).memWf := by
  unfold State.trapFetchSeq
  split
  · exact State.seqTrap_memWf h
  · exact h

@[simp] theorem State.leaveTrap_mem (s : State) (core : Nat) : (s.leaveTrap core).mem = s.mem := by
  unfold State.leaveTrap
  split <;> simp

@[simp] theorem State.saveTiles_mem (s : State) (core : Nat) (tag : OwnerTag) :
    (s.saveTiles core tag).mem = s.mem := by
  unfold State.saveTiles
  dsimp only
  refine (State.freeTag_mem ..).trans ?_
  split <;> simp

theorem Fill.andThen_memWf {x : Fill} {f : State → Fill} (h : x.memWf) (hf : ∀ t, t.memWf → (f t).memWf) :
    (x.andThen f).memWf := by
  cases x with
  | done s => exact hf s h
  | waits => trivial
  | fails k s => exact h

@[simp] theorem State.noteFe_mem (s : State) (ctx va n : Nat) : (s.noteFe ctx va n).mem = s.mem := by
  simp [State.noteFe]

theorem State.putPhys_memWf {s : State} {core ctx a : Nat} {b : List Byte} (h : s.memWf) :
    (s.putPhys core ctx a b).memWf := by
  unfold State.putPhys
  split
  · refine State.memWf_of_mem (State.noteStray_mem ..) ?_
    refine foldl_memWf _ _ (fun _ _ hs => ?_) _ h
    split
    · simpa [State.writeWindow_mem] using hs
    · exact hs
  · simpa using h
  · exact h
  · exact State.writeMem_memWf _ _ _ h

theorem State.copyIn_memWf {s : State} {core ctx src dst n : Nat} (h : s.memWf) :
    (s.copyIn core ctx src dst n).memWf := by
  unfold State.copyIn
  refine List.foldlRecOn (motive := Fill.memWf) _ _ h fun x hx i _ => Fill.andThen_memWf hx fun t ht => ?_
  dsimp only
  split
  · exact State.putPhys_memWf (by simpa using ht)
  · trivial
  · exact ht

theorem State.fillPage_memWf {s : State} {core ctx va : Nat} (h : s.memWf) : (s.fillPage core ctx va).memWf := by
  unfold State.fillPage
  split
  · exact h
  · trivial
  · split
    · exact h
    · split
      · dsimp only
        split
        · exact h
        · refine Fill.andThen_memWf ?_ fun _ ht => State.writeMem_memWf _ _ _ ht
          split
          · exact State.putPhys_memWf (by simpa using h)
          · exact State.copyIn_memWf (by simpa using h)
      · trivial
      · exact h
  · exact h
  · exact h

theorem State.fillPages_memWf {s : State} {core ctx : Nat} {l : List Nat} (h : s.memWf) :
    (s.fillPages core ctx l).memWf := by
  induction l generalizing s with
  | nil => exact h
  | cons va rest ih => exact Fill.andThen_memWf (State.fillPage_memWf h) fun _ ht => ih ht

theorem State.pagerService_memWf {s : State} {core : Nat} (h : s.memWf) : (s.pagerService core).memWf := by
  unfold State.pagerService
  split
  · exact h
  · split
    · exact h
    · split
      · simpa using h
      · next t _ _ _ _ =>
        have hf : (s.fillPages core t.ctx t.needs).memWf := State.fillPages_memWf h
        split
        · next heq => simpa [heq] using hf
        · exact h
        · next heq => exact State.containTrap_memWf (by simpa [heq] using hf)
        · next heq => simpa [heq] using hf
      · simpa using h
      · simpa using h
      · exact State.containTrap_memWf h
      · exact h

theorem State.seqDoes_memWf {s : State} {core : Nat} {ctx : SeqCtx} {a4 : SeqFate} (h : s.memWf) :
    (s.seqDoes core ctx a4).memWf := by
  unfold State.seqDoes
  split
  · exact h
  · exact State.trapFetchSeq_memWf h
  · simpa using h

theorem State.turnTrap_memWf {s : State} {core : Nat} (h : s.memWf) : (s.turnTrap core).memWf := by
  unfold State.turnTrap
  dsimp only
  split
  · exact h
  · split
    · exact State.trapFetchSeq_memWf h
    · split
      · exact State.pagerService_memWf h
      · exact State.seqDoes_memWf h

@[simp] theorem State.noteCopyWaits_mem (s : State) (core slot : Nat) (j : Job) :
    (s.noteCopyWaits core slot j).mem = s.mem := by
  simp [State.noteCopyWaits]

theorem State.turnSeq_memWf {s : State} {core : Nat} (h : s.memWf) : (s.turnSeq core).memWf := by
  unfold State.turnSeq
  dsimp only
  split
  · exact State.turnTrap_memWf (State.updCore_memWf _ _ _ h)
  · split
    · exact State.updCore_memWf _ _ _ h
    · split
      · exact State.updCore_memWf _ _ _ h
      · split
        · exact State.seqDoes_memWf (by simpa using h)
        · simpa using h

theorem State.runWord_memWf {s : State} {c : HeadCtx} (h : s.memWf) : (s.runWord c).memWf := by
  unfold State.runWord
  split <;> simpa using h

@[simp] theorem State.updHead'_mem (s : State) (c : HeadCtx) (f : EngineQ → EngineQ) :
    (s.updHead' c f).mem = s.mem := by
  simp [State.updHead']

theorem State.turnEngine_memWf {s : State} {core : Nat} {q : EngineQueue} (h : s.memWf) :
    (s.turnEngine core q).memWf := by
  unfold State.turnEngine
  split
  · exact State.runWord_memWf h
  · split
    · exact State.runWord_memWf (by simpa using h)
    · exact h
  · exact h

@[simp] theorem State.countLate_mem (s : State) (x n : Nat) : (s.countLate x n).mem = s.mem := rfl

@[simp] theorem State.abortBand_mem (s : State) (lc : Nat) : (s.abortBand lc).mem = s.mem := by
  unfold State.abortBand
  dsimp only
  split <;> simp

theorem State.turnLine_memWf {s : State} {lc : Nat} (h : s.memWf) : (s.turnLine lc).memWf := by
  unfold State.turnLine
  dsimp only
  split
  · exact h
  · split
    · simpa using h
    · split <;> simpa using h

theorem State.badPacket_nextMemWf {s : State} {q : Nat} (h : s.memWf) : nextMemWf (s.badPacket q) := by
  unfold State.badPacket
  simpa using h

@[simp] theorem State.feWord_mem (s : State) (ctx va : Nat) : (s.feWord ctx va).2.mem = s.mem := by
  unfold State.feWord
  split
  · split
    · simp
    · dsimp only
      split <;> simp
  · rfl

@[simp] theorem State.feWords_mem (s : State) (ctx : Nat) (vas : List Nat) : (s.feWords ctx vas).2.mem = s.mem := by
  simp [State.feWords]

theorem State.issuePacket_memWf {s : State} {q : Nat} {header : W64} {body : List W64} (h : s.memWf) :
    (s.issuePacket q header body).memWf := by
  unfold State.issuePacket
  split
  · split
    · simpa using h
    · exact State.badPacket_nextMemWf h
  · exact State.badPacket_nextMemWf h

theorem State.packetFault_memWf {s : State} {q : Nat} {a3 : Xlat} (h : s.memWf) : (s.packetFault q a3).memWf := by
  unfold State.packetFault
  split <;> simpa using h

theorem State.turnPacket_memWf {s : State} {q : Nat} (h : s.memWf) : (s.turnPacket q).memWf := by
  have hw {t : State} (c : Nat) (l : List Nat) {u : State} {y} (ht : t.memWf) (e : t.feWords c l = (y, u)) : u.memWf := by
    have he : u = (t.feWords c l).2 := by rw [e]
    simpa [he] using ht
  unfold State.turnPacket
  dsimp only
  split
  · exact h
  · split
    · exact h
    · exact State.badPacket_nextMemWf h
    · split
      · next heq =>
        have h1 := hw _ _ h heq
        split
        · exact h1
        · exact State.badPacket_nextMemWf h1
        · split
          · next heq =>
            have h2 := hw _ _ h1 heq
            split
            · exact State.badPacket_nextMemWf h2
            · exact State.issuePacket_memWf h2
          · next heq => exact State.packetFault_memWf (hw _ _ h1 heq)
      · next heq => exact State.packetFault_memWf (hw _ _ h heq)

@[simp] theorem State.mailDone_mem (s : State) (f : Nat) (r : MailResult) (rsp : Option Nat) :
    (s.mailDone f r rsp).mem = s.mem := rfl

theorem State.mailFail_nextMemWf {s : State} {f : Nat} {r : MailResult} (h : s.memWf) :
    nextMemWf (s.mailFail f r) := by
  unfold State.mailFail
  simpa using h

theorem State.turnMail_memWf {s : State} {f : Nat} (h : s.memWf) : (s.turnMail f).memWf := by
  unfold State.turnMail
  dsimp only
  split
  · exact h
  · split
    · simpa using h
    · exact State.mailFail_nextMemWf h

@[simp] theorem State.countStalls_mem (s : State) (tile n : Nat) : (s.countStalls tile n).mem = s.mem := by
  simp [State.countStalls]

@[simp] theorem State.countWatchdogs_mem (s : State) (tile n : Nat) : (s.countWatchdogs tile n).mem = s.mem := rfl

@[simp] theorem State.spendTck_mem (s : State) (tile n : Nat) : (s.spendTck tile n).mem = s.mem := by
  simp [State.spendTck]

@[simp] theorem State.tickGate_mem (s : State) (tile : Nat) : (s.tickGate tile).mem = s.mem := rfl

@[simp] theorem State.passTck_mem (s : State) (tile n : Nat) : (s.passTck tile n).mem = s.mem := by
  induction n generalizing s with
  | zero => rfl
  | succ n ih =>
    unfold State.passTck
    split
    · simp
    · split <;> simp [ih]

@[simp] theorem State.passLck_mem (s : State) (n : Nat) : (s.passLck n).mem = s.mem := rfl

@[simp] theorem State.dropTlb_mem (s : State) (core ctx va : Nat) : (s.dropTlb core ctx va).mem = s.mem := rfl

@[simp] theorem State.hostRegRead_mem (s : State) (f off size : Nat) : (s.hostRegRead f off size).2.mem = s.mem := by
  unfold State.hostRegRead
  split
  · rfl
  · split <;> simp

@[simp] theorem State.answerRegRead_mem (s : State) (f dpa size : Nat) :
    (s.answerRegRead f dpa size).mem = s.mem := by
  unfold State.answerRegRead
  split <;> simp

@[simp] theorem State.fillCode_mem (s : State) (core line : Nat) : (s.fillCode core line).mem = s.mem := by
  simp [State.fillCode]

@[simp] theorem State.dropCode_mem (s : State) (core line : Nat) : (s.dropCode core line).mem = s.mem := rfl

@[simp] theorem State.chooseFirmware_mem (s : State) (tile : Nat) : (s.chooseFirmware tile).mem = s.mem := by
  simp [State.chooseFirmware]

@[simp] theorem State.resizeBar_mem (s : State) (log : Nat) : (s.resizeBar log).mem = s.mem := by
  simp [State.resizeBar]

theorem State.outage_memWf {s : State} {fails : List BringUpFail} {step : Nat} {at_ : OutageAt} (h : s.memWf) :
    (s.outage fails step at_).memWf := by
  unfold State.outage
  split
  · exact h
  · exact State.powerLoss_memWf (State.bringUpSteps_memWf (State.powered_memWf h))

theorem State.take_memWf {s : State} {a2 : Turn} (h : s.memWf) : (s.take a2).memWf := by
  unfold State.take
  split
  · exact State.turnWave_memWf h
  · exact State.turnSeq_memWf h
  · exact State.turnEngine_memWf h
  · exact State.turnLine_memWf h
  · exact State.turnPacket_memWf h
  · exact State.turnMail_memWf h
  · simpa using h
  · simpa using h
  · simpa using h
  · simpa using h
  · exact State.invalidate_memWf _ _ _ h
  · exact State.drainWc_memWf _ _ h
  · split
    · exact State.writeMem_memWf _ _ _ h
    · exact h
  · simpa using h
  · simpa using h
  · simpa using h
  · simpa using h
  · simpa using h
  · simpa using h
  · exact State.outage_memWf h

theorem State.fetch_memWf {s : State} (h : s.memWf) : s.fetch.memWf := by
  unfold State.fetch
  split
  · exact State.idleMove_memWf h
  · split
    · exact State.take_memWf (by simpa using h)
    · exact trivial

@[simp] theorem State.notePermits_mem (s : State) : s.notePermits.mem = s.mem := rfl

theorem State.releaseBuffers_memWf {s : State} {g : Grid} (h : s.memWf) : (s.releaseBuffers g).memWf := by
  unfold State.releaseBuffers
  dsimp only
  exact foldl_memWf _ _ (fun _ _ hs => foldl_memWf _ _ (fun _ _ hs => State.writeBack_memWf _ _ _ hs) _ hs) _ h

@[simp] theorem State.timelineFail_mem (s : State) (ctx : Nat) : (s.timelineFail ctx).mem = s.mem := rfl

@[simp] theorem State.markWaiters_mem (s : State) (seen : Nat → W64 → Option Nat) :
    (s.markWaiters seen).mem = s.mem := rfl

@[simp] theorem State.compareWaiters_mem (s : State) (dpa v : Nat) : (s.compareWaiters dpa v).mem = s.mem := rfl

@[simp] theorem State.timelineEvent_mem (s : State) (ctx : Nat) (va : W64) (rewound saturated : Bool) :
    (s.timelineEvent ctx va rewound saturated).mem = s.mem := by
  simp [State.timelineEvent]

theorem State.performTimeline_memWf {s : State} {ctx : Nat} {va : W64} {dpa : Nat} {add : Bool} {v : W64}
    (h : s.memWf) :
    (s.performTimeline ctx va dpa add v).memWf := by
  unfold State.performTimeline
  dsimp only
  simpa using State.writeMem_memWf _ _ _ h

theorem State.performTimelineOf_memWf {s : State} {home : Option Nat} {ctx : Nat} {va : W64} {dpa : Nat}
    {add : Bool} {v : W64} (h : s.memWf) :
    (s.performTimelineOf home ctx va dpa add v).memWf := by
  unfold State.performTimelineOf
  split
  · exact State.performTimeline_memWf h
  · dsimp only
    exact foldl_memWf _ _ (fun _ _ hs => State.writeThrough_memWf _ _ _ _ hs) _ (State.performTimeline_memWf (State.settleL1_memWf _ _ _ h))

@[simp] theorem State.sendHostOp_mem (s : State) (ctx : Nat) (va : W64) (dpa : Nat) (add : Bool) (v : W64)
    (who : HostOpWho) :
    (s.sendHostOp ctx va dpa add v who).mem = s.mem := rfl

theorem State.feTimeline_memWf {s : State} {home : Option Nat} {ctx : Nat} {va : W64} {add : Bool} {v : W64}
    {who : HostOpWho} (h : s.memWf) :
    (s.feTimeline home ctx va add v who).memWf := by
  unfold State.feTimeline
  split
  · exact h
  · split
    · simpa using h
    · split
      · split
        · exact State.performTimelineOf_memWf h
        · simpa using h
        · simpa using h
      · simpa using h

theorem State.tryCompleteGrid_memWf {s : State} {id : Nat} (h : s.memWf) : (s.tryCompleteGrid id).memWf := by
  unfold State.tryCompleteGrid
  split
  · exact h
  · split
    · exact h
    · split
      · simpa using h
      · split
        · exact h
        · dsimp only
          simpa using State.feTimeline_memWf (by
            simpa using State.releaseBuffers_memWf
              (foldl_memWf _ _ (fun _ _ hs => State.releaseCore_memWf _ _ hs) _ h))

theorem State.settleGrids_memWf {s : State} (h : s.memWf) : s.settleGrids.memWf :=
  foldl_memWf _ _ (fun _ _ hs => State.tryCompleteGrid_memWf hs) _ h

@[simp] theorem State.wakeWaiters_mem (s : State) : s.wakeWaiters.mem = s.mem := by
  simp [State.wakeWaiters]

theorem State.fitL1_memWf {s : State} {core : Nat} (h : s.memWf) : (s.fitL1 core).memWf := by
  unfold State.fitL1
  dsimp only
  refine foldl_memWf _ _ (fun _ _ hs => ?_) _ h
  split
  · exact State.invalidate_memWf _ _ _ (by simpa using hs)
  · exact hs

theorem State.settle_memWf {s : State} (h : s.memWf) : s.settle.memWf := by
  unfold State.settle
  simpa using State.settleGrids_memWf (by simpa using foldl_memWf _ _ (fun _ _ hs => State.fitL1_memWf hs) _ h)

theorem settled_nextMemWf {r : Res} (h : nextMemWf r) : nextMemWf (settled r) := by
  cases r with
  | next s => exact State.settle_memWf h
  | fault k => exact h
  | refused k => exact h

theorem State.trapMask_memWf {s : State} {c : WaveCtx} {k : TrapKind} {mask : Lanes} (h : s.memWf) :
    (s.trapMask c k mask).memWf :=
  State.trapWave_memWf h

theorem State.trapHere_memWf {s : State} {c : WaveCtx} {k : TrapKind} (h : s.memWf) : (s.trapHere c k).memWf :=
  State.trapMask_memWf h

@[simp] theorem State.freeLanes_mem (s : State) (n : Nat) : (s.freeLanes n).2.mem = s.mem := rfl

@[simp] theorem State.spillOne_mem (s : State) (core part : Nat) : (s.spillOne core part).mem = s.mem := by
  unfold State.spillOne
  dsimp only
  split <;> simp

@[simp] theorem State.ensurePhys_mem (s : State) (r : WaveRef) (n : Nat) : (s.ensurePhys r n).mem = s.mem := by
  unfold State.ensurePhys
  split
  · rfl
  · split <;> simp

@[simp] theorem State.writeVec_mem (s : State) (r : WaveRef) (n : Nat) (mask : Lanes) (vals : List W32) :
    (s.writeVec r n mask vals).mem = s.mem := by
  simp [State.writeVec]

@[simp] theorem State.spoilRegs_mem (s : State) (c : WaveCtx) (regs : List Nat) (lanes : Lanes) :
    (s.spoilRegs c regs lanes).mem = s.mem := by
  simp [State.spoilRegs]

@[simp] theorem State.spoil_mem (s : State) (c : WaveCtx) (f : WaveForm) (w : WWord) :
    (s.spoil c f w).mem = s.mem := by
  simp [State.spoil]

theorem State.trapPoison_memWf {s : State} {c : WaveCtx} {regs scalars : List Nat} (h : s.memWf) :
    (s.trapPoison c regs scalars).memWf :=
  State.trapMask_memWf h

theorem issueTry_memWf {op : Nat} {w : WWord} {f : WaveForm} {body : WaveForm → WaveCtx → State → State}
    {c : WaveCtx} {s : State} (hbody : ∀ a0 a1 t, t.memWf → (body a0 a1 t).memWf) (h : s.memWf) :
    (issueTry op w f body c s).memWf := by
  unfold issueTry
  split
  · exact State.trapPoison_memWf h
  · split
    · exact h
    · exact hbody _ _ _ h

@[simp] theorem State.unspoil_mem (t : State) (c : WaveCtx) : (t.unspoil c).mem = t.mem := by
  simp [State.unspoil]

theorem rawWord_nextMemWf {op : Nat} {w : WWord} {s : State} {body : WaveForm → WaveCtx → State → State}
    (h : s.memWf) (hbody : ∀ a0 a1 t, t.memWf → (body a0 a1 t).memWf) :
    nextMemWf (rawWord op w s body) := by
  unfold rawWord
  split
  · exact h
  · split
    · exact State.trapHere_memWf h
    · split
      · exact State.trapHere_memWf h
      · split
        · exact h
        · split
          · dsimp only
            split
            · simpa using issueTry_memWf (fun _ _ _ hs => hbody _ _ _ hs) (by simpa using h)
            · exact issueTry_memWf (fun _ _ _ hs => hbody _ _ _ hs) (by simpa using h)
          · exact issueTry_memWf (fun _ _ _ hs => hbody _ _ _ hs) h

@[simp] theorem State.countIssue_mem (s : State) (r : WaveRef) : (s.countIssue r).mem = s.mem := by
  simp [State.countIssue]

theorem waveWord_nextMemWf {op : Nat} {w : WWord} {s : State} {body : WaveForm → WaveCtx → State → State}
    (h : s.memWf) (hbody : ∀ a0 a1 t, t.memWf → (body a0 a1 t).memWf) :
    nextMemWf (waveWord op w s body) :=
  rawWord_nextMemWf h (fun _ _ _ hs => hbody _ _ _ (by simpa using hs))

@[simp] theorem State.nextWord_mem (s : State) (r : WaveRef) (n : Nat) : (s.nextWord r n).mem = s.mem := by
  simp [State.nextWord]

@[simp] theorem State.takeOperands_mem (s : State) (c : WaveCtx) (f : WaveForm) (w : WWord) :
    (s.takeOperands c f w).mem = s.mem := by
  simp [State.takeOperands]

@[simp] theorem State.noteShedPoint_mem (s : State) (core : Nat) : (s.noteShedPoint core).mem = s.mem := rfl

@[simp] theorem State.consume_mem (s : State) (c : WaveCtx) (f : WaveForm) (w : WWord) :
    (s.consume c f w).mem = s.mem := by
  simp [State.consume]

theorem plainWord_nextMemWf {op : Nat} {w : WWord} {s : State}
    {body : WaveForm → WaveCtx → List Nat × List Nat × List Nat → State → State} (h : s.memWf)
    (hbody : ∀ a0 a1 a2 t, t.memWf → (body a0 a1 a2 t).memWf) :
    nextMemWf (plainWord op w s body) :=
  waveWord_nextMemWf h (fun _ _ _ hs => by simpa using hbody _ _ _ _ (by simpa using hs))

@[simp] theorem State.raise_mem (s : State) (r : WgRef) (f : BitVec 6) : (s.raise r f).mem = s.mem := by
  simp [State.raise]

@[simp] theorem State.writeTyped_mem (s : State) (r : WaveRef) (t : WType) (d : Nat) (mask : Lanes)
    (vals : List Nat) :
    (s.writeTyped r t d mask vals).mem = s.mem := by
  simp [State.writeTyped]

theorem vecWord_nextMemWf {op : Nat} {w : WWord} {t : WType} {s : State} {f : Nat → Nat → Nat → Nat × BitVec 6}
    (h : s.memWf) :
    nextMemWf (vecWord op w t s f) := by
  unfold vecWord
  dsimp only
  exact plainWord_nextMemWf h (fun _ _ _ _ hs => by simpa using hs)

@[simp] theorem State.writeP_mem (s : State) (r : WaveRef) (n : Nat) (mask bits_ : Lanes) :
    (s.writeP r n mask bits_).mem = s.mem := by
  simp [State.writeP]

theorem carryVec_nextMemWf {op : Nat} {w : WWord} {s : State} {f : Nat → Nat → Nat → Nat × Bool} (h : s.memWf) :
    nextMemWf (carryVec op w s f) := by
  unfold carryVec
  dsimp only
  exact plainWord_nextMemWf h (fun _ _ _ _ hs => by simpa using hs)

theorem bfiVec_nextMemWf {op : Nat} {w : WWord} {s : State} (h : s.memWf) : nextMemWf (bfiVec op w s) := by
  unfold bfiVec
  dsimp only
  exact plainWord_nextMemWf h (fun _ _ _ _ hs => by simpa using hs)

@[simp] theorem State.writeS_mem (s : State) (r : WaveRef) (n v : Nat) : (s.writeS r n v).mem = s.mem := by
  simp [State.writeS]

theorem scaWord_nextMemWf {op : Nat} {w : WWord} {t : WType} {s : State} {f : Nat → Nat → Nat → Nat × BitVec 6}
    (h : s.memWf) :
    nextMemWf (scaWord op w t s f) := by
  unfold scaWord
  dsimp only
  refine plainWord_nextMemWf h (fun _ _ _ _ hs => ?_)
  split <;> simpa using hs

theorem carrySca_nextMemWf {op : Nat} {w : WWord} {s : State} {f : Nat → Nat → Nat → Nat × Bool} (h : s.memWf) :
    nextMemWf (carrySca op w s f) := by
  unfold carrySca
  dsimp only
  refine plainWord_nextMemWf h (fun _ _ _ _ hs => ?_)
  split <;> simpa using hs

theorem execWBfiScalar_nextMemWf {w : WWord} {s : State} (h : s.memWf) : nextMemWf (execWBfiScalar w s) := by
  unfold execWBfiScalar
  dsimp only
  refine plainWord_nextMemWf h (fun _ _ _ _ hs => ?_)
  split <;> simpa using hs

theorem execWSel_nextMemWf {w : WWord} {s : State} (h : s.memWf) : nextMemWf (execWSel w s) :=
  plainWord_nextMemWf h (fun _ _ _ _ hs => by simpa using hs)

theorem execWMovl_nextMemWf {w : WWord} {s : State} (h : s.memWf) : nextMemWf (execWMovl w s) := by
  unfold execWMovl
  dsimp only
  refine rawWord_nextMemWf h (fun _ _ _ hs => ?_)
  split
  · split
    · exact State.trapPoison_memWf (by simpa using hs)
    · refine State.memWf_of_mem (State.nextWord_mem ..) ?_
      refine State.memWf_of_mem (State.writeTyped_mem ..) ?_
      exact foldl_memWf _ _ (fun _ _ hs => by simpa using hs) _ (by simpa using hs)
  · split
    · exact State.trapPoison_memWf (by simpa using hs)
    · refine State.memWf_of_mem (State.nextWord_mem ..) ?_
      refine State.memWf_of_mem (State.writeTyped_mem ..) ?_
      exact foldl_memWf _ _ (fun _ _ hs => by simpa using hs) _ (by simpa using hs)

theorem execWMovlScalar_nextMemWf {w : WWord} {s : State} (h : s.memWf) : nextMemWf (execWMovlScalar w s) := by
  unfold execWMovlScalar
  dsimp only
  refine rawWord_nextMemWf h (fun _ _ _ hs => ?_)
  split
  · exact State.trapPoison_memWf hs
  · refine State.memWf_of_mem (State.nextWord_mem ..) ?_
    split <;> simpa using hs

theorem execWLane_nextMemWf {w : WWord} {s : State} (h : s.memWf) : nextMemWf (execWLane w s) := by
  unfold execWLane
  refine plainWord_nextMemWf h (fun _ _ _ _ hs => ?_)
  split <;> simpa using hs

theorem laneMove_nextMemWf {op : Nat} {w : WWord} {s : State} {src : WaveCtx → List Nat → Nat → Nat} (h : s.memWf) :
    nextMemWf (laneMove op w s src) := by
  unfold laneMove
  dsimp only
  refine rawWord_nextMemWf h (fun _ _ _ hs => ?_)
  split
  · exact State.trapMask_memWf (by simpa using hs)
  · simpa using hs

theorem predWord_nextMemWf {op : Nat} {w : WWord} {s : State} {f : Nat → Nat → Bool × BitVec 6} (h : s.memWf) :
    nextMemWf (predWord op w s f) := by
  unfold predWord
  dsimp only
  exact plainWord_nextMemWf h (fun _ _ _ _ hs => by simpa using hs)

theorem execWPlog_nextMemWf {w : WWord} {s : State} (h : s.memWf) : nextMemWf (execWPlog w s) := by
  unfold execWPlog
  dsimp only
  exact plainWord_nextMemWf h (fun _ _ _ _ hs => by simpa using hs)

theorem execWWrsp_nextMemWf {w : WWord} {s : State} (h : s.memWf) : nextMemWf (execWWrsp w s) := by
  unfold execWWrsp
  refine plainWord_nextMemWf h (fun _ _ _ _ hs => ?_)
  split
  · exact hs
  · split <;> simpa using hs

theorem lastWord_nextMemWf {op : Nat} {w : WWord} {s : State} {body : WaveForm → WaveCtx → State → State}
    (h : s.memWf) (hbody : ∀ a0 a1 t, t.memWf → (body a0 a1 t).memWf) :
    nextMemWf (lastWord op w s body) := by
  unfold lastWord
  refine rawWord_nextMemWf h (fun _ _ _ hs => ?_)
  split
  · exact hbody _ _ _ hs
  · exact State.trapHere_memWf hs

theorem jumpWord_nextMemWf {op : Nat} {w : WWord} {s : State} {relative : Bool} (h : s.memWf) :
    nextMemWf (jumpWord op w s relative) := by
  unfold jumpWord
  dsimp only
  refine lastWord_nextMemWf h (fun _ _ _ hs => ?_)
  split
  · split
    · exact State.trapHere_memWf hs
    · simpa using hs
  · split
    · exact State.trapHere_memWf hs
    · simpa using hs

@[simp] theorem State.mapPages_mem (s : State) (core ctx : Nat) (places : List Nat) :
    (s.mapPages core ctx places).2.mem = s.mem := by
  unfold State.mapPages
  dsimp only
  refine (foldl_snd_mem fun _ _ => ?_).trans ?_
  · split <;> simp
  · rfl

@[simp] theorem State.mapLanesBut_mem (s : State) (r : WaveRef) (g : Workgroup) (acc : AccKind) (size : Nat)
    (bad : LaneAcc → Bool) (l : List (Nat × Nat)) :
    (s.mapLanesBut r g acc size bad l).2.mem = s.mem := by
  simp [State.mapLanesBut]

@[simp] theorem State.mapLanes_mem (s : State) (r : WaveRef) (g : Workgroup) (acc : AccKind) (size : Nat)
    (l : List (Nat × Nat)) :
    (s.mapLanes r g acc size l).2.mem = s.mem := by
  simp [State.mapLanes]

theorem State.trapAccess_memWf {s : State} {c : WaveCtx} {k : TrapKind} {acc : BitVec 5} {va : Nat} {mask : Lanes}
    {needs : List Nat} (h : s.memWf) :
    (s.trapAccess c k acc va mask needs).memWf :=
  State.trapWave_memWf h

theorem State.withLanes_memWf {s : State} {c : WaveCtx} {acc : AccKind} {size : Nat} {l : List (Nat × Nat)}
    {f : List LaneAcc → State → State} (h : s.memWf) (hf : ∀ a0 t, t.memWf → (f a0 t).memWf) :
    (s.withLanes c acc size l f).memWf := by
  unfold State.withLanes
  dsimp only
  split
  · exact hf _ _ (by simpa using h)
  · simpa using h
  · exact State.trapAccess_memWf (by simpa using h)

theorem State.deviceWrite_memWf {s : State} {ctx off size : Nat} {v : W64} (h : s.memWf) :
    (s.deviceWrite ctx off size v).memWf := by
  unfold State.deviceWrite
  split
  · simpa using h
  · split
    · exact State.writeReg_memWf h
    · exact h

@[simp] theorem State.raceStore_mem (s : State) (r : WgRef) (l : List (Nat × Nat)) :
    (s.raceStore r l).mem = s.mem := by
  unfold State.raceStore
  split <;> simp

@[simp] theorem State.storeWindow_mem (s : State) (core off : Nat) (b : Byte) :
    (s.storeWindow core off b).mem = s.mem := by
  unfold State.storeWindow
  split
  · simp [State.writeWindow_mem]
  · rfl

theorem State.flushLine_memWf {s : State} {r : WaveRef} {d : Nat} (h : s.memWf) : (s.flushLine r d).memWf := by
  unfold State.flushLine
  split
  · exact h
  · dsimp only
    split
    · exact h
    · simpa using foldl_memWf _ _ (fun _ _ hs => State.performCell_memWf _ _ _ hs) _ h

theorem State.writeByte_memWf {s : State} {r : WaveRef} {ctx : Nat} {mode : WriteMode} {d : Nat} {b : Byte}
    (h : s.memWf) :
    (s.writeByte r ctx mode d b).memWf := by
  unfold State.writeByte
  split
  · simpa using h
  · simpa using h
  · simpa using h
  · exact State.writeL1_memWf _ _ _ _ (State.flushLine_memWf h)
  · exact State.writeL1_memWf _ _ _ _ (State.flushLine_memWf h)
  · exact State.writeThrough_memWf _ _ _ _ (State.flushLine_memWf h)

theorem State.writeLane_memWf {s : State} {r : WaveRef} {ctx : Nat} {mode : WriteMode} {a : LaneAcc} {v : Nat}
    (h : s.memWf) :
    (s.writeLane r ctx mode a v).memWf := by
  unfold State.writeLane
  split
  · exact State.deviceWrite_memWf h
  · simpa using foldl_memWf _ _ (fun _ _ hs => State.writeByte_memWf hs) _ h

theorem State.writeLanes_memWf {s : State} {r : WaveRef} {ctx : Nat} {mode : WriteMode} {l : List LaneAcc}
    {vals : List Nat} (h : s.memWf) :
    (s.writeLanes r ctx mode l vals).memWf :=
  foldl_memWf _ _ (fun _ _ hs => State.writeLane_memWf hs) _ h

theorem State.releaseWave_memWf {s : State} {r : WaveRef} (h : s.memWf) : (s.releaseWave r).memWf :=
  State.drainWc_memWf _ _ h

theorem State.beforeWrite_memWf {s : State} {r : WaveRef} {order : MOrder} (h : s.memWf) :
    (s.beforeWrite r order).memWf := by
  unfold State.beforeWrite
  dsimp only
  split
  · split
    · simpa using State.releaseWave_memWf h
    · exact h
  · split
    · simpa using State.releaseWave_memWf h
    · exact h
  · split
    · simpa using State.releaseWave_memWf h
    · exact h

theorem callWord_nextMemWf {op : Nat} {w : WWord} {s : State} {relative : Bool} (h : s.memWf) :
    nextMemWf (callWord op w s relative) := by
  unfold callWord
  dsimp only
  refine lastWord_nextMemWf h (fun _ _ _ hs => ?_)
  split
  · split
    · exact State.trapHere_memWf hs
    · split
      · simpa using hs
      · split
        · exact hs
        · split
          · exact State.trapWave_memWf hs
          · exact State.withLanes_memWf hs (fun _ _ hs => by simpa using State.writeLanes_memWf (State.beforeWrite_memWf hs))
  · split
    · exact State.trapHere_memWf hs
    · split
      · simpa using hs
      · split
        · exact hs
        · split
          · exact State.trapWave_memWf hs
          · exact State.withLanes_memWf hs (fun _ _ hs => by simpa using State.writeLanes_memWf (State.beforeWrite_memWf hs))

@[simp] theorem State.loadWindow_mem (s : State) (core off : Nat) : (s.loadWindow core off).2.mem = s.mem := by
  unfold State.loadWindow
  split
  · split <;> simp
  · rfl

@[simp] theorem State.readBeyond_mem (s : State) (core a : Nat) : (s.readBeyond core a).2.mem = s.mem := by
  unfold State.readBeyond
  split
  · simp [State.readL1_mem]
  · rfl

@[simp] theorem State.readByte_mem (s : State) (r : WaveRef) (ctx : Nat) (mode : ReadMode) (d : Nat) :
    (s.readByte r ctx mode d).2.mem = s.mem := by
  unfold State.readByte
  split
  · rfl
  · split
    · simp
    · simp
    · split <;> simp [State.readL1_mem]
    · split <;> simp [State.readL1_mem]
    · rfl

@[simp] theorem State.readLane_mem (s : State) (r : WaveRef) (ctx : Nat) (mode : ReadMode) (a : LaneAcc) :
    (s.readLane r ctx mode a).2.mem = s.mem := by
  unfold State.readLane
  split <;> simp

@[simp] theorem State.readLanes_mem (s : State) (r : WaveRef) (ctx : Nat) (mode : ReadMode) (l : List LaneAcc) :
    (s.readLanes r ctx mode l).2.mem = s.mem := by
  simp [State.readLanes]

theorem execWRet_nextMemWf {w : WWord} {s : State} (h : s.memWf) : nextMemWf (execWRet w s) := by
  unfold execWRet
  dsimp only
  refine lastWord_nextMemWf h (fun _ _ _ hs => ?_)
  split
  · exact State.trapHere_memWf hs
  · split
    · simpa using hs
    · split
      · exact State.trapWave_memWf hs
      · split
        · simpa using hs
        · split
          · exact hs
          · exact State.withLanes_memWf hs (fun _ _ hs => by simpa using hs)

@[simp] theorem State.parkWg_mem (s : State) (r : WgRef) (p : Park) : (s.parkWg r p).mem = s.mem := by
  simp [State.parkWg]

@[simp] theorem State.gbarArrive_mem (s : State) (r : WgRef) : (s.gbarArrive r).mem = s.mem := by
  unfold State.gbarArrive
  split <;> simp

theorem execWExit_nextMemWf {w : WWord} {s : State} (h : s.memWf) : nextMemWf (execWExit w s) :=
  lastWord_nextMemWf h (fun _ _ _ hs => by simpa using hs)

theorem stopWord_nextMemWf {op : Nat} {kind : TrapKind} {w : WWord} {s : State} (h : s.memWf) :
    nextMemWf (stopWord op kind w s) := by
  unfold stopWord
  dsimp only
  refine lastWord_nextMemWf h (fun _ _ _ hs => ?_)
  split
  · simpa using hs
  · exact State.trapWave_memWf (by simpa using hs)

theorem execWNop_nextMemWf {w : WWord} {s : State} (h : s.memWf) : nextMemWf (execWNop w s) :=
  plainWord_nextMemWf h (fun _ _ _ _ hs => hs)

theorem execWYield_nextMemWf {w : WWord} {s : State} (h : s.memWf) : nextMemWf (execWYield w s) :=
  plainWord_nextMemWf h (fun _ _ _ _ hs => hs)

@[simp] theorem State.holdLanes_mem (s : State) (c : WaveCtx) (w : WWord) (mask : Lanes) (wait : Nat → LaneWait) :
    (s.holdLanes c w mask wait).mem = s.mem := by
  simp [State.holdLanes]

theorem execWSleep_nextMemWf {w : WWord} {s : State} (h : s.memWf) : nextMemWf (execWSleep w s) := by
  unfold execWSleep
  dsimp only
  exact waveWord_nextMemWf h (fun _ _ _ hs => by simpa using hs)

theorem execWWaitf_nextMemWf {w : WWord} {s : State} (h : s.memWf) : nextMemWf (execWWaitf w s) := by
  unfold execWWaitf
  dsimp only
  exact waveWord_nextMemWf h (fun _ _ _ hs => by simpa using hs)

theorem flt2_nextMemWf {op : Nat} {w : WWord} {s : State} {f : Fmt → Nat → Nat → Nat × BitVec 6} (h : s.memWf) :
    nextMemWf (flt2 op w s f) :=
  vecWord_nextMemWf h

theorem flt3_nextMemWf {op : Nat} {w : WWord} {s : State} {f : Fmt → Nat → Nat → Nat → Nat × BitVec 6} (h : s.memWf) :
    nextMemWf (flt3 op w s f) :=
  vecWord_nextMemWf h

theorem flt1_nextMemWf {op : Nat} {w : WWord} {s : State} {f : Fmt → Nat → Nat × BitVec 6} (h : s.memWf) :
    nextMemWf (flt1 op w s f) :=
  vecWord_nextMemWf h

theorem longWord_nextMemWf {op : Nat} {w : WWord} {s : State} {body : Nat → WaveForm → WaveCtx → State → State}
    (h : s.memWf) (hbody : ∀ a0 a1 a2 t, t.memWf → (body a0 a1 a2 t).memWf) :
    nextMemWf (longWord op w s body) := by
  unfold longWord
  split
  · exact h
  · split
    · exact State.trapHere_memWf h
    · refine rawWord_nextMemWf h (fun _ _ _ hs => ?_)
      split
      · exact State.trapHere_memWf hs
      · split
        · exact hs
        · exact hbody _ _ _ _ hs

@[simp] theorem State.bindPending_mem (s : State) (c : WaveCtx) (p : Pending) : (s.bindPending c p).mem = s.mem := by
  simp [State.bindPending]

theorem funcWord_nextMemWf {op : Nat} {fn : Func} {w : WWord} {s : State} (h : s.memWf) :
    nextMemWf (funcWord op fn w s) := by
  unfold funcWord
  dsimp only
  exact longWord_nextMemWf h (fun _ _ _ _ hs => by simpa using hs)

theorem execWCvt_nextMemWf {w : WWord} {s : State} (h : s.memWf) : nextMemWf (execWCvt w s) := by
  unfold execWCvt
  dsimp only
  exact plainWord_nextMemWf h (fun _ _ _ _ hs => by simpa using hs)

theorem execWPack_nextMemWf {w : WWord} {s : State} (h : s.memWf) : nextMemWf (execWPack w s) := by
  unfold execWPack
  dsimp only
  exact plainWord_nextMemWf h (fun _ _ _ _ hs => by simpa using hs)

theorem execWUnpack_nextMemWf {w : WWord} {s : State} (h : s.memWf) : nextMemWf (execWUnpack w s) := by
  unfold execWUnpack
  dsimp only
  exact plainWord_nextMemWf h (fun _ _ _ _ hs => by simpa using hs)

theorem execWDot2_nextMemWf {w : WWord} {s : State} (h : s.memWf) : nextMemWf (execWDot2 w s) := by
  unfold execWDot2
  dsimp only
  exact vecWord_nextMemWf h

theorem execWDot4_nextMemWf {w : WWord} {s : State} (h : s.memWf) : nextMemWf (execWDot4 w s) := by
  unfold execWDot4
  dsimp only
  exact vecWord_nextMemWf h

theorem execWReduce_nextMemWf {w : WWord} {s : State} (h : s.memWf) : nextMemWf (execWReduce w s) := by
  unfold execWReduce
  dsimp only
  exact plainWord_nextMemWf h (fun _ _ _ _ hs => by simpa using hs)

theorem execWScan_nextMemWf {w : WWord} {s : State} (h : s.memWf) : nextMemWf (execWScan w s) := by
  unfold execWScan
  dsimp only
  exact plainWord_nextMemWf h (fun _ _ _ _ hs => by simpa using hs)

theorem execWTopk_nextMemWf {w : WWord} {s : State} (h : s.memWf) : nextMemWf (execWTopk w s) := by
  unfold execWTopk
  dsimp only
  exact longWord_nextMemWf h (fun _ _ _ _ hs => by simpa using hs)

theorem execWBallot_nextMemWf {w : WWord} {s : State} (h : s.memWf) : nextMemWf (execWBallot w s) := by
  unfold execWBallot
  dsimp only
  refine plainWord_nextMemWf h (fun _ _ _ _ hs => ?_)
  split <;> simpa using hs

theorem execWVote_nextMemWf {w : WWord} {s : State} (h : s.memWf) : nextMemWf (execWVote w s) := by
  unfold execWVote
  dsimp only
  exact plainWord_nextMemWf h (fun _ _ _ _ hs => by simpa using hs)

@[simp] theorem State.issueWord_mem (s : State) (c : WaveCtx) (f : WaveForm) (w : WWord) :
    (s.issueWord c f w).mem = s.mem := by
  simp [State.issueWord]

@[simp] theorem State.endWord_mem (s : State) (c : WaveCtx) (w : WWord) : (s.endWord c w).mem = s.mem := by
  simp [State.endWord]

theorem execWLd_nextMemWf {w : WWord} {s : State} (h : s.memWf) : nextMemWf (execWLd w s) := by
  unfold execWLd
  dsimp only
  exact longWord_nextMemWf h (fun _ _ _ _ hs => State.withLanes_memWf hs (fun _ _ hs => by simpa using hs))

theorem execWSt_nextMemWf {w : WWord} {s : State} (h : s.memWf) : nextMemWf (execWSt w s) := by
  unfold execWSt
  dsimp only
  refine rawWord_nextMemWf h (fun _ _ _ hs => State.withLanes_memWf hs (fun _ _ hs => ?_))
  refine State.memWf_of_mem (State.endWord_mem ..) ?_
  refine State.writeLanes_memWf ?_
  split
  · simpa using hs
  · exact State.beforeWrite_memWf (by simpa using hs)

theorem State.trapLanes_memWf {s : State} {c : WaveCtx} {k : TrapKind} {acc : AccKind} {va : Nat} {mask : Lanes}
    {needs : List Nat} (h : s.memWf) :
    (s.trapLanes c k acc va mask needs).memWf :=
  State.trapAccess_memWf h

theorem State.protectLanes_memWf {s : State} {c : WaveCtx} {acc : AccKind} {bad : List (Nat × Nat)}
    {f : State → State} (h : s.memWf) (hf : ∀ t, t.memWf → (f t).memWf) :
    (s.protectLanes c acc bad f).memWf := by
  unfold State.protectLanes
  split
  · exact hf _ h
  · exact State.trapLanes_memWf h

@[simp] theorem State.freeBytes_mem (s : State) (n : Nat) : (s.freeBytes n).2.mem = s.mem := rfl

@[simp] theorem State.spoilQueue_mem (s : State) (r : WgRef) (size : Nat) (l : List (Nat × Nat)) :
    (s.spoilQueue r size l).mem = s.mem := by
  unfold State.spoilQueue
  split <;> simp

@[simp] theorem State.loadScratch_mem (s : State) (r : WgRef) (g : Workgroup) (off n : Nat) :
    (s.loadScratch r g off n).2.mem = s.mem := by
  unfold State.loadScratch
  refine List.foldrRecOn (motive := fun a : List Byte × State => a.2.mem = s.mem) _ _ rfl fun a ha i _ => ?_
  dsimp only
  split <;> exact ha

@[simp] theorem State.loadLanes_mem (s : State) (r : WgRef) (g : Workgroup) (mask : Lanes) (off : Nat → Nat)
    (size : Nat) :
    (s.loadLanes r g mask off size).2.mem = s.mem := by
  unfold State.loadLanes
  refine List.foldrRecOn (motive := fun a : List Nat × State => a.2.mem = s.mem) _ _ rfl fun a ha i _ => ?_
  dsimp only
  split
  · simpa using ha
  · exact ha

theorem execWLds_nextMemWf {w : WWord} {s : State} (h : s.memWf) : nextMemWf (execWLds w s) := by
  unfold execWLds
  dsimp only
  refine longWord_nextMemWf h (fun _ _ _ _ hs => State.protectLanes_memWf hs (fun _ hs => ?_))
  split
  · exact State.trapLanes_memWf hs
  · split <;> simpa using hs

theorem State.stopRing_memWf {s : State} {r : WgRef} {k : TrapKind} (h : s.memWf) : (s.stopRing r k).memWf :=
  State.contain_memWf (by simpa using h)

theorem State.notifyRing_memWf {s : State} {r : WgRef} (h : s.memWf) : (s.notifyRing r).memWf := by
  unfold State.notifyRing
  split
  · exact h
  · dsimp only
    split
    · exact h
    · split
      · exact State.stopRing_memWf h
      · split
        · exact h
        · split
          · exact State.stopRing_memWf h
          · split
            · exact h
            · split
              · exact State.stopRing_memWf h
              · split
                · exact State.stopRing_memWf h
                · simpa using h

theorem execWSts_nextMemWf {w : WWord} {s : State} (h : s.memWf) : nextMemWf (execWSts w s) := by
  unfold execWSts
  dsimp only
  refine rawWord_nextMemWf h (fun _ _ _ hs => State.protectLanes_memWf hs (fun _ hs => ?_))
  split
  · refine State.notifyRing_memWf ?_
    refine State.memWf_of_mem (State.raceStore_mem ..) ?_
    refine State.memWf_of_mem (State.spoilQueue_mem ..) ?_
    refine foldl_memWf _ _ (fun _ _ hs => by simpa using hs) _ ?_
    refine State.memWf_of_mem (State.endWord_mem ..) ?_
    split
    · simpa using hs
    · exact State.beforeWrite_memWf (by simpa using hs)
  · refine State.memWf_of_mem (State.raceStore_mem ..) ?_
    refine State.memWf_of_mem (State.spoilQueue_mem ..) ?_
    refine foldl_memWf _ _ (fun _ _ hs => by simpa using hs) _ ?_
    refine State.memWf_of_mem (State.endWord_mem ..) ?_
    split
    · simpa using hs
    · exact State.beforeWrite_memWf (by simpa using hs)

theorem State.protectUniform_memWf {s : State} {c : WaveCtx} {acc : AccKind} {a : Nat} (h : s.memWf) :
    (s.protectUniform c acc a).memWf :=
  State.trapLanes_memWf h

@[simp] theorem State.updGang_mem (s : State) (grid : Nat) (l : Lpb) (wgl : Nat) (f : Workgroup → Workgroup) :
    (s.updGang grid l wgl f).mem = s.mem := rfl

theorem execWSend_nextMemWf {w : WWord} {s : State} (h : s.memWf) : nextMemWf (execWSend w s) := by
  unfold execWSend
  dsimp only
  refine rawWord_nextMemWf h (fun _ _ _ hs => ?_)
  split
  · simpa using hs
  · split
    · exact State.protectUniform_memWf hs
    · split
      · simpa using hs
      · split
        · exact hs
        · split
          · exact hs
          · simpa using State.beforeWrite_memWf (by simpa using hs)

theorem execWRecv_nextMemWf {w : WWord} {s : State} (h : s.memWf) : nextMemWf (execWRecv w s) := by
  unfold execWRecv
  dsimp only
  refine longWord_nextMemWf h (fun _ _ _ _ hs => ?_)
  split <;> simpa using hs

theorem execWPref_nextMemWf {w : WWord} {s : State} (h : s.memWf) : nextMemWf (execWPref w s) :=
  plainWord_nextMemWf h (fun _ _ _ _ hs => hs)

theorem uniformWord_nextMemWf {op : Nat} {w : WWord} {s : State}
    {body : WaveForm → WaveCtx → Nat → Nat → State → State} (h : s.memWf)
    (hbody : ∀ a0 a1 a2 a3 t, t.memWf → (body a0 a1 a2 a3 t).memWf) :
    nextMemWf (uniformWord op w s body) := by
  unfold uniformWord
  dsimp only
  refine rawWord_nextMemWf h (fun _ _ _ hs => ?_)
  split
  · simpa using hs
  · exact hbody _ _ _ _ _ hs

@[simp] theorem State.awaitMaintenance_mem (s : State) (r : WaveRef) : (s.awaitMaintenance r).mem = s.mem := by
  simp [State.awaitMaintenance]

theorem maintainWord_nextMemWf {op : Nat} {inv : Bool} {w : WWord} {s : State} (h : s.memWf) :
    nextMemWf (maintainWord op inv w s) := by
  unfold maintainWord
  dsimp only
  refine uniformWord_nextMemWf h (fun _ _ _ _ _ hs => ?_)
  split
  · simpa using hs
  · split
    · exact State.protectUniform_memWf hs
    · refine State.memWf_of_mem (State.endWord_mem ..) ?_
      refine State.memWf_of_mem (State.awaitMaintenance_mem ..) ?_
      split
      · exact State.invalidate_memWf _ _ _ (by simpa using hs)
      · exact State.writeBack_memWf _ _ _ (by simpa using hs)

theorem State.withAtomics_memWf {s : State} {c : WaveCtx} {size : Nat} {toHost : Bool} {l : List (Nat × Nat)}
    {f : List LaneAcc → State → State} (h : s.memWf) (hf : ∀ a0 t, t.memWf → (f a0 t).memWf) :
    (s.withAtomics c size toHost l f).memWf := by
  unfold State.withAtomics
  dsimp only
  split
  · exact hf _ _ (by simpa using h)
  · simpa using h
  · exact State.trapAccess_memWf (by simpa using h)

theorem State.settleByte_memWf {s : State} {r : WaveRef} {d : Nat} (h : s.memWf) : (s.settleByte r d).memWf :=
  State.settleL1_memWf _ _ _ (State.flushLine_memWf h)

@[simp] theorem State.noteWrite_mem (s : State) (a n : Nat) : (s.noteWrite a n).mem = s.mem := by
  unfold State.noteWrite
  dsimp only
  refine (foldl_mem fun _ _ => ?_).trans ?_
  · simp
  · rfl

theorem State.atomicLane_memWf {s : State} {r : WaveRef} {a : LaneAcc} {f : Nat → Nat} (h : s.memWf) :
    (s.atomicLane r a f).2.memWf := by
  unfold State.atomicLane
  dsimp only
  simpa using foldl_memWf _ _ (fun _ _ hs => State.writeThrough_memWf _ _ _ _ hs) _
    (foldl_memWf _ _ (fun _ _ hs => State.settleByte_memWf hs) _ h)

theorem State.atomicLanes_memWf {s : State} {r : WaveRef} {f : Nat → Nat → Nat × BitVec 6} {l : List LaneAcc}
    {acc : List (Nat × Nat) × BitVec 6} (h : s.memWf) : (s.atomicLanes r f l acc).2.memWf := by
  induction l generalizing s acc with
  | nil => exact h
  | cons a rest ih => exact ih (State.atomicLane_memWf h)

theorem execWAtom_nextMemWf {w : WWord} {s : State} (h : s.memWf) : nextMemWf (execWAtom w s) := by
  unfold execWAtom
  dsimp only
  refine longWord_nextMemWf h (fun _ _ _ _ hs => State.withAtomics_memWf hs (fun _ _ hs => ?_))
  refine State.memWf_of_mem (State.endWord_mem ..) ?_
  refine State.memWf_of_mem (State.bindPending_mem ..) ?_
  refine State.atomicLanes_memWf ?_
  split
  · simpa using hs
  · exact State.beforeWrite_memWf (by simpa using hs)

theorem State.casLane_memWf {s : State} {r : WaveRef} {a : LaneAcc} {before : State → State} {cmp new : Nat}
    (h : s.memWf) (hbefore : ∀ t, t.memWf → (before t).memWf) :
    (s.casLane r a before cmp new).2.memWf := by
  unfold State.casLane
  dsimp only
  split
  · exact State.atomicLane_memWf (hbefore _ (foldl_memWf _ _ (fun _ _ hs => State.settleByte_memWf hs) _ h))
  · exact foldl_memWf _ _ (fun _ _ hs => State.settleByte_memWf hs) _ h

theorem State.casLanes_memWf {s : State} {r : WaveRef} {order : MOrder} {cmp new : List Nat} {l : List LaneAcc}
    {acc : List (Nat × Nat)} (h : s.memWf) : (s.casLanes r order cmp new l acc).2.memWf := by
  induction l generalizing s acc with
  | nil => exact h
  | cons a rest ih => exact ih (State.casLane_memWf h (fun _ ht => State.beforeWrite_memWf ht))

theorem execWAtomcas_nextMemWf {w : WWord} {s : State} (h : s.memWf) : nextMemWf (execWAtomcas w s) := by
  unfold execWAtomcas
  dsimp only
  exact longWord_nextMemWf h (fun _ _ _ _ hs => State.withAtomics_memWf hs (fun _ _ hs => by
    simpa using State.casLanes_memWf (by simpa using hs)))

theorem execWRed_nextMemWf {w : WWord} {s : State} (h : s.memWf) : nextMemWf (execWRed w s) := by
  unfold execWRed
  dsimp only
  refine rawWord_nextMemWf h (fun _ _ _ hs => State.withAtomics_memWf hs (fun _ _ hs => ?_))
  refine State.memWf_of_mem (State.endWord_mem ..) ?_
  refine State.memWf_of_mem (State.raise_mem ..) ?_
  refine State.atomicLanes_memWf ?_
  split
  · simpa using hs
  · exact State.beforeWrite_memWf (by simpa using hs)

theorem execWBind_nextMemWf {w : WWord} {s : State} (h : s.memWf) : nextMemWf (execWBind w s) := by
  unfold execWBind
  dsimp only
  refine uniformWord_nextMemWf h (fun _ _ _ _ _ hs => ?_)
  split
  · exact State.protectUniform_memWf hs
  · simpa using hs

theorem execWUnbind_nextMemWf {w : WWord} {s : State} (h : s.memWf) : nextMemWf (execWUnbind w s) :=
  uniformWord_nextMemWf h (fun _ _ _ _ _ hs => by simpa using hs)

theorem State.withUniform_memWf {s : State} {c : WaveCtx} {acc : AccKind} {size a : Nat}
    {f : List LaneAcc → State → State} (h : s.memWf) (hf : ∀ a0 t, t.memWf → (f a0 t).memWf) :
    (s.withUniform c acc size a f).memWf := by
  unfold State.withUniform
  dsimp only
  split
  · exact hf _ _ (by simpa using h)
  · simpa using h
  · exact State.trapAccess_memWf (by simpa using h)

theorem State.acquireObject_memWf {s : State} {core ctx object : Nat} (h : s.memWf) :
    (s.acquireObject core ctx object).memWf := by
  unfold State.acquireObject
  refine foldl_memWf _ _ (fun _ _ hs => ?_) _ h
  split
  · exact State.invalidate_memWf _ _ _ hs
  · exact hs

theorem execWAcq_nextMemWf {w : WWord} {s : State} (h : s.memWf) : nextMemWf (execWAcq w s) := by
  unfold execWAcq
  dsimp only
  refine uniformWord_nextMemWf h (fun _ _ _ _ _ hs => ?_)
  split
  · exact State.protectUniform_memWf hs
  · refine State.withUniform_memWf hs (fun _ _ hs => ?_)
    split
    · simpa using State.acquireObject_memWf (by simpa using hs)
    · simpa using hs

theorem execWRel_nextMemWf {w : WWord} {s : State} (h : s.memWf) : nextMemWf (execWRel w s) := by
  unfold execWRel
  dsimp only
  refine uniformWord_nextMemWf h (fun _ _ _ _ _ hs => ?_)
  split
  · exact State.protectUniform_memWf hs
  · refine State.withUniform_memWf hs (fun _ _ hs => ?_)
    refine State.memWf_of_mem (State.endWord_mem ..) ?_
    refine State.memWf_of_mem (State.awaitMaintenance_mem ..) ?_
    refine State.writeLanes_memWf (State.beforeWrite_memWf (foldl_memWf _ _ (fun _ _ hs => ?_) _ (by simpa using hs)))
    split
    · exact State.writeBack_memWf _ _ _ hs
    · exact hs

theorem execWFence_nextMemWf {w : WWord} {s : State} (h : s.memWf) : nextMemWf (execWFence w s) := by
  unfold execWFence
  dsimp only
  refine uniformWord_nextMemWf h (fun _ _ _ _ _ hs => ?_)
  refine State.memWf_of_mem (State.endWord_mem ..) ?_
  split
  · refine State.acquireCore_memWf _ _ ?_
    split
    · refine State.releaseCore_memWf _ _ (State.drainWc_memWf _ _ ?_)
      split
      · refine State.drainWc_memWf _ _ ?_
        refine State.memWf_of_mem (State.updWave_mem ..) ?_
        split <;> simpa using hs
      · refine State.memWf_of_mem (State.updWave_mem ..) ?_
        split <;> simpa using hs
    · split
      · refine State.drainWc_memWf _ _ ?_
        refine State.memWf_of_mem (State.updWave_mem ..) ?_
        split <;> simpa using hs
      · refine State.memWf_of_mem (State.updWave_mem ..) ?_
        split <;> simpa using hs
  · split
    · refine State.releaseCore_memWf _ _ (State.drainWc_memWf _ _ ?_)
      split
      · refine State.drainWc_memWf _ _ ?_
        refine State.memWf_of_mem (State.updWave_mem ..) ?_
        split <;> simpa using hs
      · refine State.memWf_of_mem (State.updWave_mem ..) ?_
        split <;> simpa using hs
    · split
      · refine State.drainWc_memWf _ _ ?_
        refine State.memWf_of_mem (State.updWave_mem ..) ?_
        split <;> simpa using hs
      · refine State.memWf_of_mem (State.updWave_mem ..) ?_
        split <;> simpa using hs

theorem execWBar_nextMemWf {w : WWord} {s : State} (h : s.memWf) : nextMemWf (execWBar w s) := by
  unfold execWBar
  dsimp only
  refine rawWord_nextMemWf h (fun _ _ _ hs => ?_)
  split <;> simpa using hs

theorem execWGbar_nextMemWf {w : WWord} {s : State} (h : s.memWf) : nextMemWf (execWGbar w s) :=
  waveWord_nextMemWf h (fun _ _ _ hs => by simpa using hs)

theorem execWArrive_nextMemWf {w : WWord} {s : State} (h : s.memWf) : nextMemWf (execWArrive w s) := by
  unfold execWArrive
  dsimp only
  refine rawWord_nextMemWf h (fun _ _ _ hs => ?_)
  split <;> simpa using hs

theorem execWWaitb_nextMemWf {w : WWord} {s : State} (h : s.memWf) : nextMemWf (execWWaitb w s) := by
  unfold execWWaitb
  dsimp only
  exact waveWord_nextMemWf h (fun _ _ _ hs => by simpa using hs)

theorem execWOpfence_nextMemWf {w : WWord} {s : State} (h : s.memWf) : nextMemWf (execWOpfence w s) :=
  uniformWord_nextMemWf h (fun _ _ _ _ _ hs => by simpa using State.releaseCore_memWf _ _ (State.drainWc_memWf _ _ (by simpa using hs)))

theorem timelineWord_nextMemWf {op : Nat} {add : Bool} {w : WWord} {s : State} (h : s.memWf) :
    nextMemWf (timelineWord op add w s) := by
  unfold timelineWord
  dsimp only
  refine uniformWord_nextMemWf h (fun _ _ _ _ _ hs => ?_)
  split
  · simpa using hs
  · split
    · exact State.protectUniform_memWf hs
    · refine State.withUniform_memWf hs (fun _ _ hs => ?_)
      split
      · exact State.protectUniform_memWf hs
      · simpa using State.performTimelineOf_memWf (State.flushLine_memWf (State.beforeWrite_memWf (by simpa using hs)))
      · simpa using State.beforeWrite_memWf hs

theorem execWTlwait_nextMemWf {w : WWord} {s : State} (h : s.memWf) : nextMemWf (execWTlwait w s) := by
  unfold execWTlwait
  dsimp only
  refine uniformWord_nextMemWf h (fun _ _ _ _ _ hs => ?_)
  split
  · exact State.protectUniform_memWf hs
  · refine State.withUniform_memWf hs (fun _ _ hs => ?_)
    split <;> simpa using hs

theorem State.enqueueLaunch_memWf {s t : State} {core ctx : Nat} {lpb : W64} {b : List Byte} {slot : Option Nat}
    (h : s.memWf) (ht : s.enqueueLaunch core ctx lpb b slot = some t) : t.memWf := by
  unfold State.enqueueLaunch at ht
  dsimp only at ht
  split at ht
  · cases ht
  · split at ht
    · cases ht
      simpa using h
    · split at ht
      · split at ht
        · cases ht
          refine State.memWf_of_mem (State.updContext_mem ..) ?_
          exact State.putPhys_memWf h
        · cases ht
      · cases ht

theorem execWLaunch_nextMemWf {w : WWord} {s : State} (h : s.memWf) : nextMemWf (execWLaunch w s) := by
  unfold execWLaunch
  refine uniformWord_nextMemWf h fun _ c a _ s hs => ?_
  split
  · exact State.protectUniform_memWf hs
  · refine State.withUniform_memWf hs fun l s0 h0 => ?_
    extract_lets t x b u done k cls direct put
    have hu : u.memWf := by simpa [u, x] using State.releaseCore_memWf _ _ (s0.drainWc_memWf c.r h0)
    have hput (slot : Option Nat) (v : State) (hv : v.memWf) : (put slot v).memWf := by
      unfold put
      split
      · next heq => simpa [done] using State.enqueueLaunch_memWf hv heq
      · simpa [done] using hv
    split
    · exact hput _ _ hu
    · exact State.withUniform_memWf hu fun l v hv => hput _ _ hv

theorem execWSetperf_nextMemWf {w : WWord} {s : State} (h : s.memWf) : nextMemWf (execWSetperf w s) := by
  unfold execWSetperf
  dsimp only
  refine plainWord_nextMemWf h (fun _ _ _ _ hs => ?_)
  split <;> simpa using hs

theorem execWProgress_nextMemWf {w : WWord} {s : State} (h : s.memWf) : nextMemWf (execWProgress w s) := by
  unfold execWProgress
  dsimp only
  exact uniformWord_nextMemWf h (fun _ _ _ _ _ hs => by simpa using hs)

theorem execWRdv_nextMemWf {w : WWord} {s : State} (h : s.memWf) : nextMemWf (execWRdv w s) := by
  unfold execWRdv
  refine rawWord_nextMemWf h (fun _ _ _ hs => ?_)
  split
  · exact State.trapHere_memWf hs
  · simpa using hs

@[simp] theorem State.updSeq_mem (s : State) (c : SeqIssue) (f : SeqState → SeqState) :
    (s.updSeq c f).mem = s.mem := by
  unfold State.updSeq
  split <;> simp

@[simp] theorem State.countSeq_mem (s : State) (c : SeqIssue) : (s.countSeq c).mem = s.mem := by
  simp [State.countSeq]

theorem seqWord_nextMemWf {op : Nat} {w : SWord} {s : State} {body : SeqFmt → SeqIssue → State → SeqDone}
    (h : s.memWf)
    (hbody : ∀ f c, (body f c s).memWf) : nextMemWf (seqWord op w s body) := by
  have issues (f : SeqForm) (c : SeqIssue) (ctx : SeqCtx) : nextMemWf (match body f.fmt c s with
      | .stall s => .next s
      | .trap k acc code va needs s => .next (s.seqTrap c k acc code va needs)
      | .go on s => .next ((s.updJob c.r (fun j => if ctx = .trap then j else j.takeTokens ctx w on)).countSeq c)) := by
    have hb := hbody f.fmt c
    split
    · next heq => simpa [heq] using hb
    · next heq => exact State.seqTrap_memWf (by simpa [heq] using hb)
    · next heq => simpa [heq] using hb
  unfold seqWord
  split
  · split
    · exact h
    · split
      · exact State.seqTrap_memWf h
      · split
        · exact h
        · split
          · exact h
          · split
            · exact State.seqTrap_memWf h
            · exact issues ..
  · exact h

@[simp] theorem State.seqWrite_mem (s : State) (c : SeqIssue) (d : BitVec 5) (v : W64) :
    (s.seqWrite c d v).mem = s.mem := by
  simp [State.seqWrite]

theorem seqResult_nextMemWf {op : Nat} {w : SWord} {s : State} {f : W64 → W64 → W64} (h : s.memWf) :
    nextMemWf (seqResult op w s f) :=
  seqWord_nextMemWf h (fun _ _ => by simpa using h)

theorem execSeqAddi_nextMemWf {w : SWord} {s : State} (h : s.memWf) : nextMemWf (execSeqAddi w s) :=
  seqWord_nextMemWf h (fun _ _ => by simpa using h)

theorem execSeqLi_nextMemWf {w : SWord} {s : State} (h : s.memWf) : nextMemWf (execSeqLi w s) :=
  seqWord_nextMemWf h (fun _ _ => by simpa using h)

theorem execSeqLui_nextMemWf {w : SWord} {s : State} (h : s.memWf) : nextMemWf (execSeqLui w s) :=
  seqWord_nextMemWf h (fun _ _ => by simpa using h)

theorem seqJump_memWf {c : SeqIssue} {d : BitVec 5} {link : Bool} {target : Int} {s : State} (h : s.memWf) :
    (seqJump c d link target s).memWf := by
  unfold seqJump
  split <;> simpa using h

@[simp] theorem State.seqNext_mem (s : State) (c : SeqIssue) : (s.seqNext c).mem = s.mem := by
  simp [State.seqNext]

theorem seqBranch_nextMemWf {op : Nat} {w : SWord} {s : State} {p : W64 → W64 → Bool} (h : s.memWf) :
    nextMemWf (seqBranch op w s p) := by
  unfold seqBranch
  refine seqWord_nextMemWf h (fun _ _ => ?_)
  split
  · exact seqJump_memWf h
  · simpa using h

theorem execSeqJ_nextMemWf {w : SWord} {s : State} (h : s.memWf) : nextMemWf (execSeqJ w s) :=
  seqWord_nextMemWf h (fun _ _ => seqJump_memWf h)

theorem execSeqJal_nextMemWf {w : SWord} {s : State} (h : s.memWf) : nextMemWf (execSeqJal w s) :=
  seqWord_nextMemWf h (fun _ _ => seqJump_memWf h)

theorem execSeqJr_nextMemWf {w : SWord} {s : State} (h : s.memWf) : nextMemWf (execSeqJr w s) := by
  unfold execSeqJr
  refine seqWord_nextMemWf h (fun _ _ => ?_)
  split
  · exact h
  · exact seqJump_memWf h

theorem seqFault_memWf {c : SeqIssue} {x : Xlat} {acc : AccKind} {va : Nat} {s : State} (h : s.memWf) :
    (seqFault c x acc va s).memWf := by
  unfold seqFault
  split
  · exact h
  · exact h
  · dsimp only
    exact h
  · exact h

@[simp] theorem State.mapAccess_mem (s : State) (core ctx va size : Nat) (acc : AccKind) :
    (s.mapAccess core ctx va size acc).2.mem = s.mem := by
  unfold State.mapAccess
  dsimp only
  split <;> split <;> simp

@[simp] theorem State.readDv_mem (s : State) (core ctx d : Nat) : (s.readDv core ctx d).2.mem = s.mem := by
  unfold State.readDv
  split <;> simp

theorem State.seqAccess_memWf {s : State} {c : SeqIssue} {reg : Nat} {v : W64} (h : s.memWf) :
    (s.seqAccess c reg v).memWf := by
  unfold State.seqAccess
  simpa using h

theorem execSeqLdg_nextMemWf {w : SWord} {s : State} (h : s.memWf) : nextMemWf (execSeqLdg w s) := by
  unfold execSeqLdg
  dsimp only
  refine seqWord_nextMemWf h (fun _ _ => ?_)
  split
  · exact seqFault_memWf h
  · split
    · split
      · simpa using h
      · split
        · exact seqFault_memWf (by simpa using h)
        · exact State.seqAccess_memWf (by simpa using h)
    · exact seqFault_memWf (by simpa using h)

theorem State.writeDv_memWf {s : State} {core ctx d v : Nat} (h : s.memWf) : (s.writeDv core ctx d v).memWf := by
  unfold State.writeDv
  split
  · exact State.deviceWrite_memWf h
  · dsimp only
    refine State.memWf_of_mem (State.noteStray_mem ..) ?_
    refine foldl_memWf _ _ (fun _ _ hs => ?_) _ h
    split
    · simpa [State.writeWindow_mem] using hs
    · exact hs
  · dsimp only
    simpa using foldl_memWf _ _ (fun _ _ hs => State.writeThrough_memWf _ _ _ _ hs) _ h

theorem execSeqStg_nextMemWf {w : SWord} {s : State} (h : s.memWf) : nextMemWf (execSeqStg w s) := by
  unfold execSeqStg
  dsimp only
  refine seqWord_nextMemWf h (fun _ _ => ?_)
  split
  · exact seqFault_memWf h
  · split
    · split
      · simpa using h
      · exact State.seqAccess_memWf (State.writeDv_memWf (by simpa using h))
    · exact seqFault_memWf (by simpa using h)

theorem execSeqCpy_nextMemWf {w : SWord} {s : State} (h : s.memWf) : nextMemWf (execSeqCpy w s) := by
  unfold execSeqCpy
  dsimp only
  refine seqWord_nextMemWf h (fun _ _ => ?_)
  split
  · simpa using h
  · split <;> simpa using h

theorem execSeqCpyw_nextMemWf {w : SWord} {s : State} (h : s.memWf) : nextMemWf (execSeqCpyw w s) := by
  unfold execSeqCpyw
  refine seqWord_nextMemWf h (fun _ _ => ?_)
  split <;> simpa using h

theorem execSeqMw_nextMemWf {w : SWord} {s : State} (h : s.memWf) : nextMemWf (execSeqMw w s) := by
  unfold execSeqMw
  dsimp only
  refine seqWord_nextMemWf h (fun _ _ => ?_)
  split
  · exact h
  · split
    · exact h
    · split <;> simpa using h

theorem execSeqNest_nextMemWf {w : SWord} {s : State} (h : s.memWf) : nextMemWf (execSeqNest w s) := by
  unfold execSeqNest
  dsimp only
  refine seqWord_nextMemWf h (fun _ _ => ?_)
  split
  · exact h
  · split <;> simpa using h

theorem execSeqGo_nextMemWf {w : SWord} {s : State} (h : s.memWf) : nextMemWf (execSeqGo w s) := by
  unfold execSeqGo
  dsimp only
  refine seqWord_nextMemWf h (fun _ _ => ?_)
  split
  · exact h
  · split <;> simpa using h

theorem execSeqNwait_nextMemWf {w : SWord} {s : State} (h : s.memWf) : nextMemWf (execSeqNwait w s) := by
  unfold execSeqNwait
  refine seqWord_nextMemWf h (fun _ _ => ?_)
  split <;> simpa using h

theorem execSeqSpw_nextMemWf {w : SWord} {s : State} (h : s.memWf) : nextMemWf (execSeqSpw w s) := by
  unfold execSeqSpw
  dsimp only
  exact seqWord_nextMemWf h (fun _ _ => by simpa using h)

theorem execSeqTok_nextMemWf {w : SWord} {s : State} (h : s.memWf) : nextMemWf (execSeqTok w s) :=
  seqWord_nextMemWf h (fun _ _ => by simpa using h)

theorem execSeqPace_nextMemWf {w : SWord} {s : State} (h : s.memWf) : nextMemWf (execSeqPace w s) := by
  unfold execSeqPace
  refine seqWord_nextMemWf h (fun _ _ => ?_)
  split <;> simpa using h

theorem execSeqRdv_nextMemWf {w : SWord} {s : State} (h : s.memWf) : nextMemWf (execSeqRdv w s) :=
  seqWord_nextMemWf h (fun _ _ => by simpa using h)

@[simp] theorem State.translateSpan_mem (s : State) (core ctx va n : Nat) (acc : AccKind) :
    (s.translateSpan core ctx va n acc).2.mem = s.mem := by
  unfold State.translateSpan
  split <;> simp

@[simp] theorem State.readVia_mem (s : State) (core : Nat) (g : Workgroup) (va n : Nat) :
    (s.readVia core g va n).2.mem = s.mem := by
  unfold State.readVia
  dsimp only
  split
  · split
    · simp
    · split
      · dsimp only
        refine (foldl_snd_mem fun _ _ => ?_).trans ?_
        · split <;> simp
        · simp
      · dsimp only
        refine (State.noteStray_mem ..).trans ?_
        refine (foldl_snd_mem fun _ _ => ?_).trans ?_
        · split <;> simp
        · simp
  · simp

@[simp] theorem State.readOverlay_mem (s : State) (core : Nat) (g : Workgroup) (va : Nat) :
    (s.readOverlay core g va).2.mem = s.mem := by
  unfold State.readOverlay
  dsimp only
  split
  · split
    · simp
    · split <;> simp
  · simp

theorem execSeqOvl_nextMemWf {w : SWord} {s : State} (h : s.memWf) : nextMemWf (execSeqOvl w s) := by
  unfold execSeqOvl
  dsimp only
  refine seqWord_nextMemWf h (fun _ _ => ?_)
  split
  · exact h
  · split
    · exact seqFault_memWf h
    · split
      · split
        · split
          · exact seqFault_memWf (by simpa using h)
          · simpa using h
        · split
          · exact seqFault_memWf (by simpa using h)
          · simpa using h
      · exact seqFault_memWf (by simpa using h)

@[simp] theorem State.tctx_mem (s : State) (t : TrapItem) : (s.tctx t).2.mem = s.mem := by
  unfold State.tctx
  split <;> simp

theorem State.readCr_mem {s : State} {c : SeqIssue} {t : TrapItem} {n : Nat} {x : W64 × State}
    (hx : s.readCr c t n = some x) : x.2.mem = s.mem := by
  unfold State.readCr at hx
  split at hx
  case h_9 =>
    split at hx <;> cases hx
    rfl
  all_goals
    cases hx
    simp

theorem execSeqMfc_nextMemWf {w : SWord} {s : State} (h : s.memWf) : nextMemWf (execSeqMfc w s) := by
  unfold execSeqMfc
  refine seqWord_nextMemWf h fun _ c => ?_
  split
  · exact h
  · split
    · next hv => simpa [State.readCr_mem hv] using h
    · exact h

@[simp] theorem State.updTrap_mem (s : State) (core : Nat) (f : TrapCtx → TrapCtx) :
    (s.updTrap core f).mem = s.mem := rfl

@[simp] theorem State.updTrapJob_mem (s : State) (core : Nat) (t : TrapItem) (f : Job → Job) :
    (s.updTrapJob core t f).mem = s.mem := by
  unfold State.updTrapJob
  dsimp only
  split
  · split <;> simp
  · simp
  · simp

@[simp] theorem State.updServed_mem (s : State) (core : Nat) (f : Job → Job) : (s.updServed core f).mem = s.mem := by
  unfold State.updServed
  split <;> simp

theorem execSeqMtc_nextMemWf {w : SWord} {s : State} (h : s.memWf) : nextMemWf (execSeqMtc w s) := by
  unfold execSeqMtc
  dsimp only
  refine seqWord_nextMemWf h (fun _ _ => ?_)
  split <;> simpa using h

theorem execSeqTrap_nextMemWf {w : SWord} {s : State} (h : s.memWf) : nextMemWf (execSeqTrap w s) := by
  unfold execSeqTrap
  refine seqWord_nextMemWf h (fun _ _ => ?_)
  split
  · simpa using h
  · exact State.trapSeq_memWf h

theorem execSeqEret_nextMemWf {w : SWord} {s : State} (h : s.memWf) : nextMemWf (execSeqEret w s) := by
  unfold execSeqEret
  dsimp only
  refine seqWord_nextMemWf h (fun _ _ => ?_)
  split
  · exact h
  · refine State.memWf_of_mem (State.leaveTrap_mem ..) ?_
    split <;> simpa using h

theorem State.tryComplete_memWf {s : State} {r : WgRef} (h : s.memWf) : (s.tryComplete r).memWf := by
  unfold State.tryComplete
  extract_lets t u
  have ht : t.memWf := by simpa [t] using h
  split
  · exact ht
  · split
    · exact ht
    · extract_lets _ _ a b c _ d
      have hb : b.mem = t.mem := by
        unfold b
        split <;> simp [a, u]
      have hd : d.mem = t.mem := by
        unfold d
        split <;> simpa [c] using hb
      exact State.tryCompleteGrid_memWf (State.memWf_of_mem hd ht)

theorem execSeqHalt_nextMemWf {w : SWord} {s : State} (h : s.memWf) : nextMemWf (execSeqHalt w s) := by
  have hw : nextMemWf (seqWord 0x36 w s (fun _ c s =>
      .go .now ((s.updSeq c (fun x => { x with halted := true })).seqNext c))) :=
    seqWord_nextMemWf h fun _ _ => by simpa using h
  unfold execSeqHalt
  split
  · next heq =>
    rw [heq] at hw
    split
    · split
      · exact State.tryComplete_memWf hw
      · exact hw
    · exact hw
  · exact hw

@[simp] theorem State.giveUpGrants_mem (s : State) (r : WgRef) : (s.giveUpGrants r).mem = s.mem := by
  unfold State.giveUpGrants
  split <;> simp

theorem State.trapEngine_memWf {s : State} {r : WgRef} {q : EngineQueue} {kind : TrapKind} {ticket pass tile : Nat}
    {needs : List Nat} (h : s.memWf) :
    (s.trapEngine r q kind ticket pass tile needs).memWf := by
  unfold State.trapEngine
  split
  · exact h
  · exact State.takeTrap_memWf h

theorem State.trapHead_memWf {s : State} {c : HeadCtx} {kind : TrapKind} {needs : List Nat} (h : s.memWf) :
    (s.trapHead c kind needs).memWf :=
  State.trapEngine_memWf (by simpa using h)

@[simp] theorem State.raceView_mem (s : State) (c : HeadCtx) : (s.raceView c).2.mem = s.mem := by
  unfold State.raceView
  dsimp only
  refine (foldl_snd_mem fun _ _ => ?_).trans ?_
  · refine (foldl_snd_mem fun _ _ => ?_).trans ?_
    · simp
    · rfl
  · rfl

theorem engineWord_nextMemWf {opx : Nat} {w : MWord} {s : State} {body : HeadCtx → State → State} (h : s.memWf)
    (hbody : ∀ a0 t, t.memWf → (body a0 t).memWf) :
    nextMemWf (engineWord opx w s body) := by
  unfold engineWord
  split
  · split
    · exact h
    · split
      · exact h
      · split
        · split
          · simpa using h
          · exact State.trapHead_memWf h
        · dsimp only
          exact hbody _ _ (by simpa using h)
  · exact h

@[simp] theorem State.updAccTile_mem (s : State) (core d : Nat) (f : Tile → Tile) :
    (s.updAccTile core d f).mem = s.mem := rfl

@[simp] theorem State.beginWord_mem (s : State) (c : HeadCtx) : (s.beginWord c).mem = s.mem := by
  simp [State.beginWord]

@[simp] theorem State.setPhase_mem (s : State) (c : HeadCtx) (p : HeadPhase) : (s.setPhase c p).mem = s.mem := by
  simp [State.setPhase]

@[simp] theorem State.wordDone_mem (s : State) (c : HeadCtx) (f : BitVec 6) : (s.wordDone c f).mem = s.mem := by
  simp [State.wordDone]

theorem execMWload_nextMemWf {w : MWord} {s : State} (h : s.memWf) : nextMemWf (execMWload w s) := by
  unfold execMWload
  dsimp only
  refine engineWord_nextMemWf h (fun _ _ hs => ?_)
  split <;> simpa using hs

@[simp] theorem State.refresh_mem (s : State) (c : HeadCtx) : (s.refresh c).2.mem = s.mem := by
  unfold State.refresh
  split <;> simp

@[simp] theorem State.passDone_mem (s : State) (c : HeadCtx) (f : BitVec 6) : (s.passDone c f).mem = s.mem := by
  simp [State.passDone]

@[simp] theorem State.commitInt_mem (s : State) (c : HeadCtx) (us : List (Nat × Int × Option Bool)) :
    (s.commitInt c us).mem = s.mem := rfl

@[simp] theorem State.releaseDemand_mem (s : State) (core : Nat) (eq : EngineQueue) (loader : Bool) :
    (s.releaseDemand core eq loader).mem = s.mem := rfl

@[simp] theorem State.unloadLater_mem (s : State) (c : HeadCtx) : (s.unloadLater c).mem = s.mem := by
  simp [State.unloadLater]

@[simp] theorem State.spillwayFull_mem (s : State) (c : HeadCtx) : (s.spillwayFull c).mem = s.mem := by
  simp [State.spillwayFull]

theorem State.noRoom_memWf {s : State} {c : HeadCtx} {w : MWord} (h : s.memWf) : (s.noRoom c w).memWf := by
  unfold State.noRoom
  dsimp only
  split
  · split
    · simpa using h
    · exact State.trapHead_memWf (by simpa using h)
  · split
    · split
      · simpa using h
      · split <;> simpa using h
    · split
      · simpa using h
      · split <;> simpa using h
    · split
      · simpa using h
      · split <;> simpa using h

theorem State.tryPass_memWf {s : State} {c : HeadCtx} (h : s.memWf) : (s.tryPass c).2.memWf := by
  unfold State.tryPass
  dsimp only
  split
  · split
    · exact State.trapHead_memWf h
    · split
      · exact State.trapHead_memWf h
      · split
        · simpa using h
        · split
          · split
            · simpa using h
            · exact State.noRoom_memWf h
          · simpa using h
  · exact h

theorem State.runPasses_memWf {s : State} {c : HeadCtx} {n : Nat} (h : s.memWf) : (s.runPasses c n).memWf := by
  induction n generalizing s with
  | zero => exact h
  | succ n ih =>
    unfold State.runPasses
    dsimp only
    split
    · simpa using h
    · have ht : ((s.refresh c).2.tryPass (s.refresh c).1).2.memWf := State.tryPass_memWf (by simpa using h)
      split
      · next heq => exact ih (by simpa [heq] using ht)
      · next heq => simpa [heq] using ht

theorem execMStep_nextMemWf {w : MWord} {s : State} (h : s.memWf) : nextMemWf (execMStep w s) := by
  unfold execMStep
  dsimp only
  exact engineWord_nextMemWf h (fun _ _ hs => State.runPasses_memWf (by simpa using hs))

@[simp] theorem State.foldWord_mem (s : State) (c : HeadCtx) (off : Nat) : (s.foldWord c off).2.mem = s.mem := by
  unfold State.foldWord
  split <;> simp

@[simp] theorem State.drainElem_mem (s : State) (c : HeadCtx) (w : MWord) (r j : Nat) :
    (s.drainElem c w r j).2.mem = s.mem := by
  unfold State.drainElem
  dsimp only
  split
  · dsimp only
    refine (State.updWg_mem ..).trans ?_
    refine (State.updCore_mem ..).trans ?_
    refine (State.updAccTile_mem ..).trans ?_
    split <;> simp
  · simp

theorem execMDrain_nextMemWf {w : MWord} {s : State} (h : s.memWf) : nextMemWf (execMDrain w s) := by
  unfold execMDrain
  refine engineWord_nextMemWf h (fun _ _ hs => ?_)
  dsimp only
  refine State.memWf_of_mem (State.wordDone_mem ..) ?_
  exact foldl_snd_memWf (fun _ _ hs => by simpa using hs) (by simpa using hs)

@[simp] theorem State.foldElem_mem (s : State) (c : HeadCtx) (base d i : Nat) :
    (s.foldElem c base d i).2.mem = s.mem := by
  simp [State.foldElem]

theorem execMFold_nextMemWf {w : MWord} {s : State} (h : s.memWf) : nextMemWf (execMFold w s) := by
  unfold execMFold
  refine engineWord_nextMemWf h (fun _ _ hs => ?_)
  dsimp only
  refine State.memWf_of_mem (State.wordDone_mem ..) ?_
  refine State.memWf_of_mem (State.updAccTile_mem ..) ?_
  exact State.updCore_memWf _ _ _ (foldl_snd_memWf (fun _ _ hs => by simpa using hs) (by simpa using hs))

theorem execMClr_nextMemWf {w : MWord} {s : State} (h : s.memWf) : nextMemWf (execMClr w s) := by
  unfold execMClr
  dsimp only
  exact engineWord_nextMemWf h (fun _ _ hs => by simpa using hs)

theorem execMFill_nextMemWf {w : MWord} {s : State} (h : s.memWf) : nextMemWf (execMFill w s) :=
  engineWord_nextMemWf h (fun _ _ hs => by simpa using hs)

theorem execMNop_nextMemWf {w : MWord} {s : State} (h : s.memWf) : nextMemWf (execMNop w s) :=
  engineWord_nextMemWf h (fun _ _ hs => by simpa using hs)

theorem onQueue_nextMemWf {s : State} {f : Nat → HwQueue → Res} (h : s.memWf) (hf : ∀ a0 a1, nextMemWf (f a0 a1)) :
    nextMemWf (onQueue s f) := by
  unfold onQueue
  split
  · exact hf _ _
  · exact h

@[simp] theorem State.nextPacket_mem (s : State) (q n : Nat) : (s.nextPacket q n).mem = s.mem := rfl

theorem execPkNop_nextMemWf {w : PacketWord} {s : State} (h : s.memWf) : nextMemWf (execPkNop w s) := by
  unfold execPkNop
  refine onQueue_nextMemWf h (fun _ _ => ?_)
  split
  · exact State.badPacket_nextMemWf h
  · simpa using h

@[simp] theorem State.refuseLaunch_mem (s : State) (ctx : Nat) (lpb : W64) (offset : Nat) (unreadable : Bool)
    (queue : Nat) (device : Bool) :
    (s.refuseLaunch ctx lpb offset unreadable queue device).mem = s.mem := rfl

@[simp] theorem State.noteLaunch_mem (s : State) (ctx : Nat) (b : List Byte) : (s.noteLaunch ctx b).mem = s.mem := by
  unfold State.noteLaunch
  exact foldl_mem fun _ _ => State.noteFe_mem ..

@[simp] theorem State.acceptLaunch_mem (s : State) (ctx : Nat) (lpb : W64) (b : Option (List Byte)) (queue : Nat)
    (device waitPrev : Bool) (buffers : List BufferEntry) :
    (s.acceptLaunch ctx lpb b queue device waitPrev buffers).mem = s.mem := by
  unfold State.acceptLaunch
  split
  · simp
  · dsimp only
    split
    · simp
    · split <;> simp

theorem execPkLaunchGrid_nextMemWf {w : PacketWord} {s : State} (h : s.memWf) : nextMemWf (execPkLaunchGrid w s) := by
  unfold execPkLaunchGrid
  dsimp only
  refine onQueue_nextMemWf h (fun _ _ => ?_)
  split
  · exact State.badPacket_nextMemWf h
  · split
    · exact State.badPacket_nextMemWf h
    · split <;> simpa using h

theorem execPkIndirect_nextMemWf {w : PacketWord} {s : State} (h : s.memWf) : nextMemWf (execPkIndirect w s) := by
  unfold execPkIndirect
  dsimp only
  refine onQueue_nextMemWf h (fun _ _ => ?_)
  split
  · exact State.badPacket_nextMemWf h
  · simpa using h

@[simp] theorem State.feTimelineRead_mem (s : State) (ctx va : Nat) : (s.feTimelineRead ctx va).mem = s.mem := by
  simp [State.feTimelineRead]

theorem execPkTlWait_nextMemWf {w : PacketWord} {s : State} (h : s.memWf) : nextMemWf (execPkTlWait w s) := by
  unfold execPkTlWait
  dsimp only
  refine onQueue_nextMemWf h (fun _ _ => ?_)
  split
  · exact State.badPacket_nextMemWf h
  · split
    · exact State.badPacket_nextMemWf h
    · split
      · split <;> simpa using h
      · exact h
      · simpa using h

theorem State.waitGrids_mem {s t : State} {q : Nat} (ht : s.waitGrids q = some t) : t.mem = s.mem := by
  unfold State.waitGrids at ht
  split at ht
  · cases ht
  · cases ht
    rfl

theorem timelinePacket_nextMemWf {add : Bool} {w : PacketWord} {s : State} (h : s.memWf) :
    nextMemWf (timelinePacket add w s) := by
  unfold timelinePacket
  refine onQueue_nextMemWf h fun q x => ?_
  split
  · exact State.badPacket_nextMemWf h
  · dsimp only
    split
    · exact State.badPacket_nextMemWf h
    · split
      · next heq =>
        split at heq
        · exact State.memWf_of_mem (State.waitGrids_mem heq) h
        · cases heq
      · split
        · split
          · simpa using State.performTimeline_memWf h
          · simpa using h
          · simpa using h
        · exact h
        · simpa using h

theorem execPkBarrier_nextMemWf {w : PacketWord} {s : State} (h : s.memWf) : nextMemWf (execPkBarrier w s) := by
  unfold execPkBarrier
  refine onQueue_nextMemWf h fun q _ => ?_
  split
  · exact State.badPacket_nextMemWf h
  · split
    · next heq => exact State.memWf_of_mem (State.waitGrids_mem heq) h
    · simpa using h

theorem execPkPresent_nextMemWf {w : PacketWord} {s : State} (h : s.memWf) : nextMemWf (execPkPresent w s) := by
  unfold execPkPresent
  refine onQueue_nextMemWf h fun q x => ?_
  dsimp only
  split
  · exact State.badPacket_nextMemWf h
  · split
    · next heq => exact State.memWf_of_mem (State.waitGrids_mem heq) h
    · split
      · exact h
      · split
        · simpa using h
        · refine State.memWf_of_mem (State.nextPacket_mem ..) (foldl_memWf _ _ (fun _ _ hs => by simpa using hs) _ ?_)
          simpa using h

theorem State.mailOk_nextMemWf {s : State} {f : Nat} {rsp : Option Nat} (h : s.memWf) :
    nextMemWf (s.mailOk f rsp) := by
  unfold State.mailOk
  simpa using h

theorem execMbCreateContext_nextMemWf {w : MailWord} {s : State} (h : s.memWf) :
    nextMemWf (execMbCreateContext w s) := by
  unfold execMbCreateContext
  dsimp only
  split
  · exact State.mailFail_nextMemWf h
  · split
    · exact State.mailFail_nextMemWf h
    · split
      · exact State.mailFail_nextMemWf h
      · exact State.mailOk_nextMemWf (by simpa using h)

@[simp] theorem State.updBound_mem (s : State) (ctx : Nat) (f : HwQueue → HwQueue) :
    (s.updBound ctx f).mem = s.mem := rfl

theorem execMbDestroyContext_nextMemWf {w : MailWord} {s : State} (h : s.memWf) :
    nextMemWf (execMbDestroyContext w s) := by
  unfold execMbDestroyContext
  dsimp only
  split
  · exact State.mailFail_nextMemWf h
  · split
    · exact State.mailFail_nextMemWf h
    · split
      · split
        · exact State.endContextGrids_memWf h
        · exact State.mailOk_nextMemWf (by simpa using State.endContextGrids_memWf h)
      · split
        · exact h
        · exact State.mailOk_nextMemWf (by simpa using h)

theorem execMbBindQueue_nextMemWf {w : MailWord} {s : State} (h : s.memWf) : nextMemWf (execMbBindQueue w s) := by
  unfold execMbBindQueue
  dsimp only
  split
  · exact State.mailFail_nextMemWf h
  · split
    · exact State.mailFail_nextMemWf h
    · exact State.mailOk_nextMemWf (by simpa using h)

theorem execMbUnbindQueue_nextMemWf {w : MailWord} {s : State} (h : s.memWf) : nextMemWf (execMbUnbindQueue w s) := by
  unfold execMbUnbindQueue
  dsimp only
  split
  · exact State.mailFail_nextMemWf h
  · split
    · exact State.mailFail_nextMemWf h
    · split
      · exact State.mailOk_nextMemWf (by simpa using h)
      · exact h

theorem execMbResetQueue_nextMemWf {w : MailWord} {s : State} (h : s.memWf) : nextMemWf (execMbResetQueue w s) := by
  unfold execMbResetQueue
  dsimp only
  split
  · exact State.mailFail_nextMemWf h
  · split
    · exact State.mailFail_nextMemWf h
    · exact State.mailOk_nextMemWf (by simpa using h)

theorem execMbResetContext_nextMemWf {w : MailWord} {s : State} (h : s.memWf) :
    nextMemWf (execMbResetContext w s) := by
  unfold execMbResetContext
  dsimp only
  split
  · exact State.mailFail_nextMemWf h
  · split
    · exact State.mailFail_nextMemWf h
    · exact State.mailOk_nextMemWf (by simpa using State.endContextGrids_memWf h)

theorem execMbFwRestart_nextMemWf {w : MailWord} {s : State} (h : s.memWf) : nextMemWf (execMbFwRestart w s) := by
  unfold execMbFwRestart
  split
  · exact State.mailFail_nextMemWf h
  · simpa using h

theorem execMbGrant_nextMemWf {w : MailWord} {s : State} (h : s.memWf) : nextMemWf (execMbGrant w s) := by
  unfold execMbGrant
  dsimp only
  split
  · exact State.mailFail_nextMemWf h
  · split
    · exact State.mailFail_nextMemWf h
    · split
      · exact h
      · exact State.mailOk_nextMemWf (by simpa using h)

theorem execMbPodPeer_nextMemWf {w : MailWord} {s : State} (h : s.memWf) : nextMemWf (execMbPodPeer w s) := by
  unfold execMbPodPeer
  dsimp only
  split
  · exact State.mailFail_nextMemWf h
  · split
    · exact State.mailFail_nextMemWf h
    · exact State.mailOk_nextMemWf (by simpa using h)

theorem execMbSetPasid_nextMemWf {w : MailWord} {s : State} (h : s.memWf) : nextMemWf (execMbSetPasid w s) := by
  unfold execMbSetPasid
  dsimp only
  split
  · exact State.mailFail_nextMemWf h
  · split
    · exact State.mailFail_nextMemWf h
    · exact State.mailOk_nextMemWf (by simpa using h)

theorem execMbClearFences_nextMemWf {w : MailWord} {s : State} (h : s.memWf) : nextMemWf (execMbClearFences w s) := by
  unfold execMbClearFences
  split
  · exact State.mailFail_nextMemWf h
  · exact State.mailOk_nextMemWf (by simpa using h)

theorem onLine_nextMemWf {s : State} {f : Nat → LineCore → State} (h : s.memWf) (hf : ∀ a0 a1, (f a0 a1).memWf) :
    nextMemWf (onLine s f) := by
  unfold onLine
  split
  · exact hf _ _
  · exact h

theorem lineOnly_nextMemWf {s : State} {f : LineCore → LineCore} (h : s.memWf) : nextMemWf (lineOnly s f) :=
  onLine_nextMemWf h (fun _ _ => by simpa using h)

theorem execLHalt_nextMemWf {w : LSlot} {s : State} (h : s.memWf) : nextMemWf (execLHalt w s) := by
  unfold execLHalt
  dsimp only
  exact lineOnly_nextMemWf h

theorem execLBeam_nextMemWf {w : LSlot} {s : State} (h : s.memWf) : nextMemWf (execLBeam w s) := by
  unfold execLBeam
  refine onLine_nextMemWf h (fun _ _ => ?_)
  split <;> simpa using h

theorem execLPose_nextMemWf {w : LSlot} {s : State} (h : s.memWf) : nextMemWf (execLPose w s) := by
  unfold execLPose
  dsimp only
  refine onLine_nextMemWf h (fun _ _ => ?_)
  split <;> simpa using h

theorem kOp_nextMemWf {w : LSlot} {s : State} {f : W32 → W32 → W32} (h : s.memWf) : nextMemWf (kOp w s f) :=
  lineOnly_nextMemWf h

theorem hOp_nextMemWf {w : LSlot} {s : State} {f : LineSnap → Nat → W32} (h : s.memWf) : nextMemWf (hOp w s f) :=
  lineOnly_nextMemWf h

theorem typedLine_nextMemWf {w : LSlot} {s : State} {ff : Fmt → Nat → Nat → Nat → Nat}
    {fi : Bool → W32 → W32 → W32 → W32} (h : s.memWf) :
    nextMemWf (typedLine w s ff fi) :=
  hOp_nextMemWf h

theorem execLPmm_nextMemWf {w : LSlot} {s : State} (h : s.memWf) : nextMemWf (execLPmm w s) := by
  unfold execLPmm
  dsimp only
  exact onLine_nextMemWf h (fun _ _ => by simpa using h)

theorem execLSamp_nextMemWf {w : LSlot} {s : State} (h : s.memWf) : nextMemWf (execLSamp w s) := by
  unfold execLSamp
  dsimp only
  exact onLine_nextMemWf h (fun _ _ => by simpa using h)

theorem execLEmit_nextMemWf {w : LSlot} {s : State} (h : s.memWf) : nextMemWf (execLEmit w s) := by
  unfold execLEmit
  dsimp only
  exact onLine_nextMemWf h (fun _ _ => by simpa using h)

theorem execLNop_nextMemWf {w : LSlot} {s : State} (h : s.memWf) : nextMemWf (execLNop w s) := by
  unfold execLNop
  dsimp only
  exact h

theorem execEvClauseStart_nextMemWf {s : State} (h : s.memWf) : nextMemWf (execEvClauseStart s) := by
  unfold execEvClauseStart
  split
  · split
    · split
      · exact h
      · split
        · exact h
        · split
          · exact State.trapFetch_memWf h
          · split
            · exact State.trapFetch_memWf h
            · dsimp only
              split
              · split
                · simpa using h
                · split
                  · exact State.trapFetch_memWf (by simpa using h)
                  · split
                    · exact State.trapFetch_memWf (by simpa using h)
                    · split <;> simpa using h
              · simpa using h
              · exact State.trapXlat_memWf (by simpa using h)
    · exact h
  · exact h

@[simp] theorem State.finishPending_mem (s : State) (r : WaveRef) (k : Nat) (p : Pending) (vals : List (List W32)) :
    (s.finishPending r k p vals).mem = s.mem := by
  simp [State.finishPending]

theorem State.trapPending_memWf {s : State} {r : WaveRef} {p : Pending} {mask : Lanes} {off : Nat → Nat}
    (h : s.memWf) :
    (s.trapPending r p mask off).memWf :=
  State.trapWave_memWf h

@[simp] theorem State.returnCredit_mem (s : State) (r : WgRef) (sender : Nat) :
    (s.returnCredit r sender).mem = s.mem := by
  unfold State.returnCredit
  split <;> simp

theorem execEvLongLatencyCompletion_nextMemWf {r : WaveRef} {k : Nat} {s : State} (h : s.memWf) :
    nextMemWf (execEvLongLatencyCompletion r k s) := by
  unfold execEvLongLatencyCompletion
  split
  · split
    · simpa using h
    · dsimp only
      split
      · exact h
      · split
        · exact State.trapPending_memWf h
        · simpa using h
    · dsimp only
      split
      · exact h
      · split
        · exact h
        · split
          · exact State.trapPending_memWf h
          · simpa using h
  · exact h

theorem execEvSleepExpiry_nextMemWf {r : WaveRef} {s : State} (h : s.memWf) : nextMemWf (execEvSleepExpiry r s) := by
  unfold execEvSleepExpiry
  simpa using h

theorem execEvWaitfRelease_nextMemWf {r : WaveRef} {s : State} (h : s.memWf) :
    nextMemWf (execEvWaitfRelease r s) := by
  unfold execEvWaitfRelease
  simpa using h

theorem State.completePhase_memWf {s : State} {r : WgRef} {n : Nat} (h : s.memWf) : (s.completePhase r n).memWf := by
  unfold State.completePhase
  split
  · exact h
  · dsimp only
    refine State.memWf_of_mem (State.noteShedPoint_mem ..) ?_
    split <;> simpa using State.drainWg_memWf _ _ h

theorem execEvBarrierPhaseCompletion_nextMemWf {r : WgRef} {n : Nat} {s : State} (h : s.memWf) :
    nextMemWf (execEvBarrierPhaseCompletion r n s) := by
  unfold execEvBarrierPhaseCompletion
  split
  · exact h
  · split
    · exact State.completePhase_memWf h
    · exact h

theorem execEvGbarCompletion_nextMemWf {grid : Nat} {s : State} (h : s.memWf) :
    nextMemWf (execEvGbarCompletion grid s) := by
  unfold execEvGbarCompletion
  split
  · exact h
  · dsimp only
    split
    · exact h
    · refine foldl_memWf _ _ (fun _ _ hs => by simpa using hs) _ ?_
      refine foldl_memWf _ _ (fun _ _ hs => by simpa using hs) _ ?_
      refine foldl_memWf _ _ (fun _ _ hs => by simpa using hs) _ ?_
      simp only [State.memWf_iff, State.updGrid_mem]
      refine foldl_memWf _ _ (fun _ _ hs => State.acquireCore_memWf _ _ hs) _ ?_
      refine foldl_memWf _ _ (fun _ _ hs => State.releaseCore_memWf _ _ hs) _ ?_
      exact foldl_memWf _ _ (fun _ _ hs => State.drainWg_memWf _ _ hs) _ h

theorem execEvRendezvousCompletion_nextMemWf {r : WgRef} {s : State} (h : s.memWf) :
    nextMemWf (execEvRendezvousCompletion r s) := by
  unfold execEvRendezvousCompletion
  split
  · exact h
  · split
    · exact h
    · dsimp only
      split
      · simpa using State.releaseCore_memWf _ _ (State.drainWg_memWf _ _ h)
      · exact h

@[simp] theorem State.waitRead_mem (s : State) (r : WaveRef) (ctx a : Nat) : (s.waitRead r ctx a).2.mem = s.mem := by
  unfold State.waitRead
  split
  · split <;> simp
  · rfl

theorem State.pollOr_memWf {s : State} {r : WaveRef} {g : Workgroup} {v : Wave} {f : State} (h : s.memWf)
    (hf : f.memWf) :
    (s.pollOr r g v f).memWf := by
  unfold State.pollOr
  dsimp only
  split
  · exact hf
  · exact State.trapWave_memWf h

@[simp] theorem State.waitReads_mem (s : State) (r : WaveRef) (ctx : Nat) (l : List Nat) :
    (s.waitReads r ctx l).mem = s.mem := by
  simp [State.waitReads]

theorem execEvAcqRelease_nextMemWf {r : WaveRef} {s : State} (h : s.memWf) : nextMemWf (execEvAcqRelease r s) := by
  unfold execEvAcqRelease
  split
  · dsimp only
    exact State.pollOr_memWf h (by simpa using foldl_memWf _ _ (fun _ _ hs => State.acquireObject_memWf hs) _ (by simpa using h))
  · exact h

theorem execEvTlwaitRelease_nextMemWf {r : WaveRef} {s : State} (h : s.memWf) :
    nextMemWf (execEvTlwaitRelease r s) := by
  unfold execEvTlwaitRelease
  split
  · exact State.pollOr_memWf h (by simpa using h)
  · exact h

theorem execEvTlwaitPark_nextMemWf {r : WgRef} {s : State} (h : s.memWf) : nextMemWf (execEvTlwaitPark r s) := by
  unfold execEvTlwaitPark
  split
  · exact h
  · split <;> simpa using h

theorem execEvTimelinePoll_nextMemWf {r : WaveRef} {s : State} (h : s.memWf) :
    nextMemWf (execEvTimelinePoll r s) := by
  unfold execEvTimelinePoll
  split
  · exact State.pollOr_memWf h (by simpa using h)
  · exact h

theorem execEvWaveEnd_nextMemWf {r : WaveRef} {s : State} (h : s.memWf) : nextMemWf (execEvWaveEnd r s) := by
  unfold execEvWaveEnd
  split
  · exact h
  · split
    · exact h
    · dsimp only
      exact State.tryComplete_memWf (by simpa using State.drainWc_memWf _ _ h)

theorem execEvSpillwayHandlerDelivery_nextMemWf {r : WgRef} {s : State} (h : s.memWf) :
    nextMemWf (execEvSpillwayHandlerDelivery r s) := by
  unfold execEvSpillwayHandlerDelivery
  split
  · exact h
  · split
    · exact h
    · split
      · exact h
      · split
        · exact h
        · dsimp only
          split
          · exact State.takeTrap_memWf h
          · simpa using h

theorem execEvReplyTakenAsPoisoned_nextMemWf {r : WaveRef} {k : Nat} {s : State} (h : s.memWf) :
    nextMemWf (execEvReplyTakenAsPoisoned r k s) := by
  unfold execEvReplyTakenAsPoisoned
  split
  · split <;> simpa using h
  · exact h

theorem execEvWatchdog_nextMemWf {r : WgRef} {s : State} (h : s.memWf) : nextMemWf (execEvWatchdog r s) := by
  unfold execEvWatchdog
  split
  · exact h
  · dsimp only
    split
    · exact State.contain_memWf h
    · exact h

theorem State.takePark_memWf {s : State} {r : WgRef} (h : s.memWf) : (s.takePark r).memWf := by
  unfold State.takePark
  split
  · exact h
  · split
    · exact State.completePhase_memWf h
    · split <;> simpa using h

theorem execEvShedForce_nextMemWf {r : WgRef} {s : State} (h : s.memWf) : nextMemWf (execEvShedForce r s) := by
  unfold execEvShedForce
  split
  · exact h
  · split
    · split
      · simpa using State.takePark_memWf h
      · exact h
    · exact h

@[simp] theorem State.loadImage_mem (s : State) (core : Nat) (g : Workgroup) (img : W64) :
    (s.loadImage core g img).2.mem = s.mem := by
  unfold State.loadImage
  dsimp only
  split
  · split <;> simp
  · simp

theorem State.overlayLoad_memWf {s : State} {r : WgRef} (h : s.memWf) : (s.overlayLoad r).2.memWf := by
  unfold State.overlayLoad
  split
  · exact h
  · dsimp only
    split
    · simpa using h
    · simpa using h
    · exact State.trapSeq_memWf (by simpa using h)
    · exact State.trapSeq_memWf (by simpa using h)
    · exact State.trapSeq_memWf (by simpa using h)

theorem execEvSequencerJobStart_nextMemWf {r : WgRef} {s : State} (h : s.memWf) :
    nextMemWf (execEvSequencerJobStart r s) := by
  unfold execEvSequencerJobStart
  split
  · exact h
  · split
    · exact h
    · split
      · exact h
      · dsimp only
        split
        · exact State.overlayLoad_memWf h
        · simpa using State.overlayLoad_memWf h

theorem execEvPassCommit_nextMemWf {core : Nat} {s : State} (h : s.memWf) : nextMemWf (execEvPassCommit core s) := by
  unfold execEvPassCommit
  split
  · exact h
  · dsimp only
    split
    · split
      · exact State.runPasses_memWf h
      · exact h
    · split
      · exact State.runPasses_memWf h
      · exact h
    · split
      · exact State.runPasses_memWf h
      · exact h

theorem execEvSpillwayStallExpiry_nextMemWf {core : Nat} {s : State} (h : s.memWf) :
    nextMemWf (execEvSpillwayStallExpiry core s) := by
  unfold execEvSpillwayStallExpiry
  split
  · exact h
  · split
    · split <;> simpa using h
    · exact h

theorem execEvMatrixWordCompletion_nextMemWf {core : Nat} {eq : EngineQueue} {s : State} (h : s.memWf) :
    nextMemWf (execEvMatrixWordCompletion core eq s) := by
  unfold execEvMatrixWordCompletion
  split
  · exact h
  · split
    · exact h
    · dsimp only
      refine State.tryComplete_memWf ?_
      refine State.memWf_of_mem (State.updJob_mem ..) ?_
      split <;> simpa using h

theorem execEvNestWordGeneration_nextMemWf {core : Nat} {s : State} (h : s.memWf) :
    nextMemWf (execEvNestWordGeneration core s) := by
  unfold execEvNestWordGeneration
  split
  · exact h
  · split
    · exact h
    · split
      · exact h
      · split
        · exact h
        · split
          · exact h
          · split <;> simpa using h

theorem execEvHeadgateDemand_nextMemWf {core : Nat} {eq : EngineQueue} {s : State} (h : s.memWf) :
    nextMemWf (execEvHeadgateDemand core eq s) := by
  unfold execEvHeadgateDemand
  split
  · exact h
  · dsimp only
    split <;> simpa using h

@[simp] theorem State.grantFirst_mem (s : State) (tile : Nat) (d : Demand) : (s.grantFirst tile d).mem = s.mem := by
  unfold State.grantFirst
  dsimp only
  split <;> simp

@[simp] theorem State.grantPass_mem (s : State) (tile n : Nat) : (s.grantPass tile n).mem = s.mem := by
  induction n generalizing s with
  | zero => rfl
  | succ n ih =>
    unfold State.grantPass
    split
    · rfl
    · split <;> simp [ih]

@[simp] theorem State.boundary_mem (s : State) (tile : Nat) : (s.boundary tile).mem = s.mem := rfl

theorem execEvHeadgateGrant_nextMemWf {tile : Nat} {s : State} (h : s.memWf) :
    nextMemWf (execEvHeadgateGrant tile s) := by
  unfold execEvHeadgateGrant
  simpa using h

theorem execEvHeadgateBoundary_nextMemWf {tile : Nat} {s : State} (h : s.memWf) :
    nextMemWf (execEvHeadgateBoundary tile s) := by
  unfold execEvHeadgateBoundary
  simpa using h

theorem execEvRampTableInForce_nextMemWf {tile : Nat} {s : State} (h : s.memWf) :
    nextMemWf (execEvRampTableInForce tile s) := by
  unfold execEvRampTableInForce
  simpa using h

theorem execEvCopyAcceptance_nextMemWf {r : WgRef} {s : State} (h : s.memWf) :
    nextMemWf (execEvCopyAcceptance r s) := by
  unfold execEvCopyAcceptance
  split
  · exact h
  · dsimp only
    split
    · exact h
    · split
      · exact h
      · split
        · exact h
        · split
          · exact State.stopRing_memWf h
          · split
            · exact State.stopRing_memWf h
            · simpa using h

@[simp] theorem State.copyTrap_mem (s : State) (r : WgRef) (ctx slot chunk : Nat) (kind : TrapKind) (acc : BitVec 5)
    (va : Nat) :
    (s.copyTrap r ctx slot chunk kind acc va).2.mem = s.mem := rfl

@[simp] theorem State.copyItem_mem (s : State) (x : CopyRef) (chunk : Nat) (k : TrapKind) (acc : BitVec 5)
    (va : Nat) :
    (s.copyItem x chunk k acc va).2.mem = s.mem := by
  unfold State.copyItem
  split <;> simp

@[simp] theorem State.updOwner_mem (s : State) (o : CopyOwner) (f : Workgroup → Workgroup) :
    (s.updOwner o f).mem = s.mem := by
  unfold State.updOwner
  split <;> simp

@[simp] theorem State.updCopy_mem (s : State) (x : CopyRef) (f : Copy → Copy) : (s.updCopy x f).mem = s.mem := by
  simp [State.updCopy]

@[simp] theorem State.copyFault_mem (s : State) (x : CopyRef) (chunk : Nat) (k : Xlat) (va : Nat) (acc : BitVec 5) :
    (s.copyFault x chunk k va acc).mem = s.mem := by
  simp [State.copyFault]

@[simp] theorem State.spot_mem (s : State) (x : CopyRef) (pad : Bool) (a n : Nat) (acc : AccKind) :
    (s.spot x pad a n acc).2.mem = s.mem := by
  unfold State.spot
  split
  · split
    · rfl
    · split <;> rfl
  · dsimp only
    split
    · simp
    · split <;> simp

@[simp] theorem State.mapElems_mem (s : State) (x : CopyRef) (l : List Nat) : (s.mapElems x l).2.mem = s.mem := by
  induction l generalizing s with
  | nil => rfl
  | cons i rest ih =>
    unfold State.mapElems
    split
    · rfl
    · rfl
    · rfl
    · extract_lets e a b r
      have ha : a.2.mem = s.mem := by
        unfold a
        split
        · split <;> simp
        · rfl
      have hb : b.2.mem = s.mem := by
        rw [← ha]
        unfold b
        split <;> simp
      have hr : r.2.mem = s.mem := (ih _).trans hb
      split
      · split
        · split
          · exact hb
          · split <;> exact hr
        · exact hb
        · exact hb
      · exact ha
      · exact ha

@[simp] theorem State.readSpot_mem (s : State) (x : CopyRef) (p : Spot) : (s.readSpot x p).2.mem = s.mem := by
  unfold State.readSpot
  split
  · rfl
  · rfl
  · split
    · simp
    · dsimp only
      refine (State.noteStray_mem ..).trans ?_
      refine (foldl_snd_mem fun _ _ => ?_).trans ?_
      · split <;> rfl
      · rfl

@[simp] theorem State.freeByte_mem (s : State) : s.freeByte.2.mem = s.mem := rfl

@[simp] theorem State.freeWhere_mem (s : State) (p : Nat → Bool) (i : Nat) (l : List Byte) :
    (s.freeWhere p i l).2.mem = s.mem := by
  induction l generalizing s i with
  | nil => rfl
  | cons b rest ih =>
    refine (ih ..).trans ?_
    split <;> simp

@[simp] theorem State.readSource_mem (s : State) (x : CopyRef) (p : Spot) : (s.readSource x p).2.mem = s.mem := by
  unfold State.readSource
  dsimp only
  split <;> simp

@[simp] theorem State.writePlanes_mem (s : State) (x : CopyRef) (own : List (Nat × Nat)) (r : Nat)
    (elems : List Nat) :
    (s.writePlanes x own r elems).mem = s.mem := by
  simp [State.writePlanes]

@[simp] theorem State.performPlanes_mem (s : State) (x : CopyRef) (own : List (Nat × Nat)) (rows : List Nat)
    (l : List (Nat × Spot × Spot)) :
    (s.performPlanes x own rows l).mem = s.mem := by
  simp [State.performPlanes]

theorem State.writeSpot_memWf {s : State} {x : CopyRef} {p : Spot} {b : List Byte} (h : s.memWf) :
    (s.writeSpot x p b).memWf := by
  unfold State.writeSpot
  split
  · exact h
  · simpa using h
  · split
    · exact State.deviceWrite_memWf h
    · refine State.memWf_of_mem (State.noteStray_mem ..) ?_
      refine foldl_memWf _ _ (fun _ _ hs => ?_) _ h
      split
      · simpa [State.writeWindow_mem] using hs
      · exact State.writeThrough_memWf _ _ _ _ hs

theorem State.writeElem_memWf {s : State} {x : CopyRef} {own : List (Nat × Nat)} {p : Spot} {b : List Byte}
    (h : s.memWf) :
    (s.writeElem x own p b).memWf := by
  unfold State.writeElem
  dsimp only
  exact State.writeSpot_memWf (by simpa using h)

theorem State.reduceElem_memWf {s : State} {x : CopyRef} {own : List (Nat × Nat)} {i : Nat} {p : Spot} {v : Nat}
    (h : s.memWf) :
    (s.reduceElem x own i p v).memWf := by
  unfold State.reduceElem
  split
  · exact h
  · split
    · dsimp only
      simpa using State.writeElem_memWf (by simpa using foldl_memWf _ _ (fun _ _ hs => State.settleL1_memWf _ _ _ hs) _ h)
    · exact h

theorem State.performElems_memWf {s : State} {x : CopyRef} {own : List (Nat × Nat)} {l : List (Nat × Spot × Spot)}
    (h : s.memWf) :
    (s.performElems x own l).memWf := by
  unfold State.performElems
  dsimp only
  refine foldl_memWf _ _ (fun _ _ hs => ?_) _ h
  split
  · refine State.reduceElem_memWf ?_
    split <;> simpa using hs
  · split
    · refine State.memWf_of_mem (State.updCopy_mem ..) ?_
      split <;> simpa using hs
    · refine State.writeElem_memWf ?_
      split <;> simpa using hs

theorem execEvCopyChunkStart_nextMemWf {core slot : Nat} {s : State} (h : s.memWf) :
    nextMemWf (execEvCopyChunkStart core slot s) := by
  unfold execEvCopyChunkStart
  split
  · exact h
  · split
    · exact h
    · split
      · exact h
      · split
        · simpa using h
        · dsimp only
          split
          · simpa using h
          · simpa using h
          · split
            · simpa using h
            · split
              · simpa using h
              · exact State.performElems_memWf (by simpa using h)

theorem execEvCopyChunkCompletion_nextMemWf {core slot : Nat} {s : State} (h : s.memWf) :
    nextMemWf (execEvCopyChunkCompletion core slot s) := by
  unfold execEvCopyChunkCompletion
  split
  · exact h
  · split
    · exact h
    · split
      · exact h
      · dsimp only
        simpa using h

theorem execEvStreamDelivery_nextMemWf {core slot : Nat} {s : State} (h : s.memWf) :
    nextMemWf (execEvStreamDelivery core slot s) := by
  unfold execEvStreamDelivery
  split
  · exact h
  · split
    · split
      · exact h
      · split
        dsimp only
        refine State.memWf_of_mem (State.updCopy_mem ..) ?_
        split <;> simpa using h
    · exact h

@[simp] theorem State.raiseLate_mem (s : State) (grid wgl : Nat) (f : BitVec 6) :
    (s.raiseLate grid wgl f).mem = s.mem := by
  unfold State.raiseLate
  split
  · rfl
  · split <;> simp

theorem execEvCopyCompletion_nextMemWf {core slot : Nat} {s : State} (h : s.memWf) :
    nextMemWf (execEvCopyCompletion core slot s) := by
  unfold execEvCopyCompletion
  split
  · exact h
  · split
    · exact h
    · extract_lets a b c
      have hc : c.memWf := by simpa [c] using State.feTimeline_memWf (by simpa [a] using h)
      split
      · exact State.tryComplete_memWf hc
      · exact hc

theorem execEvClaim_nextMemWf {core grid : Nat} {s : State} (h : s.memWf) : nextMemWf (execEvClaim core grid s) := by
  unfold execEvClaim
  split
  · split
    · dsimp only
      exact State.updCore_memWf _ _ _ (by simpa using h)
    · exact h
  · exact h

theorem execEvGangClaim_nextMemWf {core grid : Nat} {s : State} (h : s.memWf) :
    nextMemWf (execEvGangClaim core grid s) := by
  unfold execEvGangClaim
  split
  · split
    · dsimp only
      exact State.updCore_memWf _ _ _ (by simpa using h)
    · exact h
  · exact h

@[simp] theorem State.reserveCores_mem (s : State) (grid : Nat) (l : List (Nat × Nat × Option Nat)) :
    (s.reserveCores grid l).mem = s.mem := by
  induction l generalizing s with
  | nil => rfl
  | cons x rest ih => exact ih _

theorem State.acquireBuffers_memWf {s : State} {g : Grid} (h : s.memWf) : (s.acquireBuffers g).memWf := by
  unfold State.acquireBuffers
  split
  · exact h
  · dsimp only
    simpa using foldl_memWf _ _ (fun _ _ hs => foldl_memWf _ _ (fun _ _ hs => State.invalidate_memWf _ _ _ hs) _ hs) _ h

@[simp] theorem State.keepPromises_mem (s : State) (core grid : Nat) : (s.keepPromises core grid).mem = s.mem := rfl

theorem State.startWg_memWf {s : State} {core grid wgl : Nat} (h : s.memWf) : (s.startWg core grid wgl).memWf := by
  unfold State.startWg
  split
  · exact h
  · split
    · exact h
    · dsimp only
      split
      · refine State.overlayLoad_memWf (State.updCore_memWf _ _ _ ?_)
        refine State.memWf_of_mem (State.keepPromises_mem ..) ?_
        refine State.memWf_of_mem (State.updGrid_mem ..) ?_
        refine State.memWf_of_mem (State.setWg_mem ..) ?_
        split
        · exact State.acquireBuffers_memWf h
        · simpa using State.acquireBuffers_memWf h
      · refine State.updCore_memWf _ _ _ ?_
        refine State.memWf_of_mem (State.keepPromises_mem ..) ?_
        refine State.memWf_of_mem (State.updGrid_mem ..) ?_
        refine State.memWf_of_mem (State.setWg_mem ..) ?_
        split
        · exact State.acquireBuffers_memWf h
        · simpa using State.acquireBuffers_memWf h

theorem execEvPlacement_nextMemWf {core : Nat} {s : State} (h : s.memWf) : nextMemWf (execEvPlacement core s) := by
  unfold execEvPlacement
  split
  · exact h
  · dsimp only
    simpa using foldl_memWf _ _ (fun _ _ hs => State.startWg_memWf hs) _ (State.updCore_memWf _ _ _ h)

theorem State.poisonedFrame_memWf {s : State} {core fid : Nat} {f : Frame} (h : s.memWf) :
    (s.poisonedFrame core fid f).memWf := by
  unfold State.poisonedFrame
  split
  · simpa using h
  · exact State.retryOrError_memWf (by simpa using h)

@[simp] theorem State.collectTiles_mem (s : State) (core : Nat) (f : Frame) :
    (s.collectTiles core f).mem = s.mem := by
  unfold State.collectTiles
  split <;> simp

@[simp] theorem State.bringTiles_mem (s : State) (core : Nat) (f : Frame) (slot : Nat) :
    (s.bringTiles core f slot).mem = s.mem := by
  simp [State.bringTiles]

@[simp] theorem State.fitPhys_mem (s : State) (core : Nat) : (s.fitPhys core).mem = s.mem := by
  unfold State.fitPhys
  exact foldl_mem fun s p => foldl_mem fun _ _ => State.spillOne_mem ..

@[simp] theorem State.stopForHeldFault_mem (s : State) (r : WgRef) : (s.stopForHeldFault r).mem = s.mem := by
  unfold State.stopForHeldFault
  split <;> simp

theorem State.resume_memWf {s : State} {core fid : Nat} {f : Frame} {o : Occupant} (h : s.memWf) :
    (s.resume core fid f o).memWf := by
  unfold State.resume
  extract_lets a _ b c d e
  have hb : b.mem = s.mem := by simp [b, a]
  have hc : c.memWf := State.acquireCore_memWf _ _ (State.memWf_of_mem hb h)
  have he : e.mem = c.mem := by simp [e, d]
  exact State.tryComplete_memWf (State.memWf_of_mem ((State.stopForHeldFault_mem ..).trans he) hc)

@[simp] theorem State.trapRestore_mem (s : State) (core fid ctx : Nat) (tags : List OwnerTag) :
    (s.trapRestore core fid ctx tags).mem = s.mem := by
  simp [State.trapRestore]

theorem State.restoreWg_memWf {s : State} {core fid : Nat} (h : s.memWf) : (s.restoreWg core fid).memWf := by
  unfold State.restoreWg
  split
  · exact h
  · split
    · exact State.poisonedFrame_memWf h
    · split
      · exact h
      · extract_lets t
        have ht : t.memWf := State.memWf_of_mem (by simp [t]) h
        split
        · exact ht
        · extract_lets tags
          split
          · exact State.resume_memWf ht
          · simpa using ht

theorem execEvReservedMemberPlacement_nextMemWf {core : Nat} {s : State} (h : s.memWf) :
    nextMemWf (execEvReservedMemberPlacement core s) := by
  unfold execEvReservedMemberPlacement
  split
  · dsimp only
    split
    · split
      · exact State.restoreWg_memWf h
      · exact State.updCore_memWf _ _ _ (State.restoreWg_memWf h)
    · exact State.startWg_memWf (State.updCore_memWf _ _ _ h)
  · exact h

theorem execEvTokenGrowth_nextMemWf {grid : Nat} {s : State} (h : s.memWf) :
    nextMemWf (execEvTokenGrowth grid s) := by
  unfold execEvTokenGrowth
  split
  · exact h
  · split <;> simpa using h

theorem State.killRelaunch_memWf {s : State} {r : WgRef} (h : s.memWf) : (s.killRelaunch r).memWf := by
  unfold State.killRelaunch
  split
  · exact h
  · simpa using State.discardWg_memWf h

theorem State.killOrCheckpoint_memWf {s : State} {r : WgRef} (h : s.memWf) : (s.killOrCheckpoint r).memWf := by
  unfold State.killOrCheckpoint
  dsimp only
  split
  · exact State.takePark_memWf (by simpa using h)
  · split
    · exact State.takePark_memWf (by simpa using h)
    · split
      · exact State.killRelaunch_memWf (State.takePark_memWf (by simpa using h))
      · simpa using State.takePark_memWf (by simpa using h)

theorem State.chooseFor_memWf {s : State} {g : Grid} {r : WgRef} (h : s.memWf) : (s.chooseFor g r).memWf := by
  unfold State.chooseFor
  split
  · exact h
  · dsimp only
    split
    · split
      · simpa using h
      · exact State.killOrCheckpoint_memWf h
    · exact State.killOrCheckpoint_memWf h

theorem execEvPreemptionDecision_nextMemWf {grid : Nat} {s : State} (h : s.memWf) :
    nextMemWf (execEvPreemptionDecision grid s) := by
  unfold execEvPreemptionDecision
  split
  · exact h
  · split
    · dsimp only
      split
      · exact h
      · exact foldl_memWf _ _ (fun _ _ hs => State.chooseFor_memWf hs) _ h
    · exact h

theorem execEvDrainTimeout_nextMemWf {r : WgRef} {s : State} (h : s.memWf) : nextMemWf (execEvDrainTimeout r s) := by
  unfold execEvDrainTimeout
  split
  · split
    · exact State.killOrCheckpoint_memWf h
    · exact h
  · exact h

@[simp] theorem State.leaveTraps_mem (s : State) (r : WgRef) (w : Workgroup) : (s.leaveTraps r w).mem = s.mem := by
  simp [State.leaveTraps]

theorem execEvSaveCompletion_nextMemWf {r : WgRef} {s : State} (h : s.memWf) : nextMemWf (execEvSaveCompletion r s)
    := by
  unfold execEvSaveCompletion
  split
  · exact h
  · split
    · split
      · simpa using h
      · split
        · exact h
        · split
          · extract_lets a _ b c d e
            have ha : a.memWf := State.releaseWg_memWf _ _ h
            have he : e.mem = a.mem := by simp [e, d, c, b]
            refine State.memWf_of_mem (Eq.trans ?_ he) ha
            split <;> simp
          · exact h
    · exact h

theorem execEvRestore_nextMemWf {core frame : Nat} {s : State} (h : s.memWf) :
    nextMemWf (execEvRestore core frame s) := by
  unfold execEvRestore
  split
  · split
    · dsimp only
      split
      · exact State.restoreWg_memWf h
      · simpa using State.restoreWg_memWf h
    · exact h
  · exact h

theorem execEvRelaunch_nextMemWf {core grid : Nat} {s : State} (h : s.memWf) :
    nextMemWf (execEvRelaunch core grid s) := by
  unfold execEvRelaunch
  split
  · split
    · simpa using State.startWg_memWf (by simpa using h)
    · exact h
  · exact h

theorem whenReady_nextMemWf {s : State} {r : Res} (h : s.memWf) (hr : nextMemWf r) : nextMemWf (whenReady s r) := by
  unfold whenReady
  split
  · exact hr
  · exact h

theorem execEvQtailWrite_nextMemWf {q : Nat} {v : W64} {s : State} (h : s.memWf) :
    nextMemWf (execEvQtailWrite q v s) :=
  whenReady_nextMemWf h (writeQtail_nextMemWf h)

theorem execEvTlWaitRelease_nextMemWf {q : Nat} {s : State} (h : s.memWf) : nextMemWf (execEvTlWaitRelease q s) := by
  unfold execEvTlWaitRelease
  dsimp only
  split
  · exact h
  · split
    · split
      · simpa using h
      · split
        · split <;> simpa using h
        · exact h
        · simpa using h
    · exact h

theorem execEvParsingResumes_nextMemWf {q : Nat} {s : State} (h : s.memWf) :
    nextMemWf (execEvParsingResumes q s) := by
  unfold execEvParsingResumes
  split <;> simpa using h

theorem execEvOverflowMove_nextMemWf {ctx : Nat} {s : State} (h : s.memWf) :
    nextMemWf (execEvOverflowMove ctx s) := by
  unfold execEvOverflowMove
  dsimp only
  split
  · exact h
  · split
    · exact h
    · split
      · exact h
      · split <;> simpa using h

theorem execEvDeviceLaunchDequeue_nextMemWf {ctx : Nat} {s : State} (h : s.memWf) :
    nextMemWf (execEvDeviceLaunchDequeue ctx s) := by
  unfold execEvDeviceLaunchDequeue
  extract_lets all left t left2 cls
  have ht : t.memWf := State.memWf_of_mem (by simp [t]) h
  clear_value t left2
  split
  · split
    · exact ht
    · next b _ _ =>
      generalize t.launchWaits ctx b = waits
      cases waits
      · simpa using ht
      · exact ht
  · exact ht

theorem State.runMail_nextMemWf {s : State} {f : Nat} (h : s.memWf) : nextMemWf (s.runMail f) := by
  unfold State.runMail
  dsimp only
  split
  · exact execMbCreateContext_nextMemWf h
  · exact execMbDestroyContext_nextMemWf h
  · exact execMbBindQueue_nextMemWf h
  · exact execMbUnbindQueue_nextMemWf h
  · exact execMbResetQueue_nextMemWf h
  · exact execMbResetContext_nextMemWf h
  · exact execMbFwRestart_nextMemWf h
  · exact execMbGrant_nextMemWf h
  · exact execMbPodPeer_nextMemWf h
  · exact execMbSetPasid_nextMemWf h
  · exact execMbClearFences_nextMemWf h
  · exact State.mailFail_nextMemWf h

theorem execEvMailboxCompletion_nextMemWf {f : Nat} {s : State} (h : s.memWf) :
    nextMemWf (execEvMailboxCompletion f s) := by
  unfold execEvMailboxCompletion
  split
  · exact h
  · split
    · exact State.runMail_nextMemWf h
    · split
      · exact h
      · split
        · exact State.mailOk_nextMemWf (by simpa using h)
        · exact State.mailFail_nextMemWf (by simpa using h)
    · exact State.mailFail_nextMemWf h
    · exact h

theorem execEvCtxerrWrite_nextMemWf {ctx : Nat} {v : W64} {s : State} (h : s.memWf) :
    nextMemWf (execEvCtxerrWrite ctx v s) :=
  whenReady_nextMemWf h (writeCtxerr_nextMemWf h)

theorem execEvFresumeResume_nextMemWf {ctx frame : Nat} {s : State} (h : s.memWf) :
    nextMemWf (execEvFresumeResume ctx frame s) :=
  whenReady_nextMemWf h (fresumeResume_nextMemWf h)

theorem execEvFresumeKill_nextMemWf {ctx frame : Nat} {s : State} (h : s.memWf) :
    nextMemWf (execEvFresumeKill ctx frame s) :=
  whenReady_nextMemWf h (fresumeKill_nextMemWf h)

theorem execEvTlbinv_nextMemWf {ctx : Nat} {v : W64} {s : State} (h : s.memWf) : nextMemWf (execEvTlbinv ctx v s) :=
  whenReady_nextMemWf h (writeTlbinv_nextMemWf h)

theorem execEvTlbinvComplete_nextMemWf {ctx : Nat} {s : State} (h : s.memWf) :
    nextMemWf (execEvTlbinvComplete ctx s) := by
  unfold execEvTlbinvComplete
  split
  · exact h
  · dsimp only
    simpa using h

theorem execEvCerrWrite_nextMemWf {core : Nat} {v : W64} {s : State} (h : s.memWf) :
    nextMemWf (execEvCerrWrite core v s) :=
  whenReady_nextMemWf h (writeCerr_nextMemWf h)

theorem execEvRegisterWrite_nextMemWf {f dpa size : Nat} {v : W64} {s : State} (h : s.memWf) :
    nextMemWf (execEvRegisterWrite f dpa size v s) := by
  unfold execEvRegisterWrite
  split
  · split
    · split
      · exact State.writeReg_memWf h
      · exact h
    · split
      · exact h
      · split
        · exact h
        · split
          · exact State.writeReg_memWf h
          · simpa using h
  · exact h

theorem execEvHostPostedWrite_nextMemWf {f offset : Nat} {bytes : List Byte} {s : State} (h : s.memWf) :
    nextMemWf (execEvHostPostedWrite f offset bytes s) := by
  unfold execEvHostPostedWrite
  split
  · exact h
  · dsimp only
    split
    · refine State.memWf_of_mem (State.noteWrite_mem ..) ?_
      refine foldl_memWf _ _ (fun _ _ hs => ?_) _ h
      split
      · split
        · exact hs
        · exact State.writeMem_memWf _ _ _ hs
      · exact hs
    · refine foldl_memWf _ _ (fun _ _ hs => ?_) _ h
      split
      · split
        · exact hs
        · exact State.writeMem_memWf _ _ _ hs
      · exact hs

theorem execEvHostMemoryRead_nextMemWf {f offset size : Nat} {s : State} (h : s.memWf) :
    nextMemWf (execEvHostMemoryRead f offset size s) := by
  unfold execEvHostMemoryRead
  dsimp only
  simpa using h

theorem execEvShelfFrame_nextMemWf {bytes : List Byte} {s : State} (h : s.memWf) :
    nextMemWf (execEvShelfFrame bytes s) := by
  unfold execEvShelfFrame
  dsimp only
  split
  · exact h
  · split <;> simpa using h

theorem execEvShelfReply_nextMemWf {draw vin : BitVec 16} {s : State} (h : s.memWf) :
    nextMemWf (execEvShelfReply draw vin s) := by
  unfold execEvShelfReply
  split
  · exact h
  · dsimp only
    simpa using h

theorem execEvShelfLoss_nextMemWf {s : State} (h : s.memWf) : nextMemWf (execEvShelfLoss s) := by
  unfold execEvShelfLoss
  dsimp only
  split <;> simpa using h

theorem execEvShedLevelChange_nextMemWf {s : State} (h : s.memWf) : nextMemWf (execEvShedLevelChange s) := by
  unfold execEvShedLevelChange
  split
  · exact h
  · split
    · exact h
    · dsimp only
      simpa using h

theorem execEvShedctlWrite_nextMemWf {v : W64} {s : State} (h : s.memWf) : nextMemWf (execEvShedctlWrite v s) :=
  whenReady_nextMemWf h (writeShedctl_nextMemWf h)

theorem execEvRailMoveComplete_nextMemWf {tile : Nat} {s : State} (h : s.memWf) :
    nextMemWf (execEvRailMoveComplete tile s) := by
  unfold execEvRailMoveComplete
  simpa using h

theorem execEvRailPassesPoint_nextMemWf {tile : Nat} {s : State} (h : s.memWf) :
    nextMemWf (execEvRailPassesPoint tile s) := by
  unfold execEvRailPassesPoint
  simpa using h

theorem execEvHgrampWrite_nextMemWf {tile : Nat} {n : Bool} {v : W64} {s : State} (h : s.memWf) :
    nextMemWf (execEvHgrampWrite tile n v s) :=
  whenReady_nextMemWf h (writeHgramp_nextMemWf h)

theorem setRun_nextMemWf {head : Nat} {v : W64} {s : State} (h : s.memWf) : nextMemWf (setRun head v s) := by
  unfold setRun
  split
  · exact State.writeHctl_memWf h
  · exact h

theorem execEvRunSet_nextMemWf {head : Nat} {v : W64} {s : State} (h : s.memWf) : nextMemWf (execEvRunSet head v s) :=
  whenReady_nextMemWf h (setRun_nextMemWf h)

theorem clearRun_nextMemWf {head : Nat} {v : W64} {s : State} (h : s.memWf) : nextMemWf (clearRun head v s) := by
  unfold clearRun
  split
  · exact State.writeHctl_memWf h
  · exact h

theorem execEvRunClear_nextMemWf {head : Nat} {v : W64} {s : State} (h : s.memWf) :
    nextMemWf (execEvRunClear head v s) :=
  whenReady_nextMemWf h (clearRun_nextMemWf h)

theorem execEvHeadStop_nextMemWf {head : Nat} {s : State} (h : s.memWf) : nextMemWf (execEvHeadStop head s) := by
  unfold execEvHeadStop
  dsimp only
  split <;> simpa using h

theorem execEvPosecommit_nextMemWf {head : Nat} {v : W64} {s : State} (h : s.memWf) :
    nextMemWf (execEvPosecommit head v s) :=
  whenReady_nextMemWf h (commitPose_nextMemWf h)

theorem execEvLineStart_nextMemWf {head : Nat} {s : State} (h : s.memWf) : nextMemWf (execEvLineStart head s) := by
  unfold execEvLineStart
  dsimp only
  split <;> simpa using h

theorem execEvPoseLatch_nextMemWf {head : Nat} {s : State} (h : s.memWf) : nextMemWf (execEvPoseLatch head s) := by
  unfold execEvPoseLatch
  dsimp only
  split <;> simpa using h

theorem execEvBandDispatch_nextMemWf {head : Nat} {s : State} (h : s.memWf) :
    nextMemWf (execEvBandDispatch head s) := by
  unfold execEvBandDispatch
  dsimp only
  split <;> simpa using h

theorem execEvBandAbort_nextMemWf {lc : Nat} {s : State} (h : s.memWf) : nextMemWf (execEvBandAbort lc s) := by
  unfold execEvBandAbort
  simpa using h

theorem execEvGuardPoint_nextMemWf {head : Nat} {s : State} (h : s.memWf) : nextMemWf (execEvGuardPoint head s) := by
  unfold execEvGuardPoint
  dsimp only
  split
  · exact State.closeLine_memWf h
  · exact h

theorem execEvCaptureFrameDone_nextMemWf {head : Nat} {s : State} (h : s.memWf) :
    nextMemWf (execEvCaptureFrameDone head s) := by
  unfold execEvCaptureFrameDone
  split
  · exact h
  · dsimp only
    simpa using State.drainCapture_memWf h

@[simp] theorem State.writeToken_mem (s : State) (gen : W32) (entries : List TokenEntry) :
    (s.writeToken gen entries).mem = s.mem := rfl

theorem execEvWaterTurnToken_nextMemWf {gen : W32} {entries : List TokenEntry} {s : State} (h : s.memWf) :
    nextMemWf (execEvWaterTurnToken gen entries s) := by
  unfold execEvWaterTurnToken
  split
  · exact h
  · dsimp only
    simpa using h

theorem execEvSteal_nextMemWf {thief : Nat} {s : State} (h : s.memWf) : nextMemWf (execEvSteal thief s) := by
  unfold execEvSteal
  split
  · exact h
  · dsimp only
    split
    · simpa using h
    · split <;> simpa using h

theorem execEvStealRangeArrival_nextMemWf {range : StealRange} {s : State} (h : s.memWf) :
    nextMemWf (execEvStealRangeArrival range s) := by
  unfold execEvStealRangeArrival
  dsimp only
  split
  · split <;> simpa using h
  · split
    · split <;> simpa using h
    · simpa using h

theorem execEvStolenCompletionReport_nextMemWf {grid wgl : Nat} {s : State} (h : s.memWf) :
    nextMemWf (execEvStolenCompletionReport grid wgl s) := by
  unfold execEvStolenCompletionReport
  dsimp only
  exact State.tryCompleteGrid_memWf (by simpa using h)

theorem execEvThiefUnreachable_nextMemWf {thief : Nat} {s : State} (h : s.memWf) :
    nextMemWf (execEvThiefUnreachable thief s) := by
  unfold execEvThiefUnreachable
  dsimp only
  refine foldl_memWf _ _ (fun _ _ hs => State.tryCompleteGrid_memWf hs) _ ?_
  exact foldl_memWf _ _ (fun _ _ hs => State.retryOrError_memWf hs) _ (by simpa using h)

theorem execEvTokenRegeneration_nextMemWf {lowerReachable : Bool} {s : State} (h : s.memWf) :
    nextMemWf (execEvTokenRegeneration lowerReachable s) := by
  unfold execEvTokenRegeneration
  split <;> simpa using h

theorem execEvThermalTrip_nextMemWf {s : State} (h : s.memWf) : nextMemWf (execEvThermalTrip s) := by
  unfold execEvThermalTrip
  dsimp only
  simpa using State.powerLoss_memWf h

theorem execEvInputUndervoltage_nextMemWf {s : State} (h : s.memWf) : nextMemWf (execEvInputUndervoltage s) :=
  State.powerLoss_memWf h

theorem execEvUncorrectableError_nextMemWf {target : ErrorTarget} {s : State} (h : s.memWf) :
    nextMemWf (execEvUncorrectableError target s) := by
  unfold execEvUncorrectableError
  split
  · split <;> simpa using h
  · simpa using h
  · simpa using h
  · simpa using h
  · exact State.updCore_memWf _ _ _ h
  · split <;> simpa using h
  · simpa using h
  · simpa using h

theorem execEvSpdmMeasurements_nextMemWf {index : Nat} {nonce : List Byte} {s : State} (h : s.memWf) :
    nextMemWf (execEvSpdmMeasurements index nonce s) := by
  unfold execEvSpdmMeasurements
  split <;> simpa using h

theorem execEvPldmFirmwareUpdate_nextMemWf {image : FwImageId} {bytes : List Byte} {s : State} (h : s.memWf) :
    nextMemWf (execEvPldmFirmwareUpdate image bytes s) := by
  unfold execEvPldmFirmwareUpdate
  dsimp only
  simpa using h

theorem execEvPldmActivation_nextMemWf {image : FwImageId} {counter : Nat} {s : State} (h : s.memWf) :
    nextMemWf (execEvPldmActivation image counter s) := by
  unfold execEvPldmActivation
  dsimp only
  simpa using h

theorem execEvPldmSensorRead_nextMemWf {sensor : Sensor} {s : State} (h : s.memWf) :
    nextMemWf (execEvPldmSensorRead sensor s) := by
  unfold execEvPldmSensorRead
  dsimp only
  simpa using h

@[simp] theorem State.hostOpDone_mem (s : State) (op : HostOp) : (s.hostOpDone op).mem = s.mem := by
  unfold State.hostOpDone
  split
  · simp
  · split <;> simp
  · rfl

theorem State.hostOpRefused_memWf {s : State} {op : HostOp} (h : s.memWf) : (s.hostOpRefused op).memWf := by
  unfold State.hostOpRefused
  split
  · split
    · exact h
    · split
      · exact h
      · split
        · exact h
        · dsimp only
          exact State.trapWave_memWf (by simpa using h)
  · simpa using h
  · simpa using h

theorem execEvHostAtomicopCompletion_nextMemWf {id : Nat} {old : Option W64} {s : State} (h : s.memWf) :
    nextMemWf (execEvHostAtomicopCompletion id old s) := by
  unfold execEvHostAtomicopCompletion
  split
  · exact h
  · dsimp only
    split
    · exact State.hostOpRefused_memWf (by simpa using h)
    · split
      · simpa using h
      · simpa using State.writeMem_memWf _ _ _ (by simpa using h)

@[simp] theorem State.podAnswer_mem (s : State) (m : Nat) (b : List Byte) : (s.podAnswer m b).mem = s.mem := rfl

@[simp] theorem State.podCount_mem (s : State) (r : PodRequest) : (s.podCount r).mem = s.mem := by
  unfold State.podCount
  split <;> simp

theorem State.podAtomic_memWf {s : State} {r : PodRequest} {size : Nat} {f : Nat → Nat} (h : s.memWf) :
    (s.podAtomic r size f).memWf := by
  unfold State.podAtomic
  dsimp only
  simpa using State.writeMem_memWf _ _ _ h

theorem State.podAtom_memWf {s : State} {r : PodRequest} {t : WType} {m : Nat} {rnd : Rnd} {v : W64} (h : s.memWf) :
    (s.podAtom r t m rnd v).memWf := by
  unfold State.podAtom
  dsimp only
  simpa using State.writeMem_memWf _ _ _ h

theorem State.podTimeline_memWf {s : State} {r : PodRequest} {add : Bool} {v : W64} (h : s.memWf) :
    (s.podTimeline r add v).memWf := by
  unfold State.podTimeline
  dsimp only
  simpa using State.writeMem_memWf _ _ _ h

theorem State.podPerform_memWf {s : State} {req : PodRequest} (h : s.memWf) : (s.podPerform req).memWf := by
  unfold State.podPerform
  split
  · simpa using h
  · simpa using State.writeMem_memWf _ _ _ h
  · exact State.podAtomic_memWf h
  · exact State.podAtomic_memWf h
  · exact State.podAtomic_memWf h
  · exact State.podAtom_memWf h
  · exact State.podTimeline_memWf h
  · exact State.podTimeline_memWf h

theorem execEvPodRequestArrival_nextMemWf {req : PodRequest} {s : State} (h : s.memWf) :
    nextMemWf (execEvPodRequestArrival req s) := by
  unfold execEvPodRequestArrival
  split
  · exact h
  · split
    · split <;> simpa using h
    · split
      · exact h
      · simpa using State.podPerform_memWf h

@[simp] theorem State.emitArrives_mem (s : State) (x : Nat) (e : LineEmit) : (s.emitArrives x e).mem = s.mem := by
  simp [State.emitArrives]

theorem execEvLineResultArrival_nextMemWf {lc k : Nat} {s : State} (h : s.memWf) :
    nextMemWf (execEvLineResultArrival lc k s) := by
  unfold execEvLineResultArrival
  dsimp only
  split
  · exact h
  · split
    · exact h
    · split <;> simpa using h

theorem execEvLdgAccessReturn_nextMemWf {core : Nat} {ctx : SeqCtx} {s : State} (h : s.memWf) :
    nextMemWf (execEvLdgAccessReturn core ctx s) := by
  unfold execEvLdgAccessReturn
  split
  · exact h
  · split
    · exact h
    · dsimp only
      split <;> simpa using h

theorem execEvOvlLoadComplete_nextMemWf {core : Nat} {s : State} (h : s.memWf) :
    nextMemWf (execEvOvlLoadComplete core s) := by
  unfold execEvOvlLoadComplete
  split
  · exact h
  · split <;> simpa using h

theorem execEvMaintenancePerformed_nextMemWf {r : WaveRef} {s : State} (h : s.memWf) :
    nextMemWf (execEvMaintenancePerformed r s) := by
  unfold execEvMaintenancePerformed
  simpa using h

/-- Every instruction keeps the canonical form: the shared shape of its word does, or its own meaning. -/
theorem exec_nextMemWf {i : Instr} {s : State} (h : s.memWf) : nextMemWf (exec i s) := by
  cases i with
  | wAdd w => exact (vecWord_nextMemWf h : nextMemWf (execWAdd w s))
  | wSub w => exact (vecWord_nextMemWf h : nextMemWf (execWSub w s))
  | wAddc w => exact (carryVec_nextMemWf h : nextMemWf (execWAddc w s))
  | wSubb w => exact (carryVec_nextMemWf h : nextMemWf (execWSubb w s))
  | wMul w => exact (vecWord_nextMemWf h : nextMemWf (execWMul w s))
  | wMulh w => exact (vecWord_nextMemWf h : nextMemWf (execWMulh w s))
  | wMad w => exact (vecWord_nextMemWf h : nextMemWf (execWMad w s))
  | wMadw w => exact (vecWord_nextMemWf h : nextMemWf (execWMadw w s))
  | wMin w => exact (vecWord_nextMemWf h : nextMemWf (execWMin w s))
  | wMax w => exact (vecWord_nextMemWf h : nextMemWf (execWMax w s))
  | wAbs w => exact (vecWord_nextMemWf h : nextMemWf (execWAbs w s))
  | wNeg w => exact (vecWord_nextMemWf h : nextMemWf (execWNeg w s))
  | wAnd w => exact (vecWord_nextMemWf h : nextMemWf (execWAnd w s))
  | wOr w => exact (vecWord_nextMemWf h : nextMemWf (execWOr w s))
  | wXor w => exact (vecWord_nextMemWf h : nextMemWf (execWXor w s))
  | wNot w => exact (vecWord_nextMemWf h : nextMemWf (execWNot w s))
  | wAndn w => exact (vecWord_nextMemWf h : nextMemWf (execWAndn w s))
  | wShl w => exact (vecWord_nextMemWf h : nextMemWf (execWShl w s))
  | wShr w => exact (vecWord_nextMemWf h : nextMemWf (execWShr w s))
  | wSar w => exact (vecWord_nextMemWf h : nextMemWf (execWSar w s))
  | wRot w => exact (vecWord_nextMemWf h : nextMemWf (execWRot w s))
  | wFunnel w => exact (vecWord_nextMemWf h : nextMemWf (execWFunnel w s))
  | wBfx w => exact (vecWord_nextMemWf h : nextMemWf (execWBfx w s))
  | wBfi w => exact (bfiVec_nextMemWf h : nextMemWf (execWBfi w s))
  | wPopc w => exact (vecWord_nextMemWf h : nextMemWf (execWPopc w s))
  | wClz w => exact (vecWord_nextMemWf h : nextMemWf (execWClz w s))
  | wCtz w => exact (vecWord_nextMemWf h : nextMemWf (execWCtz w s))
  | wBrev w => exact (vecWord_nextMemWf h : nextMemWf (execWBrev w s))
  | wAddScalar w => exact (scaWord_nextMemWf h : nextMemWf (execWAddScalar w s))
  | wSubScalar w => exact (scaWord_nextMemWf h : nextMemWf (execWSubScalar w s))
  | wAddcScalar w => exact (carrySca_nextMemWf h : nextMemWf (execWAddcScalar w s))
  | wSubbScalar w => exact (carrySca_nextMemWf h : nextMemWf (execWSubbScalar w s))
  | wMulScalar w => exact (scaWord_nextMemWf h : nextMemWf (execWMulScalar w s))
  | wMulhScalar w => exact (scaWord_nextMemWf h : nextMemWf (execWMulhScalar w s))
  | wMadScalar w => exact (scaWord_nextMemWf h : nextMemWf (execWMadScalar w s))
  | wMadwScalar w => exact (scaWord_nextMemWf h : nextMemWf (execWMadwScalar w s))
  | wMinScalar w => exact (scaWord_nextMemWf h : nextMemWf (execWMinScalar w s))
  | wMaxScalar w => exact (scaWord_nextMemWf h : nextMemWf (execWMaxScalar w s))
  | wAbsScalar w => exact (scaWord_nextMemWf h : nextMemWf (execWAbsScalar w s))
  | wNegScalar w => exact (scaWord_nextMemWf h : nextMemWf (execWNegScalar w s))
  | wAndScalar w => exact (scaWord_nextMemWf h : nextMemWf (execWAndScalar w s))
  | wOrScalar w => exact (scaWord_nextMemWf h : nextMemWf (execWOrScalar w s))
  | wXorScalar w => exact (scaWord_nextMemWf h : nextMemWf (execWXorScalar w s))
  | wNotScalar w => exact (scaWord_nextMemWf h : nextMemWf (execWNotScalar w s))
  | wAndnScalar w => exact (scaWord_nextMemWf h : nextMemWf (execWAndnScalar w s))
  | wShlScalar w => exact (scaWord_nextMemWf h : nextMemWf (execWShlScalar w s))
  | wShrScalar w => exact (scaWord_nextMemWf h : nextMemWf (execWShrScalar w s))
  | wSarScalar w => exact (scaWord_nextMemWf h : nextMemWf (execWSarScalar w s))
  | wRotScalar w => exact (scaWord_nextMemWf h : nextMemWf (execWRotScalar w s))
  | wFunnelScalar w => exact (scaWord_nextMemWf h : nextMemWf (execWFunnelScalar w s))
  | wBfxScalar w => exact (scaWord_nextMemWf h : nextMemWf (execWBfxScalar w s))
  | wBfiScalar => exact execWBfiScalar_nextMemWf h
  | wPopcScalar w => exact (scaWord_nextMemWf h : nextMemWf (execWPopcScalar w s))
  | wClzScalar w => exact (scaWord_nextMemWf h : nextMemWf (execWClzScalar w s))
  | wCtzScalar w => exact (scaWord_nextMemWf h : nextMemWf (execWCtzScalar w s))
  | wBrevScalar w => exact (scaWord_nextMemWf h : nextMemWf (execWBrevScalar w s))
  | wSel => exact execWSel_nextMemWf h
  | wMov w => exact (vecWord_nextMemWf h : nextMemWf (execWMov w s))
  | wMovScalar w => exact (scaWord_nextMemWf h : nextMemWf (execWMovScalar w s))
  | wMovl => exact execWMovl_nextMemWf h
  | wMovlScalar => exact execWMovlScalar_nextMemWf h
  | wLea w => exact (vecWord_nextMemWf h : nextMemWf (execWLea w s))
  | wLeaScalar w => exact (scaWord_nextMemWf h : nextMemWf (execWLeaScalar w s))
  | wLane => exact execWLane_nextMemWf h
  | wShuf w => exact (laneMove_nextMemWf h : nextMemWf (execWShuf w s))
  | wBcast w => exact (laneMove_nextMemWf h : nextMemWf (execWBcast w s))
  | wRdsp w => exact (vecWord_nextMemWf h : nextMemWf (execWRdsp w s))
  | wRdspScalar w => exact (scaWord_nextMemWf h : nextMemWf (execWRdspScalar w s))
  | wCmp w => exact (predWord_nextMemWf h : nextMemWf (execWCmp w s))
  | wPlog => exact execWPlog_nextMemWf h
  | wWrsp => exact execWWrsp_nextMemWf h
  | wBra w => exact (jumpWord_nextMemWf h : nextMemWf (execWBra w s))
  | wBrx w => exact (jumpWord_nextMemWf h : nextMemWf (execWBrx w s))
  | wCall w => exact (callWord_nextMemWf h : nextMemWf (execWCall w s))
  | wCallx w => exact (callWord_nextMemWf h : nextMemWf (execWCallx w s))
  | wRet => exact execWRet_nextMemWf h
  | wExit => exact execWExit_nextMemWf h
  | wTrap w => exact (stopWord_nextMemWf h : nextMemWf (execWTrap w s))
  | wBreak w => exact (stopWord_nextMemWf h : nextMemWf (execWBreak w s))
  | wNop => exact execWNop_nextMemWf h
  | wYield => exact execWYield_nextMemWf h
  | wSleep => exact execWSleep_nextMemWf h
  | wWaitf => exact execWWaitf_nextMemWf h
  | wFadd w => exact (flt2_nextMemWf h : nextMemWf (execWFadd w s))
  | wFsub w => exact (flt2_nextMemWf h : nextMemWf (execWFsub w s))
  | wFmul w => exact (flt2_nextMemWf h : nextMemWf (execWFmul w s))
  | wFfma w => exact (flt3_nextMemWf h : nextMemWf (execWFfma w s))
  | wFmin w => exact (flt2_nextMemWf h : nextMemWf (execWFmin w s))
  | wFmax w => exact (flt2_nextMemWf h : nextMemWf (execWFmax w s))
  | wFcmp w => exact (predWord_nextMemWf h : nextMemWf (execWFcmp w s))
  | wFclass w => exact (predWord_nextMemWf h : nextMemWf (execWFclass w s))
  | wFrnd w => exact (flt1_nextMemWf h : nextMemWf (execWFrnd w s))
  | wFract w => exact (flt1_nextMemWf h : nextMemWf (execWFract w s))
  | wRcp w => exact (funcWord_nextMemWf h : nextMemWf (execWRcp w s))
  | wRsq w => exact (funcWord_nextMemWf h : nextMemWf (execWRsq w s))
  | wSqrt w => exact (funcWord_nextMemWf h : nextMemWf (execWSqrt w s))
  | wExp2 w => exact (funcWord_nextMemWf h : nextMemWf (execWExp2 w s))
  | wLog2 w => exact (funcWord_nextMemWf h : nextMemWf (execWLog2 w s))
  | wSin w => exact (funcWord_nextMemWf h : nextMemWf (execWSin w s))
  | wCos w => exact (funcWord_nextMemWf h : nextMemWf (execWCos w s))
  | wTanh w => exact (funcWord_nextMemWf h : nextMemWf (execWTanh w s))
  | wCvt => exact execWCvt_nextMemWf h
  | wPack => exact execWPack_nextMemWf h
  | wUnpack => exact execWUnpack_nextMemWf h
  | wDot2 => exact execWDot2_nextMemWf h
  | wDot4 => exact execWDot4_nextMemWf h
  | wReduce => exact execWReduce_nextMemWf h
  | wScan => exact execWScan_nextMemWf h
  | wTopk => exact execWTopk_nextMemWf h
  | wBallot => exact execWBallot_nextMemWf h
  | wVote => exact execWVote_nextMemWf h
  | wLd => exact execWLd_nextMemWf h
  | wSt => exact execWSt_nextMemWf h
  | wLds => exact execWLds_nextMemWf h
  | wSts => exact execWSts_nextMemWf h
  | wSend => exact execWSend_nextMemWf h
  | wRecv => exact execWRecv_nextMemWf h
  | wPref => exact execWPref_nextMemWf h
  | wWb w => exact (maintainWord_nextMemWf h : nextMemWf (execWWb w s))
  | wInv w => exact (maintainWord_nextMemWf h : nextMemWf (execWInv w s))
  | wAtom => exact execWAtom_nextMemWf h
  | wAtomcas => exact execWAtomcas_nextMemWf h
  | wRed => exact execWRed_nextMemWf h
  | wBind => exact execWBind_nextMemWf h
  | wUnbind => exact execWUnbind_nextMemWf h
  | wAcq => exact execWAcq_nextMemWf h
  | wRel => exact execWRel_nextMemWf h
  | wFence => exact execWFence_nextMemWf h
  | wBar => exact execWBar_nextMemWf h
  | wGbar => exact execWGbar_nextMemWf h
  | wArrive => exact execWArrive_nextMemWf h
  | wWaitb => exact execWWaitb_nextMemWf h
  | wOpfence => exact execWOpfence_nextMemWf h
  | wTladd w => exact (timelineWord_nextMemWf h : nextMemWf (execWTladd w s))
  | wTlset w => exact (timelineWord_nextMemWf h : nextMemWf (execWTlset w s))
  | wTlwait => exact execWTlwait_nextMemWf h
  | wLaunch => exact execWLaunch_nextMemWf h
  | wSetperf => exact execWSetperf_nextMemWf h
  | wProgress => exact execWProgress_nextMemWf h
  | wRdv => exact execWRdv_nextMemWf h
  | seqAdd w => exact (seqResult_nextMemWf h : nextMemWf (execSeqAdd w s))
  | seqSub w => exact (seqResult_nextMemWf h : nextMemWf (execSeqSub w s))
  | seqAnd w => exact (seqResult_nextMemWf h : nextMemWf (execSeqAnd w s))
  | seqOr w => exact (seqResult_nextMemWf h : nextMemWf (execSeqOr w s))
  | seqXor w => exact (seqResult_nextMemWf h : nextMemWf (execSeqXor w s))
  | seqShl w => exact (seqResult_nextMemWf h : nextMemWf (execSeqShl w s))
  | seqShr w => exact (seqResult_nextMemWf h : nextMemWf (execSeqShr w s))
  | seqSar w => exact (seqResult_nextMemWf h : nextMemWf (execSeqSar w s))
  | seqMul w => exact (seqResult_nextMemWf h : nextMemWf (execSeqMul w s))
  | seqSlt w => exact (seqResult_nextMemWf h : nextMemWf (execSeqSlt w s))
  | seqSltz w => exact (seqResult_nextMemWf h : nextMemWf (execSeqSltz w s))
  | seqAddi => exact execSeqAddi_nextMemWf h
  | seqLi => exact execSeqLi_nextMemWf h
  | seqLui => exact execSeqLui_nextMemWf h
  | seqBeq w => exact (seqBranch_nextMemWf h : nextMemWf (execSeqBeq w s))
  | seqBne w => exact (seqBranch_nextMemWf h : nextMemWf (execSeqBne w s))
  | seqBlt w => exact (seqBranch_nextMemWf h : nextMemWf (execSeqBlt w s))
  | seqBge w => exact (seqBranch_nextMemWf h : nextMemWf (execSeqBge w s))
  | seqJ => exact execSeqJ_nextMemWf h
  | seqJal => exact execSeqJal_nextMemWf h
  | seqJr => exact execSeqJr_nextMemWf h
  | seqLdg => exact execSeqLdg_nextMemWf h
  | seqStg => exact execSeqStg_nextMemWf h
  | seqCpy => exact execSeqCpy_nextMemWf h
  | seqCpyw => exact execSeqCpyw_nextMemWf h
  | seqMw => exact execSeqMw_nextMemWf h
  | seqNest => exact execSeqNest_nextMemWf h
  | seqGo => exact execSeqGo_nextMemWf h
  | seqNwait => exact execSeqNwait_nextMemWf h
  | seqSpw => exact execSeqSpw_nextMemWf h
  | seqTok => exact execSeqTok_nextMemWf h
  | seqPace => exact execSeqPace_nextMemWf h
  | seqRdv => exact execSeqRdv_nextMemWf h
  | seqOvl => exact execSeqOvl_nextMemWf h
  | seqMfc => exact execSeqMfc_nextMemWf h
  | seqMtc => exact execSeqMtc_nextMemWf h
  | seqTrap => exact execSeqTrap_nextMemWf h
  | seqEret => exact execSeqEret_nextMemWf h
  | seqHalt => exact execSeqHalt_nextMemWf h
  | mWload => exact execMWload_nextMemWf h
  | mStep => exact execMStep_nextMemWf h
  | mDrain => exact execMDrain_nextMemWf h
  | mFold => exact execMFold_nextMemWf h
  | mClr => exact execMClr_nextMemWf h
  | mFill => exact execMFill_nextMemWf h
  | mNop => exact execMNop_nextMemWf h
  | pkNop => exact execPkNop_nextMemWf h
  | pkLaunchGrid => exact execPkLaunchGrid_nextMemWf h
  | pkIndirect => exact execPkIndirect_nextMemWf h
  | pkTlWait => exact execPkTlWait_nextMemWf h
  | pkTlAdd w => exact (timelinePacket_nextMemWf h : nextMemWf (execPkTlAdd w s))
  | pkTlSet w => exact (timelinePacket_nextMemWf h : nextMemWf (execPkTlSet w s))
  | pkBarrier => exact execPkBarrier_nextMemWf h
  | pkPresent => exact execPkPresent_nextMemWf h
  | mbCreateContext => exact execMbCreateContext_nextMemWf h
  | mbDestroyContext => exact execMbDestroyContext_nextMemWf h
  | mbBindQueue => exact execMbBindQueue_nextMemWf h
  | mbUnbindQueue => exact execMbUnbindQueue_nextMemWf h
  | mbResetQueue => exact execMbResetQueue_nextMemWf h
  | mbResetContext => exact execMbResetContext_nextMemWf h
  | mbFwRestart => exact execMbFwRestart_nextMemWf h
  | mbGrant => exact execMbGrant_nextMemWf h
  | mbPodPeer => exact execMbPodPeer_nextMemWf h
  | mbSetPasid => exact execMbSetPasid_nextMemWf h
  | mbClearFences => exact execMbClearFences_nextMemWf h
  | lLoop w => exact (lineOnly_nextMemWf h : nextMemWf (execLLoop w s))
  | lBr w => exact (lineOnly_nextMemWf h : nextMemWf (execLBr w s))
  | lBrc w => exact (lineOnly_nextMemWf h : nextMemWf (execLBrc w s))
  | lHalt w => exact execLHalt_nextMemWf (w := w) h
  | lBeam => exact execLBeam_nextMemWf h
  | lPose => exact execLPose_nextMemWf h
  | lKadd w => exact (kOp_nextMemWf h : nextMemWf (execLKadd w s))
  | lKaddi w => exact (lineOnly_nextMemWf h : nextMemWf (execLKaddi w s))
  | lKsub w => exact (kOp_nextMemWf h : nextMemWf (execLKsub w s))
  | lKmul w => exact (kOp_nextMemWf h : nextMemWf (execLKmul w s))
  | lKand w => exact (kOp_nextMemWf h : nextMemWf (execLKand w s))
  | lKor w => exact (kOp_nextMemWf h : nextMemWf (execLKor w s))
  | lKxor w => exact (kOp_nextMemWf h : nextMemWf (execLKxor w s))
  | lKshl w => exact (kOp_nextMemWf h : nextMemWf (execLKshl w s))
  | lKshr w => exact (kOp_nextMemWf h : nextMemWf (execLKshr w s))
  | lKsar w => exact (kOp_nextMemWf h : nextMemWf (execLKsar w s))
  | lKli w => exact (lineOnly_nextMemWf h : nextMemWf (execLKli w s))
  | lKlui w => exact (lineOnly_nextMemWf h : nextMemWf (execLKlui w s))
  | lKslt w => exact (kOp_nextMemWf h : nextMemWf (execLKslt w s))
  | lHadd w => exact (typedLine_nextMemWf h : nextMemWf (execLHadd w s))
  | lHsub w => exact (typedLine_nextMemWf h : nextMemWf (execLHsub w s))
  | lHmul w => exact (typedLine_nextMemWf h : nextMemWf (execLHmul w s))
  | lHfma w => exact (typedLine_nextMemWf h : nextMemWf (execLHfma w s))
  | lHmin w => exact (typedLine_nextMemWf h : nextMemWf (execLHmin w s))
  | lHmax w => exact (typedLine_nextMemWf h : nextMemWf (execLHmax w s))
  | lHcmp w => exact (lineOnly_nextMemWf h : nextMemWf (execLHcmp w s))
  | lHsel w => exact (hOp_nextMemWf h : nextMemWf (execLHsel w s))
  | lHcvt w => exact (hOp_nextMemWf h : nextMemWf (execLHcvt w s))
  | lHrcp w => exact (hOp_nextMemWf h : nextMemWf (execLHrcp w s))
  | lHlerp w => exact (hOp_nextMemWf h : nextMemWf (execLHlerp w s))
  | lHshuf w => exact (hOp_nextMemWf h : nextMemWf (execLHshuf w s))
  | lPmm => exact execLPmm_nextMemWf h
  | lPmw w => exact (lineOnly_nextMemWf h : nextMemWf (execLPmw w s))
  | lLbld w => exact (lineOnly_nextMemWf h : nextMemWf (execLLbld w s))
  | lLbst w => exact (lineOnly_nextMemWf h : nextMemWf (execLLbst w s))
  | lGath w => exact (lineOnly_nextMemWf h : nextMemWf (execLGath w s))
  | lSamp => exact execLSamp_nextMemWf h
  | lEmit => exact execLEmit_nextMemWf h
  | lNop w => exact execLNop_nextMemWf (w := w) h
  | evClauseStart => exact execEvClauseStart_nextMemWf h
  | evLongLatencyCompletion => exact execEvLongLatencyCompletion_nextMemWf h
  | evSleepExpiry => exact execEvSleepExpiry_nextMemWf h
  | evWaitfRelease => exact execEvWaitfRelease_nextMemWf h
  | evBarrierPhaseCompletion => exact execEvBarrierPhaseCompletion_nextMemWf h
  | evGbarCompletion => exact execEvGbarCompletion_nextMemWf h
  | evRendezvousCompletion => exact execEvRendezvousCompletion_nextMemWf h
  | evAcqRelease => exact execEvAcqRelease_nextMemWf h
  | evTlwaitRelease => exact execEvTlwaitRelease_nextMemWf h
  | evTlwaitPark => exact execEvTlwaitPark_nextMemWf h
  | evTimelinePoll => exact execEvTimelinePoll_nextMemWf h
  | evWaveEnd => exact execEvWaveEnd_nextMemWf h
  | evSpillwayHandlerDelivery => exact execEvSpillwayHandlerDelivery_nextMemWf h
  | evReplyTakenAsPoisoned => exact execEvReplyTakenAsPoisoned_nextMemWf h
  | evWatchdog => exact execEvWatchdog_nextMemWf h
  | evShedForce => exact execEvShedForce_nextMemWf h
  | evSequencerJobStart => exact execEvSequencerJobStart_nextMemWf h
  | evPassCommit => exact execEvPassCommit_nextMemWf h
  | evSpillwayStallExpiry => exact execEvSpillwayStallExpiry_nextMemWf h
  | evMatrixWordCompletion => exact execEvMatrixWordCompletion_nextMemWf h
  | evNestWordGeneration => exact execEvNestWordGeneration_nextMemWf h
  | evHeadgateDemand => exact execEvHeadgateDemand_nextMemWf h
  | evHeadgateGrant => exact execEvHeadgateGrant_nextMemWf h
  | evHeadgateBoundary => exact execEvHeadgateBoundary_nextMemWf h
  | evRampTableInForce => exact execEvRampTableInForce_nextMemWf h
  | evCopyAcceptance => exact execEvCopyAcceptance_nextMemWf h
  | evCopyChunkStart => exact execEvCopyChunkStart_nextMemWf h
  | evCopyChunkCompletion => exact execEvCopyChunkCompletion_nextMemWf h
  | evStreamDelivery => exact execEvStreamDelivery_nextMemWf h
  | evCopyCompletion => exact execEvCopyCompletion_nextMemWf h
  | evClaim => exact execEvClaim_nextMemWf h
  | evGangClaim => exact execEvGangClaim_nextMemWf h
  | evPlacement => exact execEvPlacement_nextMemWf h
  | evReservedMemberPlacement => exact execEvReservedMemberPlacement_nextMemWf h
  | evTokenGrowth => exact execEvTokenGrowth_nextMemWf h
  | evPreemptionDecision => exact execEvPreemptionDecision_nextMemWf h
  | evDrainTimeout => exact execEvDrainTimeout_nextMemWf h
  | evSaveCompletion => exact execEvSaveCompletion_nextMemWf h
  | evRestore => exact execEvRestore_nextMemWf h
  | evRelaunch => exact execEvRelaunch_nextMemWf h
  | evQtailWrite => exact execEvQtailWrite_nextMemWf h
  | evTlWaitRelease => exact execEvTlWaitRelease_nextMemWf h
  | evParsingResumes => exact execEvParsingResumes_nextMemWf h
  | evOverflowMove => exact execEvOverflowMove_nextMemWf h
  | evDeviceLaunchDequeue => exact execEvDeviceLaunchDequeue_nextMemWf h
  | evMailboxCompletion => exact execEvMailboxCompletion_nextMemWf h
  | evCtxerrWrite => exact execEvCtxerrWrite_nextMemWf h
  | evFresumeResume => exact execEvFresumeResume_nextMemWf h
  | evFresumeKill => exact execEvFresumeKill_nextMemWf h
  | evTlbinv => exact execEvTlbinv_nextMemWf h
  | evTlbinvComplete => exact execEvTlbinvComplete_nextMemWf h
  | evCerrWrite => exact execEvCerrWrite_nextMemWf h
  | evRegisterWrite => exact execEvRegisterWrite_nextMemWf h
  | evHostPostedWrite => exact execEvHostPostedWrite_nextMemWf h
  | evHostMemoryRead => exact execEvHostMemoryRead_nextMemWf h
  | evShelfFrame => exact execEvShelfFrame_nextMemWf h
  | evShelfReply => exact execEvShelfReply_nextMemWf h
  | evShelfLoss => exact execEvShelfLoss_nextMemWf h
  | evShedLevelChange => exact execEvShedLevelChange_nextMemWf h
  | evShedctlWrite => exact execEvShedctlWrite_nextMemWf h
  | evVmboxWrite => exact execEvVmboxWrite_nextMemWf h
  | evRailMoveComplete => exact execEvRailMoveComplete_nextMemWf h
  | evRailPassesPoint => exact execEvRailPassesPoint_nextMemWf h
  | evHgrampWrite => exact execEvHgrampWrite_nextMemWf h
  | evRunSet => exact execEvRunSet_nextMemWf h
  | evRunClear => exact execEvRunClear_nextMemWf h
  | evHeadStop => exact execEvHeadStop_nextMemWf h
  | evPosecommit => exact execEvPosecommit_nextMemWf h
  | evLineStart => exact execEvLineStart_nextMemWf h
  | evPoseLatch => exact execEvPoseLatch_nextMemWf h
  | evBandDispatch => exact execEvBandDispatch_nextMemWf h
  | evBandAbort => exact execEvBandAbort_nextMemWf h
  | evGuardPoint => exact execEvGuardPoint_nextMemWf h
  | evCaptureFrameDone => exact execEvCaptureFrameDone_nextMemWf h
  | evWaterTurnToken => exact execEvWaterTurnToken_nextMemWf h
  | evSteal => exact execEvSteal_nextMemWf h
  | evStealRangeArrival => exact execEvStealRangeArrival_nextMemWf h
  | evStolenCompletionReport => exact execEvStolenCompletionReport_nextMemWf h
  | evThiefUnreachable => exact execEvThiefUnreachable_nextMemWf h
  | evTokenRegeneration => exact execEvTokenRegeneration_nextMemWf h
  | evPowerUp => exact execEvPowerUp_nextMemWf h
  | evThermalTrip => exact execEvThermalTrip_nextMemWf h
  | evInputUndervoltage => exact execEvInputUndervoltage_nextMemWf h
  | evUncorrectableError => exact execEvUncorrectableError_nextMemWf h
  | evSpdmMeasurements => exact execEvSpdmMeasurements_nextMemWf h
  | evPldmFirmwareUpdate => exact execEvPldmFirmwareUpdate_nextMemWf h
  | evPldmActivation => exact execEvPldmActivation_nextMemWf h
  | evPldmSensorRead => exact execEvPldmSensorRead_nextMemWf h
  | evHostAtomicopCompletion => exact execEvHostAtomicopCompletion_nextMemWf h
  | evPodRequestArrival => exact execEvPodRequestArrival_nextMemWf h
  | evLineResultArrival => exact execEvLineResultArrival_nextMemWf h
  | evLdgAccessReturn => exact execEvLdgAccessReturn_nextMemWf h
  | evOvlLoadComplete => exact execEvOvlLoadComplete_nextMemWf h
  | evMaintenancePerformed => exact execEvMaintenancePerformed_nextMemWf h

theorem runOps_nextMemWf {l : List Instr} {s : State} (h : s.memWf) : nextMemWf (runOps l s) := by
  induction l generalizing s with
  | nil => exact h
  | cons i rest ih =>
    have hi : nextMemWf (exec i s) := exec_nextMemWf h
    unfold runOps
    split
    · next heq => exact ih (by simpa [heq] using hi)
    · exact hi

/-- A step keeps the canonical form: its turn, the instructions that run, and what follows in the same moment. -/
theorem step_nextMemWf {s : State} (h : s.memWf) : nextMemWf (step s) := by
  have hf : s.fetch.memWf := State.fetch_memWf h
  unfold step
  split
  · next heq => exact settled_nextMemWf (exec_nextMemWf (by simpa [heq] using hf))
  · next l u heq =>
    have ho : nextMemWf (runOps l u) := runOps_nextMemWf (by simpa [heq] using hf)
    split
    · next heq => exact settled_nextMemWf (by simpa [heq] using ho)
    · exact ho
  · next heq => exact settled_nextMemWf (by simpa [heq] using hf)

/-- Settles O59: no step writes the memory beyond the caches but through writes that keep its canonical form. -/
theorem stepsKeepMemoryCanonical : Obligations.StepsKeepMemoryCanonical := by
  intro s t h hs
  have ht : nextMemWf (step s) := step_nextMemWf h
  rwa [hs] at ht

end Sys2Proof.Machine
end

section
/-! The reset state, and two states that refute what is said of them: a computing word that traps, and a move of the overflow
ring that marks more than its context. -/

namespace Sys2Proof.Machine

open Sys2Proof

/-! ## The reset state (00 R8; 08 R263; 11 R318; 22 R475) -/

/-- Settles O60: each part of the state after reset is read off the definition; that every cell of a tile is zero follows
from the tile's reset. -/
theorem resetState : Obligations.ResetState := by
  refine ⟨State.reset_memWf, rfl, rfl, rfl, rfl, fun q => rfl, fun h => ⟨rfl, rfl⟩, rfl, fun c => rfl,
    fun core tile => ⟨rfl, rfl, rfl, fun n => ?_⟩⟩
  simp [State.accTile, State.core, State.reset, assoc, Tile.elem, Tile.reset, ComputeCore.reset]

/-! ## A computing word that meets a poisoned scalar chosen at run time (04 R138; 16 R418) -/

/-- The scalar MOVL of s3, which it finds at run time as s2 and 1. -/
def movlOfS3 : WWord := ⟨.b32, 0, 0, false, false, 0, 7, .s 2, .imm 1, .v 0, .rn⟩

/-- A wave in core 0 that is to execute a word, with s3 of it poisoned. -/
def s3Poisoned : State :=
  ({ State.reset.placeWave 0 with cur := .wave ⟨0, 0, 0⟩ } : State).updWave ⟨0, 0, 0⟩ (fun v => { v with spoison := [3] })

/-- The word issues: s3 is none of the registers its fields name, and so its poison does not count among them. -/
theorem movlOfS3_ready : (s3Poisoned.ready? 0x62 movlOfS3).isSome = true := by decide +kernel

/-- The word then meets the poison of s3 and traps POISON; the trap is contained, and the wave is discarded. -/
theorem movlOfS3_discards {t : State} (h : exec (.wMovlScalar movlOfS3) s3Poisoned = .next t) :
    t.wave? ⟨0, 0, 0⟩ = none := by
  cases h
  decide +kernel

theorem movlScalar_mem_computingRows : CompRow.always 0x62 .wMovlScalar ∈ computingRows := by
  simp [computingRows, scalarRows, CompRow.always, ScaRow.once]

/-- Refutes O8: the scalar MOVL stands among the computing words with no condition, but the scalar it reads is chosen when
it executes, after the check of its operands' poison. Where that scalar is poisoned the word does not complete: it traps,
and its wave is discarded. -/
theorem not_computingWordFrame : ¬ Obligations.ComputingWordFrame := by
  intro h
  obtain ⟨⟨c, f⟩, hr⟩ := Option.isSome_iff_exists.mp movlOfS3_ready
  obtain ⟨t, v, ht, hv, -⟩ := h _ movlScalar_mem_computingRows movlOfS3 s3Poisoned c f hr rfl
  have hcur : s3Poisoned.cur = .wave c.r := (State.waveCtx?_spec (State.ready?_spec hr).1).1
  have hcr : c.r = ⟨0, 0, 0⟩ := (Agent.wave.inj hcur).symm
  rw [hcr, movlOfS3_discards ht] at hv
  cases hv

/-! ## An overflow ring that lies over the register block (11 R319-R342; 00 R10) -/

/-- Context 0 with one launch in its overflow ring at address 0, where a leaf of 1 GiB maps the register block. -/
def ringOverRegs : State :=
  (State.writeMem { State.reset with contexts := [(0, { Context.reset with root := 0x10000, ovf := [(0, 0)] })] }
    0x10000 (toBytes 8 0x11001)).writeMem 0x11000 (toBytes 8 0x4100000003)

/-- The FERR bits of the state that a result leads to. -/
def ferrAfter : Res → Option (List (Nat × BitVec 2))
  | .next t => some t.ferr
  | _ => none

/-- The slot of the ring can be read: it translates, without a wait, and the register block gives zeros. -/
theorem ringOverRegs_slot : ringOverRegs.feSpan 0 0 256 ≠ .wait ∧ ringOverRegs.readFe 0 0 256 = some (List.replicate 256 0) := by
  decide +kernel

/-- The move marks FERR, as an access wider than the registers does. -/
theorem ringOverRegs_ferrAfter : ferrAfter (execEvOverflowMove 0 ringOverRegs) = some [(0, 1)] := by decide +kernel

/-- Refutes O53: the move out of the overflow ring is said to change nothing but the context and the cores, but the ring
may lie over the register block, where the read of its slot succeeds and marks FERR. -/
theorem not_frontAndHostEvents : ¬ Obligations.FrontAndHostEvents := by
  intro h
  obtain ⟨-, hctx, -⟩ := h ringOverRegs
  obtain ⟨hmove, -⟩ := hctx 0
  obtain ⟨hwait, hread⟩ := ringOverRegs_slot
  obtain ⟨t, ht, -, hrest, -⟩ := hmove 0 0 [] _ rfl (by decide) hwait hread
  have hsame : t.ferr = [] := congrArg State.ferr hrest
  have hmarked : ferrAfter (exec (.evOverflowMove 0) ringOverRegs) = some [(0, 1)] := ringOverRegs_ferrAfter
  rw [ht, ferrAfter, hsame] at hmarked
  cases hmarked

end Sys2Proof.Machine
end

section
/-! The module and the pod (14 R386; 16 R418; 25 R495-R508): the rules of the operations that its events are made of, and the
statement about them. -/

namespace Sys2Proof.Machine

open Sys2Proof

/-! ## Bytes and words -/

theorem length_toBytes (n x : Nat) : (toBytes n x).length = n := by
  induction n generalizing x with
  | zero => rfl
  | succ n ih => simp [toBytes, ih]

/-- A number's bytes give the number again, within their width. -/
theorem ofBytes_toBytes (n x : Nat) : ofBytes (toBytes n x) = x % 256 ^ n := by
  induction n generalizing x with
  | zero => simp [toBytes, ofBytes, Nat.mod_one]
  | succ n ih =>
    have hsplit : x % 256 ^ (n + 1) = x % 256 + 256 * (x / 256 % 256 ^ n) := by
      rw [Nat.pow_succ', Nat.mod_mul]
    simp [toBytes, ofBytes, ih, hsplit]

/-- A write of bytes is what a read of them gives. -/
theorem State.readMem_writeMem {s : State} (a : Nat) (b : List Byte) (h : s.memWf) :
    (s.writeMem a b).readMem a b.length = b := by
  refine List.ext_getElem (by simp [State.readMem, cellsAt]) (fun i hi hb => ?_)
  simp [State.readMem, cellsAt, State.writeMem_at s a b (a + i) h, hb]

/-- The bytes a write leaves, and those it does not touch. -/
theorem State.writeMem_cells {s : State} (a : Nat) (b : List Byte) (h : s.memWf) :
    (∀ i, i < b.length → cellAt (s.writeMem a b).mem (a + i) = (b[i]?).getD 0)
      ∧ ∀ e, e < a ∨ a + b.length ≤ e → cellAt (s.writeMem a b).mem e = cellAt s.mem e := by
  refine ⟨fun i hi => ?_, fun e he => ?_⟩
  · rw [State.writeMem_at s a b (a + i) h, if_pos (by omega), Nat.add_sub_cancel_left]
  · rw [State.writeMem_at s a b e h, if_neg (by omega)]

theorem State.readWord_of_mem {s t : State} (h : t.mem = s.mem) (a : Nat) : t.readWord a = s.readWord a := by
  simp [State.readWord, State.readMem, h]

/-- A word written is the word read. -/
theorem State.readWord_writeMem {s : State} (a v : Nat) (h : s.memWf) (hv : v ≤ maxWord) :
    (s.writeMem a (toBytes 8 v)).readWord a = v := by
  have hr := State.readMem_writeMem (s := s) a (toBytes 8 v) h
  rw [length_toBytes] at hr
  rw [State.readWord, hr, ofBytes_toBytes]
  exact Nat.mod_eq_of_lt (by simp only [maxWord] at hv; omega)

/-- An address that memory does not list reads as an unlisted byte. -/
theorem cellAt_eq_unlisted (m : List Host.Cell) (x : Nat) (h : ∀ c ∈ m, c.1 ≠ x) : cellAt m x = unlisted := by
  induction m with
  | nil => rfl
  | cons c rest ih =>
    have hc : x ≠ c.1 := fun e => h c (List.mem_cons_self ..) e.symm
    simp [cellAt, hc, ih (fun d hd => h d (List.mem_cons_of_mem _ hd))]

/-! ## What leaves the grids and the pod's state as they were -/

/-- A fold of changes that keep a part of the state keeps it. -/
theorem foldl_keeps {α γ : Type} (part : State → γ) {l : List α} {f : State → α → State}
    (hf : ∀ s x, part (f s x) = part s) (s : State) : part (l.foldl f s) = part s := by
  induction l generalizing s with
  | nil => rfl
  | cons x rest ih => exact (ih _).trans (hf s x)

@[simp] theorem State.noteStray_grids (s : State) (dpas : List Nat) (src : BitVec 10) :
    (s.noteStray dpas src).grids = s.grids :=
  foldl_keeps State.grids (f := fun s core => s.strayAccess core src) (fun _ _ => rfl) s

@[simp] theorem State.noteStray_accepts (s : State) (dpas : List Nat) (src : BitVec 10) :
    (s.noteStray dpas src).accepts = s.accepts :=
  foldl_keeps State.accepts (f := fun s core => s.strayAccess core src) (fun _ _ => rfl) s

@[simp] theorem State.noteFe_grids (s : State) (ctx va n : Nat) : (s.noteFe ctx va n).grids = s.grids := by
  unfold State.noteFe
  rw [State.noteStray_grids]
  split <;> rfl

@[simp] theorem State.noteFe_accepts (s : State) (ctx va n : Nat) : (s.noteFe ctx va n).accepts = s.accepts := by
  unfold State.noteFe
  rw [State.noteStray_accepts]
  split <;> rfl

@[simp] theorem State.writeBackLine_grids (s : State) (x : L1Line) : (s.writeBackLine x).grids = s.grids :=
  foldl_keeps State.grids (fun _ _ => by split <;> rfl) s

@[simp] theorem State.writeBack_grids (s : State) (core : Nat) (p : Nat → Bool) : (s.writeBack core p).grids = s.grids :=
  foldl_keeps State.grids (fun s x => s.writeBackLine_grids x) s

@[simp] theorem State.releaseCore_grids (s : State) (core : Nat) : (s.releaseCore core).grids = s.grids :=
  s.writeBack_grids core _

@[simp] theorem State.releaseBuffers_grids (s : State) (g : Grid) : (s.releaseBuffers g).grids = s.grids :=
  foldl_keeps State.grids (fun s _ => foldl_keeps State.grids (fun s c => s.writeBack_grids c _) s) s

@[simp] theorem State.settleL1_grids (s : State) (core d : Nat) : (s.settleL1 core d).grids = s.grids := by
  unfold State.settleL1
  split
  · split
    · rfl
    · exact s.writeBackLine_grids _
  · rfl

@[simp] theorem State.writeThrough_grids (s : State) (core a : Nat) (b : Byte) :
    (s.writeThrough core a b).grids = s.grids := by
  unfold State.writeThrough
  dsimp only
  split <;> simp

@[simp] theorem State.performCell_grids (s : State) (core : Nat) (c : Host.Cell) :
    (s.performCell core c).grids = s.grids := by
  unfold State.performCell
  split
  · unfold State.writeWindow
    split <;> simp
  · simp

@[simp] theorem State.drainWc_grids (s : State) (r : WaveRef) : (s.drainWc r).grids = s.grids := by
  unfold State.drainWc
  split
  · rfl
  · exact (State.updWave_grids ..).trans (foldl_keeps State.grids (fun s c => s.performCell_grids r.core c) s)

@[simp] theorem State.drainWg_grids (s : State) (r : WgRef) : (s.drainWg r).grids = s.grids := by
  unfold State.drainWg
  split
  · rfl
  · exact foldl_keeps State.grids (fun s i => s.drainWc_grids _) s

@[simp] theorem State.entryScratch_grids (s : State) (core : Nat) (t : TrapItem) : (s.entryScratch core t).2.grids = s.grids := by
  unfold State.entryScratch
  split <;> rfl

@[simp] theorem State.enterTrap_grids (s : State) (core : Nat) : (s.enterTrap core).grids = s.grids := by
  unfold State.enterTrap
  split <;> simp

@[simp] theorem State.dropTrapsOf_grids (s : State) (core : Nat) (p : TrapWho → Bool) :
    (s.dropTrapsOf core p).grids = s.grids := by
  simp [State.dropTrapsOf]

@[simp] theorem State.dropTraps_grids (s : State) (r : WgRef) : (s.dropTraps r).grids = s.grids :=
  s.dropTrapsOf_grids r.core _

@[simp] theorem State.dropCopyTraps_grids (s : State) (cs : List Copy) : (s.dropCopyTraps cs).grids = s.grids :=
  foldl_keeps State.grids (fun s core => s.dropTrapsOf_grids core _) s

@[simp] theorem State.discardWg_grids (s : State) (r : WgRef) : (s.discardWg r).grids = s.grids := by
  unfold State.discardWg
  split
  · rfl
  · rw [State.dropWg_grids, State.dropCopyTraps_grids, State.dropTraps_grids]
    split
    · exact s.drainWg_grids r
    · exact s.drainWg_grids r

@[simp] theorem State.discardFrame_grids (s : State) (f : Nat) : (s.discardFrame f).grids = s.grids := by
  unfold State.discardFrame
  split
  · rfl
  · refine (foldl_keeps State.grids (fun s c => s.dropTrapsOf_grids c _) _).trans ?_
    rw [State.updContext_grids]
    split <;> rfl

@[simp] theorem State.timelineEvent_grids (s : State) (ctx : Nat) (va : W64) (rewound saturated : Bool) :
    (s.timelineEvent ctx va rewound saturated).grids = s.grids := by
  unfold State.timelineEvent
  split <;> rfl

/-- The front end's timeline write, which no core performs. -/
theorem State.feTimeline_grids (s : State) (ctx : Nat) (va : W64) (add : Bool) (v : W64) (who : HostOpWho) :
    (s.feTimeline none ctx va add v who).grids = s.grids := by
  unfold State.feTimeline
  split
  · rfl
  · split
    · rfl
    · split
      · split
        · exact State.timelineEvent_grids ..
        · rfl
        · rfl
      · rfl

@[simp] theorem State.compareWaiters_pod (s : State) (dpa v : Nat) : (s.compareWaiters dpa v).pod = s.pod := rfl

@[simp] theorem State.noteWrite_pod (s : State) (a n : Nat) : (s.noteWrite a n).pod = s.pod :=
  foldl_keeps State.pod (fun s _ => State.compareWaiters_pod s ..) s

/-! ## The grids of a module (16 R418; 25 R502, R503) -/

/-- No workgroup of a grid stands as stolen by a module. -/
def State.noneStolenBy (s : State) (thief : Nat) : Prop := ∀ g ∈ s.grids, ∀ x ∈ g.stolen, x.1 ≠ thief

theorem State.noneStolenBy_of_grids {s t : State} {thief : Nat} (e : t.grids = s.grids) (h : s.noneStolenBy thief) :
    t.noneStolenBy thief := by
  unfold State.noneStolenBy
  rwa [e]

theorem State.updGrid_noneStolenBy {s : State} {thief : Nat} (id : Nat) (f : Grid → Grid) (hf : ∀ g, (f g).stolen = g.stolen)
    (h : s.noneStolenBy thief) : (s.updGrid id f).noneStolenBy thief := by
  intro g hg
  obtain ⟨y, hy, rfl⟩ := List.mem_map.mp hg
  split
  · rw [hf]; exact h y hy
  · exact h y hy

/-- A fold of changes that add no theft adds none. -/
theorem foldl_noneStolenBy {α : Type} {thief : Nat} {l : List α} {f : State → α → State}
    (hf : ∀ s x, s.noneStolenBy thief → (f s x).noneStolenBy thief) {s : State} (h : s.noneStolenBy thief) :
    (l.foldl f s).noneStolenBy thief :=
  List.foldlRecOn (motive := fun s => s.noneStolenBy thief) l f h (fun s hs x _ => hf s x hs)

theorem State.removeGrid_noneStolenBy {s : State} {thief : Nat} (id : Nat) (h : s.noneStolenBy thief) :
    (s.removeGrid id).noneStolenBy thief := by
  intro g hg
  obtain ⟨y, hy, rfl⟩ := List.mem_map.mp hg
  exact h y (List.mem_of_mem_filter hy)

theorem State.endContextGrids_noneStolenBy {s : State} {thief : Nat} (ctx : Nat) (h : s.noneStolenBy thief) :
    (s.endContextGrids ctx).noneStolenBy thief := by
  refine foldl_noneStolenBy (fun _ _ hs => State.removeGrid_noneStolenBy _ hs) ?_
  refine State.noneStolenBy_of_grids ?_ h
  exact (foldl_keeps State.grids (fun _ _ => State.discardFrame_grids ..) _).trans
    (foldl_keeps State.grids (fun _ _ => State.discardWg_grids ..) s)

theorem State.retryOrError_noneStolenBy {s : State} {thief : Nat} (grid wgl : Nat) (h : s.noneStolenBy thief) :
    (s.retryOrError grid wgl).noneStolenBy thief := by
  unfold State.retryOrError
  split
  · exact h
  · next g _ =>
    dsimp only
    split
    · exact State.updGrid_noneStolenBy grid _ (fun _ => rfl) (State.updGrid_noneStolenBy grid _ (fun _ => rfl) h)
    · exact State.endContextGrids_noneStolenBy g.ctx h

theorem State.tryCompleteGrid_noneStolenBy {s : State} {thief : Nat} (id : Nat) (h : s.noneStolenBy thief) :
    (s.tryCompleteGrid id).noneStolenBy thief := by
  unfold State.tryCompleteGrid
  split
  · exact h
  · next g _ =>
    split
    · exact h
    · split
      · exact State.removeGrid_noneStolenBy id h
      · split
        · exact h
        · refine State.removeGrid_noneStolenBy id (State.noneStolenBy_of_grids ?_ h)
          rw [State.feTimeline_grids, State.updContext_grids, State.releaseBuffers_grids]
          exact foldl_keeps State.grids (fun s c => s.releaseCore_grids c) s

/-- After the loss of a thief, nothing of any grid stands as stolen by it. -/
theorem execEvThiefUnreachable_noneStolenBy (thief : Nat) (s : State) :
    ∃ t, execEvThiefUnreachable thief s = .next t ∧ t.noneStolenBy thief := by
  refine ⟨_, rfl, ?_⟩
  refine foldl_noneStolenBy (fun _ _ hs => State.tryCompleteGrid_noneStolenBy _ hs) ?_
  refine foldl_noneStolenBy (fun _ _ hs => State.retryOrError_noneStolenBy _ _ hs) ?_
  intro g hg x hx
  obtain ⟨y, -, rfl⟩ := List.mem_map.mp hg
  simpa using (List.mem_filter.mp hx).2

/-- A grid with workgroups that have not started is not complete. -/
theorem State.tryCompleteGrid_of_lt {s : State} {id : Nat} (h : ∀ g, s.grid? id = some g → g.next < g.total) :
    s.tryCompleteGrid id = s := by
  unfold State.tryCompleteGrid
  split
  · rfl
  · next g hg =>
    have hlt := h g hg
    rw [if_pos (by simp [State.gridComplete, hlt])]

theorem State.updGrid_grid? (s : State) (id : Nat) (f : Grid → Grid) (hf : ∀ g, (f g).id = g.id) :
    (s.updGrid id f).grid? id = (s.grid? id).map f := by
  have hid : ∀ g : Grid, (if g.id = id then f g else g).id = g.id := fun g => by split <;> simp [hf]
  simp only [State.grid?, State.updGrid, List.find?_map, Function.comp_def, hid]
  cases hg : s.grids.find? (fun g => g.id == id) with
  | none => rfl
  | some g => simp [show g.id = id by simpa using List.find?_some hg]

/-- A grid's ranges once a thief has reported a workgroup. -/
def Grid.report (wgl : Nat) (g : Grid) : Grid :=
  { g with stolen := g.stolen.map (fun x =>
      if x.2.1 ≤ wgl ∧ wgl < x.2.1 + x.2.2.1 ∧ x.2.2.2.contains wgl = false then (x.1, x.2.1, x.2.2.1, x.2.2.2 ++ [wgl]) else x) }

theorem execEvStolenCompletionReport_eq (s : State) (grid wgl : Nat) :
    execEvStolenCompletionReport grid wgl s = .next ((s.updGrid grid (Grid.report wgl)).tryCompleteGrid grid) := rfl

/-- A report of a workgroup of a grid that is not yet claimed to its end is noted with the range it lies in. -/
theorem execEvStolenCompletionReport_stolen {s : State} {grid wgl : Nat} {g : Grid} (hg : s.grid? grid = some g)
    (hlt : g.next < g.total) : ∃ t, execEvStolenCompletionReport grid wgl s = .next t ∧ t.grid? grid = some (g.report wgl) := by
  have hu : (s.updGrid grid (Grid.report wgl)).grid? grid = some (g.report wgl) := by
    rw [State.updGrid_grid? s grid (Grid.report wgl) (fun _ => rfl), hg]
    rfl
  refine ⟨_, execEvStolenCompletionReport_eq s grid wgl, ?_⟩
  rwa [State.tryCompleteGrid_of_lt]
  intro y hy
  cases hu.symm.trans hy
  exact hlt

/-- A noted request without its note. -/
def State.dropSteal (s : State) (req : Nat × Nat) : State :=
  { s with pod := { s.pod with steals := s.pod.steals.erase req } }

/-- The context that a grid's context has as its peer on a module. -/
def State.peerOn (s : State) (thief : Nat) (g : Grid) : Option Nat :=
  (s.context g.ctx).peer.bind (fun p => if p.1 = thief then some p.2 else none)

/-- The grid that a steal takes from: the oldest of the module's own whose context has a peer on the thief. -/
def State.stealFrom? (s : State) (thief : Nat) : Option Grid :=
  leastBy (fun (g : Grid) => g.id) (s.grids.filter (fun g => g.home.isNone && (s.peerOn thief g).isSome))

/-- How many workgroups a steal takes from a grid, in whole gangs. -/
def Grid.stealSize (g : Grid) (want : Nat) : Nat := min want ((g.total - g.next) / 2) / g.lpb.gang * g.lpb.gang

/-- The range that a steal sends. -/
def State.stealRange (s : State) (thief want : Nat) (g : Grid) : StealRange :=
  { victim := s.modl.modNum, ctx := (s.peerOn thief g).getD 0, grid := g.id, lpb := g.lpbAddr.toNat,
    start := g.next, count := g.stealSize want }

/-- A grid with a range given away from another's next workgroup on. -/
def Grid.giving (thief start n : Nat) (x : Grid) : Grid :=
  { x with next := x.next + n, stolen := x.stolen ++ [(thief, start, n, [])] }

/-- What a steal comes to where a request is noted and a grid stands for it. -/
theorem execEvSteal_of {s : State} {thief want : Nat} {g : Grid}
    (hreq : s.pod.steals.find? (fun p => p.1 == thief) = some (thief, want)) (hg : s.stealFrom? thief = some g) :
    execEvSteal thief s = .next (if g.stealSize want = 0 ∨ s.mayStart g = false then s.dropSteal (thief, want)
      else
        let t := (s.dropSteal (thief, want)).updGrid g.id (Grid.giving thief g.next (g.stealSize want))
        { t with pod := { t.pod with sent := t.pod.sent ++ [s.stealRange thief want g] } }) := by
  unfold execEvSteal
  simp only [hreq]
  split
  · next hnone => cases hnone.symm.trans hg
  · next x hx =>
    obtain rfl : x = g := Option.some.inj (hx.symm.trans hg)
    exact (apply_ite Host.Outcome.next ..).symm

/-- A steal of nothing, or from a grid that may not start. -/
theorem execEvSteal_none {s : State} {thief want : Nat} {g : Grid}
    (hreq : s.pod.steals.find? (fun p => p.1 == thief) = some (thief, want)) (hg : s.stealFrom? thief = some g)
    (hn : g.stealSize want = 0 ∨ s.mayStart g = false) : execEvSteal thief s = .next (s.dropSteal (thief, want)) := by
  rw [execEvSteal_of hreq hg, if_pos hn]

/-- A steal of a range: the grid gives it, and it is sent. -/
theorem execEvSteal_some {s : State} {thief want : Nat} {g : Grid}
    (hreq : s.pod.steals.find? (fun p => p.1 == thief) = some (thief, want)) (hg : s.stealFrom? thief = some g)
    (hn : 0 < g.stealSize want) (hstart : s.mayStart g = true) :
    ∃ t, execEvSteal thief s = .next t ∧ t.pod.steals = s.pod.steals.erase (thief, want)
      ∧ (∀ y, s.grid? g.id = some y → t.grid? g.id = some (y.giving thief g.next (g.stealSize want)))
      ∧ t.pod.sent = s.pod.sent ++ [s.stealRange thief want g] := by
  refine ⟨_, execEvSteal_of hreq hg, ?_⟩
  rw [if_neg (by simp [hstart, Nat.ne_of_gt hn])]
  refine ⟨rfl, fun y hy => ?_, rfl⟩
  refine (State.updGrid_grid? (s.dropSteal (thief, want)) g.id (Grid.giving thief g.next (g.stealSize want))
    (fun _ => rfl)).trans ?_
  rw [show (s.dropSteal (thief, want)).grid? g.id = some y from hy]
  rfl

/-! ## Ranges that arrive (25 R502) -/

/-- A range whose LPB cannot be read waits for a page that is filling. -/
theorem execEvStealRangeArrival_waits {s : State} {range : StealRange} (h : s.readFe range.ctx range.lpb 256 = none)
    (hw : s.feSpan range.ctx range.lpb 256 = .wait) : execEvStealRangeArrival range s = .next s := by
  simp [execEvStealRangeArrival, h, hw]

/-- One whose LPB cannot be read at all is refused. -/
theorem execEvStealRangeArrival_refused {s : State} {range : StealRange} (h : s.readFe range.ctx range.lpb 256 = none)
    (hw : s.feSpan range.ctx range.lpb 256 ≠ .wait) : ∃ t, execEvStealRangeArrival range s = .next t ∧ t.grids = s.grids
      ∧ (t.context range.ctx).lpbInvalid = true := by
  refine ⟨s.refuseLaunch range.ctx (BitVec.ofNat 64 range.lpb) 0 true 0 true, by simp [execEvStealRangeArrival, h, hw], rfl, ?_⟩
  simp only [State.refuseLaunch, State.updContext_context, if_true]
  split <;> rfl

/-- One whose LPB and kernel can be read stands as claims of its class. -/
theorem execEvStealRangeArrival_accepted {s : State} {range : StealRange} {b k : List Byte}
    (hb : s.readFe range.ctx range.lpb 256 = some b) (hk : s.readFe range.ctx (parseLpb b).kimg.toNat 256 = some k) :
    ∃ t g, execEvStealRangeArrival range s = .next t ∧ t.grids = s.grids ++ [g] ∧ t.mem = s.mem ∧ g.id = s.accepts
      ∧ g.ctx = range.ctx ∧ g.lpb = parseLpb b ∧ g.next = range.start ∧ g.total = range.start + range.count
      ∧ g.home = some (range.victim, range.grid) := by
  unfold execEvStealRangeArrival
  simp only [hb, hk]
  refine ⟨_, _, rfl, congrArg (· ++ _) ?_, ?_, rfl, rfl, rfl, rfl, rfl, rfl⟩
  · simp
  · simp

/-! ## The water-turn token (25 R501-R503) -/

/-- The entry that a module writes for itself. -/
def State.tokenEntry (s : State) (es : List TokenEntry) : TokenEntry :=
  let load := min 0xFFFFFF s.podLoad
  let idle := min 1023 s.podIdle
  let mine : TokenEntry := { sv := false, victim := 0, want := 0, idle := BitVec.ofNat 10 idle, load := BitVec.ofNat 24 load }
  if load = 0 ∧ 64 ≤ idle then
    { mine with sv := true, victim := BitVec.ofNat 6 (greatestLoad (setAt es s.modl.modNum mine)), want := BitVec.ofNat 16 idle }
  else mine

/-- The module's entry carries its load and its idle cores, and asks for work where it has none and many are idle. -/
theorem State.tokenEntry_parts (s : State) (es : List TokenEntry) :
    (s.tokenEntry es).load = BitVec.ofNat 24 (min 0xFFFFFF s.podLoad)
      ∧ (s.tokenEntry es).idle = BitVec.ofNat 10 (min 1023 s.podIdle)
      ∧ ((s.tokenEntry es).sv = true ↔ min 0xFFFFFF s.podLoad = 0 ∧ 64 ≤ min 1023 s.podIdle)
      ∧ ((s.tokenEntry es).sv = true → (s.tokenEntry es).want = BitVec.ofNat 16 (min 1023 s.podIdle)) := by
  unfold State.tokenEntry
  dsimp only
  split
  · next h => exact ⟨rfl, rfl, iff_of_true rfl h, fun _ => rfl⟩
  · next h => exact ⟨rfl, rfl, iff_of_false (by simp) h, fun h => by simp at h⟩

/-- The token as a module leaves it: of the generation it came with, and changed in the module's entry alone. -/
theorem State.writeToken_pod (s : State) (gen : W32) (es : List TokenEntry) :
    let p := (s.writeToken gen es).pod
    p.gen = gen ∧ p.seen = gen ∧ p.seenAt = s.fck
      ∧ (∀ m, m ≠ s.modl.modNum → p.entries[m]? = es[m]?)
      ∧ (s.modl.modNum < es.length → p.entries[s.modl.modNum]? = some (s.tokenEntry es)) := by
  refine ⟨rfl, rfl, rfl, fun m hm => ?_, fun hlt => ?_⟩
  · simp only [State.writeToken, setAt_getElem?, if_neg hm]
  · simp only [State.writeToken, setAt_getElem?, if_true, Option.map_map]
    rw [List.getElem?_eq_getElem hlt]
    rfl

/-- A token of the pod's current generation is taken. -/
theorem execEvWaterTurnToken_taken {s : State} {gen : W32} {es : List TokenEntry} (h : s.pod.seen.toNat ≤ gen.toNat) :
    ∃ p, execEvWaterTurnToken gen es s = .next (State.writeToken { s with pod := p } gen es) := by
  unfold execEvWaterTurnToken
  rw [if_neg (Nat.not_lt.mpr h)]
  exact ⟨_, rfl⟩

/-! ## Requests of other modules (14 R386; 25 R495, R500) -/

@[simp] theorem State.podCount_responses (s : State) (r : PodRequest) :
    (s.podCount r).pod.responses = s.pod.responses := by
  unfold State.podCount
  split
  · split <;> rfl
  · rfl

/-- A write or an atomic on an ordered flow is counted. -/
theorem State.podCount_performedOf {s : State} {r : PodRequest} {k : Nat} (hk : r.order = some k) (hr : podReads r.op = false) :
    (s.podCount r).pod.performedOf r = k + 1 := by
  simp [State.podCount, hk, hr, PodState.performedOf]

/-- A request in turn on its flow is performed and counted. -/
theorem execEvPodRequestArrival_due {s : State} {r : PodRequest} (ha : r.addr < localBytes) (hr : s.modl.ready = true)
    (hk : ∀ k, r.order = some k → k = s.pod.performedOf r) :
    execEvPodRequestArrival r s = .next ((s.podPerform r).podCount r) := by
  have hdue : s.podDue r = true := by
    unfold State.podDue
    split
    · next k h => simp [hk k h]
    · rfl
  simp [execEvPodRequestArrival, Nat.not_le.mpr ha, hr, hdue]

/-- A write or an atomic before its turn waits. -/
theorem execEvPodRequestArrival_early {s : State} {r : PodRequest} {k : Nat} (ha : r.addr < localBytes)
    (hr : s.modl.ready = true) (hk : r.order = some k) (hop : podReads r.op = false) (hne : k ≠ s.pod.performedOf r) :
    execEvPodRequestArrival r s = .next s := by
  simp [execEvPodRequestArrival, Nat.not_le.mpr ha, hr, State.podDue, hk, hop, hne]

/-- Before READY a request writes nothing and reads 0. -/
theorem execEvPodRequestArrival_unready {s : State} {r : PodRequest} (ha : r.addr < localBytes) (hr : s.modl.ready = false) :
    ∃ t, execEvPodRequestArrival r s = .next t ∧ t.mem = s.mem
      ∧ ∀ n, r.op = .read n → t.pod.responses = s.pod.responses ++ [(r.source, List.replicate n 0)] := by
  unfold execEvPodRequestArrival
  rw [if_neg (Nat.not_le.mpr ha), if_pos (by simp [hr])]
  refine ⟨_, rfl, ?_, fun n hn => ?_⟩
  · split <;> rfl
  · rw [hn]; rfl

/-- A module is answered with bytes, and memory holds new bytes at an address and is otherwise as before. -/
def State.AnswersPod (s t : State) (m a : Nat) (b new : List Byte) : Prop :=
  t.pod.responses = s.pod.responses ++ [(m, b)]
    ∧ (∀ i, i < new.length → cellAt t.mem (a + i) = (new[i]?).getD 0)
    ∧ ∀ e, e < a ∨ a + new.length ≤ e → cellAt t.mem e = cellAt s.mem e

theorem State.podCount_answersPod {s t : State} {m a : Nat} {b new : List Byte} (r : PodRequest) (h : s.AnswersPod t m a b new) :
    s.AnswersPod (t.podCount r) m a b new := by
  simpa [State.AnswersPod] using h

/-- A read is answered with the bytes read. -/
theorem State.podAnswer_answersPod (s : State) (m a : Nat) (b : List Byte) : s.AnswersPod (s.podAnswer m b) m a b [] :=
  ⟨rfl, fun _ hi => absurd hi (Nat.not_lt_zero _), fun _ _ => rfl⟩

/-- A write that is answered. -/
theorem State.writeMem_answersPod {s : State} (m a n : Nat) (b new : List Byte) (h : s.memWf) :
    s.AnswersPod (((s.writeMem a new).noteWrite a n).podAnswer m b) m a b new := by
  obtain ⟨hin, hout⟩ := State.writeMem_cells (s := s) a new h
  refine ⟨?_, fun i hi => ?_, fun e he => ?_⟩
  · change ((s.writeMem a new).noteWrite a n).pod.responses ++ _ = _
    rw [State.noteWrite_pod]
    rfl
  · change cellAt ((s.writeMem a new).noteWrite a n).mem _ = _
    rw [State.noteWrite_mem, hin i hi]
  · change cellAt ((s.writeMem a new).noteWrite a n).mem _ = _
    rw [State.noteWrite_mem, hout e he]

/-- What a request in turn answers is what its operation answers. -/
theorem execEvPodRequestArrival_answers {s : State} {r : PodRequest} {b new : List Byte} (ha : r.addr < localBytes)
    (hr : s.modl.ready = true) (hk : ∀ k, r.order = some k → k = s.pod.performedOf r)
    (h : s.AnswersPod (s.podPerform r) r.source r.addr b new) :
    ∃ t, execEvPodRequestArrival r s = .next t ∧ s.AnswersPod t r.source r.addr b new :=
  ⟨_, execEvPodRequestArrival_due ha hr hk, State.podCount_answersPod r h⟩

/-- A write that needs no answer. -/
theorem State.podWrite_cells {s : State} (r : PodRequest) {b : List Byte} (hop : r.op = .write b) (h : s.memWf) :
    (∀ i, i < b.length → cellAt (s.podPerform r).mem (r.addr + i) = (b[i]?).getD 0)
      ∧ ∀ e, e < r.addr ∨ r.addr + b.length ≤ e → cellAt (s.podPerform r).mem e = cellAt s.mem e := by
  have hmem : (s.podPerform r).mem = (s.writeMem r.addr b).mem := by simp [State.podPerform, hop]
  rw [hmem]
  exact State.writeMem_cells r.addr b h

/-- A timeline write of another module leaves the counter's next value. -/
theorem State.podTimeline_readWord {s : State} (r : PodRequest) (add : Bool) (v : W64) (h : s.memWf)
    (hv : (timelineNext add (s.readWord r.addr) v.toNat).1 ≤ maxWord) :
    (s.podTimeline r add v).readWord r.addr = (timelineNext add (s.readWord r.addr) v.toNat).1 :=
  (State.readWord_of_mem (s := s.writeMem r.addr (toBytes 8 _)) rfl _).trans (State.readWord_writeMem _ _ h hv)

/-- An addition to a timeline saturates (11 R331). -/
theorem timelineNext_add (old v : Nat) : (timelineNext true old v).1 = min maxWord (old + v) := by
  unfold timelineNext
  split
  · split
    · next h => exact (Nat.min_eq_left (Nat.le_of_lt h)).symm
    · next h => exact (Nat.min_eq_right (Nat.not_lt.mp h)).symm
  · next h => exact absurd rfl h

/-! ## Loss of power (00 R8; 25 R508) -/

/-- No byte of local memory outlives the power. -/
theorem State.powerLoss_cellAt (s : State) {a : Nat} (ha : a < localBytes) : cellAt s.powerLoss.mem a = unlisted := by
  refine cellAt_eq_unlisted _ _ (fun c hc e => ?_)
  obtain ⟨-, hp⟩ := List.mem_filter.mp hc
  have hdram : place c.1 = .dram := by
    rw [e, place, if_pos (show a < 0x004000000000 from ha)]
  simp [hdram] at hp

/-- What stands after either loss of power: the configuration and the record, and nothing else of the machine. -/
theorem powerLoss_event {i : Instr} (h : i ∈ [Instr.evThermalTrip, .evInputUndervoltage]) (s : State) :
    ∃ t, exec i s = .next t ∧ t.modl.ready = false ∧ t.modl.powered = false ∧ t.cores = [] ∧ t.grids = []
      ∧ t.modl.config = s.modl.config ∧ t.modl.recordA = s.modl.recordA
      ∧ ∀ a, a < localBytes → cellAt t.mem a = unlisted := by
  simp only [List.mem_cons, List.not_mem_nil, or_false] at h
  obtain rfl | rfl := h
  · exact ⟨_, rfl, rfl, rfl, rfl, rfl, rfl, rfl, fun _ => s.powerLoss_cellAt⟩
  · exact ⟨_, rfl, rfl, rfl, rfl, rfl, rfl, rfl, fun _ => s.powerLoss_cellAt⟩

/-! ## Errors, images and sensors (16 R418; 25 R496-R508) -/

theorem execEvUncorrectableError_memory (a : Nat) (s : State) :
    ∃ t, execEvUncorrectableError (.memory a) s = .next t ∧ a ∈ t.poison ∧ t.mem = s.mem := by
  refine ⟨if s.poison.contains a then s else { s with poison := a :: s.poison }, rfl, ?_, ?_⟩
  · split
    · next h => exact List.contains_iff_mem.mp h
    · exact List.mem_cons_self ..
  · split <;> rfl

theorem execEvUncorrectableError_frame {f : Nat} {x : Frame} {s : State} (h : s.frame? f = some x) :
    ∃ t, execEvUncorrectableError (.frame f) s = .next t ∧ t.frame? f = some { x with poisoned := true } := by
  refine ⟨_, rfl, ?_⟩
  simp only [State.updFrame, h]
  exact assoc_assocSet_self ..

/-- A wave with a scalar register poisoned. -/
def Wave.poisonScalar (n : Nat) (w : Wave) : Wave := if w.spoison.contains n then w else { w with spoison := n :: w.spoison }

theorem Wave.mem_poisonScalar (n : Nat) (w : Wave) : n ∈ (w.poisonScalar n).spoison := by
  unfold Wave.poisonScalar
  split
  · next h => exact List.contains_iff_mem.mp h
  · exact List.mem_cons_self ..

theorem Wave.poisonScalar_rest (n : Nat) (w : Wave) :
    { w.poisonScalar n with spoison := [] } = { w with spoison := [] } := by
  unfold Wave.poisonScalar
  split <;> rfl

theorem execEvUncorrectableError_scalar {r : WaveRef} {v : Wave} {s : State} (n : Nat) (h : s.wave? r = some v) :
    ∃ t, execEvUncorrectableError (.scalar r n) s = .next t ∧ t.wave? r = some (v.poisonScalar n) := by
  refine ⟨s.updWave r (Wave.poisonScalar n), rfl, ?_⟩
  rw [State.updWave_wave?, if_pos rfl, h]
  rfl

theorem execEvUncorrectableError_device (s : State) :
    ∃ t, execEvUncorrectableError .device s = .next t ∧ t.modl.uncErr = true ∧ t.modl.replace = true :=
  ⟨_, rfl, rfl, by simp [ModuleState.settle]⟩

/-- A measurement is answered with its signature over it and the nonce. -/
theorem execEvSpdmMeasurements_reply {s : State} {n : Nat} {d : List Byte} (nonce : List Byte) (h : s.modl.measured[n]? = some d) :
    ∃ t, execEvSpdmMeasurements (n + 1) nonce s = .next t ∧ t.modl.reply = d ++ Config.signature (d ++ nonce) := by
  unfold execEvSpdmMeasurements
  rw [if_neg (Nat.succ_ne_zero n), Nat.add_sub_cancel, h]
  exact ⟨_, rfl, rfl⟩

@[simp] theorem ModuleState.setSlots_slots (m : ModuleState) (i : FwImageId) (f : FwSlots) : (m.setSlots i f).slots i = f := by
  cases i <;> rfl

/-- An update writes the slot that is not in use, and counts as no failure of it. -/
theorem execEvPldmFirmwareUpdate_slots (im : FwImageId) (bytes : List Byte) (s : State) :
    ∃ t, execEvPldmFirmwareUpdate im bytes s = .next t
      ∧ (t.modl.slots im).image (!(s.modl.slots im).useB) = bytes
      ∧ (t.modl.slots im).image (s.modl.slots im).useB = (s.modl.slots im).image (s.modl.slots im).useB
      ∧ (t.modl.slots im).updated = true := by
  refine ⟨_, rfl, ?_⟩
  dsimp only
  rw [ModuleState.setSlots_slots]
  cases h : (s.modl.slots im).useB <;> exact ⟨rfl, rfl, rfl⟩

theorem execEvPldmSensorRead_reply (n : Sensor) (s : State) :
    ∃ t, execEvPldmSensorRead n s = .next t ∧ t.modl.reply.length = 8
      ∧ (n = .replace → t.modl.reply = toBytes 8 s.modl.replace.toNat) :=
  ⟨_, rfl, length_toBytes 8 _, fun h => by rw [h]⟩

/-! ## The events -/

/-- The token once it is written, by the module's load and idle cores: the pod's own state has no part in them. -/
theorem State.writeToken_mine (s : State) (p : PodState) (gen : W32) (es : List TokenEntry) :
    let load := min 0xFFFFFF s.podLoad
    let idle := min 1023 s.podIdle
    let q := (State.writeToken { s with pod := p } gen es).pod
    q.gen = gen ∧ q.seen = gen ∧ q.seenAt = s.fck ∧ (∀ m, m ≠ s.modl.modNum → q.entries[m]? = es[m]?)
      ∧ (s.modl.modNum < es.length → ∃ e, q.entries[s.modl.modNum]? = some e ∧ e.load = BitVec.ofNat 24 load
          ∧ e.idle = BitVec.ofNat 10 idle ∧ (e.sv = true ↔ load = 0 ∧ 64 ≤ idle) ∧ (e.sv = true → e.want = BitVec.ofNat 16 idle)) := by
  obtain ⟨hgen, hseen, hat, hother, hown⟩ := State.writeToken_pod { s with pod := p } gen es
  exact ⟨hgen, hseen, hat, hother, fun hlt => ⟨_, hown hlt, State.tokenEntry_parts { s with pod := p } es⟩⟩

/-- The accesses of another module to a span of local memory, in turn: what each answers, and what it leaves. -/
theorem podRequests_answered {s : State} {m ctx flow agent : Nat} {order : Option Nat} {a n : Nat} (ha : a + n ≤ localBytes)
    (hn : 0 < n) (hr : s.modl.ready = true)
    (hk : ∀ k, order = some k → k = s.pod.performedOf ⟨m, ctx, flow, agent, order, a, .read n⟩) {op : PodOp}
    {b new : List Byte} (h : s.AnswersPod (s.podPerform ⟨m, ctx, flow, agent, order, a, op⟩) m a b new) :
    ∃ t, exec (.evPodRequestArrival ⟨m, ctx, flow, agent, order, a, op⟩) s = .next t ∧ s.AnswersPod t m a b new :=
  execEvPodRequestArrival_answers (by simp only; omega) hr hk h

/-- Settles O55, event by event. -/
theorem moduleAndPodEvents : Obligations.ModuleAndPodEvents := by
  intro s
  refine ⟨fun gen es => ⟨fun h => ?_, fun h => ?_⟩, fun h => ?_, fun thief want g hreq hg => ⟨fun h => ?_, fun hn hst => ?_⟩,
    fun range hb => ⟨fun h => ?_, fun h => ?_⟩, fun range b k hb hk => ?_, fun grid wgl g hg hlt => ?_, fun thief => ?_,
    fun q ha hr => ?_, fun q k ha hr hk hop => ⟨fun h => ?_, fun h => ?_⟩, fun m ctx flow agent order a n ha hn hw hr => ?_,
    fun i hi => ?_, fun fails => ⟨fun h => ?_, fun h => ?_⟩, fun a => ?_, fun f x h => ?_, fun r v n h => ?_, ?_,
    fun n nonce d h => ?_, fun im bytes counter => ⟨?_, ?_⟩, fun n => ?_⟩
  · exact if_pos h
  · obtain ⟨p, hp⟩ := execEvWaterTurnToken_taken (es := es) h
    exact ⟨_, hp, s.writeToken_mine p gen es⟩
  · exact ⟨_, if_neg (by simpa using h), s.writeToken_mine s.pod _ _⟩
  · exact ⟨_, execEvSteal_none hreq hg h, rfl, rfl, rfl⟩
  · obtain ⟨t, ht, hsteals, hgrids, hsent⟩ := execEvSteal_some hreq hg hn hst
    exact ⟨t, _, ht, hsteals, hgrids, hsent, rfl, rfl, rfl, rfl, rfl⟩
  · exact execEvStealRangeArrival_waits hb h
  · exact execEvStealRangeArrival_refused hb h
  · exact execEvStealRangeArrival_accepted hb hk
  · obtain ⟨t, ht, hgrid⟩ := execEvStolenCompletionReport_stolen hg hlt
    exact ⟨t, ht, by simp [hgrid, Grid.report]⟩
  · exact execEvThiefUnreachable_noneStolenBy thief s
  · exact execEvPodRequestArrival_unready ha hr
  · exact execEvPodRequestArrival_early ha hr hk hop h
  · refine ⟨_, execEvPodRequestArrival_due ha hr (fun j hj => ?_), State.podCount_performedOf hk hop⟩
    cases hk.symm.trans hj
    exact h
  · intro req hk answers old
    have due {op : PodOp} {b new : List Byte} : s.AnswersPod (s.podPerform (req op)) m a b new → answers op b new :=
      podRequests_answered ha hn hr hk
    have alone (op : PodOp) : exec (.evPodRequestArrival (req op)) s = .next ((s.podPerform (req op)).podCount (req op)) :=
      execEvPodRequestArrival_due (show a < localBytes by omega) hr hk
    refine ⟨due (s.podAnswer_answersPod m a _), fun v => ⟨due ?_, due ?_⟩, fun c v => due ?_, fun ty k rnd v hty => due ?_,
      fun b hb => ?_, fun h8 v => ?_, fun h8 v => ?_⟩
    · exact State.writeMem_answersPod m a n _ _ hw
    · exact State.writeMem_answersPod m a n _ _ hw
    · exact State.writeMem_answersPod m a n _ _ hw
    · subst hty
      exact State.writeMem_answersPod m a _ _ _ hw
    · refine ⟨_, alone (.write b), ?_⟩
      rw [State.podCount_mem, ← hb]
      exact State.podWrite_cells (req (.write b)) rfl hw
    · refine ⟨_, alone (.tladd v), ?_⟩
      rw [State.readWord_of_mem (State.podCount_mem ..), ← timelineNext_add]
      exact State.podTimeline_readWord (req (.tladd v)) true v hw (by rw [timelineNext_add]; exact Nat.min_le_left ..)
    · refine ⟨_, alone (.tlset v), ?_⟩
      rw [State.readWord_of_mem (State.podCount_mem ..)]
      exact State.podTimeline_readWord (req (.tlset v)) false v hw (Nat.le_of_lt_succ v.isLt)
  · obtain ⟨t, ht, hready, hpow, hcores, hgrids, hconf, hrec, hmem⟩ := powerLoss_event hi s
    exact ⟨t, ht, hready, hpow, hcores, hgrids, hconf, hrec, fun _ => hmem⟩
  · exact if_pos h
  · exact if_neg (by simp [h])
  · exact execEvUncorrectableError_memory a s
  · exact execEvUncorrectableError_frame h
  · obtain ⟨t, ht, hwave⟩ := execEvUncorrectableError_scalar n h
    exact ⟨t, _, ht, hwave, Wave.mem_poisonScalar n v, Wave.poisonScalar_rest n v⟩
  · exact execEvUncorrectableError_device s
  · exact execEvSpdmMeasurements_reply nonce h
  · exact execEvPldmFirmwareUpdate_slots im bytes s
  · exact ⟨_, rfl, ModuleState.setSlots_slots ..⟩
  · exact execEvPldmSensorRead_reply n s

end Sys2Proof.Machine
end

section
/-! Arithmetic on words (00 R11): the operations of bit vectors as the rules of the sequencer and of the line cores write
them, on numbers. -/

namespace Sys2Proof.Machine

open Sys2Proof

theorem ofInt_sub_toInt {n : Nat} (x y : BitVec n) : BitVec.ofInt n (x.toInt - y.toInt) = x - y := by
  rw [Int.sub_eq_add_neg, BitVec.ofInt_add, BitVec.ofInt_neg, BitVec.ofInt_toInt, BitVec.ofInt_toInt, BitVec.sub_eq_add_neg]

theorem ofInt_toInt_add {n : Nat} (x : BitVec n) (i : Int) : BitVec.ofInt n (x.toInt + i) = x + BitVec.ofInt n i := by
  rw [BitVec.ofInt_add, BitVec.ofInt_toInt]

theorem ofNat_mul_toNat {n : Nat} (x y : BitVec n) : BitVec.ofNat n (x.toNat * y.toNat) = x * y := by
  rw [BitVec.ofNat_mul, BitVec.ofNat_toNat, BitVec.ofNat_toNat, BitVec.setWidth_eq, BitVec.setWidth_eq]

theorem ofNat_mul_two_pow {n : Nat} (x : BitVec n) (k : Nat) : BitVec.ofNat n (x.toNat * 2 ^ k) = x <<< k := by
  apply BitVec.eq_of_toNat_eq
  rw [BitVec.toNat_ofNat, BitVec.toNat_shiftLeft, Nat.shiftLeft_eq]

theorem ofNat_div_two_pow {n : Nat} (x : BitVec n) (k : Nat) : BitVec.ofNat n (x.toNat / 2 ^ k) = x >>> k := by
  apply BitVec.eq_of_toNat_eq
  rw [BitVec.toNat_ofNat, BitVec.toNat_ushiftRight, Nat.shiftRight_eq_div_pow]
  exact Nat.mod_eq_of_lt (Nat.lt_of_le_of_lt (Nat.div_le_self ..) x.isLt)

theorem ofInt_div_two_pow {n : Nat} (x : BitVec n) (k : Nat) : BitVec.ofInt n (x.toInt / 2 ^ k) = x.sshiftRight k := by
  have h : x.toInt / 2 ^ k = x.toInt >>> k := by rw [Int.shiftRight_eq_div_pow]; norm_cast
  rw [h]; rfl

end Sys2Proof.Machine
end

section
/-! Sequencer arithmetic (07 R233): what a word that writes gd comes to, and the statement about ADD to LUI. -/

namespace Sys2Proof.Machine

open Sys2Proof

/-- A ready word whose effect is a value for gd issues with that value, and its pushes are made at once (07 R224, R233). -/
theorem seqWord_writes {op : Nat} {w : SWord} {s : State} {c : SeqIssue} {f : SeqForm} (h : s.seqReady? op w = some (c, f))
    (val : SeqFmt → SeqIssue → W64) :
    seqWord op w s (fun x k t => .go .now (t.seqWrite k w.d (val x k))) =
      .next ((s.seqWrite c w.d (val f.fmt c)).seqDone c w .now) :=
  seqWord_ready h _

/-- A word that writes gd changes its context's registers and its rings, and nothing else (01 R40; 07 R224, R231). -/
theorem State.seqWrite_seqDone {op : Nat} {w : SWord} {s : State} {c : SeqIssue} {f : SeqForm}
    (h : s.seqReady? op w = some (c, f)) (v : W64) :
    let t := (s.seqWrite c w.d v).seqDone c w .now
    s.OnlySeq t c ∧ t.seqOf? c = some (c.after (fun x => { x.setG w.d.toNat v with pc := x.pc + 4 }))
      ∧ (c.ctx ≠ .trap → (t.job? c.r).map Job.rings = some (c.job.takeTokens c.ctx w .now).rings) := by
  obtain ⟨core, ctx, -, -, hissue, -, -, -, -⟩ := State.seqReady?_spec h
  obtain ⟨rfl, rfl⟩ := State.seqIssue?_who hissue
  refine ⟨(s.updSeq_onlySeq c _).trans (State.seqDone_onlySeq _ c w _), ?_, fun hc => (State.seqDone_user hc hissue _ w .now).2⟩
  by_cases hc : c.ctx = .trap
  · rw [hc] at hissue
    refine State.seqDone_trap hc hissue _ w .now (fun y => ?_)
    unfold SeqState.setG
    split <;> rfl
  · exact (State.seqDone_user hc hissue _ w .now).1

/-- What a ready word of the table does to its context and rings. -/
def SeqRow.Writes (row : SeqRow) : Prop :=
  ∀ (w : SWord) (s : State) (c : SeqIssue) (f : SeqForm), s.seqReady? row.op w = some (c, f) →
    exec (row.instr w) s = .next ((s.seqWrite c w.d (row.val c w)).seqDone c w .now)

/-- A word of two registers (07 R233). -/
theorem SeqRow.Writes.of_result {row : SeqRow} {g : W64 → W64 → W64} (he : ∀ w s, exec (row.instr w) s = seqResult row.op w s g)
    (hv : ∀ c w, g (SeqIssue.g c w.a) (SeqIssue.g c w.b) = row.val c w) : row.Writes := by
  intro w s c f h
  rw [he, seqResult, seqWord_writes h (fun _ k => g (k.g w.a) (k.g w.b)), hv]

/-- A word with an immediate (07 R231). -/
theorem SeqRow.Writes.of_imm {row : SeqRow} {fm : SeqForm} {val : SeqFmt → SeqIssue → SWord → W64}
    (he : ∀ w s, exec (row.instr w) s = seqWord row.op w s (fun x k t => .go .now (t.seqWrite k w.d (val x k w))))
    (hf : seqForm row.op = some fm) (hv : ∀ c w, val fm.fmt c w = row.val c w) : row.Writes := by
  intro w s c f h
  obtain ⟨_, _, -, hform, -⟩ := State.seqReady?_spec h
  cases hf.symm.trans hform
  rw [he, seqWord_writes h (fun x k => val x k w), hv]

/-- Each word of the table writes the value that its row gives (07 R233). -/
theorem seqRows_write : ∀ row ∈ seqRows, row.Writes := by
  simp only [seqRows, List.forall_mem_cons, List.not_mem_nil, false_implies, implies_true, and_true]
  refine ⟨?add, ?sub, ?and, ?or, ?xor, ?shl, ?shr, ?sar, ?mul, ?slt, ?sltz, ?addi, ?li, ?lui⟩
  case add => exact .of_result (fun _ _ => rfl) (fun _ _ => rfl)
  case sub => exact .of_result (fun _ _ => rfl) (fun _ _ => (ofInt_sub_toInt _ _).symm)
  case and => exact .of_result (fun _ _ => rfl) (fun _ _ => rfl)
  case or => exact .of_result (fun _ _ => rfl) (fun _ _ => rfl)
  case xor => exact .of_result (fun _ _ => rfl) (fun _ _ => rfl)
  case shl =>
    exact .of_result (g := fun x y => x <<< (y.toNat % 64)) (fun _ _ => rfl) (fun _ _ => (ofNat_mul_two_pow _ _).symm)
  case shr =>
    exact .of_result (g := fun x y => x >>> (y.toNat % 64)) (fun _ _ => rfl) (fun _ _ => (ofNat_div_two_pow _ _).symm)
  case sar =>
    exact .of_result (g := fun x y => x.sshiftRight (y.toNat % 64)) (fun _ _ => rfl) (fun _ _ => (ofInt_div_two_pow _ _).symm)
  case mul => exact .of_result (fun _ _ => rfl) (fun _ _ => (ofNat_mul_toNat _ _).symm)
  case slt =>
    exact .of_result (g := fun x y => if x.toInt < y.toInt then 1 else 0) (fun _ _ => rfl) (fun _ _ => rfl)
  case sltz =>
    exact .of_result (g := fun x y => if x.toNat < y.toNat then 1 else 0) (fun _ _ => rfl) (fun _ _ => rfl)
  case addi =>
    exact .of_imm (val := fun x k w => k.g w.a + BitVec.ofInt 64 (seqImm x w)) (fun _ _ => rfl) rfl
      (fun _ _ => (ofInt_toInt_add _ _).symm)
  case li => exact .of_imm (val := fun x _ w => BitVec.ofInt 64 (seqImm x w)) (fun _ _ => rfl) rfl (fun _ _ => rfl)
  case lui =>
    exact .of_imm (val := fun x _ w => BitVec.ofInt 64 (seqImm x w * 4096)) (fun _ _ => rfl) rfl
      (fun _ _ => congrArg _ (Int.mul_comm _ _))

/-- Settles O28: a word of the table writes its row's value, and what a write of gd comes to holds of every value. -/
theorem sequencerArithmetic : Obligations.SequencerArithmetic := by
  intro row hrow w s c f h
  exact ⟨_, seqRows_write row hrow w s c f h, State.seqWrite_seqDone h (row.val c w)⟩

end Sys2Proof.Machine
end

section
/-! The operations of the line cores that write a register (09 R289-R306): what each does to its line core, and the statement
about them. -/

namespace Sys2Proof.Machine

open Sys2Proof

/-! ## One line core -/

theorem State.updLineCore_onlyLine (s : State) (n : Nat) (f : LineCore → LineCore) : s.OnlyLine (s.updLineCore n f) n :=
  ⟨rfl, fun m hm => by rw [State.updLineCore_lineCore, if_neg hm]⟩

/-- An operation that changes its line core alone leaves the rest of the machine (09 R292). -/
theorem lineOnly_next {s : State} {n : Nat} (h : s.cur = .line n) (f : LineCore → LineCore) :
    ∃ t, lineOnly s f = .next t ∧ s.OnlyLine t n ∧ t.lineCore n = f (s.lineCore n) := by
  refine ⟨s.updLineCore n (fun _ => f (s.lineCore n)), ?_, s.updLineCore_onlyLine n _, ?_⟩
  · unfold lineOnly onLine
    rw [h]
  · rw [State.updLineCore_lineCore, if_pos rfl]

/-! ## Registers -/

theorem LineCore.writeH_noH (c : LineCore) (d : Nat) (mask : BitVec 16) (vals : List W32) :
    (c.writeH d mask vals).noH = c.noH := rfl

theorem LineCore.writeH_h_of_ne (c : LineCore) {d m : Nat} (mask : BitVec 16) (vals : List W32) (hm : m ≠ d) :
    (c.writeH d mask vals).h[m]? = c.h[m]? := by
  rw [LineCore.writeH, modAt_getElem?, if_neg hm]

/-- The lanes of the h register that a vector operation names: those of the mask are written (09 R289). -/
theorem LineCore.writeH_hl {c : LineCore} (hc : c.hWf) {d l : Nat} (hd : d < 32) (hl : l < 16) (mask : BitVec 16)
    (vals : Nat → W32) :
    (c.writeH d mask (lineLanes.map vals)).hl d l = if mask.getLsbD l then vals l else c.hl d l := by
  obtain ⟨hlen, hrows⟩ := hc
  have hdl : d < c.h.length := hlen ▸ hd
  have hrow : l < c.h[d].length := by rw [hrows _ (List.getElem_mem hdl)]; exact hl
  have hwritten : (c.writeH d mask (lineLanes.map vals)).h[d]? =
      some (c.h[d].zipIdx.map (fun p => if mask.getLsbD p.2 then ((lineLanes.map vals)[p.2]?).getD 0 else p.1)) := by
    rw [LineCore.writeH, modAt_getElem?, if_pos rfl, List.getElem?_eq_getElem hdl]
    rfl
  rw [LineCore.hl, LineCore.hl, hwritten, List.getElem?_eq_getElem hdl]
  simp [hrow, lineLanes, hl]

/-! ## Scalar operations (09 R297) -/

/-- A row whose instruction writes its value to its k register. -/
def KRow.Writes (row : KRow) : Prop :=
  ∀ (w : LSlot) (s : State), exec (row.instr w) s = lineOnly s (fun c => c.writeK w.d.toNat (row.val c.snap w))

/-- An operation of two k registers. -/
theorem KRow.Writes.of_kOp {row : KRow} {g : W32 → W32 → W32} (he : ∀ w s, exec (row.instr w) s = kOp w s g)
    (hv : ∀ x w, g (LineSnap.ka x w) (LineSnap.kb x w) = row.val x w) : row.Writes := by
  intro w s
  rw [he, kOp]
  congr 1; funext c
  rw [← hv]; rfl

/-- KLUI joins the register's bits and its immediate's, which do not meet (09 R297). -/
theorem ofNat_mul_add_imm (x : W32) (i : BitVec 13) :
    BitVec.ofNat 32 (x.toNat * 2 ^ 13 + i.toNat) = (x <<< 13) ||| i.setWidth 32 := by
  rw [← Nat.shiftLeft_eq, Nat.shiftLeft_add_eq_or_of_lt i.isLt, BitVec.ofNat_or, BitVec.ofNat_toNat, Nat.shiftLeft_eq,
    ofNat_mul_two_pow]

theorem lineScalarRows_write : ∀ row ∈ lineScalarRows, row.Writes := by
  simp only [lineScalarRows, List.forall_mem_cons, List.not_mem_nil, false_implies, implies_true, and_true]
  refine ⟨?kadd, ?kaddi, ?ksub, ?kmul, ?kand, ?kor, ?kxor, ?kshl, ?kshr, ?ksar, ?kli, ?klui, ?kslt⟩
  case kadd => exact .of_kOp (fun _ _ => rfl) (fun _ _ => rfl)
  case kaddi =>
    intro w s
    simp only [ofInt_toInt_add]
    rfl
  case ksub => exact .of_kOp (fun _ _ => rfl) (fun _ _ => (ofInt_sub_toInt _ _).symm)
  case kmul => exact .of_kOp (fun _ _ => rfl) (fun _ _ => (ofNat_mul_toNat _ _).symm)
  case kand => exact .of_kOp (fun _ _ => rfl) (fun _ _ => rfl)
  case kor => exact .of_kOp (fun _ _ => rfl) (fun _ _ => rfl)
  case kxor => exact .of_kOp (fun _ _ => rfl) (fun _ _ => rfl)
  case kshl =>
    exact .of_kOp (g := fun x y => x <<< (y.toNat % 32)) (fun _ _ => rfl) (fun _ _ => (ofNat_mul_two_pow _ _).symm)
  case kshr =>
    exact .of_kOp (g := fun x y => x >>> (y.toNat % 32)) (fun _ _ => rfl) (fun _ _ => (ofNat_div_two_pow _ _).symm)
  case ksar =>
    exact .of_kOp (g := fun x y => x.sshiftRight (y.toNat % 32)) (fun _ _ => rfl) (fun _ _ => (ofInt_div_two_pow _ _).symm)
  case kli => exact fun _ _ => rfl
  case klui =>
    intro w s
    simp only [ofNat_mul_add_imm]
    rfl
  case kslt =>
    exact .of_kOp (g := fun x y => if x.slt y then 1 else 0) (fun _ _ => rfl) (fun _ _ => by simp only [BitVec.slt_iff_toInt_lt])

/-! ## Vector operations (09 R301-R306) -/

/-- A row whose instruction writes its lanes' values to its h register. -/
def HRow.Writes (row : HRow) : Prop := ∀ (w : LSlot) (s : State), exec (row.instr w) s = hOp w s (fun x => row.val x w)

/-- An operation on typed lanes of two operands: of a pair of f16, the upper half needs no mask (09 R302). -/
theorem typedOp_eq_typed (x : LineSnap) (w : LSlot) (ff : Fmt → Nat → Nat → Nat) {gi fi : Bool → W32 → W32 → W32}
    (hi : ∀ sgn a b, gi sgn a b = fi sgn a b) (z : W32) (l : Nat) :
    typedOp w (fun f a b _ => ff f a b) (fun sgn a b _ => gi sgn a b) (x.hl w.a.toNat l) (x.opB w l) z = x.typed w ff fi l := by
  have low (v : W32) : half v.toNat 0 = v.toNat % 2 ^ 16 := by simp [half, bits]
  have high (v : W32) : half v.toNat 1 = v.toNat / 2 ^ 16 :=
    Nat.mod_eq_of_lt (Nat.div_lt_of_lt_mul v.isLt)
  unfold typedOp LineSnap.typed
  split
  next h => rw [if_pos h]
  next h => rw [if_neg (by omega), if_pos h, low, low, high, high]; rfl
  next h0 h1 => rw [if_neg h0, if_neg h1, ← hi]

/-- An operation on typed lanes of a and b. -/
theorem HRow.Writes.of_typed {row : HRow} {ff : Fmt → Nat → Nat → Nat} {gi fi : Bool → W32 → W32 → W32}
    (he : ∀ w s, exec (row.instr w) s = typedLine w s (fun f a b _ => ff f a b) (fun sgn a b _ => gi sgn a b))
    (hi : ∀ sgn a b, gi sgn a b = fi sgn a b) (hv : ∀ x w, row.val x w = LineSnap.typed x w ff fi) : row.Writes := by
  intro w s
  rw [he, typedLine]
  congr 1; funext x l
  rw [hv, typedOp_eq_typed x w ff hi]

/-- The order of HMIN and HMAX on integers (09 R302, R303). -/
theorem lineLe_eq (sgn : Bool) (a b : W32) :
    lineLe sgn a b = if sgn then decide (a.toInt ≤ b.toInt) else decide (a.toNat ≤ b.toNat) := rfl

theorem lineVectorRows_write : ∀ row ∈ lineVectorRows, row.Writes := by
  simp only [lineVectorRows, List.forall_mem_cons, List.not_mem_nil, false_implies, implies_true, and_true]
  refine ⟨?hadd, ?hsub, ?hmul, ?hmin, ?hmax, ?hfma, ?hsel, ?hcvt, ?hrcp, ?hlerp, ?hshuf⟩
  case hadd => exact .of_typed (gi := fun _ a b => a + b) (fun _ _ => rfl) (fun _ _ _ => rfl) (fun _ _ => rfl)
  case hsub =>
    exact .of_typed (gi := fun _ a b => a - b) (fun _ _ => rfl) (fun _ _ _ => (ofInt_sub_toInt _ _).symm) (fun _ _ => rfl)
  case hmul =>
    exact .of_typed (gi := fun _ a b => a * b) (fun _ _ => rfl) (fun _ _ _ => (ofNat_mul_toNat _ _).symm) (fun _ _ => rfl)
  case hmin =>
    exact .of_typed (gi := fun g a b => if lineLe g a b then a else b) (fun _ _ => rfl)
      (fun _ _ _ => by rw [lineLe_eq]) (fun _ _ => rfl)
  case hmax =>
    exact .of_typed (gi := fun g a b => if lineLe g a b then b else a) (fun _ _ => rfl)
      (fun _ _ _ => by rw [lineLe_eq]) (fun _ _ => rfl)
  case hfma =>
    intro w s
    simp only [BitVec.ofNat_add, ofNat_mul_toNat, BitVec.ofNat_toNat, BitVec.setWidth_eq]
    rfl
  case hsel => exact fun _ _ => rfl
  case hcvt => exact fun _ _ => rfl
  case hrcp => exact fun _ _ => rfl
  case hlerp => exact fun _ _ => rfl
  case hshuf => exact fun _ _ => rfl

/-! ## Predicates (09 R303) -/

/-- The bits of a sum of distinct powers of two. -/
theorem testBit_sum_two_pow (p : Nat → Bool) (n l : Nat) :
    ((List.range n).foldl (fun a i => a + if p i then 2 ^ i else 0) 0).testBit l = (decide (l < n) && p l) := by
  induction n generalizing l with
  | zero => simp
  | succ n ih =>
    rw [List.range_succ, List.foldl_append, List.foldl_cons, List.foldl_nil]
    generalize (List.range n).foldl (fun a i => a + if p i then 2 ^ i else 0) 0 = sum at ih
    have hlt : sum < 2 ^ n := Nat.lt_pow_two_of_testBit sum (fun i hi => by rw [ih, decide_eq_false (by omega), Bool.false_and])
    have hbit : (sum + if p n then 2 ^ n else 0).testBit l = (sum.testBit l || (decide (l = n) && p l)) := by
      by_cases hp : p n = true
      · have hor := Nat.two_pow_add_eq_or_of_lt hlt 1
        rw [Nat.mul_one] at hor
        rw [if_pos hp, Nat.add_comm, hor, Nat.testBit_or, Nat.testBit_two_pow, Bool.or_comm]
        by_cases hl : l = n
        · simp [hl, hp]
        · simp [hl, Ne.symm hl]
      · by_cases hl : l = n <;> simp [hp, hl]
    rw [hbit, ih]
    by_cases hl : l = n
    · simp [hl]
    · simp [hl, show l < n + 1 ↔ l < n by omega]

/-- Sixteen bits as a sum, as laneBits adds them up, lane by lane. -/
theorem laneBits_eq (p : Nat → Bool) :
    laneBits p = BitVec.ofNat 16 ((List.range 16).foldl (fun a l => a + if p l then 2 ^ l else 0) 0) := by
  unfold laneBits lineLanes
  congr 2; funext a l
  split <;> rfl

theorem laneBits_getLsbD (p : Nat → Bool) {l : Nat} (hl : l < 16) : (laneBits p).getLsbD l = p l := by
  rw [laneBits_eq, BitVec.getLsbD_ofNat, testBit_sum_two_pow]
  simp [hl]

/-- The bits of a mask from one word, the others from another. -/
theorem merge_laneBits (old mask : BitVec 16) (p : Nat → Bool) :
    (old &&& ~~~mask) ||| (laneBits p &&& mask) = laneBits (fun l => if mask.getLsbD l then p l else old.getLsbD l) := by
  refine BitVec.eq_of_getLsbD_eq (fun l hl => ?_)
  rw [laneBits_getLsbD _ hl, BitVec.getLsbD_or, BitVec.getLsbD_and, BitVec.getLsbD_and, BitVec.getLsbD_not,
    laneBits_getLsbD _ hl]
  cases mask.getLsbD l <;> simp [hl]

/-- A predicate after a write of the mask's bits; y0 is not written (01 R43). -/
theorem LineCore.writeY_y (c : LineCore) (d m : Nat) (mask v : BitVec 16) :
    (c.writeY d mask v).y[m]? =
      (c.y[m]?).map (fun old => if m = d ∧ m ≠ 0 then (old &&& ~~~mask) ||| (v &&& mask) else old) := by
  unfold LineCore.writeY
  by_cases hd : d = 0
  · rw [if_pos hd]
    simp [show ¬(m = d ∧ m ≠ 0) by omega]
  · rw [if_neg hd, modAt_getElem?]
    by_cases hm : m = d
    · simp [hm, hd]
    · simp [hm]

theorem LineCore.writeY_rest (c : LineCore) (d : Nat) (mask v : BitVec 16) :
    { c.writeY d mask v with y := [] } = { c with y := [] } := by
  unfold LineCore.writeY
  split <;> rfl

/-- HCMP's condition on a lane (09 R303). -/
def LineSnap.compares (x : LineSnap) (w : LSlot) (l : Nat) : Bool :=
  if lineType w = 0 then (f32.compare w.c.toNat (x.hl w.a.toNat l).toNat (x.opB w l).toNat).1
  else lineCmp (lineType w == 2) w.c.toNat (x.hl w.a.toNat l) (x.opB w l)

theorem exec_lHcmp (w : LSlot) (s : State) :
    exec (.lHcmp w) s = lineOnly s (fun c => c.writeY w.d.toNat (c.snap.act w) (laneBits (c.snap.compares w))) := rfl

/-- Settles O40: each row of the two tables writes its value to its register, HCMP the bits of its lanes, and an operation
that changes its line core alone leaves the rest. -/
theorem lineRegisterOperations : Obligations.LineRegisterOperations := by
  refine ⟨fun row hrow w s n hcur => ?_, fun w s n hcur => ⟨fun row hrow => ?_, ?_⟩⟩
  · rw [lineScalarRows_write row hrow]
    exact lineOnly_next hcur _
  · obtain ⟨t, ht, honly, hcore⟩ := lineOnly_next hcur (fun c =>
      c.writeH w.d.toNat (c.snap.act w) (lineLanes.map (row.val c.snap w)))
    refine ⟨t, (lineVectorRows_write row hrow w s).trans ht, honly, ?_, fun m hm => ?_, fun hwf l hl => ?_⟩ <;> rw [hcore]
    · exact LineCore.writeH_noH ..
    · exact LineCore.writeH_h_of_ne _ _ _ hm
    · exact LineCore.writeH_hl hwf w.d.isLt hl _ _
  · obtain ⟨t, ht, honly, hcore⟩ := lineOnly_next hcur (fun c =>
      c.writeY w.d.toNat (c.snap.act w) (laneBits (c.snap.compares w)))
    refine ⟨t, (exec_lHcmp w s).trans ht, honly, ?_, fun m => ?_⟩ <;> rw [hcore]
    · exact LineCore.writeY_rest ..
    · rw [LineCore.writeY_y]
      simp only [merge_laneBits]
      simp only [laneBits_eq, LineSnap.compares]

end Sys2Proof.Machine
end

section
/-! Two statements that fail: a word with a scalar destination that traps, and a claim of a gang on a core that is listed after
a core of higher number. -/

namespace Sys2Proof.Machine

open Sys2Proof

/-! ## A scalar word that meets a poisoned scalar chosen at run time (04 R138; 16 R418) -/

theorem mem_scalarRows_movlScalar : ∃ row ∈ scalarRows, row.op = 0x62 ∧ row.instr = .wMovlScalar := by
  simp [scalarRows, ScaRow.once]

/-- Refutes O6: the scalar MOVL stands among the scalar words, which are said to complete wherever they are ready, but the
scalar it reads is chosen when it executes, after the check of its operands' poison. Where that scalar, s3 of the wave here, is
poisoned the word traps instead, and its wave is discarded. -/
theorem not_scalarAndPredicateResults : ¬ Obligations.ScalarAndPredicateResults := by
  rintro ⟨hscalar, -⟩
  obtain ⟨row, hrow, hop, hinstr⟩ := mem_scalarRows_movlScalar
  obtain ⟨⟨c, f⟩, hr⟩ := Option.isSome_iff_exists.mp movlOfS3_ready
  obtain ⟨t, v, ht, hv, -⟩ := hscalar row hrow movlOfS3 s3Poisoned c f (hop ▸ hr)
  have hcur : s3Poisoned.cur = .wave c.r := (State.waveCtx?_spec (State.ready?_spec hr).1).1
  have hcr : c.r = ⟨0, 0, 0⟩ := (Agent.wave.inj hcur).symm
  rw [hinstr] at ht
  rw [hcr, movlOfS3_discards ht] at hv
  cases hv

/-! ## A gang's claim on a core listed out of order (13 R352; 18 R433) -/

/-- A grid of gangs of two workgroups, one wave each. -/
def pairGrid : Grid := newGrid 0 0 none 0 { placedLpb false with gridX := 2, gang := 2 } 0x1000 [] []

/-- Member 1 of the first gang, in slot 0 of its core, with the messages given in its queue. -/
def secondMember (queue : List Message) : Workgroup :=
  { workgroupAtStart pairGrid 1
      { slot := 0, part := 0, base := 0, scratch := 4096, parts := [0], regs := 256, engine := false } 0 [] with queue := queue }

/-- A claim of the gang on its way to core 3, which is listed after core 5; each of the two cores holds a member 1, and that of
core 5 still holds a message of member 0. -/
def claimOutOfOrder : State :=
  { State.reset with
    grids := [pairGrid]
    cores := [(5, { ComputeCore.reset with wgs := [(0, secondMember [⟨0⟩])] }),
      (3, { ComputeCore.reset with wgs := [(0, secondMember [])], claim := some (0, 0, 1) })] }

/-- The same with the claim arrived, as its placement finds the cores. -/
def claimArrived : State := claimOutOfOrder.updCore 3 (fun c => { c with claim := none, gang := [] })

/-- Where member 0 starts on core 3. -/
def firstMemberPlace : Occupant :=
  { slot := 1, part := 0, base := 4096, scratch := 4096, parts := [0], regs := 256, engine := false }

theorem claimArrived_place :
    placeOne ((claimArrived.unpromise 3 0).heldOccupants 3) pairGrid.lpb = some firstMemberPlace := by decide +kernel

/-- The first member 1 that the state lists holds one of the sixteen entries. -/
theorem claimOutOfOrder_startCredits : claimOutOfOrder.startCredits pairGrid 0 = [(1, 15)] := by decide +kernel

/-- The arrival puts core 3 in its order, before core 5, so the member 1 found then is the one whose queue is empty. -/
theorem claimArrived_credits :
    ((claimArrived.startWg 3 0 0).wg? ⟨3, 1⟩).map (·.credits) = some [(1, 16)] := by decide +kernel

/-- Refutes O48: the member that a placement starts is said to hold the counts of the state before it. A change of a core
keeps the list of cores in rising order, but the statement ranges over every state, one whose list is in no order too: there the
arrival of the claim puts a second entry for core 3 before core 5, and the counts are those of another workgroup of the same
index. -/
theorem not_claimsAndRestores : ¬ Obligations.ClaimsAndRestores := by
  intro h
  obtain ⟨-, -, hplacement, -⟩ := h claimOutOfOrder 3 0 pairGrid rfl
  obtain ⟨t, -, -, -, hfresh⟩ := hplacement 0 1 rfl
  obtain ⟨hstart, -⟩ := hfresh 0 rfl firstMemberPlace claimArrived_place
  have hcredits : ((claimArrived.startWg 3 0 0).wg? ⟨3, 1⟩).map (·.credits) =
      some (claimOutOfOrder.startCredits pairGrid 0) := congrArg (Option.map (·.credits)) hstart
  rw [claimArrived_credits, claimOutOfOrder_startCredits] at hcredits
  exact absurd hcredits (by decide)

end Sys2Proof.Machine
end

section
/-! Words and their encodings (03 R85-R111; 11 R322, R341): where the fields of each kind of word stand, what its form says of
them, and that the decoder of the kind gives back what the encoder wrote. -/

namespace Sys2Proof.Machine

open Sys2Proof

/-! ## Opcode maps and back -/

/-- The map of wave words gives an instruction's constructor back at its opcode. -/
theorem waveOpcode_map {i : Instr} {op : Nat} {w : WWord} (h : waveOpcode i = some (op, w)) :
    ∃ c, assoc waveOps op = some c ∧ c w = i ∧ op < 256 ∧ formOk i = waveOk op w := by
  cases i <;> cases h <;> exact ⟨_, rfl, rfl, by decide, rfl⟩

theorem seqOpcode_map {i : Instr} {op : Nat} {w : SWord} (h : seqOpcode i = some (op, w)) :
    ∃ c, assoc seqOps op = some c ∧ c w = i ∧ op < 64 ∧ formOk i = seqOk op w := by
  cases i <;> cases h <;> exact ⟨_, rfl, rfl, by decide, rfl⟩

theorem matrixOpcode_map {i : Instr} {op : Nat} {w : MWord} (h : matrixOpcode i = some (op, w)) :
    ∃ c, assoc matrixOps op = some c ∧ c w = i ∧ op < 16 ∧ formOk i = matrixOk op w := by
  cases i <;> cases h <;> exact ⟨_, rfl, rfl, by decide, rfl⟩

theorem packetType_map {i : Instr} {ty : Nat} {w : PacketWord} (h : packetType i = some (ty, w)) :
    ∃ c, assoc packetOps ty = some c ∧ c w = i ∧ ty < 256
      ∧ formOk i = decide (1 ≤ w.len ∧ w.len < 65536 ∧ w.body.length < w.len) := by
  cases i <;> cases h <;> exact ⟨_, rfl, rfl, by decide, rfl⟩

theorem mailCode_map {i : Instr} {code : Nat} {w : MailWord} (h : mailCode i = some (code, w)) :
    ∃ c, assoc mailOps code = some c ∧ c w = i ∧ code < 256 := by
  cases i <;> cases h <;> exact ⟨_, rfl, rfl, by decide⟩

/-- The slots 0 to 3 that a kind of operation may stand in. -/
theorem lineOpcode_map {i : Instr} {k : SlotKind} {op : Nat} {w : LSlot} (h : lineOpcode i = some (k, op, w)) :
    (∀ n, n < 4 → k.holds n = true → ∃ c, assoc (lineOps n) op = some c ∧ c w = i) ∧ op < 64
      ∧ formOk i = (k.holds w.slot.toNat && lineOk w.slot.toNat op w) := by
  cases i <;> cases h <;> refine ⟨fun n hn hk => ?_, by decide, rfl⟩ <;> interval_cases n <;> cases hk <;>
    exact ⟨_, rfl, rfl⟩

/-! ## Fields -/

theorem wtypeOf_wtypeCode (t : WType) : wtypeOf (wtypeCode t) = t := by cases t <;> rfl
theorem rndOf_rndCode (r : Rnd) : rndOf (rndCode r) = r := by cases r <;> rfl
theorem wtypeCode_lt (t : WType) : wtypeCode t < 16 := by cases t <;> decide
theorem rndCode_lt (r : Rnd) : rndCode r < 4 := by cases r <;> decide

theorem ctlOf_ctlCode (c : Ctl) : ctlOf (ctlCode c) = some c := by
  obtain ⟨s, o, h⟩ := c
  cases s <;> cases o <;> cases h <;> rfl

theorem ctlCode_lt (c : Ctl) : ctlCode c < 256 := by
  obtain ⟨s, o, h⟩ := c
  cases s <;> cases o <;> cases h <;> decide


theorem bit_of_field {x i : Nat} {b : Bool} (h : bits x i 1 = b.toNat) : bit x i = b := by
  unfold bits at h
  cases b <;> simp_all [bit]

/-! ## Operands of wave words (03 R87, R88, R92) -/

/-- Whether a field of a form is read as the decoder reads it: a control byte as one, a code by its raw field, and a field that
may hold the literal by its class. The other forms have no immediate. -/
def OpForm.readIn (m : FieldMode) : OpForm → Bool
  | .ctl _ _ _ => m == .ctl
  | .code _ => m != .ctl
  | .value _ _ _ _ _ _ | .quad => m == .plain
  | _ => true

/-- Decoding an operand's class and field gives back an operand that fits its form. -/
theorem decodeOperand_encodeOperand {m : FieldMode} {f : OpForm} {o : Operand} {lit : Option W64}
    (hm : f.readIn m = true) (hfit : operandFits f o = true) (hlit : ∀ x, o = .lit x → lit = some x) :
    decodeOperand m (encodeOperand o).1 (encodeOperand o).2 lit = some o := by
  cases o with
  | v n => simp [decodeOperand, encodeOperand]
  | s n => simp [decodeOperand, encodeOperand, n.isLt]
  | sq n => simp [decodeOperand, encodeOperand, n.isLt]
  | sp n =>
    have hn : n.toNat < 14 := by
      unfold operandFits at hfit
      split at hfit <;> simp_all
    have h1 : ¬16 + n.toNat < 8 := by omega
    have h2 : 16 + n.toNat < 30 := by omega
    simp [decodeOperand, encodeOperand, h1, h2]
  | imm x =>
    have hx : m ≠ .ctl ∧ x ≠ 0x80 := by
      unfold operandFits at hfit
      split at hfit <;> simp_all [OpForm.readIn]
    have hfield : x.toNat ≠ 0x80 := fun h => hx.2 (BitVec.eq_of_toNat_eq h)
    cases m with
    | ctl => exact absurd rfl hx.1
    | raw | plain => simp [decodeOperand, encodeOperand, hfield]
  | lit x =>
    have hplain : m = .plain := by
      cases f <;> simp_all [operandFits, OpForm.readIn]
    simp [decodeOperand, encodeOperand, hplain, hlit x rfl]
  | pair x => 
    unfold operandFits at hfit
    split at hfit <;> simp_all
  | ctl c =>
    have hctl : m = .ctl := by
      cases f <;> simp_all [operandFits, OpForm.readIn]
    simp [decodeOperand, encodeOperand, hctl, ctlOf_ctlCode]

theorem encodeOperand_lt (o : Operand) : (encodeOperand o).1 < 4 ∧ (encodeOperand o).2 < 256 := by
  cases o with
  | ctl c => exact ⟨Nat.lt_succ_self 3, ctlCode_lt c⟩
  | v n | s n | sq n | sp n | imm n | lit n | pair n => simp only [encodeOperand]; omega

/-! ## What the forms say of the fields -/

/-- Whether a form leaves its field unused. -/
def OpForm.isUnused : OpForm → Bool
  | .unused => true
  | _ => false

theorem operandFits_unused {f : OpForm} {o : Operand} (hf : f.isUnused = true) (h : operandFits f o = true) : o = .v 0 := by
  unfold OpForm.isUnused at hf
  split at hf
  · cases o with
    | v n => simpa [operandFits] using h
    | s _ | sq _ | sp _ | imm _ | lit _ | pair _ | ctl _ => cases h
  · cases hf

/-- Whether the decoder reads the three operands of a word as its form has them: each in its mode, and no c in a two-source
word. -/
def WaveForm.readAs (f : WaveForm) (op : Nat) : Bool :=
  f.a.readIn .plain && f.b.readIn (modeB op) && f.c.readIn (modeC op) && (!twoSource op || f.c.isUnused)

theorem intForm_readAs {sc : Bool} {op : Nat} {t : WType} {m : Nat} {f : WaveForm} (h : intForm sc op t m = some f) :
    f.readAs op = true ∧ f.readAs (op + 0x40) = true := by
  unfold intForm at h
  dsimp only at h
  (repeat' split at h) <;> cases h <;> cases sc <;> exact ⟨rfl, rfl⟩

theorem moveForm_readAs {op : Nat} {t : WType} {m : Nat} {f : WaveForm} (h : moveForm op t m = some f) : f.readAs op = true := by
  unfold moveForm at h
  dsimp only at h
  (repeat' split at h) <;> cases h <;> rfl

theorem controlForm_readAs {op : Nat} {t : WType} {m : Nat} {f : WaveForm} (h : controlForm op t m = some f) : f.readAs op = true := by
  unfold controlForm at h
  dsimp only at h
  (repeat' split at h) <;> cases h <;> rfl

theorem floatForm_readAs {op : Nat} {w : WWord} {f : WaveForm} (h : floatForm op w = some f) : f.readAs op = true := by
  unfold floatForm at h
  dsimp only at h
  (repeat' split at h) <;> cases h
  all_goals rfl

theorem memForm_readAs {op : Nat} {t : WType} {m : Nat} {f : WaveForm} (h : memForm op t m = some f) : f.readAs op = true := by
  unfold memForm at h
  dsimp only at h
  (repeat' split at h) <;> cases h
  all_goals rfl

theorem waveForm_readAs {op : Nat} {w : WWord} {f : WaveForm} (h : waveForm op w = some f) : f.readAs op = true := by
  unfold waveForm at h
  dsimp only at h
  split at h
  · exact (intForm_readAs h).1
  · split at h
    · exact moveForm_readAs h
    · split at h
      · exact controlForm_readAs h
      · split at h
        · have hop : op - 0x40 + 0x40 = op := by omega
          exact hop ▸ (intForm_readAs h).2
        · split at h
          · exact moveForm_readAs h
          · split at h
            · exact floatForm_readAs h
            · exact memForm_readAs h

/-! ## The literal (03 R88) -/

/-- An operand that selects the literal reads the first literal word, as all of them select the same one. -/
theorem literalsOf_head? {w : WWord} (hok : literalOk w = true) {x : W64} (hx : x ∈ literalsOf w) :
    (literalsOf w).head? = some x := by
  unfold literalOk at hok
  split at hok
  · next hnil => simp [hnil] at hx
  · next y rest hcons =>
    rw [hcons] at hx ⊢
    rcases List.mem_cons.mp hx with rfl | hmem
    · rfl
    · rw [List.head?_cons, (by simpa using List.all_eq_true.mp hok x hmem : x = y)]

theorem literal_mem {w : WWord} {x : W64} (h : w.a = .lit x ∨ w.b = .lit x ∨ w.c = .lit x) : x ∈ literalsOf w := by
  rcases h with h | h | h <;> simp [literalsOf, literalOf, h]

/-! ## Wave words (03 R85) -/

theorem encodeBC_lt (w : WWord) :
    (encodeBC w).1.1 < 4 ∧ (encodeBC w).1.2 < 256 ∧ (encodeBC w).2.1 < 4 ∧ (encodeBC w).2.2 < 256 := by
  unfold encodeBC
  split
  · next x _ => dsimp only; omega
  · exact ⟨(encodeOperand_lt _).1, (encodeOperand_lt _).2, (encodeOperand_lt _).1, (encodeOperand_lt _).2⟩

/-- The fields of an encoded wave word stand at the places of the table; b and c together hold an immediate pair. -/
theorem encodeWaveWord_fields {op : Nat} (w : WWord) (hop : op < 256) {x : Nat} (hx : (encodeWaveWord op w).toNat = x) :
    bits x 56 8 = op ∧ bits x 52 4 = wtypeCode w.t ∧ bits x 48 4 = w.m.toNat ∧ bits x 45 3 = w.p.toNat
      ∧ bits x 44 1 = w.pn.toNat ∧ bits x 43 1 = w.u.toNat ∧ bits x 40 3 = w.l.toNat ∧ bits x 32 8 = w.d.toNat
      ∧ bits x 24 8 = (encodeOperand w.a).2 ∧ bits x 16 8 = (encodeBC w).1.2 ∧ bits x 8 8 = (encodeBC w).2.2
      ∧ bits x 6 2 = (encodeOperand w.a).1 ∧ bits x 4 2 = (encodeBC w).1.1 ∧ bits x 2 2 = (encodeBC w).2.1
      ∧ bits x 0 2 = rndCode w.rnd ∧ bits x 8 16 = (encodeBC w).1.2 * 256 + (encodeBC w).2.2 := by
  have ht := wtypeCode_lt w.t
  have hr := rndCode_lt w.rnd
  have hm := w.m.isLt
  have hp := w.p.isLt
  have hpn := w.pn.toNat_lt
  have hu := w.u.toNat_lt
  have hl := w.l.isLt
  have hd := w.d.isLt
  obtain ⟨hka, hfa⟩ := encodeOperand_lt w.a
  obtain ⟨hkb, hfb, hkc, hfc⟩ := encodeBC_lt w
  simp only [encodeWaveWord, BitVec.toNat_ofNat] at hx
  simp only [bits]
  refine ⟨?_, ?_, ?_, ?_, ?_, ?_, ?_, ?_, ?_, ?_, ?_, ?_, ?_, ?_, ?_, ?_⟩ <;> omega

/-- Where the operands of an encoded wave word decode, so do its fields. -/
theorem decodeWaveFields_of_operands {op : Nat} (w : WWord) (hop : op < 256) {lit : Option W64}
    {x : Nat} (hx : (encodeWaveWord op w).toNat = x)
    (ha : decodeOperand .plain (encodeOperand w.a).1 (encodeOperand w.a).2 lit = some w.a)
    (hb : (if (twoSource op && (encodeBC w).1.1 == 3 && (encodeBC w).2.1 == 3) = true
      then some (Operand.pair (BitVec.ofNat 16 ((encodeBC w).1.2 * 256 + (encodeBC w).2.2)))
      else decodeOperand (modeB op) (encodeBC w).1.1 (encodeBC w).1.2 lit) = some w.b)
    (hc : (if (twoSource op && (encodeBC w).1.1 == 3 && (encodeBC w).2.1 == 3) = true then some (Operand.v 0)
      else decodeOperand (modeC op) (encodeBC w).2.1 (encodeBC w).2.2 lit) = some w.c) :
    decodeWaveFields op x lit = some w := by
  obtain ⟨-, ht, hm, hp, hpn, hu, hl, hd, hAf, hBf, hCf, hAk, hBk, hCk, hr, hBC⟩ := encodeWaveWord_fields w hop hx
  unfold decodeWaveFields
  simp only [ht, hm, hp, hl, hd, hAf, hBf, hCf, hAk, hBk, hCk, hr, hBC, ha, hb, hc, bit_of_field hpn, bit_of_field hu,
    wtypeOf_wtypeCode, rndOf_rndCode, BitVec.ofNat_toNat, BitVec.setWidth_eq]

/-- The fields of a word that fits its form decode to the word. -/
theorem decodeWaveFields_encodeWaveWord {op : Nat} {w : WWord} {f : WaveForm} (hop : op < 256)
    (hform : waveForm op w = some f) (hfit : fieldsFit op f w = true) :
    decodeWaveFields op (encodeWaveWord op w).toNat (literalsOf w).head? = some w := by
  have hread := waveForm_readAs hform
  simp only [WaveForm.readAs, Bool.and_eq_true, Bool.or_eq_true, Bool.not_eq_true'] at hread
  obtain ⟨⟨⟨hreada, hreadb⟩, hreadc⟩, htwo⟩ := hread
  simp only [fieldsFit, Bool.and_eq_true] at hfit
  obtain ⟨⟨⟨⟨⟨-, hfita⟩, hpair⟩, hlit⟩, -⟩, -⟩ := hfit
  have hhead : ∀ {x}, (w.a = .lit x ∨ w.b = .lit x ∨ w.c = .lit x) → (literalsOf w).head? = some x :=
    fun h => literalsOf_head? hlit (literal_mem h)
  have ha := decodeOperand_encodeOperand hreada hfita (fun x h => hhead (.inl h))
  unfold pairFits at hpair
  split at hpair
  · next x hx =>
    split at hpair
    · simp only [Bool.and_eq_true, beq_iff_eq] at hpair
      obtain ⟨⟨⟨htwosource, -⟩, -⟩, hcv⟩ := hpair
      have hvalue : x.toNat / 256 * 256 + x.toNat % 256 = x.toNat := by omega
      refine decodeWaveFields_of_operands w hop rfl ha ?_ ?_ <;> simp [encodeBC, hx, htwosource, hcv, hvalue]
    · cases hpair
  · next hnopair =>
    simp only [Bool.and_eq_true] at hpair
    obtain ⟨hfitb, hfitc⟩ := hpair
    have hbc : encodeBC w = (encodeOperand w.b, encodeOperand w.c) := by
      unfold encodeBC
      split
      · next x hx => exact absurd hx (hnopair x)
      · rfl
    have hnot : (twoSource op && (encodeOperand w.b).1 == 3 && (encodeOperand w.c).1 == 3) = false := by
      rcases htwo with htwo | hunused
      · simp [htwo]
      · have hcv : w.c = .v 0 := operandFits_unused hunused hfitc
        simp [hcv, encodeOperand]
    refine decodeWaveFields_of_operands w hop rfl ha ?_ ?_ <;> rw [hbc, hnot, if_neg Bool.false_ne_true]
    · exact decodeOperand_encodeOperand hreadb hfitb (fun x h => hhead (.inr (.inl h)))
    · exact decodeOperand_encodeOperand hreadc hfitc (fun x h => hhead (.inr (.inr h)))

theorem decodeWave_of_fields {x : W64} {lit : Option W64} {op : Nat} {c : WWord → Instr} {w : WWord}
    (hop : bits x.toNat 56 8 = op) (hmap : assoc waveOps op = some c) (hfields : decodeWaveFields op x.toNat lit = some w)
    (hok : waveOk op w = true) : decodeWave x lit = some (c w) := by
  simp only [decodeWave, hop, hmap, hfields, hok, if_true]

/-- A well-formed wave word is decoded from its encoding. -/
theorem decodeWave_encodeWaveWord {i : Instr} {op : Nat} {w : WWord} (hi : WellFormed i) (h : waveOpcode i = some (op, w)) :
    decodeWave (encodeWaveWord op w) (literalsOf w).head? = some i := by
  obtain ⟨c, hmap, rfl, hop, hok⟩ := waveOpcode_map h
  have hwave : waveOk op w = true := hok ▸ hi
  refine decodeWave_of_fields (encodeWaveWord_fields w hop rfl).1 hmap ?_ hwave
  unfold waveOk at hwave
  split at hwave
  · next f hform => exact decodeWaveFields_encodeWaveWord hop hform hwave
  · cases hwave

/-! ## Sequencer words (03 R104, R105) -/

/-- The register fields that a format has no place for are unused by the forms of that format. -/
theorem seqForm_unused {op : Nat} {f : SeqForm} (h : seqForm op = some f) :
    (f.fmt = .b ∨ f.fmt = .j → f.useD = false) ∧ (f.fmt = .u ∨ f.fmt = .j → f.useA = false)
      ∧ (f.fmt = .i ∨ f.fmt = .u ∨ f.fmt = .j → f.useB = false) := by
  unfold seqForm at h
  split at h <;> cases h <;> decide

/-- What a sequencer word that keeps its form leaves 0. -/
theorem seqOk_fields {op : Nat} {w : SWord} {f : SeqForm} (hform : seqForm op = some f) (h : seqOk op w = true) :
    (f.useD = false → w.d = 0) ∧ (f.useA = false → w.a = 0) ∧ (f.useB = false → w.b = 0) ∧ w.imm.toNat < 2 ^ f.fmt.immBits := by
  simp only [seqOk, hform, Bool.and_eq_true, Bool.or_eq_true, beq_iff_eq, decide_eq_true_eq] at h
  obtain ⟨⟨⟨⟨hd, ha⟩, hb⟩, himm⟩, -⟩ := h
  refine ⟨fun e => ?_, fun e => ?_, fun e => ?_, himm⟩ <;> simp_all

/-- The fields of an encoded sequencer word, each format's at its places. -/
theorem encodeSeqWord_fields {op : Nat} (fmt : SeqFmt) (w : SWord) (hop : op < 64) (himm : w.imm.toNat < 2 ^ fmt.immBits) {x : Nat}
    (hx : (encodeSeqWord op fmt w).toNat = x) :
    bits x 26 6 = op ∧ bits x 25 1 = w.tu.toNat ∧ bits x 24 1 = w.gd.toNat ∧ bits x 23 1 = w.td.toNat ∧ bits x 22 1 = w.gu.toNat
      ∧ (fmt = .r ∨ fmt = .i ∨ fmt = .u → bits x 17 5 = w.d.toNat)
      ∧ (fmt = .b → bits x 17 5 = w.a.toNat) ∧ (fmt = .r ∨ fmt = .i → bits x 12 5 = w.a.toNat)
      ∧ (fmt = .b → bits x 12 5 = w.b.toNat) ∧ (fmt = .r → bits x 7 5 = w.b.toNat ∧ bits x 0 7 = 0)
      ∧ bits x 0 fmt.immBits = w.imm.toNat := by
  have htu := w.tu.toNat_lt
  have hgd := w.gd.toNat_lt
  have htd := w.td.toNat_lt
  have hgu := w.gu.toNat_lt
  have hd := w.d.isLt
  have ha := w.a.isLt
  have hb := w.b.isLt
  simp only [encodeSeqWord, BitVec.toNat_ofNat] at hx
  cases fmt <;> simp only [SeqFmt.immBits] at himm hx ⊢ <;> simp only [bits, reduceCtorEq, or_false, or_self,
    or_true, forall_const, false_imp_iff, true_and] <;> omega

theorem decodeSeqFields_of {f : SeqForm} {op : Nat} {w : SWord} {x : Nat} (hop : op < 64) (hform : seqForm op = some f)
    (hok : seqOk op w = true) (hx : (encodeSeqWord op f.fmt w).toNat = x) : decodeSeqFields f x = some w := by
  obtain ⟨hud, hua, hub⟩ := seqForm_unused hform
  obtain ⟨hd, ha, hb, himm⟩ := seqOk_fields hform hok
  obtain ⟨-, htu, hgd, htd, hgu, hfd, hfab, hfa, hfbb, hfb, hfimm⟩ := encodeSeqWord_fields f.fmt w hop himm hx
  obtain ⟨tu, gd, td, gu, d, a, b, imm⟩ := w
  unfold decodeSeqFields
  cases hfmt : f.fmt <;> simp_all [bit_of_field htu, bit_of_field hgd, bit_of_field htd, bit_of_field hgu]

theorem decodeSeq_of_fields {op : Nat} {c : SWord → Instr} {f : SeqForm} {w : SWord} {x : W32} (hop : op < 64)
    (hmap : assoc seqOps op = some c) (hform : seqForm op = some f) (hok : seqOk op w = true)
    (hx : encodeSeqWord op f.fmt w = x) : decodeSeq x = some (c w) := by
  have hnat : (encodeSeqWord op f.fmt w).toNat = x.toNat := congrArg BitVec.toNat hx
  have hfields := decodeSeqFields_of hop hform hok hnat
  obtain ⟨hopx, -⟩ := encodeSeqWord_fields f.fmt w hop (seqOk_fields hform hok).2.2.2 hnat
  simp only [decodeSeq, hopx, hmap, hform, hfields, hok, if_true]

/-! ## Matrix words (03 R107) -/

theorem encodeMatrixWord_fields {op : Nat} (w : MWord) (hop : op < 16) {x : Nat} (hx : encodeMatrixWord op w = x) :
    bits x 188 4 = op ∧ bits x 185 3 = w.d.toNat ∧ bits x 184 1 = w.c.toNat ∧ bits x 179 5 = w.fmt.toNat
      ∧ bits x 173 6 = w.mb.toNat ∧ bits x 167 6 = w.kx.toNat ∧ bits x 161 6 = w.nx.toNat ∧ bits x 155 6 = w.px.toNat
      ∧ bits x 153 2 = w.spl.toNat ∧ bits x 151 2 = w.spm.toNat ∧ bits x 146 5 = w.dfmt.toNat
      ∧ bits x 144 2 = rndCode w.drnd ∧ bits x 143 1 = w.dsat.toNat ∧ bits x 138 5 = w.hg.toNat
      ∧ bits x 108 20 = w.a.toNat ∧ bits x 88 20 = w.b.toNat ∧ bits x 68 20 = w.astr.toNat ∧ bits x 44 20 = w.pstr.toNat
      ∧ bits x 128 10 = 0 ∧ bits x 64 4 = 0 ∧ bits x 0 44 = 0 := by
  have := w.d.isLt
  have := w.c.toNat_lt
  have := w.fmt.isLt
  have := w.mb.isLt
  have := w.kx.isLt
  have := w.nx.isLt
  have := w.px.isLt
  have := w.spl.isLt
  have := w.spm.isLt
  have := w.dfmt.isLt
  have := rndCode_lt w.drnd
  have := w.dsat.toNat_lt
  have := w.hg.isLt
  have := w.a.isLt
  have := w.b.isLt
  have := w.astr.isLt
  have := w.pstr.isLt
  simp only [encodeMatrixWord] at hx
  simp only [bits]
  refine ⟨?_, ?_, ?_, ?_, ?_, ?_, ?_, ?_, ?_, ?_, ?_, ?_, ?_, ?_, ?_, ?_, ?_, ?_, ?_, ?_, ?_⟩ <;> omega

theorem decodeMatrix_of_fields {op : Nat} {c : MWord → Instr} {w : MWord} {x : Nat} (hop : op < 16)
    (hmap : assoc matrixOps op = some c) (hok : matrixOk op w = true) (hx : encodeMatrixWord op w = x) :
    decodeMatrix x = some (c w) := by
  obtain ⟨hopx, hd, hc, hfmt, hmb, hkx, hnx, hpx, hspl, hspm, hdfmt, hdrnd, hdsat, hhg, ha, hb, hastr, hpstr, h1, h2, h3⟩ :=
    encodeMatrixWord_fields w hop hx
  have hfields : decodeMatrixFields x = w := by
    simp only [decodeMatrixFields, hd, bit_of_field hc, hfmt, hmb, hkx, hnx, hpx, hspl, hspm, hdfmt, hdrnd, bit_of_field hdsat,
      hhg, ha, hb, hastr, hpstr, rndOf_rndCode, BitVec.ofNat_toNat, BitVec.setWidth_eq]
  simp only [decodeMatrix, hopx, hmap, hfields, h1, h2, h3, hok, and_self, if_true]

/-! ## Line slots (03 R109) -/

theorem encodeSlotWord_fields {op : Nat} (w : LSlot) (hop : op < 64) {x : Nat} (hx : (encodeSlotWord op w).toNat = x) :
    bits x 26 6 = op ∧ bits x 24 2 = w.y.toNat ∧ bits x 23 1 = w.yn.toNat ∧ bits x 18 5 = w.d.toNat ∧ bits x 13 5 = w.a.toNat
      ∧ bits x 8 5 = w.b.toNat ∧ bits x 3 5 = w.c.toNat ∧ bits x 0 3 = w.m.toNat := by
  have := w.y.isLt
  have := w.yn.toNat_lt
  have := w.d.isLt
  have := w.a.isLt
  have := w.b.isLt
  have := w.c.isLt
  have := w.m.isLt
  simp only [encodeSlotWord, BitVec.toNat_ofNat] at hx
  simp only [bits]
  refine ⟨?_, ?_, ?_, ?_, ?_, ?_, ?_, ?_⟩ <;> omega

theorem decodeSlot_of_fields {op : Nat} {c : LSlot → Instr} {w : LSlot} {x : W32} (hop : op < 64)
    (hmap : assoc (lineOps w.slot.toNat) op = some c) (hok : lineOk w.slot.toNat op w = true) (hx : encodeSlotWord op w = x) :
    decodeSlot w.slot.toNat x = some (c w) := by
  obtain ⟨hopx, hy, hyn, hd, ha, hb, hc, hm⟩ := encodeSlotWord_fields w hop (congrArg BitVec.toNat hx)
  simp only [decodeSlot, hopx, hmap, hy, bit_of_field hyn, hd, ha, hb, hc, hm, BitVec.ofNat_toNat, BitVec.setWidth_eq, hok, if_true]

/-! ## Packets and mailbox commands (11 R322, R341) -/

theorem encodePacketHeader_fields {ty : Nat} (w : PacketWord) (hty : ty < 256) (hlen : w.len < 65536) {x : Nat}
    (hx : (encodePacketHeader ty w).toNat = x) :
    bits x 0 8 = ty ∧ bits x 8 16 = w.len ∧ bits x 32 32 = w.tspec.toNat := by
  have := w.tspec.isLt
  simp only [encodePacketHeader, BitVec.toNat_ofNat] at hx
  simp only [bits]
  refine ⟨?_, ?_, ?_⟩ <;> omega

theorem decodePacket_of_fields {ty : Nat} {c : PacketWord → Instr} {w : PacketWord} {x : W64} (hty : ty < 256)
    (hlen : w.len < 65536) (hmap : assoc packetOps ty = some c) (hx : encodePacketHeader ty w = x) :
    decodePacket x w.body = some (c w) := by
  obtain ⟨htype, hl, ht⟩ := encodePacketHeader_fields w hty hlen (congrArg BitVec.toNat hx)
  simp only [decodePacket, htype, hl, ht, hmap, Option.map_some, BitVec.ofNat_toNat, BitVec.setWidth_eq]

/-! ## Each kind of word -/

theorem decodeSeq_encodeSeqWord {i : Instr} {op : Nat} {w : SWord} {f : SeqForm} (hi : WellFormed i)
    (h : seqOpcode i = some (op, w)) (hform : seqForm op = some f) : decodeSeq (encodeSeqWord op f.fmt w) = some i := by
  obtain ⟨c, hmap, rfl, hop, hok⟩ := seqOpcode_map h
  have hseq : seqOk op w = true := hok ▸ hi
  exact decodeSeq_of_fields hop hmap hform hseq rfl

theorem decodeMatrix_encodeMatrixWord {i : Instr} {op : Nat} {w : MWord} (hi : WellFormed i)
    (h : matrixOpcode i = some (op, w)) : decodeMatrix (encodeMatrixWord op w) = some i := by
  obtain ⟨c, hmap, rfl, hop, hok⟩ := matrixOpcode_map h
  exact decodeMatrix_of_fields hop hmap (hok ▸ hi) rfl

theorem decodeSlot_encodeSlotWord {i : Instr} {k : SlotKind} {op : Nat} {w : LSlot} (hi : WellFormed i)
    (h : lineOpcode i = some (k, op, w)) : decodeSlot w.slot.toNat (encodeSlotWord op w) = some i := by
  obtain ⟨hmaps, hop, hok⟩ := lineOpcode_map h
  have hboth : (k.holds w.slot.toNat && lineOk w.slot.toNat op w) = true := hok ▸ hi
  obtain ⟨hholds, hline⟩ := Bool.and_eq_true_iff.mp hboth
  obtain ⟨c, hmap, rfl⟩ := hmaps _ w.slot.isLt hholds
  exact decodeSlot_of_fields hop hmap hline rfl

theorem decodePacket_encodePacketHeader {i : Instr} {ty : Nat} {w : PacketWord} (hi : WellFormed i)
    (h : packetType i = some (ty, w)) : decodePacket (encodePacketHeader ty w) w.body = some i := by
  obtain ⟨c, hmap, rfl, hty, hok⟩ := packetType_map h
  have hlen : decide (1 ≤ w.len ∧ w.len < 65536 ∧ w.body.length < w.len) = true := hok ▸ hi
  exact decodePacket_of_fields hty (of_decide_eq_true hlen).2.1 hmap rfl

theorem decodeMail_mailCode {i : Instr} {code : Nat} {w : MailWord} (h : mailCode i = some (code, w)) :
    decodeMail (BitVec.ofNat 64 code) w.a1 w.a2 w.a3 w.func = some i := by
  obtain ⟨c, hmap, rfl, hcode⟩ := mailCode_map h
  have hbits : bits (BitVec.ofNat 64 code).toNat 0 8 = code := by
    simp only [bits, BitVec.toNat_ofNat]; omega
  simp only [decodeMail, hbits, hmap, Option.map_some]

/-- Settles O58: in each of the six families the fields stand at their places, the map gives the constructor back, and the form
that the instruction keeps is the one its decoder asks for. -/
theorem decodeOfEncode : Obligations.DecodeOfEncode := fun _ hi =>
  ⟨fun _ _ h => decodeWave_encodeWaveWord hi h, fun _ _ _ h hform => decodeSeq_encodeSeqWord hi h hform,
    fun _ _ h => decodeMatrix_encodeMatrixWord hi h, fun _ _ _ h => decodeSlot_encodeSlotWord hi h,
    fun _ _ h => decodePacket_encodePacketHeader hi h, fun _ _ h => decodeMail_mailCode h⟩

/-- Settles O57: each word is decoded by evaluation. -/
theorem decodedWords : Obligations.DecodedWords := by
  unfold Obligations.DecodedWords
  decide +kernel

end Sys2Proof.Machine
end

section
/-! Words that hand lanes on (04 R138, R141, R142): masks of lanes, what operand values depend on, and the statement about MOVL,
SHUF and BCAST. -/

namespace Sys2Proof.Machine

open Sys2Proof

/-! ## Masks -/

/-- The bits that the sum of a mask has after the first `n` lanes. -/
theorem maskSum_testBit (p : Nat → Bool) (n : Nat) :
    (List.range n).foldl (fun a i => if p i then a + 2 ^ i else a) 0 < 2 ^ n
      ∧ ∀ l, ((List.range n).foldl (fun a i => if p i then a + 2 ^ i else a) 0).testBit l = (decide (l < n) && p l) := by
  induction n with
  | zero => simp
  | succ n ih =>
    rw [List.range_succ, List.foldl_append]
    generalize (List.range n).foldl (fun a i => if p i then a + 2 ^ i else a) 0 = x at ih
    obtain ⟨hlt, hbit⟩ := ih
    simp only [List.foldl_cons, List.foldl_nil]
    have hpow : 2 ^ (n + 1) = 2 ^ n + 2 ^ n := by rw [Nat.pow_succ]; omega
    refine ⟨by split <;> omega, fun l => ?_⟩
    rcases Nat.lt_trichotomy l n with hl | rfl | hl
    · have hl' : l < n + 1 := by omega
      split
      · rw [Nat.add_comm, Nat.testBit_two_pow_add_gt hl, hbit]; simp [hl, hl']
      · rw [hbit]; simp [hl, hl']
    · split
      · next hp => rw [Nat.add_comm, Nat.testBit_two_pow_add_eq, hbit]; simp [hp]
      · next hp => rw [hbit]; simp [hp]
    · have hge : ∀ y, y < 2 ^ (n + 1) → y.testBit l = false := fun y hy =>
        Nat.testBit_lt_two_pow (lt_of_lt_of_le hy (Nat.pow_le_pow_right (by omega) (by omega)))
      rw [hge _ (by split <;> omega)]
      simp; omega

theorem maskOf_getLsbD (p : Nat → Bool) (l : Nat) : (maskOf p).getLsbD l = (decide (l < 32) && p l) := by
  obtain ⟨hlt, hbit⟩ := maskSum_testBit p 32
  simp only [maskOf, BitVec.getLsbD_ofNat, hbit]
  cases decide (l < 32) <;> simp

theorem mem_lanesOf {m : Lanes} {l : Nat} : l ∈ lanesOf m ↔ l < 32 ∧ m.getLsbD l = true := by
  simp [lanesOf]

theorem maskOf_lanesOf (m : Lanes) : maskOf (fun i => (lanesOf m).contains i) = m := by
  refine BitVec.eq_of_getLsbD_eq fun i hi => ?_
  rw [maskOf_getLsbD]
  simp [mem_lanesOf, hi]

/-! ## Operand values -/

/-- Operand values depend on nothing of the machine but its grids, tiles, shedding level and free values. -/
theorem WaveCtx.sources_congr {s t : State} (hg : t.grids = s.grids) (ht : t.tiles = s.tiles) (hp : t.power = s.power)
    (hf : t.freeCount = s.freeCount) (c : WaveCtx) (f : WaveForm) (w : WWord) : c.sources t f w = c.sources s f w := by
  have hspecial : ∀ k l, t.special c k l = s.special c k l := by
    intro k l
    simp only [State.special, State.lpbOf, State.grid?, State.tckOf, State.tile, State.levelInForce, hg, ht, hp]
  have hread : ∀ before ty o, c.read t before ty o = c.read s before ty o := by
    intro before ty o
    cases o <;> simp only [WaveCtx.read, hspecial, hf]
  simp only [WaveCtx.sources, hread]

/-- Counting the issue changes no operand. -/
theorem WaveCtx.sources_countIssue (s : State) (c : WaveCtx) (r : WaveRef) (f : WaveForm) (w : WWord) :
    c.sources (s.countIssue r) f w = c.sources s f w :=
  WaveCtx.sources_congr (by simp [State.countIssue]) (by simp [State.countIssue]) (by simp [State.countIssue]) (by simp [State.countIssue]) c f w

/-! ## Registers that no word in flight owes -/

theorem State.spoilRegs_of_untouched {s : State} {c : WaveCtx} {regs : List Nat} {lanes : Lanes}
    (h : c.wv.pending.any (fun p => p.touches regs lanes) = false) : s.spoilRegs c regs lanes = s := by
  simp [State.spoilRegs, h]

theorem WaveCtx.now_of_waveCtx? {s : State} {c : WaveCtx} {w : WWord} (h : s.waveCtx? w = some c) : c.now s w = c := by
  simp [WaveCtx.now, h]

theorem WaveCtx.reads_spec {c : WaveCtx} {regs lanes : List Nat} (h : c.reads regs lanes = true) :
    c.poisonAt regs lanes = false ∧ c.wv.pending.any (fun p => p.touches regs (maskOf (fun i => lanes.contains i))) = false := by
  simpa [WaveCtx.reads] using h

/-- Vector registers without poison in the lanes of a mask hold none that an active lane reads. -/
theorem WaveCtx.poisonIn_of_poisonAt {c : WaveCtx} {regs : List Nat} (h : c.poisonAt regs (lanesOf c.act) = false) :
    c.poisonIn regs [] = false := by
  have hlane : ∀ m : Lanes, (lanesOf c.act).any (fun l => m.getLsbD l) = false → m &&& c.act = 0 := by
    intro m hm
    refine BitVec.eq_of_getLsbD_eq fun i hi => ?_
    have := List.any_eq_false.mp hm i
    simp only [mem_lanesOf, hi, true_and] at this
    cases hact : c.act.getLsbD i <;> simp_all
  simp only [WaveCtx.poisonAt, List.any_eq_false] at h
  simp only [WaveCtx.poisonIn, List.any_nil, Bool.and_false, Bool.false_or, List.any_eq_false]
  intro p hp
  by_cases hr : regs.contains p.1 = true
  · have := h p hp
    simp only [hr, Bool.true_and, Bool.not_eq_true] at this
    simp [hlane _ this]
  · simp_all

/-! ## Words that write typed lanes and go on -/

/-- A write of typed lanes, and the group's way past the word: each lane written holds its value and no poison, and the flag
word is as it was. -/
theorem State.writeTyped_nextWord {s : State} {r : WaveRef} {x : Wave} {fl : BitVec 6} (hx : s.wave? r = some x)
    (hf : s.flagsAt (wgOf r) = some fl) (t : WType) (d : Nat) (mask : Lanes) (vals : List Nat) (n : Nat) :
    ∃ v, ((s.writeTyped r t d mask vals).nextWord r n).wave? r = some v
      ∧ (∀ l, l < 32 → mask.getLsbD l = true → v.laneValue (isWide t) d l = imageOf t (at_ vals l) ∧ v.poisonedLane d l = false)
      ∧ (((s.writeTyped r t d mask vals).nextWord r n).wg? (wgOf r)).map (·.flags) = some fl := by
  obtain ⟨y, hy, -, -, -, hval, -, hpoison⟩ := State.writeTyped_wave? t d mask vals hx
  obtain ⟨hvregs, hpois, -, -, -, -⟩ := Wave.pass_parts y n
  refine ⟨_, State.nextWord_wave? n hy, fun l hl hm => ⟨?_, ?_⟩, ?_⟩
  · rw [← hval l hl hm]; simp [Wave.laneValue, Wave.vreg, hvregs]
  · have hclear := hpoison d l
    simp only [Wave.poisonedLane, hpois] at hclear ⊢
    simp [hclear, hm]
  · change State.flagsAt _ _ = _
    unfold State.nextWord
    rw [State.updWave_flagsAt, State.writeTyped_flagsAt, hf]

/-! ## MOVL (04 R138) -/

/-- The registers that a wide or narrow MOVL reads, given the first. -/
theorem movlReg_lt (w : WWord) (b : Nat) : movlReg w b < 256 := by
  unfold movlReg
  dsimp only
  split <;> omega

/-- A vector register named by number reads as its typed lanes. -/
theorem WaveCtx.read_v (s : State) (c : WaveCtx) (t : WType) {n : Nat} (hn : n < 256) :
    c.read s [] (.t t) (.v (BitVec.ofNat 8 n)) = c.wv.typedLanes (wtypeBits t) n := by
  have hmod : n % 256 = n := Nat.mod_eq_of_lt hn
  simp [WaveCtx.read, Wave.typedLanes, tcodeBits, hmod]

/-- Giving registers a physical place leaves every other fact about the wave. -/
theorem State.foldl_ensurePhys {r : WaveRef} {fl : Option (BitVec 6)} (l : List Nat) {s : State} {v : Wave} (hv : s.wave? r = some v)
    (hf : s.flagsAt (wgOf r) = fl) : ∃ u, (l.foldl (fun s n => s.ensurePhys r n) s).wave? r = some u
      ∧ (l.foldl (fun s n => s.ensurePhys r n) s).flagsAt (wgOf r) = fl := by
  induction l generalizing s v with
  | nil => exact ⟨v, hv, hf⟩
  | cons n rest ih =>
    obtain ⟨u, hu, -⟩ := State.ensurePhys_wave? n hv
    exact ih hu ((s.ensurePhys_flagsAt r n _).trans hf)

/-- MOVL on lanes that can be read: the register chosen is handed on (04 R138). -/
theorem movl_ready {w : WWord} {s : State} {c : WaveCtx} {f : WaveForm} (h : s.ready? 0x22 w = some (c, f))
    (hreads : c.reads (if isWide w.t then [movlReg w (uniform (c.operands s f w).2.1), movlReg w (uniform (c.operands s f w).2.1) + 1]
      else [movlReg w (uniform (c.operands s f w).2.1)]) (lanesOf c.act) = true) :
    ∃ t v, exec (.wMovl w) s = .next t ∧ t.wave? c.r = some v
      ∧ (∀ l, l < 32 → c.act.getLsbD l = true → v.laneValue (isWide w.t) w.d.toNat l =
          imageOf w.t (at_ (c.wv.typedLanes (opWidth w) (movlReg w (uniform (c.operands s f w).2.1))) l)
          ∧ v.poisonedLane w.d.toNat l = false)
      ∧ (t.wg? (wgOf c.r)).map (·.flags) = some c.wg.flags := by
  rw [WaveCtx.operands, WaveCtx.sources_countIssue] at *
  obtain ⟨hpoison, hpending⟩ := WaveCtx.reads_spec hreads
  rw [maskOf_lanesOf] at hpending
  have hctx := (State.ready?_spec h).1
  obtain ⟨⟨u, hu, -⟩, hflags⟩ := State.ready?_consumed h
  simp only [exec, execWMovl, rawWord_ready h, State.spoilRegs_of_untouched hpending, WaveCtx.now_of_waveCtx? hctx,
    WaveCtx.poisonIn_of_poisonAt hpoison, Bool.false_eq_true, if_false, WaveCtx.read_v _ _ _ (movlReg_lt _ _)]
  obtain ⟨x, hx, hxf⟩ := State.foldl_ensurePhys _ hu hflags
  obtain ⟨v, hv, hlanes, hfl⟩ := State.writeTyped_nextWord hx hxf w.t w.d.toNat c.act _ (wordLen w)
  exact ⟨_, v, rfl, hv, hlanes, hfl⟩

/-! ## SHUF and BCAST (04 R141, R142) -/

/-- A move of lanes that can be read: each active lane receives the lane of a that its source names. -/
theorem laneMove_ready {op : Nat} {w : WWord} {s : State} {c : WaveCtx} {f : WaveForm} (h : s.ready? op w = some (c, f))
    (src : WaveCtx → List Nat → Nat → Nat)
    (hreads : c.reads (operandRegs f.a w.a) ((lanesOf c.act).map (src c (c.operands s f w).2.1)) = true) :
    ∃ t v, laneMove op w s src = .next t ∧ t.wave? c.r = some v
      ∧ (∀ l, l < 32 → c.act.getLsbD l = true → v.laneValue (isWide w.t) w.d.toNat l =
          imageOf w.t (at_ (c.operands s f w).1 (src c (c.operands s f w).2.1 l)) ∧ v.poisonedLane w.d.toNat l = false)
      ∧ (t.wg? (wgOf c.r)).map (·.flags) = some c.wg.flags := by
  rw [WaveCtx.operands, WaveCtx.sources_countIssue] at *
  obtain ⟨hpoison, hpending⟩ := WaveCtx.reads_spec hreads
  have hctx := (State.ready?_spec h).1
  obtain ⟨⟨u, hu, -⟩, hflags⟩ := State.ready?_consumed h
  simp only [laneMove, rawWord_ready h, State.spoilRegs_of_untouched hpending, WaveCtx.now_of_waveCtx? hctx, hpoison,
    Bool.false_eq_true, if_false]
  obtain ⟨v, hv, hlanes, hfl⟩ := State.writeTyped_nextWord hu hflags w.t w.d.toNat c.act
    ((List.range 32).map (fun i => at_ (c.sources s f w).1 (src c (c.sources s f w).2.1 i))) (wordLen w)
  refine ⟨_, v, rfl, hv, fun l hl hm => ?_, hfl⟩
  simpa [at_, hl] using hlanes l hl hm

/-- Settles O4: what MOVL reads is a register chosen at run time, and SHUF and BCAST are moves of lanes; where no word in flight
owes what they read, nothing is spoiled before they do. -/
theorem laneWordResults : Obligations.LaneWordResults := by
  intro row hrow w s c f h hok
  simp only [laneRows, List.mem_cons, List.not_mem_nil, or_false] at hrow
  rcases hrow with rfl | rfl | rfl
  · obtain ⟨t, v, ht, hv, hl, hf⟩ := movl_ready h hok
    exact ⟨t, v, ht, hv, hl, by simpa using hf⟩
  · obtain ⟨t, v, ht, hv, hl, hf⟩ := laneMove_ready h (fun _ ys i => shufLane w.m.toNat i (at_ ys i)) hok
    exact ⟨t, v, ht, hv, hl, by simpa using hf⟩
  · obtain ⟨t, v, ht, hv, hl, hf⟩ :=
      laneMove_ready h (fun c ys _ => if w.m = 0 then uniform ys % 32 else (lowLane c.act).getD 0) hok
    exact ⟨t, v, ht, hv, hl, by simpa using hf⟩

end Sys2Proof.Machine
end

section
/-! Long-latency words (03 R97, R99): what their issue leaves of their wave, and what the completion of one writes. -/

namespace Sys2Proof.Machine

open Sys2Proof

theorem State.bindable?_spec {s : State} {c : WaveCtx} {k : Nat} (h : s.bindable? c = some k) :
    s.boundFlag c = some k ∧ ¬255 ≤ (c.wv.flags[k]?).getD 0 := by
  unfold State.bindable? at h
  split at h
  · next n hn =>
    split at h
    · cases h
    · next hlt => cases h; exact ⟨hn, hlt⟩
  · cases h

/-- A ready long-latency word with a flag to bind runs its body on that flag. -/
theorem longWord_ready {op : Nat} {w : WWord} {s : State} {c : WaveCtx} {f : WaveForm} {k : Nat}
    (h : s.ready? op w = some (c, f)) (hk : s.bindable? c = some k) (body : Nat → WaveForm → WaveCtx → State → State) :
    longWord op w s body = .next (body k f c s) := by
  obtain ⟨hflag, hroom⟩ := State.bindable?_spec hk
  simp [longWord, (State.ready?_spec h).1, hflag, hroom, rawWord_ready h]

/-- The group's way past a word depends on the wave's group and lanes alone. -/
theorem Wave.pass_congr {u v : Wave} (hg : u.group = v.group) (hl : u.lanes = v.lanes) (n : Nat) :
    (u.pass n).lanes = (v.pass n).lanes ∧ (u.pass n).group = (v.pass n).group := by
  unfold Wave.pass
  rw [hg, hl]
  split
  · exact ⟨hl, hg⟩
  · split <;> exact ⟨by simp, by simp⟩

theorem Wave.pass_pending (v : Wave) (n : Nat) :
    (v.pass n).pending = v.pending ∧ (v.pass n).flags = v.flags ∧ (v.pass n).issued = v.issued := by
  unfold Wave.pass
  split
  · exact ⟨rfl, rfl, rfl⟩
  · split <;> exact ⟨rfl, rfl, rfl⟩

/-- What waves share that differ in their vector registers and streams alone. -/
theorem Wave.bare_parts {u v : Wave} (h : u.bare = v.bare) :
    u.pending = v.pending ∧ u.flags = v.flags ∧ u.sregs = v.sregs ∧ u.preds = v.preds ∧ u.lanes = v.lanes ∧ u.group = v.group
      ∧ u.issued = v.issued := by
  unfold Wave.bare at h
  simp_all

theorem State.bindPending_onlyWave (s : State) (c : WaveCtx) (p : Pending) : s.OnlyWave (s.bindPending c p) c.r := by
  unfold State.bindPending
  split
  · exact .refl s c.r
  · exact s.updWave_onlyWave c.r _

theorem State.bindPending_flagsAt (s : State) (c : WaveCtx) (p : Pending) (q : WgRef) :
    (s.bindPending c p).flagsAt q = s.flagsAt q := by
  unfold State.bindPending
  split
  · rfl
  · exact s.updWave_flagsAt c.r _ q

theorem State.bindPending_wave? {s : State} {c : WaveCtx} {v : Wave} (p : Pending) (h : s.wave? c.r = some v) :
    (s.bindPending c p).wave? c.r = some (if c.act = 0 then v else
      { v with flags := modAt v.flags p.flag (· + 1), pending := v.pending ++ [p] }) := by
  unfold State.bindPending
  split
  · exact h
  · rw [State.updWave_wave?, if_pos rfl, h]; rfl

/-- The state a long-latency word leaves that read its operands, bound its pending word and went on. -/
def State.issueLong (s : State) (c : WaveCtx) (f : WaveForm) (w : WWord) (p : Pending) : State :=
  (((s.consume c f w).countIssue c.r).bindPending c p).nextWord c.r (wordLen w)

theorem State.issueLong_onlyWave (s : State) (c : WaveCtx) (f : WaveForm) (w : WWord) (p : Pending) :
    s.OnlyWave (s.issueLong c f w p) c.r :=
  (s.consume_onlyWave c f w).trans ((State.countIssue_onlyWave _ _).trans
    ((State.bindPending_onlyWave _ c p).trans (State.nextWord_onlyWave _ _ _)))

theorem State.issueLong_flagsAt (s : State) (c : WaveCtx) (f : WaveForm) (w : WWord) (p : Pending) (q : WgRef) :
    (s.issueLong c f w p).flagsAt q = s.flagsAt q := by
  unfold State.issueLong State.nextWord
  rw [State.updWave_flagsAt, State.bindPending_flagsAt, State.countIssue_flagsAt, State.consume_flagsAt]

/-- What issuing a long-latency word leaves of its wave: its flag counts one word more and it joins the words in flight, where
a lane is active; no register is written but by last uses (03 R97, R99). -/
theorem State.issueLong_wave? {s : State} {c : WaveCtx} (f : WaveForm) (w : WWord) (p : Pending) (h : s.wave? c.r = some c.wv) :
    ∃ v, (s.issueLong c f w p).wave? c.r = some v
      ∧ v.pending = (if c.act = 0 then c.wv.pending else c.wv.pending ++ [p])
      ∧ v.flags = (if c.act = 0 then c.wv.flags else modAt c.wv.flags p.flag (· + 1))
      ∧ (∀ m, m ∉ c.lastUses f w → v.vreg m = c.wv.vreg m) ∧ v.sregs = c.wv.sregs ∧ v.preds = c.wv.preds
      ∧ v.lanes = (c.wv.pass (wordLen w)).lanes ∧ v.group = (c.wv.pass (wordLen w)).group := by
  obtain ⟨u, hu, hbare, -, hvreg, -, -⟩ := State.consume_wave? f w h
  obtain ⟨hpending, hflags, hsregs, hpreds, hlanes, hgroup, -⟩ := Wave.bare_parts hbare
  have hbound := State.bindPending_wave? p (State.countIssue_wave? hu)
  refine ⟨_, State.nextWord_wave? (wordLen w) hbound, ?_⟩
  obtain ⟨hv, -, -, hs, hp, -⟩ := Wave.pass_parts (if c.act = 0 then { u with issued := u.issued + 1 } else
    { u with issued := u.issued + 1, flags := modAt u.flags p.flag (· + 1), pending := u.pending ++ [p] }) (wordLen w)
  obtain ⟨hpend, hfl, -⟩ := Wave.pass_pending (if c.act = 0 then { u with issued := u.issued + 1 } else
    { u with issued := u.issued + 1, flags := modAt u.flags p.flag (· + 1), pending := u.pending ++ [p] }) (wordLen w)
  refine ⟨hpend.trans ?_, hfl.trans ?_, fun m hm => ?_, hs.trans ?_, hp.trans ?_, ?_, ?_⟩
  · split <;> simp [hpending]
  · split <;> simp [hflags]
  · rw [← hvreg m hm, Wave.vreg, hv]; split <;> rfl
  · split <;> exact hsregs
  · split <;> exact hpreds
  · exact (Wave.pass_congr (by split <;> exact hgroup) (by split <;> exact hlanes) _).1
  · exact (Wave.pass_congr (by split <;> exact hgroup) (by split <;> exact hlanes) _).2

/-- Each of the long-latency words issues its pending word. -/
theorem longRow_exec {row : LongRow} (hrow : row ∈ longRows) {w : WWord} {s : State} {c : WaveCtx} {f : WaveForm} {k : Nat}
    (h : s.ready? row.op w = some (c, f)) (hk : s.bindable? c = some k) :
    let x := c.sources s f w
    exec (row.instr w) s = .next (s.issueLong c f w
      (resultPending c k (row.ty w) w.d.toNat (row.vals c x w) (row.flags c x w))) := by
  simp only [longRows, List.mem_cons, List.not_mem_nil, or_false] at hrow
  rcases hrow with rfl | rfl | rfl | rfl | rfl | rfl | rfl | rfl | rfl <;> exact longWord_ready h hk _

/-- Settles O10: the word reads its operands in the state it finds, and the pending word it binds holds their result. -/
theorem longWordIssue : Obligations.LongWordIssue := by
  intro row hrow w s c f k h hk
  obtain ⟨v, hv, hpending, hflags, hvreg, hsregs, hpreds, hlanes, hgroup⟩ :=
    State.issueLong_wave? f w (resultPending c k (row.ty w) w.d.toNat (row.vals c (c.sources s f w) w)
      (row.flags c (c.sources s f w) w)) (State.ready?_wave h)
  refine ⟨_, v, longRow_exec hrow h hk, hv, s.issueLong_onlyWave c f w _, hpending, hflags, hvreg, hsregs, hpreds, hlanes, hgroup, ?_⟩
  rw [← State.flagsAt, State.issueLong_flagsAt, State.flagsAt, (State.waveCtx?_spec (State.ready?_spec h).1).2.1]
  rfl

/-! ## Completion -/

/-- Writes the same lanes of several registers. -/
def State.writeRegs (s : State) (r : WaveRef) (mask : Lanes) (l : List (Nat × List W32)) : State :=
  l.foldl (fun s x => s.writeVec r x.1 mask x.2) s

theorem State.writeRegs_onlyWave (s : State) (r : WaveRef) (mask : Lanes) (l : List (Nat × List W32)) :
    s.OnlyWave (s.writeRegs r mask l) r :=
  State.foldl_onlyWave l _ r (fun s x => s.writeVec_onlyWave r x.1 mask x.2) s

theorem State.writeRegs_flagsAt (s : State) (r : WaveRef) (mask : Lanes) (l : List (Nat × List W32)) (q : WgRef) :
    (s.writeRegs r mask l).flagsAt q = s.flagsAt q := by
  induction l generalizing s with
  | nil => rfl
  | cons x rest ih => exact (ih _).trans (s.writeVec_flagsAt r x.1 mask x.2 q)

/-- Registers written once each hold what was written; the others are as they were. -/
theorem State.writeRegs_wave? {r : WaveRef} (mask : Lanes) (l : List (Nat × List W32)) (hnd : (l.map (·.1)).Nodup) {s : State}
    {v : Wave} (h : s.wave? r = some v) : ∃ u, (s.writeRegs r mask l).wave? r = some u ∧ u.bare = v.bare
      ∧ (∀ x ∈ l, ∀ i, i < 32 → ((u.vreg x.1)[i]?).getD 0 =
          if mask.getLsbD i then (x.2[i]?).getD 0 else ((v.vreg x.1)[i]?).getD 0)
      ∧ ∀ n, n ∉ l.map (·.1) → u.vreg n = v.vreg n := by
  induction l generalizing s v with
  | nil => exact ⟨v, h, rfl, fun _ hx => absurd hx List.not_mem_nil, fun _ _ => rfl⟩
  | cons y rest ih =>
    rw [List.map_cons, List.nodup_cons] at hnd
    obtain ⟨hy, hrest⟩ := hnd
    obtain ⟨z, hz, hwrote⟩ := State.writeVec_wave? y.1 mask y.2 h
    obtain ⟨u, hu, hbare, hlanes, hother⟩ := ih hrest hz
    refine ⟨u, hu, hbare.trans hwrote.bare, fun x hx i hi => ?_, fun n hn => ?_⟩
    · rcases List.mem_cons.mp hx with rfl | hmem
      · rw [hother _ hy, hwrote.lane i hi]
      · have hne : x.1 ≠ y.1 := fun e => hy (e ▸ List.mem_map_of_mem hmem)
        rw [hlanes x hmem i hi, hwrote.other _ hne]
    · rw [List.map_cons, List.mem_cons, not_or] at hn
      rw [hother n hn.2, hwrote.other n hn.1]

theorem Wave.complete_of_pending {v : Wave} {k : Nat} {p : Pending} (h : v.pending[k]? = some p) :
    v.complete k = { v with pending := v.pending.eraseIdx k, flags := modAt v.flags p.flag (· - 1) } := by
  simp [Wave.complete, h]

/-- A pending word that no other word has touched writes its registers and ends. -/
theorem State.finishPending_of_unspoiled (s : State) (r : WaveRef) (k : Nat) {p : Pending} (hp : p.spoiled = false)
    (vals : List (List W32)) : s.finishPending r k p vals =
      ((s.writeRegs r p.mask (p.regs.zip vals)).raise (wgOf r) p.sticky).updWave r (fun w => w.complete k) := by
  simp [State.finishPending, State.writeRegs, hp]

/-- Settles O11: the registers, each named once, are written in turn, and the word leaves the words in flight and its flag. -/
theorem longWordCompletion : Obligations.LongWordCompletion := by
  intro s r k g v p vals hg hv hp hkind hspoiled hnd hlen
  have hfst : (p.regs.zip vals).map (·.1) = p.regs := List.map_fst_zip (le_of_eq hlen)
  obtain ⟨u, hu, hbare, hlanes, hother⟩ := State.writeRegs_wave? p.mask (p.regs.zip vals) (by rwa [hfst]) hv
  obtain ⟨hpending, hflags, hsregs, hpreds, hul, hug, -⟩ := Wave.bare_parts hbare
  have hend : u.complete k = { u with pending := u.pending.eraseIdx k, flags := modAt u.flags p.flag (· - 1) } :=
    Wave.complete_of_pending (hpending ▸ hp)
  have hexec : exec (.evLongLatencyCompletion r k) s = .next
      (((s.writeRegs r p.mask (p.regs.zip vals)).raise (wgOf r) p.sticky).updWave r (fun w => w.complete k)) := by
    rw [← State.finishPending_of_unspoiled s r k hspoiled vals]
    simp [exec, execEvLongLatencyCompletion, hg, hv, hp, hkind]
  refine ⟨_, u.complete k, hexec, ?_, ?_, fun i n x hn hx l hl => ?_, fun n hn => ?_, ?_, ?_, ?_, ?_, ?_, ?_, ?_⟩
  · rw [State.updWave_wave?, if_pos rfl, State.raise_wave?, hu]; rfl
  · exact (s.writeRegs_onlyWave r _ _).trans ((State.raise_onlyWave _ r _).trans (State.updWave_onlyWave _ r _))
  · have hmem : (n, x) ∈ p.regs.zip vals :=
      List.mem_of_getElem? (i := i) (by rw [List.getElem?_zip_eq_some]; exact ⟨hn, hx⟩)
    rw [hend]; exact hlanes _ hmem l hl
  · rw [hend]; exact hother n (by rwa [hfst])
  · rw [hend, hpending]
  · rw [hend, hflags]
  · rw [hend]; exact hsregs
  · rw [hend]; exact hpreds
  · rw [hend]; exact hul
  · rw [hend]; exact hug
  · rw [← State.flagsAt, State.updWave_flagsAt, State.raise_flagsAt, State.writeRegs_flagsAt, State.flagsAt, hg]; rfl

end Sys2Proof.Machine
end

section
/-! Control words (03 R95; 04 R149-R155) and the traps of wave words (04 R150; 06 R186, R191, R212; 16 R397). -/

namespace Sys2Proof.Machine

open Sys2Proof

/-! ## What keeps a wave -/

theorem State.withdrawDemands_wave? (s : State) (r : WgRef) (q : WaveRef) : (s.withdrawDemands r).wave? q = s.wave? q := by
  unfold State.withdrawDemands
  split
  · rfl
  · exact State.updWg_wave? _ _ _ _ (fun _ => rfl)

theorem Workgroup.toSave_waves (g : Workgroup) (fck : Nat) (t : TrapRecord) (stop : Bool) (park : Option Park) :
    (g.toSave fck t stop park).waves = g.waves := by
  unfold Workgroup.toSave
  split
  · rfl
  · split <;> rfl
  · rfl

/-- The beginning of a save leaves every wave where it stands. -/
theorem State.beginSave_wave? (s : State) (r : WgRef) (t : TrapRecord) (stop : Bool) (park : Option Park) (q : WaveRef) :
    (s.beginSave r t stop park).wave? q = s.wave? q :=
  (State.withdrawDemands_wave? _ _ _).trans (State.updWg_wave? _ _ _ _ (fun g => g.toSave_waves _ _ _ _))

/-- An arrival at GBAR leaves every wave where it stands. -/
theorem State.gbarArrive_wave? (s : State) (r : WgRef) (q : WaveRef) : (s.gbarArrive r).wave? q = s.wave? q := by
  have harrived : ((s.updWg r (fun g => { g with gbar := true })).noteShedPoint r.core).wave? q = s.wave? q :=
    (State.noteShedPoint_wave? _ _ _).trans (State.updWg_wave? _ _ _ _ (fun _ => rfl))
  unfold State.gbarArrive
  split
  · rfl
  · split
    · rfl
    · dsimp only
      split
      · exact (State.beginSave_wave? _ _ _ _ _ _).trans harrived
      · exact harrived

/-! ## Lanes that leave their clause -/

/-- The lanes of a group leave their clause: each stands at its target, changed as it says, and the others stay. -/
theorem Wave.leave_lanes {v : Wave} {g : Group} (hg : v.group = some g) (target : Nat → W64) (f : Nat → Lane → Lane) :
    (v.leave target f).group = none ∧ ∀ (n : Nat) (l : Lane), v.lanes[n]? = some l → (v.leave target f).lanes[n]? =
      some (if g.lanes.getLsbD n then { (f n l) with pc := target n, ix := 0 } else l) := by
  simp only [Wave.leave, hg]
  refine ⟨trivial, fun n l hl => ?_⟩
  simp [hl]

/-- A ready control word that stands last runs its body. -/
theorem lastWord_ready {op : Nat} {w : WWord} {s : State} {c : WaveCtx} {f : WaveForm} (h : s.ready? op w = some (c, f))
    (hlast : c.isLast w = true) (body : WaveForm → WaveCtx → State → State) : lastWord op w s body = .next (body f c s) := by
  rw [lastWord, rawWord_ready h, if_pos hlast]

/-- The state of a control word that has read its operands and moved its lanes. -/
def State.moveLanes (s : State) (c : WaveCtx) (f : WaveForm) (w : WWord) (target : Nat → W64) (g : Nat → Lane → Lane) : State :=
  ((s.consume c f w).countIssue c.r).updWave c.r (fun v => v.leave target g)

theorem State.moveLanes_wave? {s : State} {c : WaveCtx} (f : WaveForm) (w : WWord) (hv : s.wave? c.r = some c.wv)
    (hg : c.wv.group = some c.g) (target : Nat → W64) (g : Nat → Lane → Lane) :
    ∃ v, (s.moveLanes c f w target g).wave? c.r = some v ∧ v.group = none
      ∧ ∀ n l, c.wv.lanes[n]? = some l → v.lanes[n]? =
          some (if c.g.lanes.getLsbD n then { (g n l) with pc := target n, ix := 0 } else l) := by
  obtain ⟨u, hu, hbare, -⟩ := State.consume_wave? f w hv
  obtain ⟨-, -, -, -, hlanes, hgroup, -⟩ := Wave.bare_parts hbare
  obtain ⟨hnone, hmoved⟩ := Wave.leave_lanes (v := { u with issued := u.issued + 1 }) (hgroup.trans hg) target g
  refine ⟨_, ?_, hnone, fun n l hl => hmoved n l (hlanes ▸ hl)⟩
  rw [State.moveLanes, State.updWave_wave?, if_pos rfl, State.countIssue_wave? hu]
  rfl

/-- What a control word says of its group: an active lane goes to its target, changed by `g`, every other lane of the group to
the next clause, and no other lane moves. -/
def WaveCtx.Moved (c : WaveCtx) (v : Wave) (target : Nat → Nat) (g : Lane → Lane) : Prop :=
  v.group = none ∧ ∀ n l, c.wv.lanes[n]? = some l → v.lanes[n]? =
    some (if c.g.lanes.getLsbD n then
      { (if c.act.getLsbD n then g l else l) with pc := c.target target n, ix := 0 } else l)

theorem State.moveLanes_moved {op : Nat} {w : WWord} {s : State} {c : WaveCtx} {f : WaveForm} (h : s.ready? op w = some (c, f))
    (target : Nat → Nat) (g : Lane → Lane) :
    ∃ v, (s.moveLanes c f w (c.target target) (fun n l => if c.act.getLsbD n then g l else l)).wave? c.r = some v
      ∧ c.Moved v target g :=
  State.moveLanes_wave? f w (State.ready?_wave h) (State.waveCtx?_spec (State.ready?_spec h).1).2.2.2.1 _ _

/-- The check of U passes where the targets agree. -/
theorem WaveCtx.targets_agree {w : WWord} {c : WaveCtx} {t : Nat → W64} (hu : w.u = true → c.uniformTarget t = true) :
    (w.u && !c.uniformTarget t) = false := by
  cases hwu : w.u
  · rfl
  · rw [hu hwu]; rfl

/-- A jump whose targets agree where U asks it (04 R149, R150). -/
theorem jumpWord_ready {op : Nat} {w : WWord} {s : State} {c : WaveCtx} {f : WaveForm} (h : s.ready? op w = some (c, f))
    (hlast : c.isLast w = true) {relative : Bool} {target : Nat → Nat}
    (htarget : ∀ i, (if relative = true then relTarget c (c.sources s f w).1 i else at_ (c.sources s f w).1 i) = target i)
    (hu : w.u = true → c.uniformTarget (c.target target) = true) :
    jumpWord op w s relative = .next (s.moveLanes c f w (c.target target) (fun n l => if c.act.getLsbD n then id l else l)) := by
  simp only [jumpWord, lastWord_ready h hlast, funext htarget, WaveCtx.targets_agree hu, Bool.false_eq_true, if_false, id_eq, ite_self]
  rfl

/-- A call from a depth at which the stack stays on chip (04 R151). -/
theorem callWord_ready {op : Nat} {w : WWord} {s : State} {c : WaveCtx} {f : WaveForm} (h : s.ready? op w = some (c, f))
    (hlast : c.isLast w = true) (hdepth : c.depth < 4) {relative : Bool} {target : Nat → Nat}
    (htarget : ∀ i, (if relative = true then relTarget c (c.sources s f w).1 i else at_ (c.sources s f w).1 i) = target i)
    (hu : w.u = true → c.uniformTarget (c.target target) = true) :
    callWord op w s relative = .next (s.moveLanes c f w (c.target target)
      (fun n l => if c.act.getLsbD n then l.push c.g.nextClause else l)) := by
  simp only [callWord, lastWord_ready h hlast, funext htarget, WaveCtx.targets_agree hu, hdepth, Bool.false_eq_true, if_false, or_true, if_true]
  rfl

/-- A return to a depth at which the stack stays on chip (04 R152). -/
theorem ret_ready {w : WWord} {s : State} {c : WaveCtx} {f : WaveForm} (h : s.ready? 0x34 w = some (c, f))
    (hlast : c.isLast w = true) (hpos : 0 < c.depth) (hdepth : c.depth ≤ 4) {target : Nat → Nat}
    (htarget : ∀ i, (((c.wv.lanes[i]?).bind (·.stack.head?)).getD 0).toNat = target i)
    (hu : w.u = true → c.uniformTarget (c.target target) = true) :
    execWRet w s = .next (s.moveLanes c f w (c.target target) (fun n l => if c.act.getLsbD n then l.pop none else l)) := by
  have hchip : c.depth - 1 < 4 := by omega
  simp only [execWRet, lastWord_ready h hlast, funext htarget, WaveCtx.targets_agree hu, Nat.ne_of_gt hpos, hchip, Bool.false_eq_true, if_false, if_true, ite_self]
  rfl

/-- EXIT's lanes, after the arrival at GBAR that they may be (04 R155; 06 R211). -/
theorem exit_ready {w : WWord} {s : State} {c : WaveCtx} {f : WaveForm} (h : s.ready? 0x35 w = some (c, f))
    (hlast : c.isLast w = true) : ∃ t v, exec (.wExit w) s = .next t ∧ t.wave? c.r = some v ∧ v.group = none
      ∧ ∀ n l, c.wv.lanes[n]? = some l → v.lanes[n]? = some (if c.g.lanes.getLsbD n then
          { (if c.act.getLsbD n then { l with state := .exited } else l) with pc := c.g.nextClause, ix := 0 } else l) := by
  obtain ⟨-, -, -, hgroup, -⟩ := State.waveCtx?_spec (State.ready?_spec h).1
  obtain ⟨hnone, hlanes⟩ := Wave.leave_lanes (v := { c.wv with issued := c.wv.issued + 1 }) hgroup (fun _ => c.g.nextClause)
    (fun i l => if c.act.getLsbD i then { l with state := .exited } else l)
  refine ⟨_, _, by simp only [exec, execWExit, lastWord_ready h hlast]; rfl, ?_, hnone, hlanes⟩
  rw [State.gbarArrive_wave?, State.updWave_wave?, if_pos rfl, State.countIssue_wave? (State.ready?_wave h)]
  rfl

/-- Settles O12: every one of the words moves its lanes out of the clause, to targets that differ from word to word. -/
theorem controlWordsMoveLanes : Obligations.ControlWordsMoveLanes := by
  intro w s c f hlast
  have moved : ∀ {op : Nat} {i : Instr} {target : Nat → Nat} {g : Lane → Lane}, s.ready? op w = some (c, f) →
      exec i s = .next (s.moveLanes c f w (c.target target) (fun n l => if c.act.getLsbD n then g l else l)) →
      ∃ t v, exec i s = .next t ∧ t.wave? c.r = some v ∧ c.Moved v target g := by
    intro op i target g h hexec
    obtain ⟨v, hv, hm⟩ := State.moveLanes_moved h target g
    exact ⟨_, v, hexec, hv, hm⟩
  refine ⟨fun h hu => moved h ?_, fun h hu => moved h ?_, fun h hd hu => moved h ?_, fun h hd hu => moved h ?_,
    fun h hpos hd hu => moved h ?_, fun h => exit_ready h hlast⟩
  · exact jumpWord_ready h hlast (fun _ => rfl) hu
  · exact jumpWord_ready h hlast (fun _ => rfl) hu
  · exact callWord_ready h hlast hd (fun _ => rfl) hu
  · exact callWord_ready h hlast hd (fun _ => rfl) hu
  · exact ret_ready h hlast hpos hd (fun _ => rfl) hu

/-! ## Control words that trap (03 R95; 04 R150) -/

theorem lastWord_misplaced {op : Nat} {w : WWord} {s : State} {c : WaveCtx} {f : WaveForm} (h : s.ready? op w = some (c, f))
    (hlast : c.isLast w = false) (body : WaveForm → WaveCtx → State → State) :
    lastWord op w s body = .next (s.trapHere c .illegalWord) := by
  rw [lastWord, rawWord_ready h, if_neg (by simp [hlast])]

theorem jumpWord_split {op : Nat} {w : WWord} {s : State} {c : WaveCtx} {f : WaveForm} (h : s.ready? op w = some (c, f))
    (hlast : c.isLast w = true) (hu : w.u = true) (relative : Bool)
    (hsplit : c.uniformTarget (c.target (fun i => if relative = true then relTarget c (c.sources s f w).1 i
      else at_ (c.sources s f w).1 i)) = false) : jumpWord op w s relative = .next (s.trapHere c .uniformity) := by
  simp only [jumpWord, lastWord_ready h hlast, hu, hsplit, Bool.not_false, Bool.and_self, if_true]

theorem callWord_split {op : Nat} {w : WWord} {s : State} {c : WaveCtx} {f : WaveForm} (h : s.ready? op w = some (c, f))
    (hlast : c.isLast w = true) (hu : w.u = true) (relative : Bool)
    (hsplit : c.uniformTarget (c.target (fun i => if relative = true then relTarget c (c.sources s f w).1 i
      else at_ (c.sources s f w).1 i)) = false) : callWord op w s relative = .next (s.trapHere c .uniformity) := by
  simp only [callWord, lastWord_ready h hlast, hu, hsplit, Bool.not_false, Bool.and_self, if_true]

theorem ret_split {w : WWord} {s : State} {c : WaveCtx} {f : WaveForm} (h : s.ready? 0x34 w = some (c, f))
    (hlast : c.isLast w = true) (hu : w.u = true)
    (hsplit : c.uniformTarget (c.target (fun n => (((c.wv.lanes[n]?).bind (·.stack.head?)).getD 0).toNat)) = false) :
    execWRet w s = .next (s.trapHere c .uniformity) := by
  simp only [execWRet, lastWord_ready h hlast, hu, hsplit, Bool.not_false, Bool.and_self, if_true]

/-! ## Lanes that the translation or their alignment refuses (06 R186; 16 R397) -/

theorem Xlat.worse_protection (x : Xlat) : x.worse .protection = .protection ∧ Xlat.worse .protection x = .protection := by
  cases x <;> exact ⟨rfl, rfl⟩

/-- PROTECTION of one lane is what all lanes come to. -/
theorem foldl_worse_of_protection {l : List (LaneAcc × Xlat)} (h : ∃ p ∈ l, p.2 = .protection) (x : Xlat) :
    l.foldl (fun (w : Xlat) p => w.worse p.2) x = .protection := by
  have stays : ∀ l : List (LaneAcc × Xlat), l.foldl (fun (w : Xlat) p => w.worse p.2) .protection = .protection := fun l => by
    induction l with
    | nil => rfl
    | cons y rest ih => rw [List.foldl_cons, (Xlat.worse_protection y.2).2, ih]
  induction l generalizing x with
  | nil => obtain ⟨p, hp, -⟩ := h; cases hp
  | cons y rest ih =>
    rw [List.foldl_cons]
    by_cases hy : y.2 = .protection
    · rw [hy, (Xlat.worse_protection x).1, stays]
    · obtain ⟨p, hp, hprot⟩ := h
      refine ih ⟨p, (List.mem_cons.mp hp).resolve_left (fun e => hy (e ▸ hprot)), hprot⟩ _

/-- Where PROTECTION is the worst of the results, the lanes that gave it raise it. -/
theorem State.judgeLanes_protection (s : State) (g : Workgroup) (acc : AccKind) (size : Nat) {l : List (LaneAcc × Xlat)}
    (h : ∃ p ∈ l, p.2 = .protection) : s.judgeLanes g acc size l =
      laneFault .protection (accBits acc) size ((l.filter (fun p => p.2 == .protection)).map (·.1)) := by
  rw [State.judgeLanes, foldl_worse_of_protection h]
  simp [Xlat.kind]

/-- Lanes among which some are barred trap PROTECTION, and every barred lane is named. -/
theorem State.mapLanesBut_barred (s : State) (r : WaveRef) (g : Workgroup) (size : Nat) {acc : AccKind} {bad : LaneAcc → Bool}
    {l : List (Nat × Nat)} {barred : List (Nat × Nat)} (hsub : ∀ q ∈ barred, q ∈ l ∧ q.1 < 32)
    (hbad : ∀ q ∈ barred, ∀ d, bad ⟨q.1, q.2, d⟩ = true) (hne : barred ≠ []) :
    ∃ va mask needs, (s.mapLanesBut r g acc size bad l).1 = .fault .protection (accBits acc) va mask needs
      ∧ ∀ q ∈ barred, mask.getLsbD q.1 = true := by
  unfold State.mapLanesBut
  dsimp only
  generalize s.mapPages r.core g.ctx (lanePlaces size l) = m
  have hprot : ∀ q ∈ barred, ∃ a, a.lane = q.1 ∧ (a, Xlat.protection) ∈ m.2.lanesAt m.1 acc size bad l := by
    intro q hq
    refine ⟨⟨q.1, q.2, (m.2.accessAt m.1 q.2 size acc).2⟩, rfl, ?_⟩
    simp only [State.lanesAt, List.mem_map]
    exact ⟨q, (hsub q hq).1, by rw [if_pos (hbad q hq _)]⟩
  obtain ⟨q0, hq0⟩ := List.exists_mem_of_ne_nil barred hne
  obtain ⟨a0, -, ha0⟩ := hprot q0 hq0
  rw [State.judgeLanes_protection _ _ _ _ ⟨_, ha0, rfl⟩]
  refine ⟨_, _, _, rfl, fun q hq => ?_⟩
  obtain ⟨a, hlane, ha⟩ := hprot q hq
  rw [maskOf_getLsbD, Bool.and_eq_true]
  exact ⟨by simp [(hsub q hq).2], List.any_eq_true.mpr ⟨a, List.mem_map.mpr ⟨_, List.mem_filter.mpr ⟨ha, rfl⟩, rfl⟩, by simp [hlane]⟩⟩

theorem mem_accesses {c : WaveCtx} {f : Nat → Nat} {q : Nat × Nat} (h : q ∈ c.accesses f) : q.1 < 32 := by
  obtain ⟨i, hi, rfl⟩ := List.mem_map.mp h
  exact (mem_lanesOf.mp hi).1

/-- An atomic's misaligned lanes trap with those that the translation refuses. -/
theorem State.withAtomics_misaligned {s : State} {c : WaveCtx} {size : Nat} {toHost : Bool} {f : Nat → Nat} {p : Nat × Nat}
    {rest : List (Nat × Nat)} (h : misaligned size (c.accesses f) = p :: rest) :
    ∃ va mask needs,
      (s.mapLanesBut c.r c.wg .atomic size (badAtomic size toHost) (c.accesses f)).1
        = .fault .protection (accBits .atomic) va mask needs
      ∧ (∀ q ∈ p :: rest, mask.getLsbD q.1 = true)
      ∧ ∀ g, s.withAtomics c size toHost (c.accesses f) g
        = (s.mapLanesBut c.r c.wg .atomic size (badAtomic size toHost) (c.accesses f)).2.trapAccess c .protection
            (accBits .atomic) va mask needs := by
  have hmem : ∀ q ∈ p :: rest, q ∈ c.accesses f ∧ q.2 % size ≠ 0 := fun q hq => by
    rw [← h] at hq
    simpa [misaligned] using hq
  obtain ⟨va, mask, needs, hfault, hmask⟩ := s.mapLanesBut_barred c.r c.wg size (acc := .atomic) (bad := badAtomic size toHost)
    (barred := p :: rest) (fun q hq => ⟨(hmem q hq).1, mem_accesses (hmem q hq).1⟩)
    (fun q hq d => by simp [badAtomic, (hmem q hq).2]) (List.cons_ne_nil p rest)
  refine ⟨va, mask, needs, hfault, hmask, fun g => ?_⟩
  simp only [State.withAtomics, hfault]

theorem uniformWord_ready {op : Nat} {w : WWord} {s : State} {c : WaveCtx} {f : WaveForm} (h : s.ready? op w = some (c, f))
    (hact : c.act ≠ 0) (body : WaveForm → WaveCtx → Nat → Nat → State → State) :
    uniformWord op w s body = .next (body f c (uniform (c.sources s f w).1) (uniform (c.sources s f w).2.1) s) := by
  rw [uniformWord, rawWord_ready h, if_neg hact]

theorem timelineWord_misaligned {op : Nat} {w : WWord} {s : State} {c : WaveCtx} {f : WaveForm} (h : s.ready? op w = some (c, f))
    (hact : c.act ≠ 0) (hdone : c.wv.done = 0) (halign : uniform (c.sources s f w).1 % 8 ≠ 0) (add : Bool) :
    timelineWord op add w s = .next (s.trapLanes c .protection .atomic (uniform (c.sources s f w).1) c.act []) := by
  simp only [timelineWord, uniformWord_ready h hact, hdone, ne_eq, not_true_eq_false, if_false, halign, not_false_eq_true, if_true]
  rfl

theorem sts_beyond {w : WWord} {s : State} {c : WaveCtx} {f : WaveForm} (h : s.ready? 0xA3 w = some (c, f)) {p : Nat × Nat}
    {rest : List (Nat × Nat)} (hbad : s.badScratch c (accessBytes w) (c.accesses (at_ (c.sources s f w).1)) = p :: rest) :
    execWSts w s = .next (s.trapLanes c .protection .write p.2 (accMask (p :: rest)) []) := by
  simp only [execWSts, rawWord_ready h, hbad, State.protectLanes]

/-- Settles O13: a control word checks its place and then its targets; PROTECTION of one lane is the worst that all the lanes of
an atomic come to, so that the lanes that are misaligned trap with those that the translation refuses. -/
theorem waveWordTraps : Obligations.WaveWordTraps := by
  refine ⟨⟨fun op i hmem w s c f h hlast => ?_, fun op i hmem w s c f h hlast hu hsplit => ?_⟩, fun w s c f p rest => ?_⟩
  · simp only [List.mem_cons, Prod.mk.injEq, List.not_mem_nil, or_false] at hmem
    rcases hmem with ⟨rfl, rfl⟩ | ⟨rfl, rfl⟩ | ⟨rfl, rfl⟩ | ⟨rfl, rfl⟩ | ⟨rfl, rfl⟩ | ⟨rfl, rfl⟩ | ⟨rfl, rfl⟩ | ⟨rfl, rfl⟩ <;>
      exact lastWord_misplaced h hlast _
  · simp only [List.mem_cons, Prod.mk.injEq, List.not_mem_nil, or_false] at hmem
    rcases hmem with ⟨rfl, rfl⟩ | ⟨rfl, rfl⟩ | ⟨rfl, rfl⟩ | ⟨rfl, rfl⟩ | ⟨rfl, rfl⟩
    · exact jumpWord_split h hlast hu true hsplit
    · exact jumpWord_split h hlast hu false hsplit
    · exact callWord_split h hlast hu true hsplit
    · exact callWord_split h hlast hu false hsplit
    · exact ret_split h hlast hu hsplit
  · refine ⟨fun op i host hmem h hbind hbad => ?_, fun h hbad => sts_beyond h hbad,
      fun op i hmem h hact hdone halign => ?_⟩
    · obtain ⟨va, mask, needs, hfault, hmask, hwith⟩ := State.withAtomics_misaligned (s := s) (toHost := host) hbad
      refine ⟨va, mask, needs, hfault, hmask, ?_⟩
      simp only [List.mem_cons, Prod.mk.injEq, List.not_mem_nil, or_false] at hmem
      rcases hmem with ⟨rfl, rfl, rfl⟩ | ⟨rfl, rfl, rfl⟩ | ⟨rfl, rfl, rfl⟩
      · obtain ⟨k, hk⟩ := hbind (by decide)
        exact (longWord_ready h hk _).trans (congrArg Host.Outcome.next (hwith _))
      · obtain ⟨k, hk⟩ := hbind (by decide)
        exact (longWord_ready h hk _).trans (congrArg Host.Outcome.next (hwith _))
      · exact (rawWord_ready h _).trans (congrArg Host.Outcome.next (hwith _))
    · simp only [List.mem_cons, Prod.mk.injEq, List.not_mem_nil, or_false] at hmem
      rcases hmem with ⟨rfl, rfl⟩ | ⟨rfl, rfl⟩
      · exact timelineWord_misaligned h hact hdone halign true
      · exact timelineWord_misaligned h hact hdone halign false

end Sys2Proof.Machine
end

section
/-! Words that make lanes wait (03 R95; 04 R147, R158, R159; 06 R209, R211, R220): each issues once and its group goes on past it. -/

namespace Sys2Proof.Machine

open Sys2Proof

/-! ## Going on past a word that may hold lanes (04 R147) -/

/-- A wave that has issued a word which holds the lanes of a mask and is left behind: the lanes held wait at the word that
follows, the others go on there as one group. -/
def WaveCtx.PastWord (c : WaveCtx) (w : WWord) (mask : Lanes) (v : Wave) : Prop :=
  let rest := c.g.lanes &&& ~~~mask
  let inside : Prop := c.g.ix + wordLen w < c.g.words
  v.issued = c.wv.issued + 1
    ∧ (rest ≠ 0 → inside → v.group = some { c.g with lanes := rest, ix := c.g.ix + wordLen w })
    ∧ (rest = 0 ∧ mask ≠ 0 ∨ ¬inside → v.group = none)
    ∧ ∀ m l, c.wv.lanes[m]? = some l → m < 32 → ∃ u, v.lanes[m]? = some u ∧ u.stack = l.stack
        ∧ (mask.getLsbD m = true → ∃ y, u.state = .waiting y)
        ∧ (mask.getLsbD m = false → u.state = l.state)
        ∧ (mask.getLsbD m = true → inside → u.pc = c.g.pc ∧ u.ix = c.g.ix + wordLen w)
        ∧ (mask.getLsbD m = true ∨ rest ≠ 0 ∧ c.g.lanes.getLsbD m = true → ¬inside → u.pc = c.g.nextClause ∧ u.ix = 0)

/-- A wave in which a word finds its lanes: in their states, with their stacks, and the group where it stood. -/
def WaveCtx.Issuing (c : WaveCtx) (x : Wave) : Prop :=
  x.issued = c.wv.issued + 1 ∧ x.group = some c.g
    ∧ ∀ (m : Nat) (l : Lane), c.wv.lanes[m]? = some l → ∃ y : Lane, x.lanes[m]? = some y ∧ y.stack = l.stack ∧ y.state = l.state

theorem WaveCtx.Issuing.of_bare {c : WaveCtx} {x : Wave} (h : x.bare = ({ c.wv with issued := c.wv.issued + 1 } : Wave).bare)
    (hg : c.wv.group = some c.g) : c.Issuing x := by
  obtain ⟨-, -, -, -, hlanes, hgroup, hissued⟩ := Wave.bare_parts h
  exact ⟨hissued, hgroup.trans hg, fun m l hl => ⟨l, by rw [hlanes]; exact hl, rfl, rfl⟩⟩

theorem WaveCtx.Issuing.arrive {c : WaveCtx} {x : Wave} (h : c.Issuing x) (mask : Lanes) (n phase : Nat) :
    c.Issuing (x.arrive mask n phase) := by
  obtain ⟨hissued, hgroup, hlanes⟩ := h
  refine ⟨hissued, hgroup, fun m l hl => ?_⟩
  obtain ⟨y, hy, hstack, hstate⟩ := hlanes m l hl
  refine ⟨if mask.getLsbD m then { y with arrived := setAt y.arrived n (phase + 1) } else y, by simp [Wave.arrive, hy], ?_, ?_⟩
  · split <;> exact hstack
  · split <;> exact hstate

/-- The group's way past a word that holds no lane. -/
theorem WaveCtx.Issuing.pass {c : WaveCtx} {x : Wave} (h : c.Issuing x) (w : WWord) : c.PastWord w 0 (x.pass (wordLen w)) := by
  obtain ⟨hissued, hgroup, hlanes⟩ := h
  have hrest : c.g.lanes &&& ~~~(0 : Lanes) = c.g.lanes := BitVec.and_allOnes
  unfold WaveCtx.PastWord
  dsimp only
  simp only [Wave.pass, hgroup, hrest]
  by_cases hin : c.g.ix + wordLen w < c.g.words
  · simp only [if_pos hin]
    refine ⟨hissued, fun _ _ => trivial, fun h => absurd hin (h.resolve_left (fun h => h.2 rfl)), fun m l hl hm => ?_⟩
    obtain ⟨y, hy, hstack, hstate⟩ := hlanes m l hl
    exact ⟨y, hy, hstack, by simp, fun _ => hstate, by simp, fun _ hout => absurd hin hout⟩
  · simp only [if_neg hin]
    refine ⟨hissued, fun _ h => absurd h hin, fun _ => trivial, fun m l hl hm => ?_⟩
    obtain ⟨y, hy, hstack, hstate⟩ := hlanes m l hl
    refine ⟨if c.g.lanes.getLsbD m then { y with pc := c.g.nextClause, ix := 0 } else y, by simp [hy], ?_, by simp, fun _ => ?_,
      by simp, fun h _ => ?_⟩
    · split <;> exact hstack
    · split <;> exact hstate
    · have hlane : c.g.lanes.getLsbD m = true := by simpa using (h.resolve_left (by simp)).2
      rw [if_pos hlane]
      exact ⟨rfl, rfl⟩

/-- Where held lanes stand: at the word that follows, or at the next clause. -/
theorem Wave.hold_eq {x : Wave} {g : Group} (hg : x.group = some g) (len : Nat) (mask : Lanes) (wait : Nat → LaneWait) :
    let place : W64 × Nat := if g.ix + len < g.words then (g.pc, g.ix + len) else (g.nextClause, 0)
    let lanes := x.lanes.mapIdx (fun i l =>
      if mask.getLsbD i then { l with pc := place.1, ix := place.2, state := .waiting (wait i) } else l)
    x.hold len mask wait = if g.lanes &&& ~~~mask = 0 then { x with lanes := lanes, group := none, done := 0 }
      else { x with lanes := lanes, group := some { g with lanes := g.lanes &&& ~~~mask } }.pass len := by
  simp only [Wave.hold, hg]

/-- The lanes that a word holds, and the group's way past it. -/
theorem WaveCtx.Issuing.hold {c : WaveCtx} {x : Wave} (h : c.Issuing x) (w : WWord) (mask : Lanes) (wait : Nat → LaneWait) :
    c.PastWord w mask (x.hold (wordLen w) mask wait) := by
  obtain ⟨hissued, hgroup, hlanes⟩ := h
  have hwords : ∀ l : Lanes, ({ c.g with lanes := l } : Group).words = c.g.words := fun _ => rfl
  have hnext : ∀ l : Lanes, ({ c.g with lanes := l } : Group).nextClause = c.g.nextClause := fun _ => rfl
  unfold WaveCtx.PastWord
  rw [Wave.hold_eq hgroup]
  dsimp only
  by_cases hrest : c.g.lanes &&& ~~~mask = 0
  · rw [if_pos hrest]
    refine ⟨hissued, fun h => absurd hrest h, fun _ => rfl, fun m l hl hm => ?_⟩
    obtain ⟨y, hy, hstack, hstate⟩ := hlanes m l hl
    simp only [List.getElem?_mapIdx, hy, Option.map_some, Option.some.injEq, exists_eq_left']
    by_cases hin : c.g.ix + wordLen w < c.g.words <;> cases hmask : mask.getLsbD m <;> simp [hin, hstack, hstate, hrest]
  · rw [if_neg hrest]
    by_cases hin : c.g.ix + wordLen w < c.g.words
    · simp only [Wave.pass, hwords, if_pos hin]
      refine ⟨hissued, fun _ _ => trivial, fun h => by simp_all, fun m l hl hm => ?_⟩
      obtain ⟨y, hy, hstack, hstate⟩ := hlanes m l hl
      simp only [List.getElem?_mapIdx, hy, Option.map_some, Option.some.injEq, exists_eq_left']
      cases hmask : mask.getLsbD m <;> simp [hin, hstack, hstate]
    · simp only [Wave.pass, hwords, hnext, if_neg hin]
      refine ⟨hissued, fun _ h => absurd h hin, fun _ => trivial, fun m l hl hm => ?_⟩
      obtain ⟨y, hy, hstack, hstate⟩ := hlanes m l hl
      simp only [List.getElem?_mapIdx, hy, Option.map_some, Option.some.injEq, exists_eq_left', BitVec.getLsbD_and,
        BitVec.getLsbD_not, hm, decide_true, Bool.true_and]
      cases hmask : mask.getLsbD m <;> cases hlane : c.g.lanes.getLsbD m <;> simp [hin, hstack, hstate]

/-! ## The waiting words -/

/-- A state whose wave stands at a word it has issued, and what holding lanes there comes to. -/
theorem State.holdLanes_past {t : State} {c : WaveCtx} {x : Wave} (hx : t.wave? c.r = some x) (h : c.Issuing x) (w : WWord)
    (mask : Lanes) (wait : Nat → LaneWait) :
    ∃ v, (t.holdLanes c w mask wait).wave? c.r = some v ∧ c.PastWord w mask v :=
  ⟨_, by rw [State.holdLanes, State.updWave_wave?, if_pos rfl, hx]; rfl, h.hold w mask wait⟩

/-- The wave of a word that was counted and then read its operands. -/
theorem State.ready?_issuing {op : Nat} {w : WWord} {s : State} {c : WaveCtx} {f : WaveForm} (h : s.ready? op w = some (c, f)) :
    ∃ x, ((s.countIssue c.r).consume c f w).wave? c.r = some x ∧ c.Issuing x := by
  obtain ⟨⟨x, hx, hbare, -⟩, -⟩ := State.ready?_consumed h
  exact ⟨x, hx, .of_bare hbare (State.waveCtx?_spec (State.ready?_spec h).1).2.2.2.1⟩

/-- The wave of a word that read its operands and was then counted. -/
theorem State.issueWord_issuing {op : Nat} {w : WWord} {s : State} {c : WaveCtx} {f : WaveForm} (h : s.ready? op w = some (c, f)) :
    ∃ x, (s.issueWord c f w).wave? c.r = some x ∧ c.Issuing x := by
  obtain ⟨u, hu, hbare, -⟩ := State.consume_wave? f w (State.ready?_wave h)
  refine ⟨_, State.countIssue_wave? hu, .of_bare ?_ (State.waveCtx?_spec (State.ready?_spec h).1).2.2.2.1⟩
  have hissued := congrArg (fun v : Wave => ({ v with issued := v.issued + 1 } : Wave)) hbare
  exact hissued

theorem sleep_past {w : WWord} {s : State} {c : WaveCtx} {f : WaveForm} (h : s.ready? 0x3A w = some (c, f)) :
    ∃ t v, exec (.wSleep w) s = .next t ∧ t.wave? c.r = some v
      ∧ c.PastWord w (if uniform (c.operands s f w).1 = 0 then 0 else c.act) v := by
  obtain ⟨x, hx, hi⟩ := State.ready?_issuing h
  obtain ⟨v, hv, hpast⟩ := State.holdLanes_past hx hi w (if uniform (c.operands s f w).1 = 0 then 0 else c.act)
    (fun _ => .sleep (((s.countIssue c.r).consume c f w).tckOf c.r.core + uniform (c.operands s f w).1))
  exact ⟨_, v, by simp only [exec, execWSleep, waveWord_ready h]; rfl, hv, hpast⟩

theorem waitf_past {w : WWord} {s : State} {c : WaveCtx} {f : WaveForm} (h : s.ready? 0x3B w = some (c, f)) :
    ∃ t v, exec (.wWaitf w) s = .next t ∧ t.wave? c.r = some v
      ∧ c.PastWord w (if c.wv.flagsClear (uniform (c.operands s f w).1 % 4096) then 0 else c.act) v := by
  obtain ⟨x, hx, hi⟩ := State.ready?_issuing h
  obtain ⟨v, hv, hpast⟩ := State.holdLanes_past hx hi w
    (if c.wv.flagsClear (uniform (c.operands s f w).1 % 4096) then 0 else c.act)
    (fun _ => .waitf (BitVec.ofNat 12 (uniform (c.operands s f w).1 % 4096)))
  exact ⟨_, v, by simp only [exec, execWWaitf, waveWord_ready h]; rfl, hv, hpast⟩

theorem waitb_past {w : WWord} {s : State} {c : WaveCtx} {f : WaveForm} (h : s.ready? 0xB4 w = some (c, f)) :
    let n := uniform (c.operands s f w).1 % 8
    ∃ t v, exec (.wWaitb w) s = .next t ∧ t.wave? c.r = some v
      ∧ c.PastWord w (maskOf (fun i => c.act.getLsbD i
        && (c.wv.lanes[i]?).any (fun l => l.arrivedIn n ((c.wg.barriers[n]?).getD 0)))) v := by
  intro n
  obtain ⟨x, hx, hi⟩ := State.ready?_issuing h
  obtain ⟨v, hv, hpast⟩ := State.holdLanes_past hx hi w (maskOf (fun i => c.act.getLsbD i
    && (c.wv.lanes[i]?).any (fun l => l.arrivedIn n ((c.wg.barriers[n]?).getD 0))))
    (fun _ => .waitb n ((c.wg.barriers[n]?).getD 0))
  exact ⟨_, v, by simp only [exec, execWWaitb, waveWord_ready h]; rfl, hv, hpast⟩

theorem gbar_past {w : WWord} {s : State} {c : WaveCtx} {f : WaveForm} (h : s.ready? 0xB2 w = some (c, f)) :
    ∃ t v, exec (.wGbar w) s = .next t ∧ t.wave? c.r = some v ∧ c.PastWord w c.act v := by
  have hx := State.countIssue_wave? (State.ready?_wave h)
  have hi : c.Issuing { c.wv with issued := c.wv.issued + 1 } :=
    .of_bare rfl (State.waveCtx?_spec (State.ready?_spec h).1).2.2.2.1
  obtain ⟨v, hv, hpast⟩ := State.holdLanes_past hx hi w c.act (fun _ => .gbar)
  exact ⟨_, v, by simp only [exec, execWGbar, waveWord_ready h], (State.gbarArrive_wave? _ (wgOf c.r) _).trans hv, hpast⟩

theorem rdv_past {w : WWord} {s : State} {c : WaveCtx} {f : WaveForm} (h : s.ready? 0xBC w = some (c, f))
    (hjob : c.wg.job.isSome = true) :
    ∃ t v, exec (.wRdv w) s = .next t ∧ t.wave? c.r = some v ∧ c.PastWord w c.act v := by
  obtain ⟨x, hx, hi⟩ := State.issueWord_issuing h
  obtain ⟨v, hv, hpast⟩ := State.holdLanes_past hx hi w c.act (fun _ => .rdv)
  have hnone : c.wg.job.isNone = false := by simpa using hjob
  exact ⟨_, v, by simp only [exec, execWRdv, rawWord_ready h, hnone, Bool.false_eq_true, if_false], hv, hpast⟩

/-- The wave of a word that marks lanes as arrived once it has issued. -/
theorem State.issueWord_arrive {op : Nat} {w : WWord} {s : State} {c : WaveCtx} {f : WaveForm} (h : s.ready? op w = some (c, f))
    (mask : Lanes) (n phase : Nat) :
    ∃ x, ((s.issueWord c f w).updWave c.r (fun v => v.arrive mask n phase)).wave? c.r = some x ∧ c.Issuing x := by
  obtain ⟨x, hx, hi⟩ := State.issueWord_issuing h
  exact ⟨_, by rw [State.updWave_wave?, if_pos rfl, hx]; rfl, hi.arrive mask n phase⟩

theorem bar_past {w : WWord} {s : State} {c : WaveCtx} {f : WaveForm} (h : s.ready? 0xB1 w = some (c, f))
    (hfirst : c.arrivedAlready (uniform (c.operands s f w).1 % 8) = false) :
    ∃ t v, exec (.wBar w) s = .next t ∧ t.wave? c.r = some v ∧ c.PastWord w c.act v := by
  rw [WaveCtx.operands, WaveCtx.sources_countIssue] at hfirst
  let n := uniform (c.sources s f w).1 % 8
  obtain ⟨x, hx, hi⟩ := State.issueWord_arrive h c.act n ((c.wg.barriers[n]?).getD 0)
  obtain ⟨v, hv, hpast⟩ := State.holdLanes_past hx hi w c.act (fun _ => .bar n ((c.wg.barriers[n]?).getD 0))
  exact ⟨_, v, by simp only [exec, execWBar, rawWord_ready h, hfirst, Bool.false_eq_true, if_false]; rfl, hv, hpast⟩

theorem arrive_past {w : WWord} {s : State} {c : WaveCtx} {f : WaveForm} (h : s.ready? 0xB3 w = some (c, f))
    (hfirst : c.arrivedAlready (uniform (c.operands s f w).1 % 8) = false) :
    ∃ t v, exec (.wArrive w) s = .next t ∧ t.wave? c.r = some v ∧ c.PastWord w 0 v := by
  rw [WaveCtx.operands, WaveCtx.sources_countIssue] at hfirst
  let n := uniform (c.sources s f w).1 % 8
  obtain ⟨x, hx, hi⟩ := State.issueWord_arrive h c.act n ((c.wg.barriers[n]?).getD 0)
  exact ⟨_, _, by simp only [exec, execWArrive, rawWord_ready h, hfirst, Bool.false_eq_true, if_false]; rfl,
    State.nextWord_wave? (wordLen w) hx, hi.pass w⟩

/-- Settles O17: each word is issued on a wave that still stands at it, holds the lanes of its mask there, and goes on with the
rest. -/
theorem waitingWordsComplete : Obligations.WaitingWordsComplete := fun _ _ _ _ =>
  ⟨sleep_past, waitf_past, bar_past, arrive_past, waitb_past, gbar_past, rdv_past⟩

end Sys2Proof.Machine
end

section
/-! Words that are turned away (03 R86-R101; 06 R185; 16 R418): the checks that every wave word passes in their order, and the words
that are ignored without an active lane. -/

namespace Sys2Proof.Machine

open Sys2Proof

/-! ## Every wave word is a checked word (03 R86-R101) -/

/-- A wave word that is not long-latency runs through the checks of its opcode. -/
theorem exec_rawWord {i : Instr} {op : Nat} {w : WWord} (h : waveOpcode i = some (op, w)) (hl : longLatency op = false) (s : State) :
    ∃ body, exec i s = rawWord op w s body := by
  cases i <;> cases h <;> cases hl <;> exact ⟨_, rfl⟩

theorem exec_longWord {i : Instr} {op : Nat} {w : WWord} (h : waveOpcode i = some (op, w)) (hl : longLatency op = true) (s : State) :
    ∃ body, exec i s = longWord op w s body := by
  cases i <;> cases h <;> cases hl <;> exact ⟨_, rfl⟩

theorem longWord_flagless {op : Nat} {w : WWord} {s : State} {c : WaveCtx} (hc : s.waveCtx? w = some c)
    (hb : s.boundFlag c = none) (body : Nat → WaveForm → WaveCtx → State → State) :
    longWord op w s body = .next (s.trapHere c .illegalWord) := by
  rw [longWord, hc]
  exact if_pos (by rw [hb]; rfl)

theorem longWord_flagged {op : Nat} {w : WWord} {s : State} {c : WaveCtx} (hc : s.waveCtx? w = some c)
    (hb : (s.boundFlag c).isSome = true) (body : Nat → WaveForm → WaveCtx → State → State) :
    ∃ b, longWord op w s body = rawWord op w s b := by
  rw [longWord, hc]
  exact ⟨_, if_neg (by simp [Option.isNone_eq_false_iff.mpr hb])⟩

/-- What a wave word comes to in a wave's clause: a long-latency word without a flag traps, and every other passes the checks of
its opcode first. -/
theorem exec_wave {i : Instr} {op : Nat} {w : WWord} {s : State} {c : WaveCtx} (h : waveOpcode i = some (op, w))
    (hc : s.waveCtx? w = some c) :
    (longLatency op = true ∧ s.boundFlag c = none ∧ exec i s = .next (s.trapHere c .illegalWord))
    ∨ ((longLatency op = true → (s.boundFlag c).isSome = true) ∧ ∃ body, exec i s = rawWord op w s body) := by
  cases hl : longLatency op
  · exact .inr ⟨fun e => absurd e Bool.false_ne_true, exec_rawWord h hl s⟩
  · obtain ⟨body, hbody⟩ := exec_longWord h hl s
    rw [hbody]
    cases hb : (s.boundFlag c).isSome
    · have hnone : s.boundFlag c = none := by simpa using hb
      exact .inl ⟨rfl, hnone, longWord_flagless hc hnone body⟩
    · exact .inr ⟨fun _ => rfl, longWord_flagged hc hb body⟩

/-! ## What the checks answer -/

theorem rawWord_illegal {op : Nat} {w : WWord} {s : State} {c : WaveCtx} (hc : s.waveCtx? w = some c) (hok : waveOk op w = false)
    (body : WaveForm → WaveCtx → State → State) : rawWord op w s body = .next (s.trapHere c .illegalWord) := by
  unfold waveOk at hok
  unfold rawWord
  cases hf : waveForm op w with
  | none => simp [hc]
  | some f => simp_all

/-- A word of the right form in a wave's clause. -/
structure Tried (op : Nat) (w : WWord) (s : State) (c : WaveCtx) (f : WaveForm) : Prop where
  ctx : s.waveCtx? w = some c
  form : waveForm op w = some f
  fits : fieldsFit op f w = true

theorem rawWord_unarrived {op : Nat} {w : WWord} {s : State} {c : WaveCtx} {f : WaveForm} (h : Tried op w s c f)
    (hs : c.streamsReady w = false) (body : WaveForm → WaveCtx → State → State) : rawWord op w s body = .next s := by
  simp [rawWord, h.ctx, h.form, h.fits, hs]

theorem rawWord_tried {op : Nat} {w : WWord} {s : State} {c : WaveCtx} {f : WaveForm} (h : Tried op w s c f)
    (hs : c.streamsReady w = true) (hm : c.meetsPending f w = false) (body : WaveForm → WaveCtx → State → State) :
    rawWord op w s body = .next (issueTry op w f body c s) := by
  simp [rawWord, h.ctx, h.form, h.fits, hs, hm]

theorem issueTry_poison {op : Nat} {w : WWord} {f : WaveForm} {c : WaveCtx} (h : c.poisonHit f w = true)
    (body : WaveForm → WaveCtx → State → State) (s : State) :
    issueTry op w f body c s = s.trapPoison c (readRegs f w) (readScalars f w) := by
  simp [issueTry, h]

theorem issueTry_heldBack {op : Nat} {w : WWord} {f : WaveForm} {c : WaveCtx} (h : c.poisonHit f w = false)
    (hb : c.heldBack op w = true) (body : WaveForm → WaveCtx → State → State) (s : State) : issueTry op w f body c s = s := by
  simp [issueTry, h, hb]

/-! ## Words without an active lane (06 R185) -/

/-- What a word that is ignored comes to: it is counted, its operands are read, and the group goes on. -/
def State.ignored (s : State) (c : WaveCtx) (f : WaveForm) (w : WWord) : State := (s.issueWord c f w).endWord c w

theorem uniformWord_ignored {op : Nat} {w : WWord} {s : State} {c : WaveCtx} {f : WaveForm} (h : s.ready? op w = some (c, f))
    (hact : c.act = 0) (body : WaveForm → WaveCtx → Nat → Nat → State → State) :
    uniformWord op w s body = .next (s.ignored c f w) := by
  rw [uniformWord, rawWord_ready h, if_pos hact]
  rfl

theorem accesses_of_inactive {c : WaveCtx} (hact : c.act = 0) (f : Nat → Nat) : c.accesses f = [] := by
  rw [WaveCtx.accesses, hact]
  rfl

theorem State.mapLanesBut_nil (s : State) (r : WaveRef) (g : Workgroup) (acc : AccKind) (size : Nat) (bad : LaneAcc → Bool) :
    s.mapLanesBut r g acc size bad [] = (.ok [], s) := rfl

theorem performed_nil (w : WWord) : performed w [] = [] := by
  unfold performed
  split <;> rfl

theorem st_ignored {w : WWord} {s : State} {c : WaveCtx} {f : WaveForm} (h : s.ready? 0xA1 w = some (c, f)) (hact : c.act = 0) :
    exec (.wSt w) s = .next (s.ignored c f w) := by
  simp only [exec, execWSt, rawWord_ready h, accesses_of_inactive hact, State.withLanes, State.mapLanes, State.mapLanesBut_nil,
    performed_nil, hact, if_true]
  rfl

theorem send_ignored {w : WWord} {s : State} {c : WaveCtx} {f : WaveForm} (h : s.ready? 0xA4 w = some (c, f)) (hact : c.act = 0) :
    exec (.wSend w) s = .next (s.ignored c f w) := by
  simp only [exec, execWSend, rawWord_ready h, hact, if_true]
  rfl

theorem red_ignored {w : WWord} {s : State} {c : WaveCtx} {f : WaveForm} (h : s.ready? 0xAB w = some (c, f)) (hact : c.act = 0) :
    exec (.wRed w) s = .next (s.ignored c f w) := by
  simp only [exec, execWRed, rawWord_ready h, accesses_of_inactive hact, State.withAtomics, State.mapLanesBut_nil,
    performed_nil, hact, if_true, State.atomicLanes, State.raise]
  rfl

/-- The words whose operands are uniform (06 R185). -/
theorem exec_uniformWord {op : Nat} {i : WWord → Instr} (h : (op, i) ∈ [((0xA7 : Nat), Instr.wWb), (0xA8, .wInv), (0xAC, .wBind),
      (0xAD, .wUnbind), (0xAE, .wAcq), (0xAF, .wRel), (0xB0, .wFence), (0xB5, .wOpfence), (0xB6, .wTladd), (0xB7, .wTlset),
      (0xB8, .wTlwait), (0xB9, .wLaunch), (0xBB, .wProgress)]) (w : WWord) (s : State) :
    ∃ body, exec (i w) s = uniformWord op w s body := by
  simp only [List.mem_cons, Prod.mk.injEq, List.not_mem_nil, or_false] at h
  rcases h with ⟨rfl, rfl⟩ | ⟨rfl, rfl⟩ | ⟨rfl, rfl⟩ | ⟨rfl, rfl⟩ | ⟨rfl, rfl⟩ | ⟨rfl, rfl⟩ | ⟨rfl, rfl⟩ | ⟨rfl, rfl⟩ |
    ⟨rfl, rfl⟩ | ⟨rfl, rfl⟩ | ⟨rfl, rfl⟩ | ⟨rfl, rfl⟩ | ⟨rfl, rfl⟩ <;>
  · simp only [exec, execWWb, execWInv, maintainWord, execWBind, execWUnbind, execWAcq, execWRel, execWFence, execWOpfence,
      execWTladd, execWTlset, timelineWord, execWTlwait, execWLaunch, execWProgress]
    exact ⟨_, rfl⟩

/-- Settles O14: every wave word passes the same checks in the same order, and only a word that passes them all reaches what
it does without an active lane. -/
theorem waveWordsTurnedAway : Obligations.WaveWordsTurnedAway := by
  refine ⟨fun i op w s c h hc hok => ?_, fun i op w s c f h hc hform hfit => ?_, fun op i hmem w s c f h hact => ?_⟩
  · rcases exec_wave h hc with ⟨-, -, hexec⟩ | ⟨-, body, hexec⟩
    · exact hexec
    · exact hexec.trans (rawWord_illegal hc hok body)
  · have htried : Tried op w s c f := ⟨hc, hform, hfit⟩
    rcases exec_wave h hc with ⟨hlong, hnone, hexec⟩ | ⟨hflagged, body, hexec⟩
    · have hnot : ¬(longLatency op = true → (s.boundFlag c).isSome = true) := fun hf => by simpa [hnone] using hf hlong
      exact ⟨fun _ => hexec, fun hf => absurd hf hnot, fun hf => absurd hf hnot⟩
    · refine ⟨fun hnot => absurd hflagged hnot, fun _ hs => hexec.trans (rawWord_unarrived htried hs body),
        fun _ hs hm => ⟨fun hp => ?_, fun hp hb => ?_⟩⟩
      · rw [hexec, rawWord_tried htried hs hm, issueTry_poison hp]
      · rw [hexec, rawWord_tried htried hs hm, issueTry_heldBack hp hb]
  · rw [← List.take_append_drop 13 (_ :: _), List.mem_append] at hmem
    rcases hmem with hmem | hmem
    · obtain ⟨body, hbody⟩ := exec_uniformWord hmem w s
      exact hbody.trans (uniformWord_ignored h hact body)
    · simp only [List.drop_succ_cons, List.drop_zero, List.mem_cons, Prod.mk.injEq, List.not_mem_nil, or_false] at hmem
      rcases hmem with ⟨rfl, rfl⟩ | ⟨rfl, rfl⟩ | ⟨rfl, rfl⟩
      · exact st_ignored h hact
      · exact send_ignored h hact
      · exact red_ignored h hact

end Sys2Proof.Machine
end

section
/-! Sequencer words turned away (O35): a word's context and token bits, what it waits for, and poison. -/

namespace Sys2Proof.Machine
open Sys2Proof

/-- A word whose context or token bits refuse it traps before anything it waits for. -/
theorem seqWord_of_refused {op : Nat} {w : SWord} {s : State} {core : Nat} {ctx : SeqCtx} {c : SeqIssue} {f : SeqForm}
    {k : TrapKind} (hs : s.cur = .seq core ctx) (hf : seqForm op = some f)
    (hi : s.seqIssue? core ctx (encodeSeqWord op f.fmt w) = some c) (hr : seqRefused op ctx w = some k)
    (body : SeqFmt → SeqIssue → State → SeqDone) : seqWord op w s body = .next (s.seqTrap c k 0 0 0 []) := by
  simp [seqWord, hs, hf, hi, hr]

/-- What a word that is not refused does before it may run: it waits for owed registers, then for its tokens, and then
traps for a poisoned register. -/
theorem seqWord_of_notRefused {op : Nat} {w : SWord} {s : State} {core : Nat} {ctx : SeqCtx} {c : SeqIssue} {f : SeqForm}
    (hs : s.cur = .seq core ctx) (hf : seqForm op = some f)
    (hi : s.seqIssue? core ctx (encodeSeqWord op f.fmt w) = some c) (hr : seqRefused op ctx w = none)
    (body : SeqFmt → SeqIssue → State → SeqDone) :
    let owed := (seqRegs f op w).any (fun n => n != 0 && c.st.ldgs.any (fun l => l.reg == n))
    (owed = true → seqWord op w s body = .next s)
    ∧ (ctx ≠ .trap → tokensReady c.job ctx w = false → seqWord op w s body = .next s)
    ∧ (owed = false → ctx = .trap ∨ tokensReady c.job ctx w = true → c.readsPoison op w = true →
      seqWord op w s body = .next (s.seqTrap c .poison 0 0 0 [])) := by
  refine ⟨fun ho => ?_, fun hc ht => ?_, fun ho ht hp => ?_⟩
  · simp only [seqWord, hs, hf, hi, hr, ho, if_true]
  · simp only [seqWord, hs, hf, hi, hr, ht, hc, ne_eq, not_false_eq_true, and_self, if_true, ite_self]
  · have hn : ¬ (ctx ≠ .trap ∧ tokensReady c.job ctx w = false) := by
      rintro ⟨hc, h⟩
      simp [hc, h] at ht
    simp only [seqWord, hs, hf, hi, hr, ho, Bool.false_eq_true, if_false, if_neg hn, hp, if_true]

/-- A row of the table whose contexts are those of its operation and whose instruction issues through `seqWord`. -/
def IssuesAsSeqWord (p : Nat × (SWord → Instr) × SeqWho) : Prop :=
  p.2.2 = whoMay p.1 ∧ ∀ w s, ∃ body, exec (p.2.1 w) s = seqWord p.1 w s body

/-- The scalar arithmetic issues through `seqWord`. -/
theorem seqRows_issue : ∀ row ∈ seqRows, IssuesAsSeqWord (row.op, row.instr, .all) := by
  simp only [seqRows, List.forall_mem_cons, List.not_mem_nil, false_implies, implies_true, and_true]
  refine ⟨?_, ?_, ?_, ?_, ?_, ?_, ?_, ?_, ?_, ?_, ?_, ?_, ?_, ?_⟩ <;> refine ⟨rfl, fun w s => ?_⟩
  all_goals
    simp only [exec, execSeqAdd, execSeqSub, execSeqAnd, execSeqOr, execSeqXor, execSeqShl, execSeqShr, execSeqSar,
      execSeqMul, execSeqSlt, execSeqSltz, execSeqAddi, execSeqLi, execSeqLui, seqResult]
    exact ⟨_, rfl⟩

/-- The control words issue through `seqWord`. -/
theorem seqJumps_issue : ∀ row ∈ seqJumps, IssuesAsSeqWord (row.op, row.instr, .all) := by
  simp only [seqJumps, List.forall_mem_cons, List.not_mem_nil, false_implies, implies_true, and_true]
  refine ⟨?_, ?_, ?_, ?_, ?_, ?_, ?_⟩ <;> refine ⟨rfl, fun w s => ?_⟩
  all_goals
    simp only [exec, execSeqBeq, execSeqBne, execSeqBlt, execSeqBge, execSeqJ, execSeqJal, execSeqJr, seqBranch]
    exact ⟨_, rfl⟩

/-- Every word of the table issues through `seqWord`. -/
theorem seqWho_issue : ∀ p ∈ seqWho, IssuesAsSeqWord p := by
  intro p hp
  rw [seqWho, List.mem_append, List.mem_append, List.mem_map, List.mem_map] at hp
  rcases hp with (⟨row, hrow, rfl⟩ | ⟨row, hrow, rfl⟩) | hp
  · exact seqRows_issue row hrow
  · exact seqJumps_issue row hrow
  · revert p
    simp only [List.forall_mem_cons, List.not_mem_nil, false_implies, implies_true, and_true]
    refine ⟨?_, ?_, ?_, ?_, ?_, ?_, ?_, ?_, ?_, ?_, ?_, ?_, ?_, ?_, ?_, ?_, ?_⟩ <;> refine ⟨rfl, fun w s => ?_⟩
    all_goals
      simp only [exec, execSeqLdg, execSeqStg, execSeqCpy, execSeqCpyw, execSeqMw, execSeqNest, execSeqGo, execSeqNwait,
        execSeqSpw, execSeqTok, execSeqPace, execSeqRdv, execSeqOvl, execSeqMfc, execSeqMtc, execSeqTrap, execSeqEret]
      exact ⟨_, rfl⟩

/-- Settles O35: every word of the table is a `seqWord`, whose refusals, waits and poison come in that order. -/
theorem sequencerWordsTurnedAway : Obligations.SequencerWordsTurnedAway := by
  unfold Obligations.SequencerWordsTurnedAway
  intro op i who hmem w s core ctx c f hs hf hi
  obtain ⟨hwho, hword⟩ := seqWho_issue _ hmem
  obtain ⟨body, hb⟩ := hword w s
  dsimp only at hwho hb
  subst hwho
  rw [hb]
  refine ⟨fun k hk => ?_, fun hn ht => ?_, fun hn ht => ?_⟩
  · exact seqWord_of_refused hs hf hi (by simp [seqRefused, hk]) body
  · exact seqWord_of_refused hs hf hi (by simp [seqRefused, hn, ht]) body
  · exact seqWord_of_notRefused hs hf hi (by simp [seqRefused, hn, ht]) body

end Sys2Proof.Machine
end

section
/-! Steps and the words they decode (O56): what each kind of turn fetches, and the instruction that the step runs. -/

namespace Sys2Proof.Machine
open Sys2Proof

/-- A step runs the instruction that the turn at the head of the agenda comes to. -/
theorem step_of_run {s t : State} {turn : Turn} {rest : List Turn} {i : Instr} (ha : s.agenda = turn :: rest)
    (hn : turn.names = true) (ht : ({ s with agenda := rest } : State).take turn = .run i t) :
    step s = settled (exec i t) := by
  simp only [step, State.fetch, ha, hn, if_true, ht]

/-! ## Waves -/

/-- The turn of a wave that nothing holds back and that has no group. -/
theorem State.turnWave_start {s : State} {r : WaveRef} {g : Workgroup} {v : Wave} (hg : s.wg? (wgOf r) = some g)
    (hv : s.wave? r = some v) (he : v.ended = false) (hs : g.saving = false) (hb : v.block.stops = false)
    (hn : v.group = none) : s.turnWave r = .run .evClauseStart { s with cur := .wave r } := by
  simp only [State.turnWave, hg, hv, he, hs, hb, hn, Bool.or_self, Bool.false_eq_true, if_false]

/-- The turn of a wave that nothing holds back and whose group stands in its clause. -/
theorem State.turnWave_fetch {s : State} {r : WaveRef} {g : Workgroup} {v : Wave} {q : Group}
    (hg : s.wg? (wgOf r) = some g) (hv : s.wave? r = some v) (he : v.ended = false) (hs : g.saving = false)
    (hb : v.block.stops = false) (hq : v.group = some q) : s.turnWave r = s.fetchWave r g q := by
  simp only [State.turnWave, hg, hv, he, hs, hb, hq, Bool.or_self, Bool.false_eq_true, if_false]

/-- Code that translates, awaits no member and holds no poison is fetched, and noted. -/
theorem State.fetchCode_ok {s : State} {r : WaveRef} {w : Workgroup} {g : Group} {va : W64} {d : Nat}
    (ht : (s.translate r.core w.ctx va.toNat .fetch).1 = .ok d) (hm : s.awaitsMember w d = false)
    (hp : ∀ i, i < 8 → s.poisonedByte (d + i) = false) (f : Nat → State → Fetched) :
    s.fetchCode r w g va f
      = f (s.fetchAt r.core w.ctx d) ((s.translate r.core w.ctx va.toNat .fetch).2.noteFetch r.core d) := by
  have hany : (List.range 8).any (fun i => s.poisonedByte (d + i)) = false := by
    simpa [List.any_eq_false] using hp
  simp only [State.fetchCode, ht, hm, hany, Bool.false_eq_true, if_false]

/-- A word that decodes runs. -/
theorem State.issueWave_of_decode {s : State} {r : WaveRef} {g : Group} {x : Nat} {lit : Option W64} {i : Instr}
    (h : decodeWave (BitVec.ofNat 64 x) lit = some i) : s.issueWave r g x lit = .run i { s with cur := .wave r } := by
  simp only [State.issueWave, h]

/-- A word that may stand in its clause, with a literal after it, is fetched with that literal. -/
theorem State.fetchLiteral_inside {s : State} {r : WaveRef} {w : Workgroup} {g : Group} {x : Nat}
    (hi : g.illegal x = false) (hn : g.ix + 1 < g.words) :
    s.fetchLiteral r w g x
      = s.fetchCode r w g (g.wordAddr + 8) (fun y s => s.issueWave r g x (some (BitVec.ofNat 64 y))) := by
  simp only [State.fetchLiteral, hi, Bool.false_eq_true, if_false, if_pos hn]

/-- A group inside its clause fetches its next word. -/
theorem State.fetchWave_inside {s : State} {r : WaveRef} {w : Workgroup} {g : Group} (h : g.ix < g.words) :
    s.fetchWave r w g = s.fetchCode r w g g.wordAddr
      (fun x s => if selectsLit x then s.fetchLiteral r w g x else s.issueWave r g x none) := by
  rw [State.fetchWave, if_neg (Nat.not_le.mpr h)]

/-! ## The sequencer -/

/-- The engine job of a core is that of the slot that carries it. -/
theorem State.engineJob?_eq {s : State} {core slot : Nat} {g : Workgroup} {j : Job} (hs : s.jobSlot core = some slot)
    (hg : s.wg? ⟨core, slot⟩ = some g) (hj : g.job = some j) : s.engineJob? core = some (⟨core, slot⟩, j) := by
  simp [State.engineJob?, State.job?, hs, hg, hj]

/-- A word that decodes and is not blocked is its context's fate. -/
theorem State.wordFate_of_decode {s : State} {core : Nat} {ctx : SeqCtx} {word : W32} {i : Instr} {op : Nat} {w : SWord}
    {c : SeqIssue} (hi : decodeSeq word = some i) (ho : seqOpcode i = some (op, w))
    (hc : s.seqIssue? core ctx word = some c) (hb : c.blocked s op w = false) : s.wordFate core ctx word = .word i := by
  simp only [State.wordFate, hi, ho, hc, hb, Bool.false_eq_true, if_false]

/-- A context that does not wait has its word's fate. -/
theorem State.userFate_of_wordFate {s : State} {core : Nat} {j : Job} {ctx : SeqCtx} (hw : j.waits ctx = false)
    (hp : (j.ctx ctx).pc < 0xE000) (hl : j.loading (j.ctx ctx).pc = false) :
    s.userFate core j ctx = s.wordFate core ctx (s.storeWord core (j.ctx ctx).pc) := by
  simp only [State.userFate, hw, hl, Bool.false_eq_true, if_false, if_neg (Nat.not_le.mpr hp)]

/-- The owner of the wheel's position issues first. -/
theorem State.wheelChoice_first {s : State} {core : Nat} {j : Job} {pos : Nat} {i : Instr}
    (h : s.userFate core j (wheelOwner pos) = .word i) : s.wheelChoice core j pos = some (wheelOwner pos, .word i) := by
  simp [State.wheelChoice, List.range_succ_eq_map, h]

/-- A core whose wheel has gone on one position. -/
def State.advanceWheel (s : State) (core : Nat) : State :=
  s.updCore core (fun c => { c with wheel := (c.wheel + 1) % 8 })

/-- The turn of a core whose trap context services a trap is the trap context's. -/
theorem State.turnSeq_trap {s : State} {core : Nat} (ht : ((s.advanceWheel core).core core).trap.item.isSome = true) :
    s.turnSeq core = (s.advanceWheel core).turnTrap core := by
  unfold State.advanceWheel at *
  simp only [State.turnSeq, ht, if_true]

/-- The turn of a core whose trap context is idle and whose job runs is the wheel's first word. -/
theorem State.turnSeq_user {s : State} {core slot : Nat} {g : Workgroup} {j : Job} {ctx : SeqCtx} {f : SeqFate}
    (ht : ((s.advanceWheel core).core core).trap.item = none) (hs : (s.advanceWheel core).jobSlot core = some slot)
    (hg : (s.advanceWheel core).wg? ⟨core, slot⟩ = some g) (hj : g.job = some j)
    (hsv : g.saving = false) (hst : j.started = true) (he : j.ended = false)
    (hw : ((s.advanceWheel core).noteCopyWaits core slot j).wheelChoice core j (s.core core).wheel = some (ctx, f)) :
    s.turnSeq core = ((s.advanceWheel core).noteCopyWaits core slot j).seqDoes core ctx f := by
  have hjob := State.engineJob?_eq hs hg hj
  unfold State.advanceWheel at *
  simp only [State.turnSeq, ht, hjob, hg, hsv, hst, he, hw, Option.isSome_none, Option.any_some, Bool.not_true,
    Bool.or_self, Bool.false_eq_true, if_false]

/-- The turn of a core whose trap context services a trap and stands at a word. -/
theorem State.turnTrap_word {s : State} {core : Nat} (he : (s.core core).trap.escalating = false)
    (hl : s.trapLoading core = false) (hp : (s.core core).trap.pc ≤ 0xFFFC)
    (hw : (s.core core).trap.pc ≠ 0xE000 ∨ s.storeWord core (s.core core).trap.pc ≠ 0) :
    s.turnTrap core = s.seqDoes core .trap (s.wordFate core .trap (s.storeWord core (s.core core).trap.pc)) := by
  have hnp : ¬ ((s.core core).trap.pc = 0xE000 ∧ s.storeWord core (s.core core).trap.pc = 0) := by
    rintro ⟨a, b⟩
    rcases hw with h | h
    · exact h a
    · exact h b
  simp only [State.turnTrap, he, hl, Bool.or_self, Bool.false_eq_true, if_false, if_neg (Nat.not_lt.mpr hp), if_neg hnp]

/-! ## Engine queues -/

/-- The word of a queue stands in that queue of that core. -/
theorem State.queueWord?_where {s : State} {core : Nat} {q : EngineQueue} {f : EngineQ → Option (QueueWord × Bool)}
    {c : HeadCtx} (h : s.queueWord? core q f = some c) : c.r.core = core ∧ c.eq = q := by
  unfold State.queueWord? at h
  split at h
  · cases h
  · split at h
    · cases h
    · split at h
      · cases h
      · obtain ⟨x, -, rfl⟩ := Option.map_eq_some_iff.mp h
        exact ⟨rfl, rfl⟩

/-- The weight loader's word that goes on is of the matrix queue. -/
theorem State.loaderResumes_where {s : State} {core : Nat} {c : HeadCtx} (h : s.loaderResumes core = some c) :
    c.r.core = core ∧ c.eq = .matrix :=
  State.queueWord?_where (Option.filter_eq_some_iff.mp h).1

/-- A word of a matrix operation runs it. -/
theorem State.runWord_of_op {s : State} {c : HeadCtx} {f : MWord → Instr} (h : assoc matrixOps c.q.opx = some f) :
    s.runWord c = .run (f c.q.w) { s with cur := .engine c.r.core c.eq } := by
  simp only [State.runWord, h]

/-- The matrix queue's turn is its loader's where that goes on. -/
theorem State.turnEngine_resumes {s : State} {core : Nat} {c : HeadCtx} (h : s.loaderResumes core = some c) :
    s.turnEngine core .matrix = s.runWord c := by
  simp only [State.turnEngine, if_true, h]

/-- Otherwise a queue's turn is that of the word that starts next. -/
theorem State.turnEngine_starts {s : State} {core : Nat} {q : EngineQueue} {c : HeadCtx}
    (hl : q = .matrix → s.loaderResumes core = none) (hc : s.startWord? core q = some c) (hw : s.wordStarts c = true) :
    s.turnEngine core q = (s.updHead' c EngineQ.advance).runWord c := by
  have hnone : (if q = .matrix then s.loaderResumes core else none) = none := by
    split
    · exact hl ‹_›
    · rfl
  simp only [State.turnEngine, hnone, hc, hw, if_true]

/-! ## Packets and mailboxes -/

/-- A packet that fits and whose words are read runs. -/
theorem State.turnPacket_run {s : State} {q : Nat} {h : W64} {d e : Nat} {body : List W64} {i : Instr}
    (hr : s.modl.ready = true) (hb : (s.queue q).bound = true) (hh : (s.queue q).halted = false)
    (hw : (s.queue q).wait = .none) (h1 : (s.queue q).room 1 = .fits)
    (ha : (s.feWords (s.queue q).ctx [(s.queue q).wordVa 0]).1 = (.ok d, [h])) (hn : 0 < bits h.toNat 8 16)
    (hf : (s.queue q).room (bits h.toNat 8 16) = .fits)
    (hbody : ((s.feWords (s.queue q).ctx [(s.queue q).wordVa 0]).2.feWords (s.queue q).ctx
      ((List.range (bits h.toNat 8 16 - 1)).map (fun i => (s.queue q).wordVa (i + 1)))).1 = (.ok e, body))
    (hi : decodePacket h body = some i) (hz : bits h.toNat 24 8 = 0) :
    s.turnPacket q = .run i { ((s.feWords (s.queue q).ctx [(s.queue q).wordVa 0]).2.feWords (s.queue q).ctx
      ((List.range (bits h.toNat 8 16 - 1)).map (fun i => (s.queue q).wordVa (i + 1)))).2 with cur := .packet q } := by
  generalize hA : s.feWords (s.queue q).ctx [(s.queue q).wordVa 0] = A at *
  obtain ⟨A1, A2⟩ := A
  subst ha
  dsimp only at hbody ⊢
  generalize hB : A2.feWords (s.queue q).ctx
    ((List.range (bits h.toNat 8 16 - 1)).map (fun i => (s.queue q).wordVa (i + 1))) = B at *
  obtain ⟨B1, B2⟩ := B
  subst hbody
  simp only [State.turnPacket, State.issuePacket, hr, hb, hh, hw, h1, hA, hf, hB, hi, hz, Nat.ne_of_gt hn, bne_self_eq_false,
    Bool.not_true, Bool.or_self, Bool.false_eq_true, if_false, if_true]

/-- A mailbox's request that decodes runs. -/
theorem State.turnMail_run {s : State} {f : Nat} {i : Instr} (hb : (s.mailbox f).busy = true) (hr : s.modl.ready = true)
    (hf : s.modl.fwState = 1)
    (hi : decodeMail ((s.mailbox f).word 0) ((s.mailbox f).word 1) ((s.mailbox f).word 2) ((s.mailbox f).word 3) f = some i) :
    s.turnMail f = .run i { s with cur := .mail f } := by
  simp [State.turnMail, hb, hr, hf, hi]

/-! ## The statement -/

/-- Settles O56: each kind of turn comes to the run of what it fetches, and a step runs that. -/
theorem stepRunsTheDecodedWord : Obligations.StepRunsTheDecodedWord := by
  unfold Obligations.StepRunsTheDecodedWord
  intro s turn rest ha z reached
  refine ⟨?wave, ?seq, ?engine, ?packet, ?mail, ?event⟩
  case wave =>
    rintro r g v q rfl hr hg hv he hs hb
    have run {i t} (ht : z.turnWave r = .run i t) : step s = settled (exec i t) :=
      step_of_run ha (by simpa [Turn.names] using hr) ht
    refine ⟨fun hn => run (State.turnWave_start hg hv he hs hb hn), ?_⟩
    rintro hq hix d x hx ⟨hm, hp⟩ n x1
    have hfetch := (State.turnWave_fetch hg hv he hs hb hq).trans
      ((State.fetchWave_inside hix).trans (State.fetchCode_ok hx hm hp _))
    refine ⟨fun i hl hi => run ?_, ?_⟩
    · rw [hfetch, if_neg (show ¬ selectsLit n = true from Bool.eq_false_iff.mp hl)]
      exact State.issueWave_of_decode hi
    · intro i e hl hill hix1 y hy hreach hi
      obtain ⟨hm1, hp1⟩ := hreach
      refine run ?_
      rw [hfetch, if_pos hl, State.fetchLiteral_inside hill hix1, State.fetchCode_ok hy hm1 hp1]
      exact State.issueWave_of_decode hi
  case seq =>
    rintro core rfl hcore u
    have run {i t} (ht : z.turnSeq core = .run i t) : step s = settled (exec i t) :=
      step_of_run ha (by simpa [Turn.names] using hcore) ht
    refine ⟨?_, ?_⟩
    · intro slot g j i hidle hslot hg hj hsv hst he ctx pc n hwait hpc hload hi op w c hop hc hb
      have hfate : n.userFate core j ctx = .word i :=
        (State.userFate_of_wordFate hwait hpc hload).trans (State.wordFate_of_decode hi hop hc hb)
      exact run (State.turnSeq_user hidle hslot hg hj hsv hst he (State.wheelChoice_first hfate))
    · intro i hitem hesc hload pc hpc hi hne op w c hop hc hb
      refine run ((State.turnSeq_trap hitem).trans ((State.turnTrap_word hesc hload hpc hne).trans ?_))
      change u.seqDoes core .trap (u.wordFate core .trap (u.storeWord core pc)) = _
      rw [State.wordFate_of_decode hi hop hc hb, State.seqDoes]
  case engine =>
    rintro core q c f rfl hcore hf
    have run {i t} (ht : z.turnEngine core q = .run i t) : step s = settled (exec i t) :=
      step_of_run ha (by simpa [Turn.names] using hcore) ht
    refine ⟨?_, ?_⟩
    · rintro rfl hc
      obtain ⟨hcore', heq⟩ := State.loaderResumes_where hc
      have hword := State.runWord_of_op (s := z) hf
      rw [hcore', heq] at hword
      exact run ((State.turnEngine_resumes hc).trans hword)
    · intro hl hc hw
      obtain ⟨hcore', heq⟩ := State.queueWord?_where hc
      subst hcore' heq
      exact run ((State.turnEngine_starts hl hc hw).trans (State.runWord_of_op hf))
  case packet =>
    rintro q h d e i n body rfl hq hr x hb hh hw h1 a hA rfl hn hf b hB hi hz
    exact step_of_run ha (by simpa [Turn.names] using hq) (State.turnPacket_run hr hb hh hw h1 hA hn hf hB hi hz)
  case mail =>
    rintro f i rfl hf hb hr hfw m hi
    exact step_of_run ha (by simpa [Turn.names] using hf) (State.turnMail_run hb hr hfw hi)
  case event =>
    rintro i rfl
    exact step_of_run ha rfl rfl

end Sys2Proof.Machine
end

section
/-! Events of a wave run (O46): what leaves the resident workgroups as they are, what never brings one back, and the ends of a
wave's waits. -/

namespace Sys2Proof.Machine
open Sys2Proof

/-! ## Operations that leave the resident workgroups as they are -/

/-- Every core holds the same workgroups, in the same slots. -/
def State.SameWgs (s t : State) : Prop := ∀ n, (t.core n).wgs = (s.core n).wgs

theorem State.SameWgs.refl (s : State) : s.SameWgs s := fun _ => rfl

theorem State.SameWgs.trans {s t u : State} (h : s.SameWgs t) (k : t.SameWgs u) : s.SameWgs u :=
  fun n => (k n).trans (h n)

theorem State.SameWgs.wg? {s t : State} (h : s.SameWgs t) (r : WgRef) : t.wg? r = s.wg? r := by
  simp only [State.wg?, h r.core]

theorem State.SameWgs.wave? {s t : State} (h : s.SameWgs t) (r : WaveRef) : t.wave? r = s.wave? r := by
  simp only [State.wave?, h.wg? (wgOf r)]

/-- A fold of moves that each leave the workgroups leaves them. -/
theorem State.SameWgs.foldl {α : Type} {f : State → α → State} (hf : ∀ (s : State) (x : α), s.SameWgs (f s x))
    (l : List α) (s : State) : s.SameWgs (l.foldl f s) :=
  l.foldlRecOn f (.refl s) (fun t ht x _ => ht.trans (hf t x))

theorem State.updCore_sameWgs (s : State) (n : Nat) (f : ComputeCore → ComputeCore)
    (hf : (f (s.core n)).wgs = (s.core n).wgs) : s.SameWgs (s.updCore n f) := by
  intro m
  rw [State.updCore_core]
  split
  · next h => rw [hf, h]
  · rfl

theorem State.writeBackLine_sameWgs (s : State) (x : L1Line) : s.SameWgs (s.writeBackLine x) :=
  .foldl (fun s i => by split <;> exact fun _ => rfl) _ s

theorem State.invalidate_sameWgs (s : State) (core : Nat) (p : Nat → Bool) : s.SameWgs (s.invalidate core p) := by
  unfold State.invalidate State.writeBack
  exact ((State.SameWgs.foldl State.writeBackLine_sameWgs _ s).trans (State.updCore_sameWgs _ core _ rfl)).trans
    (State.updCore_sameWgs _ core _ rfl)

theorem State.acquireObject_sameWgs (s : State) (core ctx object : Nat) : s.SameWgs (s.acquireObject core ctx object) := by
  refine .foldl (fun s r => ?_) _ s
  split
  · exact s.invalidate_sameWgs core _
  · exact .refl s

theorem State.noteStray_sameWgs (s : State) (dpas : List Nat) (src : BitVec 10) : s.SameWgs (s.noteStray dpas src) := by
  refine .foldl (fun s core => State.updCore_sameWgs s core _ ?_) _ s
  split <;> rfl

theorem State.lookup_sameWgs (s : State) (core ctx va : Nat) : s.SameWgs (s.lookup core ctx va).2 := by
  have hmiss : s.SameWgs (s.updCore core (fun c => { c with tlbMiss := c.tlbMiss + 1 })) :=
    s.updCore_sameWgs core _ rfl
  have hput (t : State) (e : TlbEntry) : t.SameWgs (t.updCore core (fun c => { c with tlb := (e :: c.tlb).take 256 })) :=
    t.updCore_sameWgs core _ rfl
  unfold State.lookup
  dsimp only
  split
  · exact .refl s
  · split
    · exact .refl s
    · split
      · exact hmiss.trans (hput _ _)
      · split
        · exact hmiss.trans (hput _ _)
        all_goals exact hmiss

theorem State.translate_sameWgs (s : State) (core ctx va : Nat) (acc : AccKind) :
    s.SameWgs (s.translate core ctx va acc).2 := s.lookup_sameWgs core ctx va

theorem State.fillLine_sameWgs (s : State) (core a : Nat) (fresh : Bool) : s.SameWgs (s.fillLine core a fresh).2 := by
  unfold State.fillLine
  dsimp only
  split
  · split
    · exact s.updCore_sameWgs core _ rfl
    · exact .refl s
  · refine s.updCore_sameWgs core _ ?_
    split <;> rfl

theorem State.readBeyond_sameWgs (s : State) (core a : Nat) : s.SameWgs (s.readBeyond core a).2 := by
  unfold State.readBeyond
  split
  · exact s.fillLine_sameWgs core a true
  · exact .refl s

theorem State.loadWindow_sameWgs (s : State) (core off : Nat) : s.SameWgs (s.loadWindow core off).2 := by
  unfold State.loadWindow
  split
  · split <;> exact fun _ => rfl
  · exact .refl s

theorem State.readByte_sameWgs (s : State) (r : WaveRef) (ctx : Nat) (mode : ReadMode) (d : Nat) :
    s.SameWgs (s.readByte r ctx mode d).2 := by
  unfold State.readByte
  split
  · exact .refl s
  · split
    · exact s.loadWindow_sameWgs _ _
    · exact fun _ => rfl
    · split
      · exact s.fillLine_sameWgs _ _ _
      · exact s.fillLine_sameWgs _ _ _
      · exact s.readBeyond_sameWgs _ _
    · split
      · exact s.fillLine_sameWgs _ _ _
      · exact s.fillLine_sameWgs _ _ _
      · exact s.readBeyond_sameWgs _ _
    · exact .refl s

theorem State.readLane_sameWgs (s : State) (r : WaveRef) (ctx : Nat) (mode : ReadMode) (a : LaneAcc) :
    s.SameWgs (s.readLane r ctx mode a).2 := by
  unfold State.readLane
  split
  · unfold State.deviceRead
    split <;> exact fun _ => rfl
  · refine State.SameWgs.trans ?_ (State.noteStray_sameWgs _ _ _)
    exact List.foldlRecOn (motive := fun x : List Byte × State => s.SameWgs x.2) _ _ (.refl s)
      (fun x hx d _ => hx.trans (x.2.readByte_sameWgs r ctx mode d))

theorem State.readLanes_sameWgs (s : State) (r : WaveRef) (ctx : Nat) (mode : ReadMode) (l : List LaneAcc) :
    s.SameWgs (s.readLanes r ctx mode l).2 :=
  l.foldlRecOn (motive := fun x : List (Nat × Nat) × State => s.SameWgs x.2) _ (.refl s)
    (fun x hx a _ => hx.trans (x.2.readLane_sameWgs r ctx mode a))

theorem State.waitReads_sameWgs (s : State) (r : WaveRef) (ctx : Nat) (l : List Nat) : s.SameWgs (s.waitReads r ctx l) := by
  refine .foldl (fun s a => ?_) l s
  unfold State.waitRead
  split
  · split
    · exact .refl s
    · exact s.readLanes_sameWgs r ctx .around _
  · exact .refl s

/-! ## A slot without a workgroup stays without one -/

/-- No workgroup is resident at a place. -/
def State.Gone (s : State) (r : WgRef) : Prop := s.wg? r = none

theorem State.SameWgs.gone {s t : State} (h : s.SameWgs t) {r : WgRef} (hs : s.Gone r) : t.Gone r :=
  (h.wg? r).trans hs

/-- A fold of moves that each bring no workgroup back brings none back. -/
theorem State.Gone.foldl {α : Type} {r : WgRef} {f : State → α → State}
    (hf : ∀ (s : State) (x : α), s.Gone r → (f s x).Gone r) (l : List α) {s : State} (h : s.Gone r) : (l.foldl f s).Gone r :=
  l.foldlRecOn f h (fun t ht x _ => hf t x ht)

theorem State.Gone.updWg {s : State} {r : WgRef} (h : s.Gone r) (q : WgRef) (f : Workgroup → Workgroup) :
    (s.updWg q f).Gone r := by
  unfold State.Gone at *
  rw [State.updWg_wg?, h]
  split <;> rfl

theorem assoc_assocDrop {α : Type} (l : List (Nat × α)) (m n : Nat) :
    assoc (assocDrop l n) m = if m = n then none else assoc l m := by
  induction l with
  | nil => simp [assocDrop, assoc]
  | cons p rest ih =>
    obtain ⟨k, x⟩ := p
    by_cases hk : k = n
    · subst hk
      by_cases hm : m = k
      · subst hm
        simpa [assocDrop] using ih
      · simp [assocDrop, ih, hm, assoc, Ne.symm hm]
    · by_cases hm : m = n
      · subst hm
        simp [assocDrop, hk, assoc, ih]
      · simp only [assocDrop, if_neg hk, assoc, ih, if_neg hm]

theorem assoc_map_value {α : Type} (f : α → α) (l : List (Nat × α)) (n : Nat) :
    assoc (l.map (fun p => (p.1, f p.2))) n = (assoc l n).map f := by
  induction l with
  | nil => rfl
  | cons p rest ih =>
    simp only [List.map_cons, assoc, ih]
    split <;> rfl

/-- A freed slot holds no workgroup, and the others hold theirs. -/
theorem State.dropWg_wg? (s : State) (q r : WgRef) : (s.dropWg q).wg? r = if r = q then none else s.wg? r := by
  obtain ⟨c, n⟩ := q; obtain ⟨d, m⟩ := r
  simp only [State.dropWg, State.wg?, State.updCore_core, WgRef.mk.injEq]
  by_cases hd : d = c
  · subst hd
    simp [assoc_assocDrop]
  · simp [hd]

/-- A change of every core that leaves its workgroups. -/
theorem State.SameWgs.of_mapCores {s t : State} (f : ComputeCore → ComputeCore) (hf : ∀ c, (f c).wgs = c.wgs)
    (ht : t.cores = s.cores.map (fun p => (p.1, f p.2))) : s.SameWgs t := by
  intro n
  simp only [State.core, ht, assoc_map_value]
  cases assoc s.cores n with
  | none => rfl
  | some c => exact hf c

theorem State.enterTrap_sameWgs (s : State) (core : Nat) : s.SameWgs (s.enterTrap core) := by
  unfold State.enterTrap
  split
  · refine State.SameWgs.trans ?_ (State.updCore_sameWgs _ core _ rfl)
    unfold State.entryScratch
    split <;> exact fun _ => rfl
  · exact .refl s

theorem State.dropTrapsOf_sameWgs (s : State) (core : Nat) (p : TrapWho → Bool) : s.SameWgs (s.dropTrapsOf core p) :=
  (s.updCore_sameWgs core _ rfl).trans (State.enterTrap_sameWgs _ core)

theorem State.dropCopyTraps_sameWgs (s : State) (cs : List Copy) : s.SameWgs (s.dropCopyTraps cs) :=
  .foldl (fun s core => s.dropTrapsOf_sameWgs core _) _ s

theorem State.freeTag_sameWgs (s : State) (core : Nat) (tag : OwnerTag) : s.SameWgs (s.freeTag core tag) :=
  s.updCore_sameWgs core _ rfl

theorem State.settleL1_sameWgs (s : State) (core d : Nat) : s.SameWgs (s.settleL1 core d) := by
  unfold State.settleL1
  split
  · split
    · exact .refl s
    · exact (s.writeBackLine_sameWgs _).trans (State.updCore_sameWgs _ core _ rfl)
  · exact .refl s

theorem State.writeThrough_sameWgs (s : State) (core a : Nat) (b : Byte) : s.SameWgs (s.writeThrough core a b) := by
  have hmem : s.SameWgs ((s.settleL1 core a).writeMem a [b]) := (s.settleL1_sameWgs core a).trans (fun _ => rfl)
  unfold State.writeThrough
  dsimp only
  split
  · exact hmem.trans (State.updCore_sameWgs _ core _ rfl)
  · exact hmem

theorem State.Gone.performCell {s : State} {r : WgRef} (h : s.Gone r) (core : Nat) (c : Host.Cell) :
    (s.performCell core c).Gone r := by
  unfold State.performCell State.writeWindow
  split
  · split
    · exact h.updWg _ _
    · exact h
  · exact (s.writeThrough_sameWgs core _ _).gone h

theorem State.Gone.drainWc {s : State} {r : WgRef} (h : s.Gone r) (q : WaveRef) : (s.drainWc q).Gone r := by
  unfold State.drainWc
  split
  · exact h
  · exact (State.Gone.foldl (fun s c hs => hs.performCell q.core c) _ h).updWg _ _

theorem State.Gone.drainWg {s : State} {r : WgRef} (h : s.Gone r) (q : WgRef) : (s.drainWg q).Gone r := by
  unfold State.drainWg
  split
  · exact h
  · exact State.Gone.foldl (fun s i hs => hs.drainWc _) _ h

/-- A discarded workgroup's place, and every other freed one, holds none. -/
theorem State.discardWg_gone {s : State} {q r : WgRef} (h : r = q ∨ s.Gone r) : (s.discardWg q).Gone r := by
  unfold State.discardWg
  split
  · next hq =>
    rcases h with rfl | h
    · exact hq
    · exact h
  · unfold State.Gone
    dsimp only
    rw [State.dropWg_wg?]
    split
    · rfl
    · next hne =>
      refine (State.dropCopyTraps_sameWgs _ _).gone ((State.dropTrapsOf_sameWgs _ _ _).gone ?_)
      have hd := (h.resolve_left hne).drainWg q
      split
      · exact (State.freeTag_sameWgs _ _ _).gone hd
      · exact hd

theorem State.discardFrame_sameWgs (s : State) (f : Nat) : s.SameWgs (s.discardFrame f) := by
  unfold State.discardFrame
  split
  · exact .refl s
  · next x _ =>
    dsimp only
    refine State.SameWgs.trans ?_ (State.SameWgs.of_mapCores
      (fun c => { c with reserve := c.reserve.filter (fun r => r.frame != some f) }) (fun _ => rfl) rfl)
    refine State.SameWgs.trans ?_ (.foldl (fun s c => s.dropTrapsOf_sameWgs c _) _ _)
    split
    · exact State.freeTag_sameWgs s _ _
    · exact fun _ => rfl

theorem State.removeGrid_sameWgs (s : State) (id : Nat) : s.SameWgs (s.removeGrid id) :=
  .of_mapCores (fun c => { c with
      reserve := c.reserve.bind (fun x => if x.grid = id then none else some x)
      gang := if c.claim.any (fun x => x.1 == id) then [] else c.gang
      claim := c.claim.bind (fun x => if x.1 = id then none else some x)
      promised := c.promised.filter (fun x => x.1 != id) }) (fun _ => rfl) rfl

theorem State.Gone.endContextGrids {s : State} {r : WgRef} (h : s.Gone r) (ctx : Nat) : (s.endContextGrids ctx).Gone r := by
  unfold State.endContextGrids
  refine (State.SameWgs.foldl (fun s (g : Grid) => s.removeGrid_sameWgs g.id) _ _).gone ?_
  refine (State.SameWgs.foldl (fun s (p : Nat × Frame) => s.discardFrame_sameWgs p.1) _ _).gone ?_
  exact State.Gone.foldl (fun s p hs => State.discardWg_gone (.inr hs)) _ h

/-- A retry, or its context's error, places no workgroup. -/
theorem State.Gone.retryOrError {s : State} {r : WgRef} (h : s.Gone r) (grid wgl : Nat) : (s.retryOrError grid wgl).Gone r := by
  unfold State.retryOrError
  split
  · exact h
  · dsimp only
    split
    · exact h
    · unfold State.contextError
      exact State.Gone.endContextGrids (s := (s.updContext _ _).haltQueues _) h _

/-! ## A trap of a wave that goes to containment -/

/-- Containment of a workgroup frees its place, or, under STOPALL, stops it. -/
theorem State.contain_cases {s : State} {r : WgRef} {g : Workgroup} (hg : s.wg? r = some g) (t : TrapRecord) :
    ((s.context g.ctx).stopAll = false → (s.contain r t).Gone r)
    ∧ ((s.context g.ctx).stopAll = true → s.contain r t = s.beginSave r t true none) := by
  refine ⟨fun hs => ?_, fun hs => ?_⟩
  · simp only [State.contain, hg, hs, Bool.false_eq_true, if_false]
    exact State.Gone.retryOrError (State.discardWg_gone (.inl rfl)) _ _
  · simp only [State.contain, hg, hs, if_true]

theorem State.updGate_sameWgs (s : State) (tile : Nat) (f : Headgate → Headgate) : s.SameWgs (s.updGate tile f) :=
  fun _ => rfl

/-- A workgroup whose save begins is saving. -/
theorem State.beginSave_saving {s : State} {r : WgRef} {g : Workgroup} (hg : s.wg? r = some g) (hp : g.preempt = none)
    (t : TrapRecord) (stop : Bool) (park : Option Park) :
    ((s.beginSave r t stop park).wg? r).any (·.saving) = true := by
  have hupd : (s.updWg r (fun w => w.toSave s.fck t stop park)).wg? r = some (g.toSave s.fck t stop park) := by
    simp [hg]
  have hsave : (g.toSave s.fck t stop park).saving = true := by simp [Workgroup.toSave, hp, Workgroup.saving]
  unfold State.beginSave State.withdrawDemands
  split
  · rw [hupd, Option.any_some, hsave]
  · simp only [State.updJob, State.updWg_wg?, if_true, (State.updGate_sameWgs _ _ _).wg?, hg, Option.map_some,
      Option.any_some]
    exact hsave

/-- POISON of a wave goes to containment. -/
theorem State.trapWave_poison {s : State} {r : WaveRef} {g : Workgroup} (hg : s.wg? (wgOf r) = some g) (acc : BitVec 5)
    (code : W32) (pc va : W64) (mask : Lanes) (needs : List Nat) :
    ∃ t, s.trapWave r .poison acc code pc va mask needs = s.free.2.contain (wgOf r) t := by
  simp only [State.trapWave, State.stampRecord, hg]
  exact ⟨_, rfl⟩

/-- What POISON of a wave leaves of its workgroup: nothing, or, under STOPALL, its save. -/
theorem State.trapWave_poison_cases {s : State} {r : WaveRef} {g : Workgroup} (hg : s.wg? (wgOf r) = some g) (acc : BitVec 5)
    (code : W32) (pc va : W64) (mask : Lanes) (needs : List Nat) :
    let t := s.trapWave r .poison acc code pc va mask needs
    ((s.context g.ctx).stopAll = false → t.wg? (wgOf r) = none)
    ∧ ((s.context g.ctx).stopAll = true → g.preempt = none → (t.wg? (wgOf r)).any (·.saving) = true) := by
  obtain ⟨rec_, heq⟩ := State.trapWave_poison hg acc code pc va mask needs
  have hfree : s.free.2.wg? (wgOf r) = some g := hg
  obtain ⟨hkill, hstop⟩ := State.contain_cases hfree rec_
  dsimp only
  rw [heq]
  refine ⟨hkill, fun hs hp => ?_⟩
  rw [hstop hs]
  exact State.beginSave_saving hfree hp rec_ true none

/-! ## Waits that end -/

/-- Lanes released by a test are freed where the wait that the test stands for is over. -/
theorem Wave.release_freed (v : Wave) {p : LaneWait → Bool} {q : LaneWait → Prop} (hpq : ∀ x, p x = true ↔ q x) :
    v.Freed (v.release p) q := by
  intro n l hl
  refine ⟨fun x hx hq => ?_, fun hno => ?_⟩
  · simp [Wave.release, List.getElem?_map, hl, hx, (hpq x).mpr hq]
  · simp only [Wave.release, List.getElem?_map, hl, Option.map_some]
    cases hs : l.state with
    | waiting x => simp [show p x = false by simpa [← hpq] using hno x hs]
    | _ => rfl

/-- A release of a wave's lanes, as a state shows it. -/
theorem State.updWave_release {s : State} {r : WaveRef} {v : Wave} (hv : s.wave? r = some v) {p : Wave → LaneWait → Bool}
    {q : LaneWait → Prop} (hpq : ∀ x, p v x = true ↔ q x) :
    ∃ u, (s.updWave r (fun v => v.release (p v))).wave? r = some u ∧ v.Freed u q :=
  ⟨v.release (p v), by rw [State.updWave_wave?, if_pos rfl, hv, Option.map_some], v.release_freed hpq⟩

/-- A word that a wait reads again has reached a threshold. -/
theorem State.waitValue_reached {s : State} {r : WaveRef} {ctx : Nat} (a t : W64) :
    (s.waitValue r ctx a.toNat).any (fun y => decide (t.toNat ≤ y)) = true
      ↔ ∃ y, s.waitValue r ctx a.toNat = some y ∧ t.toNat ≤ y := by
  simp [Option.any_eq_true]

/-! ## Polls -/

/-- A poll of a wave without poison goes on. -/
theorem State.pollOr_clean {s : State} {r : WaveRef} {g : Workgroup} {v : Wave}
    (h : v.lanes.any (s.laneReadsPoison r g.ctx) = false) (f : State) : s.pollOr r g v f = f := by
  have hnone : v.lanes.find? (s.laneReadsPoison r g.ctx) = none := by
    simpa [List.find?_eq_none, List.any_eq_false] using h
  simp only [State.pollOr, hnone]

/-- A poll that finds poison traps. -/
theorem State.pollOr_poison {s : State} {r : WaveRef} {g : Workgroup} {v : Wave}
    (h : v.lanes.any (s.laneReadsPoison r g.ctx) = true) (f : State) :
    ∃ pc va mask, s.pollOr r g v f = s.trapWave r .poison (accBits .read) 0 pc va mask [] := by
  obtain ⟨l, hl⟩ : ∃ l, v.lanes.find? (s.laneReadsPoison r g.ctx) = some l := by
    rw [← Option.isSome_iff_exists, List.find?_isSome]
    simpa using h
  simp only [State.pollOr, hl]
  exact ⟨_, _, _, rfl⟩

/-- The events that read a wave's waits again are polls. -/
theorem exec_polls {s : State} {r : WaveRef} {g : Workgroup} {v : Wave} (hg : s.wg? (wgOf r) = some g)
    (hv : s.wave? r = some v) {i : Instr} (hi : i ∈ [Instr.evAcqRelease r, .evTlwaitRelease r, .evTimelinePoll r]) :
    ∃ f, exec i s = .next (s.pollOr r g v f) := by
  simp only [List.mem_cons, List.not_mem_nil, or_false] at hi
  rcases hi with rfl | rfl | rfl
  · simp only [exec, execEvAcqRelease, hg, hv]
    exact ⟨_, rfl⟩
  · simp only [exec, execEvTlwaitRelease, hg, hv]
    exact ⟨_, rfl⟩
  · simp only [exec, execEvTimelinePoll, hg, hv]
    exact ⟨_, rfl⟩

/-- The ACQs of a wave that have reached their threshold end. -/
theorem execEvAcqRelease_freed {s : State} {r : WaveRef} {g : Workgroup} {v : Wave} (hg : s.wg? (wgOf r) = some g)
    (hv : s.wave? r = some v) (hclean : v.lanes.any (s.laneReadsPoison r g.ctx) = false) :
    ∃ t u, exec (.evAcqRelease r) s = .next t ∧ t.wave? r = some u ∧ v.Freed u (fun x => ∃ o b, x = .acq o b
      ∧ ∃ y, s.waitValue r g.ctx o.toNat = some y ∧ b.toNat ≤ y) := by
  simp only [exec, execEvAcqRelease, hg, hv, State.pollOr_clean hclean]
  refine ⟨_, (exists_and_left.mpr ⟨rfl, State.updWave_release ?_ ?_⟩)⟩
  · rw [(State.SameWgs.foldl (fun s o => s.acquireObject_sameWgs r.core g.ctx o) _ _).wave?,
      (s.waitReads_sameWgs r g.ctx _).wave?, hv]
  · intro x
    cases x <;> simp [State.waitValue_reached]

/-- The TLWAITs of a wave that are marked met, or that have reached their threshold, end. -/
theorem execEvTlwaitRelease_freed {s : State} {r : WaveRef} {g : Workgroup} {v : Wave} (hg : s.wg? (wgOf r) = some g)
    (hv : s.wave? r = some v) (hclean : v.lanes.any (s.laneReadsPoison r g.ctx) = false) :
    ∃ t u, exec (.evTlwaitRelease r) s = .next t ∧ t.wave? r = some u ∧ v.Freed u (fun x => ∃ a b c p m,
      x = .tlwait a b c p m ∧ (m = true ∨ ∃ y, s.waitValue r g.ctx a.toNat = some y ∧ b.toNat ≤ y)) := by
  simp only [exec, execEvTlwaitRelease, hg, hv, State.pollOr_clean hclean]
  refine ⟨_, (exists_and_left.mpr ⟨rfl, State.updWave_release ?_ ?_⟩)⟩
  · rw [(s.waitReads_sameWgs r g.ctx _).wave?, hv]
  · intro x
    cases x with
    | tlwait a b c p m =>
      simp only [Bool.or_eq_true, State.waitValue_reached]
      exact ⟨fun h => ⟨a, b, c, p, m, rfl, h⟩, by rintro ⟨a, b, c, p, m, ⟨⟩, h⟩; exact h⟩
    | _ => simp

/-- A lane once its timeline has been read again. -/
def State.pollLane (s : State) (r : WaveRef) (ctx : Nat) (l : Lane) : Lane :=
  match l.state with
  | .waiting (.tlwait a t c p m) =>
    { l with state := .waiting (.tlwait a t c p (m || (s.waitValue r ctx a.toNat).any (fun y => decide (t.toNat ≤ y)))) }
  | _ => l

/-- A poll marks the lanes of a wave, and changes nothing else of its wave. -/
theorem execEvTimelinePoll_wave? {s : State} {r : WaveRef} {g : Workgroup} {v : Wave} (hg : s.wg? (wgOf r) = some g)
    (hv : s.wave? r = some v) (hclean : v.lanes.any (s.laneReadsPoison r g.ctx) = false) :
    ∃ t, exec (.evTimelinePoll r) s = .next t
      ∧ t.wave? r = some { v with lanes := v.lanes.map (s.pollLane r g.ctx) } := by
  simp only [exec, execEvTimelinePoll, hg, hv, State.pollOr_clean hclean]
  refine ⟨_, rfl, ?_⟩
  rw [State.updWave_wave?, if_pos rfl, hv]
  rfl

/-- A timeline that has reached a lane's threshold marks it. -/
theorem State.pollLane_reached {s : State} {r : WaveRef} {ctx : Nat} {l : Lane} {a b : W64} {c : Ctl} {p m : Bool}
    (hl : l.state = .waiting (.tlwait a b c p m)) (h : ∃ y, s.waitValue r ctx a.toNat = some y ∧ b.toNat ≤ y) :
    s.pollLane r ctx l = { l with state := .waiting (.tlwait a b c p true) } := by
  simp only [State.pollLane, hl, (State.waitValue_reached a b).mpr h, Bool.or_true]

/-- A lane whose timeline has not reached its threshold stands as it did. -/
theorem State.pollLane_unreached {s : State} {r : WaveRef} {ctx : Nat} {l : Lane}
    (h : ∀ a b c p m, l.state = .waiting (.tlwait a b c p m) → ¬∃ y, s.waitValue r ctx a.toNat = some y ∧ b.toNat ≤ y) :
    s.pollLane r ctx l = l := by
  unfold State.pollLane
  split
  · next a b c p m hl =>
    have hun := (Bool.not_eq_true _).mp (mt (State.waitValue_reached a b).mp (h a b c p m hl))
    rw [hun, Bool.or_false, ← hl]
  · rfl

/-! ## The start of a clause -/

/-- A fetched header of the group that a wave chooses starts its clause, waits for its flags, or traps. -/
theorem execEvClauseStart_fetched {s : State} {r : WaveRef} {g : Workgroup} {v : Wave} {lanes : Lanes} {pc : W64}
    {ix d : Nat} (hg : s.wg? (wgOf r) = some g) (hv : s.wave? r = some v) (hcur : s.cur = .wave r)
    (hn : v.group = none) (hb : v.block = .none) (hc : v.chooseGroup = some (lanes, pc, ix)) (hlow : pc.toNat < 2 ^ 52)
    (hal : pc.toNat % 8 = 0) (ht : (s.translate r.core g.ctx pc.toNat .fetch).1 = .ok d)
    (hm : s.awaitsMember g d = false) (hp : ∀ i, i < 8 → s.poisonedByte (d + i) = false) :
    exec .evClauseStart s =
      let h := s.fetchAt r.core g.ctx d
      let t := (s.translate r.core g.ctx pc.toNat .fetch).2.noteFetch r.core d
      if bits h 56 8 ≠ 0xFF ∨ headerOk h = false then .next (t.trapFetch r .illegalWord pc lanes)
      else if ix = 0 ∧ v.flagsClear (bits h 44 12) = false then .next t
      else .next (t.updWave r (fun v => { v with
        done := 0, group := some { lanes := lanes, pc := pc, head := BitVec.ofNat 64 h, ix := ix } })) := by
  have hany : (List.range 8).any (fun i => s.poisonedByte (d + i)) = false := by
    simpa [List.any_eq_false] using hp
  simp only [exec, execEvClauseStart, hcur, hg, hv, hn, hb, hc, ht, hm, hany, hal, Option.isSome_none, Bool.false_eq_true,
    ne_eq, not_true_eq_false, or_self, if_false, if_neg (Nat.not_le.mpr hlow)]

/-! ## Late replies -/

theorem mem_of_assoc_eq_some {α : Type} {l : List (Nat × α)} {n : Nat} {x : α} (h : assoc l n = some x) : (n, x) ∈ l := by
  induction l with
  | nil => cases h
  | cons p rest ih =>
    obtain ⟨k, y⟩ := p
    rw [assoc] at h
    split at h
    · next hk =>
      cases hk
      cases h
      exact List.mem_cons_self
    · exact List.mem_cons_of_mem _ (ih h)

/-- A list of poisoned lanes with a mask added to a register's. -/
def addPoison (mask : Lanes) (l : List (Nat × Lanes)) (n : Nat) : List (Nat × Lanes) :=
  assocSet l n (((assoc l n).getD 0) ||| mask)

/-- Adding poison to registers keeps a poisoned lane, and poisons those of the mask in the registers given. -/
theorem foldl_addPoison (mask : Lanes) {i n : Nat} (hi : mask.getLsbD i = true) (regs : List Nat) (l : List (Nat × Lanes))
    (h : n ∈ regs ∨ ∃ x, assoc l n = some x ∧ x.getLsbD i = true) :
    ∃ x, assoc (regs.foldl (addPoison mask) l) n = some x ∧ x.getLsbD i = true := by
  induction regs generalizing l with
  | nil => simpa using h
  | cons m rest ih =>
    refine ih _ ?_
    by_cases hm : n = m
    · subst hm
      exact .inr ⟨_, assoc_assocSet_self _ _ _, by simp [hi]⟩
    · refine h.imp (fun hmem => (List.mem_cons.mp hmem).resolve_left hm) (fun hx => ?_)
      rwa [addPoison, assoc_assocSet_of_ne _ _ hm]

/-- The lanes of a mask hold poison in each register that takes it. -/
theorem Wave.poisonRegs_poisonedLane (v : Wave) {mask : Lanes} {i n : Nat} (hi : mask.getLsbD i = true) {regs : List Nat}
    (hn : n ∈ regs) : (v.poisonRegs regs mask).poisonedLane n i = true := by
  obtain ⟨x, hx, hxi⟩ := foldl_addPoison mask hi regs v.poison (.inl hn)
  exact List.any_eq_true.mpr ⟨(n, x), mem_of_assoc_eq_some hx, by simp [hxi]⟩

/-- A late reply of a saving workgroup completes its word with its registers poisoned. -/
theorem execEvReplyTakenAsPoisoned_wave? {s : State} {r : WaveRef} {g : Workgroup} {v : Wave} {k : Nat} {p : Pending}
    (hg : s.wg? (wgOf r) = some g) (hv : s.wave? r = some v) (hp : v.pending[k]? = some p) (hr : p.reply = true)
    (hs : g.saving = true) (hl : g.saveAt + 200000 ≤ s.fck) :
    ∃ t, exec (.evReplyTakenAsPoisoned r k) s = .next t
      ∧ t.wave? r = some ((v.complete k).poisonRegs p.regs p.mask) := by
  have hlate : s.repliesLate g = true := by simpa [State.repliesLate] using hl
  simp only [exec, execEvReplyTakenAsPoisoned, hg, hv, Option.bind_some, hp, hs, hr, hlate, Bool.and_self, if_true]
  exact ⟨_, rfl, by rw [State.updWave_wave?, if_pos rfl, hv, Option.map_some]⟩

/-! ## The statement -/

/-- Settles O46: the waits by `Wave.release_freed`, the polls by `pollOr`, the start of a clause and the late reply by what their
events do to the wave. -/
theorem waveEventsRun : Obligations.WaveEventsRun := by
  unfold Obligations.WaveEventsRun
  intro s r g v hg hv reached ends
  refine ⟨?sleep, ?waitf, ?poison, ?waits, ?poll, ?clause, ?reply, ?ended⟩
  case sleep =>
    obtain ⟨u, hu, hf⟩ := State.updWave_release (s := s) hv (p := fun _ x => match x with
      | .sleep t => decide (t ≤ s.tckOf r.core)
      | _ => false) (q := fun x => ∃ t, x = .sleep t ∧ t ≤ s.tckOf r.core) (fun x => by cases x <;> simp)
    exact ⟨_, u, rfl, hu, hf⟩
  case waitf =>
    obtain ⟨u, hu, hf⟩ := State.updWave_release (s := s) hv (p := fun v x => match x with
      | .waitf m => v.flagsClear m.toNat
      | _ => false) (q := fun x => ∃ m, x = .waitf m ∧ v.flagsClear m.toNat = true) (fun x => by cases x <;> simp)
    exact ⟨_, u, rfl, hu, hf⟩
  case poison =>
    intro hpoison i hi
    obtain ⟨f, hexec⟩ := exec_polls hg hv hi
    obtain ⟨pc, va, mask, htrap⟩ := State.pollOr_poison hpoison f
    exact ⟨_, hexec.trans (congrArg _ htrap), State.trapWave_poison_cases hg _ _ pc va mask _⟩
  case waits =>
    exact fun hclean => ⟨execEvAcqRelease_freed hg hv hclean, execEvTlwaitRelease_freed hg hv hclean⟩
  case poll =>
    intro hclean
    obtain ⟨t, hexec, ht⟩ := execEvTimelinePoll_wave? hg hv hclean
    refine ⟨t, _, hexec, ht, fun n l hl => ⟨fun a b c p m hs hr => ?_, fun hno => ?_⟩⟩
    · simp only [List.getElem?_map, hl, Option.map_some, State.pollLane_reached hs hr]
    · simp only [List.getElem?_map, hl, Option.map_some, State.pollLane_unreached hno]
  case clause =>
    intro lanes pc ix d hcur hn hb hc hlow hal x ht hm hp h y
    have hexec := execEvClauseStart_fetched hg hv hcur hn hb hc hlow hal ht hm hp
    have hgood (hff : bits h 56 8 = 0xFF) (hok : headerOk h = true) : ¬(bits h 56 8 ≠ 0xFF ∨ headerOk h = false) := by
      simp [hff, hok]
    refine ⟨fun hff hok => ⟨fun hgo => ?_, fun hix hfl => ?_⟩, fun hbad => ?_⟩
    · have hnot : ¬(ix = 0 ∧ v.flagsClear (bits h 44 12) = false) := by
        rintro ⟨hix, hfl⟩
        rcases hgo with hgo | hgo
        · exact Nat.ne_of_gt hgo hix
        · rw [hfl] at hgo
          cases hgo
      have hy : y.wave? r = some v :=
        (((s.translate_sameWgs _ _ _ _).trans (State.noteStray_sameWgs _ _ _)).wave? r).trans hv
      refine ⟨_, hexec.trans ((if_neg (hgood hff hok)).trans (if_neg hnot)), ?_⟩
      rw [State.updWave_wave?, if_pos rfl]
      exact congrArg _ hy
    · exact hexec.trans ((if_neg (hgood hff hok)).trans (if_pos ⟨hix, hfl⟩))
    · exact hexec.trans (if_pos hbad)
  case reply =>
    intro k p hp hr hs hl
    obtain ⟨t, hexec, ht⟩ := execEvReplyTakenAsPoisoned_wave? hg hv hp hr hs hl
    refine ⟨t, _, hexec, ht, ?_, ?_, ?_, fun n hn l hl => Wave.poisonRegs_poisonedLane _ hl hn⟩ <;>
      simp only [Wave.poisonRegs, Wave.complete, hp]
  case ended =>
    intro he hlive hpend hb hn
    simp [exec, execEvWaveEnd, hv, he, hlive, hpend, hb, hn]

end Sys2Proof.Machine
end

section
/-! Integer words complete (04 R122-R143): what a word that computes lane by lane leaves in its destination and in the flag word. -/

namespace Sys2Proof.Machine

open Sys2Proof

/-! ## Words that compute lane by lane -/

theorem at_map_range (g : Nat → Nat) {l : Nat} (hl : l < 32) : at_ ((List.range 32).map g) l = g l := by
  simp [at_, hl]

/-- What a function of three operands gives an active lane. -/
theorem laneMap_active {act : Lanes} {l : Nat} (hl : l < 32) (hact : act.getLsbD l = true) (x : Sources)
    (g : Nat → Nat → Nat → Nat × BitVec 6) :
    at_ (laneMap act x g).1 l = (g (at_ x.1 l) (at_ x.2.1 l) (at_ x.2.2 l)).1 := by
  simp only [laneMap, List.map_map, at_map_range _ hl, Function.comp_apply, hact, if_true]

/-- A ready word that computes lane by lane: each active lane of its destination holds its value, and its flags are raised. -/
theorem vecWord_ready {op : Nat} {w : WWord} {s : State} {c : WaveCtx} {f : WaveForm} (h : s.ready? op w = some (c, f))
    (t : WType) (g : Nat → Nat → Nat → Nat × BitVec 6) :
    let x := c.operands s f w
    ∃ u v, vecWord op w t s g = .next u ∧ u.wave? c.r = some v
      ∧ (∀ l, l < 32 → c.act.getLsbD l = true →
          v.laneValue (isWide t) w.d.toNat l = imageOf t (g (at_ x.1 l) (at_ x.2.1 l) (at_ x.2.2 l)).1
          ∧ v.poisonedLane w.d.toNat l = false)
      ∧ (u.wg? (wgOf c.r)).map (·.flags) = some (c.wg.flags ||| (laneMap c.act x g).2) := by
  intro x
  obtain ⟨u, v, hu, hv, hlanes, hflags⟩ := typedWord_ready h t (laneMap c.act x g).1 (laneMap c.act x g).2
  refine ⟨u, v, ?_, hv, fun l hl hact => ?_, hflags⟩
  · rw [vecWord, plainWord, waveWord_ready h, ← hu]
    rfl
  · rw [← laneMap_active hl hact]
    exact hlanes l hl hact

/-- A row whose instruction computes lane by lane holds. -/
theorem VecRow.lanewise_holds {op : Nat} {instr : WWord → Instr} {ty : WWord → WType} {g : WWord → Nat → Nat → Nat → Nat × BitVec 6}
    (hexec : ∀ w s, exec (instr w) s = vecWord op w (ty w) s (g w)) : (VecRow.lanewise op instr ty g).Holds := by
  intro w s c f h _
  obtain ⟨u, v, hu, hv, hlanes, hflags⟩ := vecWord_ready h (ty w) (g w)
  exact ⟨u, v, (hexec w s).trans hu, hv, hlanes, hflags⟩

/-! ## Words whose lanes depend on more than their operands -/

/-- A ready word that writes typed lanes and raises no flag. -/
theorem plainWord_writes {op : Nat} {w : WWord} {s : State} {c : WaveCtx} {f : WaveForm} (h : s.ready? op w = some (c, f))
    (t : WType) (vals : WaveCtx → Sources → Nat → Nat) :
    let x := c.operands s f w
    ∃ u v, plainWord op w s (fun _ c src s => s.writeTyped c.r t w.d.toNat c.act ((List.range 32).map (vals c src))) = .next u
      ∧ u.wave? c.r = some v
      ∧ (∀ l, l < 32 → c.act.getLsbD l = true →
          v.laneValue (isWide t) w.d.toNat l = imageOf t (vals c x l) ∧ v.poisonedLane w.d.toNat l = false)
      ∧ (u.wg? (wgOf c.r)).map (·.flags) = some (c.wg.flags ||| 0) := by
  intro x
  obtain ⟨u, v, hu, hv, hlanes, hflags⟩ := typedWord_ready h t ((List.range 32).map (vals c x)) 0
  refine ⟨u, v, ?_, hv, fun l hl hact => ?_, hflags⟩
  · rw [plainWord, waveWord_ready h, ← hu]
    rfl
  · rw [← at_map_range (vals c x) hl]
    exact hlanes l hl hact

/-- The lanes of a vector register that a word reads in its type. -/
theorem WaveCtx.read_typed (s : State) (c : WaveCtx) (t : WType) (d : BitVec 8) :
    c.read s [] (.t t) (.v d) = c.wv.typedLanes (wtypeBits t) d.toNat := by
  have hread := WaveCtx.read_v s c t d.isLt
  rwa [BitVec.ofNat_toNat, BitVec.setWidth_eq] at hread

/-- BFI reads its destination with its operands (04 R132). -/
theorem bfi_exec (w : WWord) (s : State) : exec (.wBfi w) s = plainWord 0x1B w s (fun _ c src s =>
    s.writeTyped c.r w.t w.d.toNat c.act ((List.range 32).map (fun l => (bfiVal (opWidth w)
      (at_ (c.wv.typedLanes (opWidth w) w.d.toNat) l) (at_ src.1 l) (at_ src.2.1 l) (at_ src.2.2 l)).1))) := by
  simp only [exec, execWBfi, bfiVec, WaveCtx.read_typed]
  rfl

/-- BFI on a ready word. -/
theorem bfi_ready {w : WWord} {s : State} {c : WaveCtx} {f : WaveForm} (h : s.ready? 0x1B w = some (c, f)) :
    let x := c.operands s f w
    ∃ u v, exec (.wBfi w) s = .next u ∧ u.wave? c.r = some v
      ∧ (∀ l, l < 32 → c.act.getLsbD l = true →
          v.laneValue (isWide w.t) w.d.toNat l = imageOf w.t (bfiVal (opWidth w) (at_ (c.wv.typedLanes (opWidth w) w.d.toNat) l)
            (at_ x.1 l) (at_ x.2.1 l) (at_ x.2.2 l)).1
          ∧ v.poisonedLane w.d.toNat l = false)
      ∧ (u.wg? (wgOf c.r)).map (·.flags) = some (c.wg.flags ||| 0) := by
  intro x
  rw [bfi_exec]
  exact plainWord_writes h w.t (fun c x l => (bfiVal (opWidth w)
    (at_ (c.wv.typedLanes (opWidth w) w.d.toNat) l) (at_ x.1 l) (at_ x.2.1 l) (at_ x.2.2 l)).1)

/-- Settles O1: every row but BFI and SEL computes lane by lane; BFI also reads its destination, and SEL a predicate. -/
theorem integerWordResults : Obligations.IntegerWordResults := by
  intro row hrow
  simp only [integerRows, List.mem_cons, List.not_mem_nil, or_false] at hrow
  rcases hrow with rfl | rfl | rfl | rfl | rfl | rfl | rfl | rfl | rfl | rfl | rfl | rfl | rfl | rfl | rfl | rfl | rfl | rfl | rfl
    | rfl | rfl | rfl | rfl | rfl | rfl | rfl | rfl | rfl | rfl | rfl
  iterate 21 exact VecRow.lanewise_holds fun _ _ => rfl
  · exact fun w s c f h _ => bfi_ready h
  iterate 4 exact VecRow.lanewise_holds fun _ _ => rfl
  · exact fun w s c f h _ => plainWord_writes h w.t (fun c x l => if (c.wv.pred (subOp w)).getLsbD l then at_ x.1 l else at_ x.2.1 l)
  iterate 3 exact VecRow.lanewise_holds fun _ _ => rfl

end Sys2Proof.Machine
end

section
/-! Operands of integer words (03 R87, R88; 04 R121-R124, R126, R130): their types, and the range of their values. -/

namespace Sys2Proof.Machine

open Sys2Proof

/-! ## Types (04 R126, R130) -/

/-- The integer words of one operand, by their opcodes in the vector map. -/
def oneOperand : List Nat := [0x0B, 0x0C, 0x13, 0x1C, 0x1D, 0x1E, 0x1F]

/-- The integer words of three operands of the type of the word. -/
def threeOperands : List Nat := [0x07, 0x19, 0x1A, 0x1B]

theorem genOp_ty (sc : Bool) (t : WType) : ((if sc then genS else genV) t).ty = .t t := by cases sc <;> rfl

/-- An integer word reads each operand it uses in its own type; MADW alone adds in a wider one. -/
theorem intForm_ty {sc : Bool} {op m : Nat} {t : WType} {f : WaveForm} (h : intForm sc op t m = some f) :
    f.a.ty = .t t ∧ (f.b.ty = .t t ∨ op ∈ oneOperand) ∧ (f.c.ty = .t t ∨ op ∉ threeOperands) := by
  unfold intForm at h
  dsimp only at h
  split at h
  all_goals simp only [Option.ite_none_right_eq_some, Option.some.injEq, reduceCtorEq] at h
  all_goals
    obtain ⟨-, rfl⟩ := h
    simp [genOp_ty, oneOperand, threeOperands]

/-- The words of R131 to R133 take types of 32 or 64 bits. -/
theorem intForm_bits {sc : Bool} {op m : Nat} {t : WType} {f : WaveForm} (h : intForm sc op t m = some f) (hop : 0x10 ≤ op) :
    wtypeBits t = 32 ∨ wtypeBits t = 64 := by
  unfold intForm at h
  dsimp only at h
  split at h
  all_goals simp only [Option.ite_none_right_eq_some, Option.some.injEq, reduceCtorEq] at h
  all_goals
    obtain ⟨htype, -⟩ := h
    revert hop htype
    cases t <;> simp [wtypeBits]

/-! ## Values -/

/-- Every operand is read as values of its type. -/
theorem WaveCtx.read_lt (s : State) (c : WaveCtx) (before : List Nat) (t : TCode) (o : Operand) :
    ∀ v ∈ c.read s before t o, v < 2 ^ tcodeBits t := by
  intro v hv
  have hmod (y : Nat) : y % 2 ^ tcodeBits t < 2 ^ tcodeBits t := Nat.mod_lt _ (Nat.two_pow_pos _)
  have hall {y : Nat} (h : v ∈ List.replicate 32 (y % 2 ^ tcodeBits t)) : v < 2 ^ tcodeBits t :=
    (List.eq_of_mem_replicate h) ▸ hmod y
  cases o with
  | v r =>
    simp only [WaveCtx.read] at hv
    split at hv
    · next h64 =>
      obtain ⟨p, -, rfl⟩ := List.mem_map.mp hv
      rw [h64]
      have hlo := p.1.isLt
      have hhi := p.2.isLt
      omega
    · obtain ⟨y, -, rfl⟩ := List.mem_map.mp hv
      exact hmod _
  | sq q =>
    obtain ⟨l, -, rfl⟩ := List.mem_map.mp hv
    split <;> exact hmod _
  | sp k =>
    obtain ⟨l, -, rfl⟩ := List.mem_map.mp hv
    exact hmod _
  | s r => exact hall hv
  | imm x => exact hall hv
  | lit x => exact hall hv
  | pair x => exact hall hv
  | ctl x => exact hall hv

theorem at_lt {l : List Nat} {b : Nat} (hb : 0 < b) (h : ∀ v ∈ l, v < b) (i : Nat) : at_ l i < b := by
  unfold at_
  cases hi : l[i]? with
  | none => exact hb
  | some v => exact h v (List.mem_of_getElem? hi)

/-- An operand read in a type gives each lane a value of the type. -/
theorem WaveCtx.at_read_lt (s : State) (c : WaveCtx) (before : List Nat) {t : WType} {ty : TCode} (hty : ty = .t t) (o : Operand)
    (i : Nat) : at_ (c.read s before ty o) i < 2 ^ wtypeBits t := by
  subst hty
  exact at_lt (Nat.two_pow_pos _) (c.read_lt s before (.t t) o) i

/-- The lanes of a register, or of a pair, are values of its type. -/
theorem Wave.at_typedLanes_lt (v : Wave) (n d i : Nat) : at_ (v.typedLanes n d) i < 2 ^ n := by
  refine at_lt (Nat.two_pow_pos _) (fun y hy => ?_) i
  unfold Wave.typedLanes at hy
  split at hy
  · next h64 =>
    obtain ⟨p, -, rfl⟩ := List.mem_map.mp hy
    rw [h64]
    have hlo := p.1.isLt
    have hhi := p.2.isLt
    omega
  · obtain ⟨x, -, rfl⟩ := List.mem_map.mp hy
    exact Nat.mod_lt _ (Nat.two_pow_pos _)

/-- The operands of a ready integer word lie in the range of its type, as many of them as it has. -/
theorem WaveCtx.operands_lt {op o : Nat} {sc : Bool} {w : WWord} {s : State} {c : WaveCtx} {f : WaveForm}
    (h : s.ready? op w = some (c, f)) (hform : waveForm op w = intForm sc o w.t w.m.toNat) :
    let x := c.operands s f w
    (∀ i, at_ x.1 i < 2 ^ wtypeBits w.t) ∧ (o ∉ oneOperand → ∀ i, at_ x.2.1 i < 2 ^ wtypeBits w.t)
      ∧ (o ∈ threeOperands → ∀ i, at_ x.2.2 i < 2 ^ wtypeBits w.t) := by
  obtain ⟨ha, hb, hc⟩ := intForm_ty (hform.symm.trans (State.ready?_spec h).2.1)
  exact ⟨WaveCtx.at_read_lt _ _ _ ha _, fun hb' => WaveCtx.at_read_lt _ _ _ (hb.resolve_right hb') _,
    fun hc' => WaveCtx.at_read_lt _ _ _ (hc.resolve_right (not_not_intro hc')) _⟩

end Sys2Proof.Machine
end

section
/-! Carry chains (04 R123, R128). -/

namespace Sys2Proof.Machine

open Sys2Proof

/-! ## Sums and differences with a carry or borrow -/

theorem addcVal_eq (t : WType) (x y ci : Nat) :
    let v : Int := x + y + ci
    addcVal t x y ci = ((BitVec.ofInt (wtypeBits t) v).toNat, decide (2 ^ wtypeBits t ≤ v ∨ v < 0)) := by
  intro v
  have hv : v = ((x + y + ci : Nat) : Int) := by push_cast; rfl
  have hpow : ((2 : Int) ^ wtypeBits t) = ((2 ^ wtypeBits t : Nat) : Int) := by push_cast; rfl
  refine Prod.ext ?_ (decide_eq_decide.mpr ?_)
  · rw [hv, BitVec.ofInt_natCast, BitVec.toNat_ofNat]
    rfl
  · rw [hv, hpow]
    omega

theorem subbVal_eq {t : WType} {x : Nat} (hx : x < 2 ^ wtypeBits t) (y ci : Nat) :
    let v : Int := x - y - ci
    subbVal t x y ci = ((BitVec.ofInt (wtypeBits t) v).toNat, decide (2 ^ wtypeBits t ≤ v ∨ v < 0)) := by
  intro v
  have hpow : ((2 : Int) ^ wtypeBits t) = ((2 ^ wtypeBits t : Nat) : Int) := by push_cast; rfl
  refine Prod.ext (BitVec.toNat_ofInt _).symm (decide_eq_decide.mpr ?_)
  change v < 0 ↔ _
  rw [hpow]
  omega

/-! ## The words -/

/-- The predicate that a carry chain leaves, where it is not p0: the carries of the active lanes, the old bits of the others. -/
def WaveCtx.Carries (c : WaveCtx) (w : WWord) (v : Wave) (carry : Nat → Bool) : Prop :=
  subOp w ≠ 0 → ∀ l, l < 32 → (v.preds[subOp w]?).map (·.getLsbD l) =
    (c.wv.preds[subOp w]?).map (fun p => if c.act.getLsbD l then carry l else p.getLsbD l)

/-- A bit of a predicate after a write under a mask. -/
theorem maskedWrite_getLsbD (p mask new : Lanes) {l : Nat} (hl : l < 32) :
    ((p &&& ~~~mask) ||| (new &&& mask)).getLsbD l = if mask.getLsbD l then new.getLsbD l else p.getLsbD l := by
  simp only [BitVec.getLsbD_or, BitVec.getLsbD_and, BitVec.getLsbD_not, hl, decide_true, Bool.true_and]
  cases mask.getLsbD l <;> simp

theorem uniformMask_getLsbD (b : Bool) {l : Nat} (hl : l < 32) :
    (if b then BitVec.allOnes 32 else 0 : Lanes).getLsbD l = b := by
  cases b
  · exact BitVec.getLsbD_zero
  · rw [if_pos rfl, BitVec.getLsbD_allOnes, decide_eq_true hl]

/-- A wave whose predicates a write under the active lanes has changed. -/
theorem WaveCtx.carries_of_preds {c : WaveCtx} {w : WWord} {v : Wave} {carry : Nat → Bool} (new : Lanes)
    (hv : subOp w ≠ 0 → v.preds = modAt c.wv.preds (subOp w) (fun p => (p &&& ~~~c.act) ||| (new &&& c.act)))
    (hnew : ∀ l, l < 32 → c.act.getLsbD l = true → new.getLsbD l = carry l) : c.Carries w v carry := by
  intro hk l hl
  rw [hv hk, modAt_getElem?, if_pos rfl, Option.map_map]
  congr 1
  funext p
  rw [Function.comp_apply, maskedWrite_getLsbD _ _ _ hl]
  split
  · next hact => exact hnew l hl hact
  · rfl

theorem State.writeP_preds {s : State} {r : WaveRef} {v : Wave} (n : Nat) (m b : Lanes) (h : s.wave? r = some v) :
    ∃ u, (s.writeP r n m b).wave? r = some u ∧ u.vregs = v.vregs ∧ u.sregs = v.sregs
      ∧ (n ≠ 0 → u.preds = modAt v.preds n (fun p => (p &&& ~~~m) ||| (b &&& m))) := by
  refine ⟨_, State.writeP_wave? n m b h, ?_, ?_, fun hn => by rw [if_neg hn]⟩ <;> split <;> rfl

/-- ADDC and SUBB, lane by lane (04 R128). -/
theorem carryVec_ready {op : Nat} {w : WWord} {s : State} {c : WaveCtx} {f : WaveForm} (h : s.ready? op w = some (c, f))
    (g : Nat → Nat → Nat → Nat × Bool) :
    let x := c.operands s f w
    let out (l : Nat) := g (at_ x.1 l) (at_ x.2.1 l) ((c.wv.pred (subOp w)).getLsbD l).toNat
    ∃ t v, carryVec op w s g = .next t ∧ t.wave? c.r = some v
      ∧ (∀ l, l < 32 → c.act.getLsbD l = true → v.laneValue (isWide w.t) w.d.toNat l = imageOf w.t (out l).1)
      ∧ c.Carries w v (fun l => (out l).2) := by
  intro x out
  obtain ⟨⟨u, hu, hbare, -⟩, -⟩ := State.ready?_consumed h
  obtain ⟨-, -, -, hpreds, -⟩ := Wave.bare_parts hbare
  let outs := (List.range 32).map out
  obtain ⟨y, hy, hybare, -, -, hlanes, -⟩ := State.writeTyped_wave? w.t w.d.toNat c.act (outs.map (·.1)) hu
  obtain ⟨-, -, -, hypreds, -⟩ := Wave.bare_parts hybare
  obtain ⟨z, hz, hvregs, -, hzpreds⟩ := State.writeP_preds (subOp w) c.act (maskOf (fun i => ((outs[i]?).getD (0, false)).2)) hy
  obtain ⟨hpv, -, -, -, hpp, -⟩ := Wave.pass_parts z (wordLen w)
  refine ⟨_, _, by rw [carryVec, plainWord, waveWord_ready h]; rfl, State.nextWord_wave? (wordLen w) hz, fun l hl hact => ?_, ?_⟩
  · have hout : at_ (outs.map (·.1)) l = (out l).1 := by simp [outs, at_, hl]
    rw [← hout, ← hlanes l hl hact]
    simp only [Wave.laneValue, Wave.vreg, hpv, hvregs]
  · refine WaveCtx.carries_of_preds (maskOf (fun i => ((outs[i]?).getD (0, false)).2)) (fun hk => ?_) (fun l hl _ => ?_)
    · rw [hpp, hzpreds hk, hypreds, hpreds]
    · rw [maskOf_getLsbD]
      simp [outs, hl]

/-- The scalar forms, where a lane is active (04 R123, R128). -/
theorem carrySca_ready {op : Nat} {w : WWord} {s : State} {c : WaveCtx} {f : WaveForm} (h : s.ready? op w = some (c, f))
    {low : Nat} (hlow : lowLane c.act = some low) (g : Nat → Nat → Nat → Nat × Bool) :
    let x := c.operands s f w
    let out := g (uniform x.1) (uniform x.2.1) ((c.wv.pred (subOp w)).getLsbD low).toNat
    ∃ t v, carrySca op w s g = .next t ∧ t.wave? c.r = some v
      ∧ v.sregs = setAt c.wv.sregs w.d.toNat (BitVec.ofNat 64 out.1) ∧ c.Carries w v (fun _ => out.2) := by
  intro x out
  obtain ⟨⟨u, hu, hbare, -⟩, -⟩ := State.ready?_consumed h
  obtain ⟨-, -, hsregs, hpreds, -⟩ := Wave.bare_parts hbare
  obtain ⟨z, hz, -, hzsregs, hzpreds⟩ := State.writeP_preds (subOp w) c.act (if out.2 then BitVec.allOnes 32 else 0)
    (State.writeS_wave? w.d.toNat out.1 hu)
  obtain ⟨-, -, -, hps, hpp, -⟩ := Wave.pass_parts z (wordLen w)
  refine ⟨_, _, by simp only [carrySca, plainWord, waveWord_ready h, hlow]; rfl, State.nextWord_wave? (wordLen w) hz, ?_,
    WaveCtx.carries_of_preds (if out.2 then BitVec.allOnes 32 else 0) (fun hk => ?_) (fun l hl _ => ?_)⟩
  · rw [hps, hzsregs, hsregs]
  · rw [hpp, hzpreds hk, hpreds]
  · exact uniformMask_getLsbD out.2 hl

/-- The scalar forms without an active lane (04 R123). -/
theorem carrySca_idle {op : Nat} {w : WWord} {s : State} {c : WaveCtx} {f : WaveForm} (h : s.ready? op w = some (c, f))
    (hact : c.act = 0) (g : Nat → Nat → Nat → Nat × Bool) :
    ∃ t v, carrySca op w s g = .next t ∧ t.wave? c.r = some v
      ∧ v.sregs = c.wv.sregs ∧ v.preds = c.wv.preds ∧ (t.wg? (wgOf c.r)).map (·.flags) = some c.wg.flags := by
  obtain ⟨⟨u, hu, hbare, -⟩, hflags⟩ := State.ready?_consumed h
  obtain ⟨-, -, hsregs, hpreds, -⟩ := Wave.bare_parts hbare
  obtain ⟨-, -, -, hps, hpp, -⟩ := Wave.pass_parts u (wordLen w)
  have hnone : lowLane c.act = none := by rw [hact]; decide
  refine ⟨_, _, by simp only [carrySca, plainWord, waveWord_ready h, hnone], State.nextWord_wave? (wordLen w) hu,
    hps.trans hsregs, hpp.trans hpreds, ?_⟩
  exact (State.updWave_flagsAt _ _ _ _).trans hflags

/-- Settles O7: the exact sum or difference leaves the range of the type where the carry says so, as the first operand of SUBB lies
in the range. -/
theorem carryWordResults : Obligations.CarryWordResults := by
  intro w s c f n plus minus result
  refine ⟨fun op instr g hmem h => ?_, fun op instr g hmem h low hlow => ?_, fun op instr hmem h hact => ?_⟩
  all_goals simp only [List.mem_cons, Prod.mk.injEq, List.not_mem_nil, or_false] at hmem
  · rcases hmem with ⟨rfl, rfl, rfl⟩ | ⟨rfl, rfl, rfl⟩
    · have hready := carryVec_ready h (addcVal w.t)
      simp only [addcVal_eq] at hready
      exact hready
    · have hready := carryVec_ready h (subbVal w.t)
      have hx := (WaveCtx.operands_lt (sc := false) (o := 0x04) h rfl).1
      simp only [subbVal_eq (hx _)] at hready
      exact hready
  · rcases hmem with ⟨rfl, rfl, rfl⟩ | ⟨rfl, rfl, rfl⟩
    · have hready := carrySca_ready h hlow (addcVal w.t)
      simp only [addcVal_eq] at hready
      exact hready
    · have hready := carrySca_ready h hlow (subbVal w.t)
      have hx := (WaveCtx.operands_lt (sc := true) (o := 0x04) h rfl).1
      simp only [uniform, subbVal_eq (hx _)] at hready
      exact hready
  · rcases hmem with ⟨rfl, rfl⟩ | ⟨rfl, rfl⟩ <;> exact carrySca_idle h hact _

end Sys2Proof.Machine
end

section
/-! Bit words in bit vectors of their type's width (04 R131-R133). -/

namespace Sys2Proof.Machine

open Sys2Proof

/-! ## Logic and shifts (04 R131) -/

theorem bit_eq_testBit (x i : Nat) : bit x i = x.testBit i := by
  rw [bit, Nat.testBit_eq_decide_div_mod_eq, beq_eq_decide]

theorem wrap_eq_ofInt (n : Nat) (v : Int) : wrap n v = (BitVec.ofInt n v).toNat := (BitVec.toNat_ofInt v).symm

theorem signed_toNat {n : Nat} (x : BitVec n) : signed n x.toNat = x.toInt := by
  simp only [signed, Nat.mod_eq_of_lt x.isLt, BitVec.toInt_eq_toNat_cond]
  push_cast
  split <;> split <;> omega

theorem notVal_toNat {n : Nat} (x : BitVec n) : (notVal n x.toNat).1 = (~~~x).toNat := BitVec.toNat_not.symm

theorem andnVal_toNat {n : Nat} (x y : BitVec n) : (andnVal n x.toNat y.toNat).1 = (x &&& ~~~y).toNat := by
  rw [BitVec.toNat_and, BitVec.toNat_not]
  rfl

theorem shlVal_toNat {n : Nat} (x y : BitVec n) : (shlVal n x.toNat y.toNat).1 = (x <<< (y.toNat % 256)).toNat := by
  simp only [shlVal, ← ofNat_mul_two_pow, BitVec.toNat_ofNat]
  split
  · next h => rw [Nat.mod_eq_zero_of_dvd (Dvd.dvd.mul_left (Nat.pow_dvd_pow 2 h) _)]
  · rfl

theorem shrVal_toNat {n : Nat} (x y : BitVec n) : (shrVal n x.toNat y.toNat).1 = (x >>> (y.toNat % 256)).toNat := by
  rw [BitVec.toNat_ushiftRight, Nat.shiftRight_eq_div_pow, shrVal]
  dsimp only
  split
  · next h => rw [Nat.div_eq_of_lt (Nat.lt_of_lt_of_le x.isLt (Nat.pow_le_pow_right (by omega) h))]
  · rfl

/-- A shift right of a signed value by its width or more leaves its sign. -/
theorem sshiftRight_of_le {n s : Nat} (x : BitVec n) (h : n ≤ s) : x.sshiftRight s = if x.msb then BitVec.allOnes n else 0 := by
  refine BitVec.eq_of_getLsbD_eq fun i hi => ?_
  rw [BitVec.getLsbD_sshiftRight]
  have hin : ¬ s + i < n := by omega
  cases x.msb <;> simp [hin, hi]

theorem sarVal_toNat {n : Nat} (x y : BitVec n) : (sarVal n x.toNat y.toNat).1 = (x.sshiftRight (y.toNat % 256)).toNat := by
  simp only [sarVal, signed_toNat]
  split
  · next h =>
    rw [sshiftRight_of_le x h, bit_eq_testBit, BitVec.msb_eq_getLsbD_last, BitVec.getLsbD]
    cases x.toNat.testBit (n - 1) <;> simp
  · rw [wrap_eq_ofInt, ← ofInt_div_two_pow]
    push_cast
    rfl

/-- A rotation as a sum: the bits that leave at the top come in below those that stay. -/
theorem rotate_add_eq_or {n r x : Nat} (hr : r ≤ n) (hx : x < 2 ^ n) :
    (x * 2 ^ r + x / 2 ^ (n - r)) % 2 ^ n = x * 2 ^ r % 2 ^ n ||| x / 2 ^ (n - r) := by
  have hpow : 2 ^ n = 2 ^ r * 2 ^ (n - r) := by rw [← Nat.pow_add, Nat.add_sub_cancel' hr]
  have hlow : x / 2 ^ (n - r) < 2 ^ r := by rwa [Nat.div_lt_iff_lt_mul (Nat.two_pow_pos _), ← hpow]
  have hhigh : x * 2 ^ r % 2 ^ n = 2 ^ r * (x % 2 ^ (n - r)) := by rw [hpow, Nat.mul_comm x, Nat.mul_mod_mul_left]
  have hlt : 2 ^ r * (x % 2 ^ (n - r)) + x / 2 ^ (n - r) < 2 ^ n :=
    calc 2 ^ r * (x % 2 ^ (n - r)) + x / 2 ^ (n - r)
        < 2 ^ r * (x % 2 ^ (n - r)) + 2 ^ r := Nat.add_lt_add_left hlow _
      _ = 2 ^ r * (x % 2 ^ (n - r) + 1) := (Nat.mul_succ ..).symm
      _ ≤ 2 ^ r * 2 ^ (n - r) := Nat.mul_le_mul_left _ (Nat.mod_lt x (Nat.two_pow_pos _))
      _ = 2 ^ n := hpow.symm
  rw [Nat.add_mod, Nat.mod_eq_of_lt (Nat.lt_of_le_of_lt (Nat.div_le_self ..) hx), hhigh, Nat.mod_eq_of_lt hlt]
  exact Nat.two_pow_add_eq_or_of_lt hlow _

theorem rotVal_toNat {n : Nat} (hn : 0 < n) (x y : BitVec n) :
    (rotVal n x.toNat y.toNat).1 = (x.rotateLeft (y.toNat % n)).toNat := by
  have hr : y.toNat % n < n := Nat.mod_lt _ hn
  rw [BitVec.toNat_rotateLeft, Nat.mod_eq_of_lt hr, Nat.shiftLeft_eq, Nat.shiftRight_eq_div_pow]
  exact rotate_add_eq_or hr.le x.isLt

theorem funnelVal_toNat {n : Nat} (x y z : BitVec n) :
    (funnelVal n x.toNat y.toNat z.toNat).1 = (((x ++ y) >>> (z.toNat % n)).setWidth n).toNat := by
  rw [BitVec.toNat_setWidth, BitVec.toNat_ushiftRight, BitVec.toNat_append, Nat.shiftRight_eq_div_pow, Nat.shiftLeft_eq,
    Nat.mul_comm, ← Nat.two_pow_add_eq_or_of_lt y.isLt, Nat.mul_comm]
  rfl

/-! ## Fields (04 R132) -/

/-- A field's width as the model and the rule have it: nothing where the field is empty or starts beyond the type. -/
theorem bfxVal_toNat (t : WType) (x y z : BitVec (wtypeBits t)) :
    (bfxVal t x.toNat y.toNat z.toNat).1 =
      (let st := y.toNat % 256
       let ln := min (z.toNat % 256) (wtypeBits t - st)
       if ln = 0 then 0 else if isSigned t then (x.extractLsb' st ln).signExtend (wtypeBits t)
         else (x.extractLsb' st ln).setWidth (wtypeBits t)).toNat := by
  simp only [bfxVal]
  generalize y.toNat % 256 = st
  generalize z.toNat % 256 = len
  have hempty : (len = 0 ∨ wtypeBits t ≤ st) ↔ min len (wtypeBits t - st) = 0 := by omega
  by_cases h0 : min len (wtypeBits t - st) = 0
  · rw [if_pos (hempty.mpr h0), if_pos h0]
    rfl
  · rw [if_neg (fun h => h0 (hempty.mp h)), if_neg h0]
    have hle : min len (wtypeBits t - st) ≤ wtypeBits t := by omega
    generalize min len (wtypeBits t - st) = ln at hle
    have hfield : bits x.toNat st ln = (x.extractLsb' st ln).toNat := by
      rw [BitVec.extractLsb'_toNat, Nat.shiftRight_eq_div_pow]
      rfl
    cases isSigned t
    · simp only [Bool.false_eq_true, if_false, hfield, BitVec.toNat_setWidth]
      exact (Nat.mod_eq_of_lt (Nat.lt_of_lt_of_le (BitVec.isLt _) (Nat.pow_le_pow_right (by omega) hle))).symm
    · simp only [if_true, hfield, signed_toNat, wrap_eq_ofInt]
      rfl

/-- A number with a field of its bits replaced, bit by bit. -/
theorem insertField_testBit {old new st ln : Nat} (hnew : new < 2 ^ ln) (i : Nat) :
    (old - bits old st ln * 2 ^ st + new * 2 ^ st).testBit i =
      if st ≤ i ∧ i < st + ln then new.testBit (i - st) else old.testBit i := by
  have hold : old = 2 ^ st * (2 ^ ln * (old / 2 ^ st / 2 ^ ln) + bits old st ln) + old % 2 ^ st := by
    rw [bits, Nat.div_add_mod, Nat.div_add_mod]
  have hvalue : old - bits old st ln * 2 ^ st + new * 2 ^ st
      = 2 ^ st * (2 ^ ln * (old / 2 ^ st / 2 ^ ln) + new) + old % 2 ^ st := by
    have hsub : bits old st ln * 2 ^ st ≤ old := by
      conv_rhs => rw [hold]
      nlinarith [Nat.zero_le (2 ^ st * (2 ^ ln * (old / 2 ^ st / 2 ^ ln))), Nat.zero_le (old % 2 ^ st)]
    generalize old / 2 ^ st / 2 ^ ln = hi at hold ⊢
    generalize hlo : old % 2 ^ st = lo at hold ⊢
    generalize bits old st ln = mid at hold hsub ⊢
    have hexpand : 2 ^ st * (2 ^ ln * hi + mid) = 2 ^ st * (2 ^ ln * hi) + mid * 2 ^ st := by ring
    have hexpand' : 2 ^ st * (2 ^ ln * hi + new) = 2 ^ st * (2 ^ ln * hi) + new * 2 ^ st := by ring
    omega
  have hlow := Nat.mod_lt old (Nat.two_pow_pos st)
  rw [hvalue, Nat.testBit_two_pow_mul_add _ hlow, Nat.testBit_two_pow_mul_add _ hnew]
  by_cases hst : i < st
  · rw [if_pos hst, if_neg (by omega), Nat.testBit_mod_two_pow]
    simp [hst]
  · rw [if_neg hst]
    by_cases hin : i - st < ln
    · rw [if_pos hin, if_pos (by omega)]
    · rw [if_neg hin, if_neg (by omega), Nat.testBit_div_two_pow, Nat.testBit_div_two_pow]
      congr 1
      omega

/-- The bits of a field's mask. -/
theorem fieldMask_getLsbD {n st ln : Nat} (h : st + ln ≤ n) (i : Nat) :
    ((BitVec.allOnes ln).setWidth n <<< st).getLsbD i = decide (st ≤ i ∧ i < st + ln) := by
  rw [BitVec.getLsbD_shiftLeft, BitVec.getLsbD_setWidth, BitVec.getLsbD_allOnes, Bool.eq_iff_iff]
  simp only [Bool.and_eq_true, Bool.not_eq_true', decide_eq_true_eq, decide_eq_false_iff_not]
  omega

theorem bfiVal_toNat {n : Nat} (old x y z : BitVec n) :
    (bfiVal n old.toNat x.toNat y.toNat z.toNat).1 =
      (let st := y.toNat % 256
       let ln := min (z.toNat % 256) (n - st)
       let field : BitVec n := (BitVec.allOnes ln).setWidth n <<< st
       (old &&& ~~~field) ||| ((x <<< st) &&& field)).toNat := by
  simp only [bfiVal]
  generalize y.toNat % 256 = st
  generalize z.toNat % 256 = len
  have hempty : (len = 0 ∨ n ≤ st) ↔ min len (n - st) = 0 := by omega
  by_cases h0 : min len (n - st) = 0
  · rw [if_pos (hempty.mpr h0), h0]
    simp
  · rw [if_neg (fun h => h0 (hempty.mp h))]
    have hle : st + min len (n - st) ≤ n := by omega
    generalize min len (n - st) = ln at hle
    have hnew : bits x.toNat 0 ln < 2 ^ ln := Nat.mod_lt _ (Nat.two_pow_pos ln)
    refine Nat.eq_of_testBit_eq fun i => ?_
    rw [insertField_testBit hnew, BitVec.testBit_toNat, bits, Nat.pow_zero, Nat.div_one, Nat.testBit_mod_two_pow,
      BitVec.testBit_toNat, BitVec.testBit_toNat]
    rw [BitVec.getLsbD_or, BitVec.getLsbD_and, BitVec.getLsbD_not, BitVec.getLsbD_and, fieldMask_getLsbD hle]
    by_cases hin : st ≤ i ∧ i < st + ln
    · have hi : i < n := by omega
      have hfield : i - st < ln := by omega
      rw [if_pos hin, decide_eq_true hin, decide_eq_true hfield, BitVec.getLsbD_shiftLeft, decide_eq_true hi,
        decide_eq_false (Nat.not_lt.mpr hin.1)]
      simp
    · cases hbit : old.getLsbD i
      · simp [hin]
      · simp [hin, BitVec.lt_of_getLsbD hbit]

/-! ## Counts and the reversal (04 R133) -/

/-- A count of bits of a type is a value of the type. -/
theorem toNat_ofNat_of_le {n k : Nat} (h : k ≤ n) : (BitVec.ofNat n k).toNat = k := by
  rw [BitVec.toNat_ofNat]
  exact Nat.mod_eq_of_lt (Nat.lt_of_le_of_lt h Nat.lt_two_pow_self)

theorem popcVal_toNat {n : Nat} (x : BitVec n) :
    (popcVal n x.toNat).1 = (BitVec.ofNat n ((List.range n).countP (fun i => x.getLsbD i))).toNat := by
  have hle : (List.range n).countP (fun i => x.getLsbD i) ≤ n := List.countP_le_length.trans_eq List.length_range
  rw [toNat_ofNat_of_le hle, List.countP_eq_length_filter]
  simp only [popcVal, popCount, bit_eq_testBit, BitVec.testBit_toNat]

theorem length_takeWhile_le {α : Type} (p : α → Bool) (l : List α) : (l.takeWhile p).length ≤ l.length :=
  (List.takeWhile_prefix p).length_le

/-- The length of the run before the first element that a predicate picks. -/
theorem findIx_eq_takeWhile {α : Type} (p : α → Bool) (l : List α) :
    (findIx p l).getD l.length = (l.takeWhile (fun x => !p x)).length := by
  induction l with
  | nil => rfl
  | cons x rest ih =>
    cases hp : p x
    · simp only [findIx, hp, Bool.false_eq_true, if_false, List.length_cons, List.takeWhile_cons, Bool.not_false, if_true, ← ih]
      cases findIx p rest <;> rfl
    · simp [findIx, hp]

theorem ctzVal_toNat {n : Nat} (x : BitVec n) : (ctzVal n x.toNat).1 =
    (BitVec.ofNat n ((List.range n).takeWhile (fun i => !x.getLsbD i)).length).toNat := by
  have hrun := findIx_eq_takeWhile (fun i => bit x.toNat i) (List.range n)
  rw [toNat_ofNat_of_le ((length_takeWhile_le _ _).trans_eq List.length_range)]
  simp only [List.length_range, bit_eq_testBit, BitVec.testBit_toNat] at hrun
  simpa only [ctzVal, bit_eq_testBit, BitVec.testBit_toNat] using hrun

/-- A run over a range ends at the first index that leaves it. -/
theorem length_takeWhile_range {n k : Nat} {p : Nat → Bool} (hrun : ∀ i, i < k → p i = true) (hk : k ≤ n)
    (hend : k < n → p k = false) : ((List.range n).takeWhile p).length = k := by
  obtain ⟨m, rfl⟩ := Nat.exists_eq_add_of_le hk
  rw [List.range_add, List.takeWhile_append_of_pos (by simpa using hrun), List.length_append, List.length_range]
  cases m with
  | zero => rfl
  | succ m => simp [List.range_succ_eq_map, hend]

theorem clzVal_toNat {n : Nat} (x : BitVec n) : (clzVal n x.toNat).1 =
    (BitVec.ofNat n ((List.range n).takeWhile (fun i => !x.getLsbD (n - 1 - i))).length).toNat := by
  have hrun : ((List.range n).takeWhile (fun i => !x.getLsbD (n - 1 - i))).length = n - bitLen x.toNat := by
    by_cases h0 : x.toNat = 0
    · have hx : x = 0 := BitVec.eq_of_toNat_eq h0
      exact length_takeWhile_range (by simp [hx]) (Nat.sub_le ..) (by simp [h0, bitLen])
    · have hlog : x.toNat.log2 < n := (Nat.log2_lt h0).mpr x.isLt
      have hlen : bitLen x.toNat = x.toNat.log2 + 1 := if_neg h0
      rw [hlen]
      refine length_takeWhile_range (fun i hi => ?_) (Nat.sub_le ..) (fun _ => ?_)
      · have hhigh : x.toNat < 2 ^ (n - 1 - i) := (Nat.log2_lt h0).mp (by omega)
        rw [← BitVec.testBit_toNat, Nat.testBit_lt_two_pow hhigh]
        rfl
      · have htop : n - 1 - (n - (x.toNat.log2 + 1)) = x.toNat.log2 := by omega
        rw [htop, ← BitVec.testBit_toNat, Nat.testBit_log2 h0]
        rfl
  rw [toNat_ofNat_of_le ((length_takeWhile_le _ _).trans_eq List.length_range), hrun]
  rfl

/-- A sum of bits that are picked from the top is the mask of the bits picked from the bottom. -/
theorem foldl_bits_from_top (p : Nat → Bool) (n : Nat) :
    (List.range n).foldl (fun a i => if p i then a + 2 ^ (n - 1 - i) else a) 0
      = (List.range n).foldl (fun a i => if p (n - 1 - i) then a + 2 ^ i else a) 0 := by
  have hperm : (List.range n).map (fun i => n - 1 - i) |>.Perm (List.range n) := by
    have hreverse := List.reverse_range' (s := 0) (n := n)
    rw [Nat.zero_add, ← List.range_eq_range'] at hreverse
    rw [← hreverse]
    exact List.reverse_perm _
  have hsum := hperm.foldl_eq' (f := fun a i => if p (n - 1 - i) then a + 2 ^ i else a)
    (fun x _ y _ z => by split <;> split <;> omega) 0
  rw [← hsum, List.foldl_map]
  refine List.foldl_ext _ _ _ fun a i hi => ?_
  have hback : n - 1 - (n - 1 - i) = i := by have := List.mem_range.mp hi; omega
  rw [hback]

theorem brevVal_toNat {n : Nat} (x : BitVec n) : (brevVal n x.toNat).1 = x.reverse.toNat := by
  obtain ⟨-, hbit⟩ := maskSum_testBit (fun i => x.getLsbD (n - 1 - i)) n
  refine Nat.eq_of_testBit_eq fun i => ?_
  simp only [brevVal, bit_eq_testBit, BitVec.testBit_toNat]
  rw [foldl_bits_from_top, hbit, BitVec.getLsbD_reverse, BitVec.getMsbD_eq_getLsbD]

end Sys2Proof.Machine
end

section
/-! Integer words as the rules write them (04 R127, R131-R133): exact results that wrap or are held to the bounds of their type, and
bit words in bit vectors. -/

namespace Sys2Proof.Machine

open Sys2Proof

/-! ## Exact results (04 R127) -/

/-- An operand in the range of its type is the integer it stands for. -/
theorem toInt_eq_intOperand {t : WType} {x : Nat} (hx : x < 2 ^ wtypeBits t) : toInt t x = intOperand t x := by
  unfold toInt intOperand
  split
  · rw [← signed_toNat, BitVec.toNat_ofNat, Nat.mod_eq_of_lt hx]
  · rw [BitVec.toNat_ofNat, Nat.mod_eq_of_lt hx]

theorem wrap_intOperand {t : WType} {x : Nat} (hx : x < 2 ^ wtypeBits t) : wrap (wtypeBits t) (intOperand t x) = x := by
  rw [wrap_eq_ofInt, intOperand]
  split
  · rw [BitVec.ofInt_toInt, BitVec.toNat_ofNat, Nat.mod_eq_of_lt hx]
  · rw [BitVec.ofInt_natCast, BitVec.toNat_ofNat, BitVec.toNat_ofNat, Nat.mod_mod, Nat.mod_eq_of_lt hx]

theorem intOperand_bounds (t : WType) (x : Nat) : intLeast t ≤ intOperand t x ∧ intOperand t x ≤ intGreatest t := by
  unfold intOperand intLeast intGreatest
  split
  · have hle := BitVec.le_toInt (BitVec.ofNat (wtypeBits t) x)
    have hlt := BitVec.toInt_lt (x := BitVec.ofNat (wtypeBits t) x)
    push_cast
    omega
  · have hlt := (BitVec.ofNat (wtypeBits t) x).isLt
    omega

/-- An exact result that leaves the range of its type under .sat. -/
def Saturates (w : WWord) (v : Int) : Prop := satBit w = true ∧ (v < intLeast w.t ∨ intGreatest w.t < v)

theorem intLo_eq (t : WType) : intLo (isSigned t) (wtypeBits t) = intLeast t := rfl

theorem intHi_eq (t : WType) : intHi (isSigned t) (wtypeBits t) = intGreatest t := rfl

theorem wrapOrSat_of_not_held {w : WWord} {v : Int} (h : ¬Saturates w v) :
    wrapOrSat w.t (satBit w) v = (wrap (wtypeBits w.t) v, 0) := by
  unfold wrapOrSat convII
  split
  · next hsat =>
    rw [Saturates, not_and_or, not_or] at h
    obtain ⟨hlo, hhi⟩ := h.resolve_left (not_not_intro hsat)
    rw [clampInt, intLo_eq, intHi_eq, if_neg hlo, if_neg hhi]
  · rfl

theorem wrapOrSat_of_held {w : WWord} {v : Int} (h : Saturates w v) :
    wrapOrSat w.t (satBit w) v =
      (wrap (wtypeBits w.t) (if v < intLeast w.t then intLeast w.t else intGreatest w.t), flagSA) := by
  obtain ⟨hsat, hout⟩ := h
  rw [wrapOrSat, convII, if_pos hsat, clampInt, intLo_eq, intHi_eq]
  by_cases hlo : v < intLeast w.t
  · rw [if_pos hlo, if_pos hlo]
  · rw [if_neg hlo, if_neg hlo, if_pos (hout.resolve_left hlo)]

/-- MIN and MAX choose one of their operands, which lies in the range of the type. -/
theorem minVal_eq {w : WWord} {x y : Nat} (hx : x < 2 ^ wtypeBits w.t) (hy : y < 2 ^ wtypeBits w.t) :
    minVal w.t x y = wrapOrSat w.t (satBit w) (min (intOperand w.t x) (intOperand w.t y)) := by
  have hxb := intOperand_bounds w.t x
  have hyb := intOperand_bounds w.t y
  rw [wrapOrSat_of_not_held (fun h => by have := h.2; omega), minVal, toInt_eq_intOperand hx, toInt_eq_intOperand hy]
  split
  · next h => rw [min_eq_left h, wrap_intOperand hx]
  · next h => rw [min_eq_right (le_of_not_ge h), wrap_intOperand hy]

theorem maxVal_eq {w : WWord} {x y : Nat} (hx : x < 2 ^ wtypeBits w.t) (hy : y < 2 ^ wtypeBits w.t) :
    maxVal w.t x y = wrapOrSat w.t (satBit w) (max (intOperand w.t x) (intOperand w.t y)) := by
  have hxb := intOperand_bounds w.t x
  have hyb := intOperand_bounds w.t y
  rw [wrapOrSat_of_not_held (fun h => by have := h.2; omega), maxVal, toInt_eq_intOperand hx, toInt_eq_intOperand hy]
  split
  · next h => rw [max_eq_right h, wrap_intOperand hy]
  · next h => rw [max_eq_left (le_of_not_ge h), wrap_intOperand hx]

/-! ## Flags of lanes -/

theorem foldl_or_of_zero {α : Type} {g : α → BitVec 6} {l : List α} (h : ∀ x ∈ l, g x = 0) :
    l.foldl (fun a x => a ||| g x) 0 = 0 :=
  foldl_keep l _ 0 (fun _ x hx => by rw [h x hx]; exact BitVec.or_zero)

/-- Flags raised once or more are raised. -/
theorem foldl_or_of_some {α : Type} {g : α → BitVec 6} {b : BitVec 6} {l : List α} (h : ∀ x ∈ l, g x = 0 ∨ g x = b)
    (hsome : ∃ x ∈ l, g x = b) : l.foldl (fun a x => a ||| g x) 0 = b := by
  have stays : ∀ l : List α, (∀ x ∈ l, g x = 0 ∨ g x = b) → l.foldl (fun a x => a ||| g x) b = b := fun l hl => by
    induction l with
    | nil => rfl
    | cons x rest ih =>
      have hx : b ||| g x = b := by
        rcases hl x (List.mem_cons_self ..) with hx | hx <;> rw [hx]
        · exact BitVec.or_zero
        · exact BitVec.or_self
      rw [List.foldl_cons, hx, ih (fun y hy => hl y (List.mem_cons_of_mem _ hy))]
  induction l with
  | nil => obtain ⟨x, hx, -⟩ := hsome; cases hx
  | cons x rest ih =>
    have hrest : ∀ y ∈ rest, g y = 0 ∨ g y = b := fun y hy => h y (List.mem_cons_of_mem _ hy)
    rw [List.foldl_cons, show (0 : BitVec 6) ||| g x = g x from BitVec.zero_or]
    by_cases hx : g x = b
    · rw [hx, stays rest hrest]
    · obtain ⟨y, hy, hyb⟩ := hsome
      rw [(h x (List.mem_cons_self ..)).resolve_right hx]
      exact ih hrest ⟨y, (List.mem_cons.mp hy).resolve_left (fun e => hx (e ▸ hyb)), hyb⟩

/-- The flags of a word whose active lanes each raise nothing, or the same flags. -/
theorem laneMap_flags {act : Lanes} {x : Sources} {g : Nat → Nat → Nat → Nat × BitVec 6} {b : BitVec 6} {p : Nat → Prop}
    (hp : ∀ l, p l → (g (at_ x.1 l) (at_ x.2.1 l) (at_ x.2.2 l)).2 = b)
    (hn : ∀ l, ¬p l → (g (at_ x.1 l) (at_ x.2.1 l) (at_ x.2.2 l)).2 = 0) :
    ((∃ l, l < 32 ∧ act.getLsbD l = true ∧ p l) → (laneMap act x g).2 = b)
    ∧ ((∀ l, l < 32 → act.getLsbD l = true → ¬p l) → (laneMap act x g).2 = 0) := by
  have hlane (l : Nat) (hact : act.getLsbD l = true) :
      (if act.getLsbD l then g (at_ x.1 l) (at_ x.2.1 l) (at_ x.2.2 l) else (0, 0)).2 = (g (at_ x.1 l) (at_ x.2.1 l) (at_ x.2.2 l)).2 := by
    rw [if_pos hact]
  simp only [laneMap, List.foldl_map]
  refine ⟨fun ⟨l, hl, hact, hpl⟩ => foldl_or_of_some (fun i _ => ?_) ⟨l, List.mem_range.mpr hl, (hlane l hact).trans (hp l hpl)⟩,
    fun hnone => foldl_or_of_zero (fun i hi => ?_)⟩
  · by_cases hact : act.getLsbD i = true
    · rw [hlane i hact]
      by_cases hpi : p i
      · exact .inr (hp i hpi)
      · exact .inl (hn i hpi)
    · rw [if_neg hact]
      exact .inl rfl
  · by_cases hact : act.getLsbD i = true
    · rw [hlane i hact, hn i (hnone i (List.mem_range.mp hi) hact)]
    · rw [if_neg hact]

/-! ## The words of R127 -/

/-- A ready word whose lanes wrap or saturate exact results. -/
theorem exactWord_ready {op : Nat} {i : Instr} {w : WWord} {s : State} {c : WaveCtx} {f : WaveForm} (h : s.ready? op w = some (c, f))
    {g : Nat → Nat → Nat → Nat × BitVec 6} (hexec : exec i s = vecWord op w w.t s g) {v : Nat → Int}
    (hval : let x := c.operands s f w
      ∀ l, g (at_ x.1 l) (at_ x.2.1 l) (at_ x.2.2 l) = wrapOrSat w.t (satBit w) (v l)) :
    ∃ t u, exec i s = .next t ∧ t.wave? c.r = some u
      ∧ (∀ l, l < 32 → c.act.getLsbD l = true →
          (¬Saturates w (v l) → u.laneValue (isWide w.t) w.d.toNat l = imageOf w.t (BitVec.ofInt (wtypeBits w.t) (v l)).toNat)
          ∧ (Saturates w (v l) → u.laneValue (isWide w.t) w.d.toNat l = imageOf w.t (BitVec.ofInt (wtypeBits w.t)
            (if v l < intLeast w.t then intLeast w.t else intGreatest w.t)).toNat))
      ∧ ((∃ l, l < 32 ∧ c.act.getLsbD l = true ∧ Saturates w (v l)) → (t.wg? (wgOf c.r)).map (·.flags) = some (c.wg.flags ||| flagSA))
      ∧ ((∀ l, l < 32 → c.act.getLsbD l = true → ¬Saturates w (v l)) → (t.wg? (wgOf c.r)).map (·.flags) = some c.wg.flags) := by
  obtain ⟨t, u, ht, hu, hlanes, hflags⟩ := vecWord_ready h w.t g
  obtain ⟨hsome, hnone⟩ := laneMap_flags (act := c.act) (x := c.operands s f w) (g := g) (b := flagSA) (p := fun l => Saturates w (v l))
    (fun l hl => by rw [hval, wrapOrSat_of_held hl]) (fun l hl => by rw [hval, wrapOrSat_of_not_held hl])
  refine ⟨t, u, hexec.trans ht, hu, fun l hl hact => ⟨fun hheld => ?_, fun hheld => ?_⟩, fun hex => ?_, fun hno => ?_⟩
  · rw [(hlanes l hl hact).1, hval, wrapOrSat_of_not_held hheld, wrap_eq_ofInt]
  · rw [(hlanes l hl hact).1, hval, wrapOrSat_of_held hheld, wrap_eq_ofInt]
  · rw [hflags, hsome hex]
  · rw [hflags, hnone hno]
    exact congrArg some BitVec.or_zero

theorem intRows_exact {row : IntRow} (hrow : row ∈ intRows) {w : WWord} {s : State} {c : WaveCtx} {f : WaveForm}
    (h : s.ready? row.op w = some (c, f)) :
    let x := c.operands s f w
    ∃ g, exec (row.instr w) s = vecWord row.op w w.t s g ∧ ∀ l, g (at_ x.1 l) (at_ x.2.1 l) (at_ x.2.2 l) =
      wrapOrSat w.t (satBit w) (row.exact (intOperand w.t (at_ x.1 l)) (intOperand w.t (at_ x.2.1 l)) (intOperand w.t (at_ x.2.2 l))) := by
  intro x
  have hop : row.op < 0x20 := by
    simp only [intRows, List.mem_cons, List.not_mem_nil, or_false] at hrow
    rcases hrow with rfl | rfl | rfl | rfl | rfl | rfl | rfl | rfl <;> decide
  obtain ⟨ha, hb, hc⟩ := WaveCtx.operands_lt (sc := false) h (if_pos hop)
  have ea l := toInt_eq_intOperand (ha l)
  have eb hbin l := toInt_eq_intOperand (hb hbin l)
  have ec htri l := toInt_eq_intOperand (hc htri l)
  simp only [intRows, List.mem_cons, List.not_mem_nil, or_false] at hrow
  rcases hrow with rfl | rfl | rfl | rfl | rfl | rfl | rfl | rfl
  · exact ⟨_, rfl, fun l => by rw [addVal, ea, eb (by decide)]⟩
  · exact ⟨_, rfl, fun l => by rw [subVal, ea, eb (by decide)]⟩
  · exact ⟨_, rfl, fun l => by rw [mulVal, ea, eb (by decide)]⟩
  · exact ⟨_, rfl, fun l => by rw [madVal, ea, eb (by decide), ec (by decide)]⟩
  · exact ⟨_, rfl, fun l => minVal_eq (ha l) (hb (by decide) l)⟩
  · exact ⟨_, rfl, fun l => maxVal_eq (ha l) (hb (by decide) l)⟩
  · exact ⟨_, rfl, fun l => by rw [absVal, ea]⟩
  · exact ⟨_, rfl, fun l => by rw [negVal, ea]⟩

/-! ## The words of R131 to R133 -/

theorem isWide_eq (t : WType) : isWide t = decide (wtypeBits t = 64) := by cases t <;> rfl

/-- A value of 32 or 64 bits is its own image in a destination of its type. -/
theorem imageOf_toNat {t : WType} (ht : wtypeBits t = 32 ∨ wtypeBits t = 64) (v : BitVec (wtypeBits t)) :
    imageOf t v.toNat = v.toNat := by
  have hv := v.isLt
  unfold imageOf
  rcases ht with ht | ht
  · have hnarrow : ¬isWide t = true := by rw [isWide_eq, ht]; decide
    have hsame : extendTo t 32 v.toNat = v.toNat := by
      rw [extendTo, signed_toNat, Nat.mod_eq_of_lt hv, ← ht, wrap_eq_ofInt, BitVec.ofInt_toInt, ite_self]
    rw [if_neg hnarrow, hsame, ← ht, Nat.mod_eq_of_lt hv]
  · have hwide : isWide t = true := by rw [isWide_eq, ht]; decide
    rw [if_pos hwide, ← ht, Nat.mod_eq_of_lt hv]

/-- A ready word whose lanes compute bit vectors of its type. -/
theorem bitWord_ready {op : Nat} {i : Instr} {w : WWord} {s : State} {c : WaveCtx} {f : WaveForm}
    (ht : wtypeBits w.t = 32 ∨ wtypeBits w.t = 64) (h : s.ready? op w = some (c, f)) {g : Nat → Nat → Nat → Nat × BitVec 6}
    (hexec : exec i s = vecWord op w w.t s g) {v : Nat → BitVec (wtypeBits w.t)}
    (hval : let x := c.operands s f w
      ∀ l, (g (at_ x.1 l) (at_ x.2.1 l) (at_ x.2.2 l)).1 = (v l).toNat) :
    ∃ t u, exec i s = .next t ∧ t.wave? c.r = some u
      ∧ ∀ l, l < 32 → c.act.getLsbD l = true → u.laneValue (isWide w.t) w.d.toNat l = (v l).toNat := by
  obtain ⟨t, u, ht', hu, hlanes, -⟩ := vecWord_ready h w.t g
  refine ⟨t, u, hexec.trans ht', hu, fun l hl hact => ?_⟩
  rw [(hlanes l hl hact).1, hval, imageOf_toNat ht]

theorem bitRow_op {row : BitRow} (hrow : row ∈ bitRows) : 0x10 ≤ row.op ∧ row.op < 0x20 := by
  simp only [bitRows, List.mem_cons, List.not_mem_nil, or_false] at hrow
  rcases hrow with rfl | rfl | rfl | rfl | rfl | rfl | rfl | rfl | rfl | rfl | rfl | rfl | rfl | rfl | rfl | rfl <;> decide

/-- Each bit word computes its rule's value of the bit vectors that its operands, as many as it has, stand for. -/
theorem bitRow_writes {row : BitRow} (hrow : row ∈ bitRows) {w : WWord} {s : State} {c : WaveCtx} {f : WaveForm}
    (h : s.ready? row.op w = some (c, f)) {o x y z : Nat → BitVec (wtypeBits w.t)}
    (ho : ∀ l, at_ (c.wv.typedLanes (wtypeBits w.t) w.d.toNat) l = (o l).toNat)
    (hx : ∀ l, at_ (c.operands s f w).1 l = (x l).toNat)
    (hy : row.op ∉ oneOperand → ∀ l, at_ (c.operands s f w).2.1 l = (y l).toNat)
    (hz : row.op ∈ threeOperands → ∀ l, at_ (c.operands s f w).2.2 l = (z l).toNat) :
    ∃ t u, exec (row.instr w) s = .next t ∧ t.wave? c.r = some u
      ∧ ∀ l, l < 32 → c.act.getLsbD l = true → u.laneValue (isWide w.t) w.d.toNat l =
          (row.val (wtypeBits w.t) (isSigned w.t) (o l) (x l) (y l) (z l)).toNat := by
  have ht : wtypeBits w.t = 32 ∨ wtypeBits w.t = 64 := by
    obtain ⟨hge, hlt⟩ := bitRow_op hrow
    exact intForm_bits ((if_pos hlt).symm.trans (State.ready?_spec h).2.1) hge
  have hpos : 0 < wtypeBits w.t := by omega
  simp only [bitRows, List.mem_cons, List.not_mem_nil, or_false] at hrow
  rcases hrow with rfl | rfl | rfl | rfl | rfl | rfl | rfl | rfl | rfl | rfl | rfl | rfl | rfl | rfl | rfl | rfl
  · exact bitWord_ready ht h rfl fun l => by rw [hx, hy (by decide)]; rfl
  · exact bitWord_ready ht h rfl fun l => by rw [hx, hy (by decide)]; rfl
  · exact bitWord_ready ht h rfl fun l => by rw [hx, hy (by decide)]; rfl
  · exact bitWord_ready ht h rfl fun l => by rw [hx]; exact notVal_toNat _
  · exact bitWord_ready ht h rfl fun l => by rw [hx, hy (by decide)]; exact andnVal_toNat _ _
  · exact bitWord_ready ht h rfl fun l => by rw [hx, hy (by decide)]; exact shlVal_toNat _ _
  · exact bitWord_ready ht h rfl fun l => by rw [hx, hy (by decide)]; exact shrVal_toNat _ _
  · exact bitWord_ready ht h rfl fun l => by rw [hx, hy (by decide)]; exact sarVal_toNat _ _
  · exact bitWord_ready ht h rfl fun l => by rw [hx, hy (by decide)]; exact rotVal_toNat hpos _ _
  · exact bitWord_ready ht h rfl fun l => by rw [hx, hy (by decide), hz (by decide)]; exact funnelVal_toNat _ _ _
  · exact bitWord_ready ht h rfl fun l => by rw [hx, hy (by decide), hz (by decide)]; exact bfxVal_toNat _ _ _ _
  · obtain ⟨t, u, hexec, hu, hlanes, -⟩ := bfi_ready h
    refine ⟨t, u, hexec, hu, fun l hl hact => ?_⟩
    rw [(hlanes l hl hact).1, opWidth, ho, hx, hy (by decide), hz (by decide), bfiVal_toNat, imageOf_toNat ht]
  · exact bitWord_ready ht h rfl fun l => by rw [hx]; exact popcVal_toNat _
  · exact bitWord_ready ht h rfl fun l => by rw [hx]; exact clzVal_toNat _
  · exact bitWord_ready ht h rfl fun l => by rw [hx]; exact ctzVal_toNat _
  · exact bitWord_ready ht h rfl fun l => by rw [hx]; exact brevVal_toNat _

theorem toNat_ofNat_of_lt {n x : Nat} (h : x < 2 ^ n) : x = (BitVec.ofNat n x).toNat := by
  rw [BitVec.toNat_ofNat, Nat.mod_eq_of_lt h]

/-- Settles O2: each row of R127 is the exact result held to its type, and each bit row, on operands in the range of their type, the
value of the rule in bit vectors. -/
theorem integerWordsComputeExactly : Obligations.IntegerWordsComputeExactly := by
  refine ⟨fun row hrow w s c f h => ?_, fun row hrow w s c f h => ?_⟩
  · obtain ⟨g, hexec, hval⟩ := intRows_exact hrow h
    exact exactWord_ready h hexec hval
  · obtain ⟨ha, hb, hc⟩ := WaveCtx.operands_lt (sc := false) h (if_pos (bitRow_op hrow).2)
    exact bitRow_writes hrow h (fun l => toNat_ofNat_of_lt (c.wv.at_typedLanes_lt _ _ l)) (fun l => toNat_ofNat_of_lt (ha l))
      (fun hop l => toNat_ofNat_of_lt (hb hop l)) (fun hop l => toNat_ofNat_of_lt (hc hop l))

end Sys2Proof.Machine
end

section
/-! What a wave word leaves of its workgroup apart from the waves: WRSP, and the words that stop it (01 R38; 04 R144, R156;
16 R393). -/

namespace Sys2Proof.Machine

open Sys2Proof

/-! ## Workgroups apart from their waves -/

/-- A workgroup but for its waves and its watchdog count, which a word that issues may change. -/
def Workgroup.apart (g : Workgroup) : Workgroup := { g with waves := [], watchdog := 0 }

/-- Every workgroup is the same but for its waves and its watchdog count. -/
def State.SameApart (s t : State) : Prop := ∀ q, (t.wg? q).map Workgroup.apart = (s.wg? q).map Workgroup.apart

theorem State.SameApart.refl (s : State) : s.SameApart s := fun _ => rfl

theorem State.SameApart.trans {s t u : State} (h : s.SameApart t) (k : t.SameApart u) : s.SameApart u :=
  fun q => (k q).trans (h q)

theorem State.SameWgs.sameApart {s t : State} (h : s.SameWgs t) : s.SameApart t := fun q => by rw [h.wg? q]

theorem State.SameApart.foldl {α : Type} {f : State → α → State} (hf : ∀ (s : State) (x : α), s.SameApart (f s x))
    (l : List α) (s : State) : s.SameApart (l.foldl f s) :=
  l.foldlRecOn f (.refl s) (fun t ht x _ => ht.trans (hf t x))

/-- The workgroup at a place, after operations that leave it but for its waves. -/
theorem State.SameApart.wg? {s t : State} (h : s.SameApart t) {q : WgRef} {g : Workgroup} (hg : s.wg? q = some g) :
    ∃ x, t.wg? q = some x ∧ x.apart = g.apart := by
  have hq := h q
  rw [hg, Option.map_some] at hq
  exact Option.map_eq_some_iff.mp hq

theorem State.updWg_sameApart (s : State) (r : WgRef) {f : Workgroup → Workgroup} (hf : ∀ g, (f g).apart = g.apart) :
    s.SameApart (s.updWg r f) := by
  intro q
  rw [State.updWg_wg?]
  split
  · cases s.wg? q <;> simp [hf]
  · rfl

theorem State.updWave_sameApart (s : State) (r : WaveRef) (f : Wave → Wave) : s.SameApart (s.updWave r f) :=
  s.updWg_sameApart (wgOf r) (fun _ => rfl)

theorem State.countIssue_sameApart (s : State) (r : WaveRef) : s.SameApart (s.countIssue r) :=
  (s.updWave_sameApart r _).trans (State.updWg_sameApart _ (wgOf r) (fun _ => rfl))

theorem State.spillOne_sameApart (s : State) (core part : Nat) : s.SameApart (s.spillOne core part) := by
  unfold State.spillOne
  dsimp only
  split
  · exact (State.updWave_sameApart s.free.2 _ _).trans (State.updCore_sameWgs _ core _ rfl).sameApart
  · exact .refl s

theorem State.ensurePhys_sameApart (s : State) (r : WaveRef) (n : Nat) : s.SameApart (s.ensurePhys r n) := by
  have hspill (b : Prop) [Decidable b] (part : Nat) : s.SameApart (if b then s.spillOne r.core part else s) := by
    split
    · exact s.spillOne_sameApart r.core part
    · exact .refl s
  unfold State.ensurePhys
  split
  · exact .refl s
  · split
    · exact .refl s
    · dsimp only
      split
      · exact .refl s
      · split
        · exact ((hspill _ _).trans (State.updWave_sameApart _ r _)).trans (State.updCore_sameWgs _ r.core _ rfl).sameApart
        · exact (hspill _ _).trans (State.updWave_sameApart _ r _)

/-- A step that is made under a condition. -/
theorem State.SameApart.unless {s t : State} (h : s.SameApart t) (b : Prop) [Decidable b] : s.SameApart (if b then s else t) := by
  split
  · exact .refl s
  · exact h

/-- Reading registers and streams changes no workgroup but in its waves. -/
theorem State.takeOperands_sameApart (s : State) (c : WaveCtx) (f : WaveForm) (w : WWord) : s.SameApart (s.takeOperands c f w) := by
  have hstreams (s : State) (g : Wave → Wave) (n : Nat) : s.SameApart { s.updWave c.r g with freeCount := n } :=
    (s.updWave_sameApart c.r g).trans (fun _ => rfl)
  unfold State.takeOperands
  exact ((State.SameApart.unless (.foldl (fun s n => s.ensurePhys_sameApart c.r n) _ s) _).trans
    (.unless (hstreams _ _ _) _)).trans (.unless (State.updWave_sameApart _ c.r _) _)

theorem State.consume_sameApart (s : State) (c : WaveCtx) (f : WaveForm) (w : WWord) : s.SameApart (s.consume c f w) := by
  unfold State.consume
  split
  · exact (State.updCore_sameWgs s c.r.core _ rfl).sameApart.trans (State.takeOperands_sameApart _ c f w)
  · exact s.takeOperands_sameApart c f w

/-- What changes one wave alone keeps the tck of every core. -/
theorem State.OnlyWave.tckOf {s t : State} {r : WaveRef} (h : s.OnlyWave t r) (core : Nat) : t.tckOf core = s.tckOf core := by
  have hoff := congrArg (State.tckOf · core) h.off
  exact hoff

/-- The workgroup of a ready word. -/
theorem State.ready?_wg {op : Nat} {w : WWord} {s : State} {c : WaveCtx} {f : WaveForm} (h : s.ready? op w = some (c, f)) :
    s.wg? (wgOf c.r) = some c.wg := (State.waveCtx?_spec (State.ready?_spec h).1).2.1

/-- The group that a ready word stands in. -/
theorem State.ready?_group {op : Nat} {w : WWord} {s : State} {c : WaveCtx} {f : WaveForm} (h : s.ready? op w = some (c, f)) :
    c.wv.group = some c.g := (State.waveCtx?_spec (State.ready?_spec h).1).2.2.2.1

/-- The workgroup and the tck that a ready word's body finds once it has issued and read its operands. -/
theorem State.ready?_apart {op : Nat} {w : WWord} {s : State} {c : WaveCtx} {f : WaveForm} (h : s.ready? op w = some (c, f)) :
    (∃ g, ((s.countIssue c.r).consume c f w).wg? (wgOf c.r) = some g ∧ g.apart = c.wg.apart)
    ∧ ((s.countIssue c.r).consume c f w).tckOf c.r.core = s.tckOf c.r.core :=
  ⟨((s.countIssue_sameApart c.r).trans (State.consume_sameApart _ c f w)).wg? (State.ready?_wg h),
    ((s.countIssue_onlyWave c.r).trans (State.consume_onlyWave _ c f w)).tckOf c.r.core⟩

/-! ## WRSP (01 R38; 04 R144) -/

/-- The flag word after a write in a tck: the value written, or that of a higher wave, and every set of the tck. -/
theorem Workgroup.writeFlags_flags (g : Workgroup) (tck wave : Nat) (v : BitVec 6) :
    ((∀ y, (g.flagsIn tck).write = some y → y.1 ≤ wave) → (g.writeFlags tck wave v).flags = v ||| (g.flagsIn tck).sets)
    ∧ (∀ y, (g.flagsIn tck).write = some y → wave < y.1 → (g.writeFlags tck wave v).flags = y.2 ||| (g.flagsIn tck).sets) := by
  unfold Workgroup.writeFlags
  refine ⟨fun hle => ?_, fun y hy hlt => ?_⟩
  · cases hy : (g.flagsIn tck).write with
    | none => simp only [hy]
    | some y => simp only [hy, Nat.not_lt.mpr (hle y hy), if_false]
  · simp only [hy, hlt, if_true]

theorem Workgroup.writeFlags_waves (g : Workgroup) (tck wave : Nat) (v : BitVec 6) : (g.writeFlags tck wave v).waves = g.waves := rfl

theorem Wave.pass_lstk (v : Wave) (n : Nat) : (v.pass n).lstk = v.lstk := (v.pass_parts n).2.2.2.2.2

theorem Wave.lstk_of_bare {u v : Wave} (h : u.bare = v.bare) : u.lstk = v.lstk := by
  have hlstk := congrArg Wave.lstk h
  exact hlstk

/-- The flag word after a change of the workgroup, and the group's way past the word. -/
theorem State.updWg_nextWord_flags {s : State} {r : WaveRef} {g : Workgroup} (hg : s.wg? (wgOf r) = some g)
    (f : Workgroup → Workgroup) (n : Nat) :
    (((s.updWg (wgOf r) f).nextWord r n).wg? (wgOf r)).map (·.flags) = some (f g).flags := by
  rw [← State.flagsAt, State.nextWord, State.updWave_flagsAt, State.flagsAt, State.updWg_wg?, if_pos rfl, hg]
  rfl

/-- WRSP to FLAGS. -/
theorem wrsp_flags {w : WWord} {s : State} {c : WaveCtx} {f : WaveForm} (h : s.ready? 0x2A w = some (c, f)) (hact : c.act ≠ 0)
    (hd : w.d = 0x1B) :
    let x := c.wg.flagsIn (s.tckOf c.r.core)
    ∃ t v, exec (.wWrsp w) s = .next t ∧ t.wave? c.r = some v ∧ v.lstk = c.wv.lstk
      ∧ ((∀ y, x.write = some y → y.1 ≤ c.r.wave) → (t.wg? (wgOf c.r)).map (·.flags) =
          some (BitVec.ofNat 6 (uniform (c.operands s f w).1) ||| x.sets))
      ∧ (∀ y, x.write = some y → c.r.wave < y.1 → (t.wg? (wgOf c.r)).map (·.flags) = some (y.2 ||| x.sets)) := by
  intro x
  obtain ⟨⟨u, hu, hbare, -⟩, -⟩ := State.ready?_consumed h
  obtain ⟨⟨g, hg, hapart⟩, htck⟩ := State.ready?_apart h
  have hx : g.apart.flagsIn (s.tckOf c.r.core) = c.wg.apart.flagsIn (s.tckOf c.r.core) := by rw [hapart]
  change g.flagsIn (s.tckOf c.r.core) = x at hx
  obtain ⟨hhere, hhigher⟩ :=
    g.writeFlags_flags (s.tckOf c.r.core) c.r.wave (BitVec.ofNat 6 (uniform (c.operands s f w).1))
  rw [hx] at hhere hhigher
  refine ⟨((((s.countIssue c.r).consume c f w).updWg (wgOf c.r) (fun g => g.writeFlags (s.tckOf c.r.core) c.r.wave
    (BitVec.ofNat 6 (uniform (c.operands s f w).1)))).nextWord c.r (wordLen w)), u.pass (wordLen w), ?_, ?_, ?_, ?_⟩
  · simp only [exec, execWWrsp, plainWord, waveWord_ready h, hact, hd, if_true, if_false, htck]
    rfl
  · exact State.nextWord_wave? (wordLen w) ((State.updWg_wave? _ _ _ _ (fun g => g.writeFlags_waves _ _ _)).trans hu)
  · have hread := Wave.lstk_of_bare hbare
    exact (u.pass_lstk (wordLen w)).trans hread
  · rw [State.updWg_nextWord_flags hg]
    exact ⟨fun hle => congrArg some (hhere hle), fun y hy hlt => congrArg some (hhigher y hy hlt)⟩

/-- WRSP to LSTK. -/
theorem wrsp_lstk {w : WWord} {s : State} {c : WaveCtx} {f : WaveForm} (h : s.ready? 0x2A w = some (c, f)) (hact : c.act ≠ 0)
    (hd : w.d ≠ 0x1B) :
    ∃ t v, exec (.wWrsp w) s = .next t ∧ t.wave? c.r = some v ∧ v.lstk = BitVec.ofNat 64 (uniform (c.operands s f w).1)
      ∧ (t.wg? (wgOf c.r)).map (·.flags) = some c.wg.flags := by
  obtain ⟨⟨u, hu, -⟩, hflags⟩ := State.ready?_consumed h
  let t := ((s.countIssue c.r).consume c f w).updWave c.r (fun v =>
    { v with lstk := BitVec.ofNat 64 (uniform (c.operands s f w).1) })
  have ht : t.wave? c.r = some { u with lstk := BitVec.ofNat 64 (uniform (c.operands s f w).1) } := by
    rw [State.updWave_wave?, if_pos rfl, hu]
    rfl
  refine ⟨t.nextWord c.r (wordLen w), _, ?_, State.nextWord_wave? (wordLen w) ht, Wave.pass_lstk _ (wordLen w), ?_⟩
  · simp only [exec, execWWrsp, plainWord, waveWord_ready h, hact, hd, if_false]
    rfl
  · exact (State.updWave_flagsAt _ _ _ _).trans ((State.updWave_flagsAt _ _ _ _).trans hflags)

/-- Settles O9: reading the operands leaves what the tck has done to the flag word, and the write to it is one of the tck's. -/
theorem wrspWrites : Obligations.WrspWrites := by
  intro w s c f h hact
  by_cases hd : w.d = 0x1B
  · obtain ⟨t, v, ht, hv, hlstk, hflags⟩ := wrsp_flags h hact hd
    exact ⟨t, v, ht, hv, fun _ => ⟨hlstk, hflags⟩, fun hd' => absurd (hd.symm.trans hd') (by decide)⟩
  · obtain ⟨t, v, ht, hv, hlstk, hflags⟩ := wrsp_lstk h hact hd
    exact ⟨t, v, ht, hv, fun hd' => absurd hd' hd, fun _ => ⟨hlstk, hflags⟩⟩

/-! ## TRAP and BREAK (04 R156; 16 R393, R406) -/

theorem State.withdrawDemands_preempt (s : State) (r q : WgRef) :
    ((s.withdrawDemands r).wg? q).map (·.preempt) = (s.wg? q).map (·.preempt) := by
  unfold State.withdrawDemands
  split
  · rfl
  · rw [State.updJob, State.updWg_wg?, (State.updGate_sameWgs _ _ _).wg?]
    split
    · rw [Option.map_map]
      rfl
    · rfl

/-- The workgroup whose save begins with a record. -/
theorem State.beginSave_preempt {s : State} {r : WgRef} {g : Workgroup} (hg : s.wg? r = some g) (hp : g.preempt = none)
    (t : TrapRecord) (stop : Bool) (park : Option Park) :
    ∃ x, (s.beginSave r t stop park).wg? r = some x ∧ x.preempt = some (.saving t stop park) := by
  have hsave : ((s.beginSave r t stop park).wg? r).map (·.preempt) = some (some (.saving t stop park)) := by
    rw [State.beginSave, State.withdrawDemands_preempt, State.updWg_wg?, if_pos rfl, hg]
    simp only [Option.map_some, Workgroup.toSave, hp]
  exact Option.map_eq_some_iff.mp hsave

/-- TRAP and BREAK of a wave begin the save of its workgroup, with the record of the word. -/
theorem State.trapWave_stops {s : State} {r : WaveRef} {g : Workgroup} (hg : s.wg? (wgOf r) = some g) (hp : g.preempt = none)
    {k : TrapKind} (hk : k = .trap ∨ k = .brk) (acc : BitVec 5) (code : W32) (pc va : W64) (mask : Lanes) (needs : List Nat) :
    (s.trapWave r k acc code pc va mask needs).wave? r = s.wave? r
    ∧ ∃ x rec_, (s.trapWave r k acc code pc va mask needs).wg? (wgOf r) = some x ∧ x.preempt = some (.saving rec_ true none)
      ∧ rec_.kind = some k ∧ rec_.src = .wave ∧ rec_.code = code ∧ rec_.pc = pc ∧ rec_.mask = mask ∧ rec_.wave = r.wave := by
  have hstop : ∃ rec_ : TrapRecord, s.trapWave r k acc code pc va mask needs = s.free.2.beginSave (wgOf r) rec_ true none
      ∧ rec_.kind = some k ∧ rec_.src = .wave ∧ rec_.code = code ∧ rec_.pc = pc ∧ rec_.mask = mask ∧ rec_.wave = r.wave := by
    rcases hk with rfl | rfl
    · simp only [State.trapWave, State.stampRecord, hg]
      exact ⟨_, rfl, rfl, rfl, rfl, rfl, rfl, rfl⟩
    · simp only [State.trapWave, State.stampRecord, hg]
      exact ⟨_, rfl, rfl, rfl, rfl, rfl, rfl, rfl⟩
  obtain ⟨rec_, heq, hrec⟩ := hstop
  have hfree : s.free.2.wg? (wgOf r) = some g := hg
  obtain ⟨x, hx, hpre⟩ := State.beginSave_preempt hfree hp rec_ true none
  rw [heq]
  exact ⟨State.beginSave_wave? _ _ _ _ _ _, x, rec_, hx, hpre, hrec⟩

/-- The workgroup of a control word that has moved its lanes. -/
theorem State.moveLanes_sameApart (s : State) (c : WaveCtx) (f : WaveForm) (w : WWord) (target : Nat → W64) (g : Nat → Lane → Lane) :
    s.SameApart (s.moveLanes c f w target g) :=
  ((s.consume_sameApart c f w).trans (State.countIssue_sameApart _ c.r)).trans (State.updWave_sameApart _ c.r _)

theorem stopWord_ready {op : Nat} {w : WWord} {s : State} {c : WaveCtx} {f : WaveForm} (h : s.ready? op w = some (c, f))
    (hlast : c.isLast w = true) (k : TrapKind) :
    let t := s.moveLanes c f w (fun _ => c.g.nextClause) (fun _ l => l)
    stopWord op k w s = .next (if c.act = 0 then t else
      t.trapWave c.r k 0 (BitVec.ofNat 32 (uniform (c.sources s f w).1)) c.g.nextClause 0 c.act []) := by
  rw [stopWord, lastWord_ready h hlast]
  rfl

/-- Settles O15: the lanes move first; where one is active, the trap then begins the save of the workgroup. -/
theorem trapAndBreakStop : Obligations.TrapAndBreakStop := by
  intro op i k hmem w s c f h hlast hpre
  have hexec : exec (i w) s = stopWord op k w s ∧ (k = .trap ∨ k = .brk) := by
    simp only [List.mem_cons, Prod.mk.injEq, List.not_mem_nil, or_false] at hmem
    rcases hmem with ⟨rfl, rfl, rfl⟩ | ⟨rfl, rfl, rfl⟩ <;> exact ⟨rfl, by simp⟩
  obtain ⟨hexec, hk⟩ := hexec
  obtain ⟨v, hv, hnone, hlanes⟩ := State.moveLanes_wave? f w (State.ready?_wave h) (State.ready?_group h)
    (fun _ => c.g.nextClause) (fun _ l => l)
  obtain ⟨g, hg, hapart⟩ := (s.moveLanes_sameApart c f w (fun _ => c.g.nextClause) (fun _ l => l)).wg? (State.ready?_wg h)
  have hgpre : g.preempt = none := (congrArg Workgroup.preempt hapart).trans hpre
  rw [hexec, stopWord_ready h hlast k]
  by_cases hact : c.act = 0
  · rw [if_pos hact]
    exact ⟨_, v, g, rfl, hv, hg, hnone, hlanes, fun _ => hgpre, fun hne => absurd hact hne⟩
  · rw [if_neg hact]
    obtain ⟨hwave, x, rec_, hx, hsave, hrec⟩ := State.trapWave_stops hg hgpre hk 0 (BitVec.ofNat 32 (uniform (c.sources s f w).1))
      c.g.nextClause 0 c.act []
    obtain ⟨hkind, hsrc, hcode, hpc, hmask, hwaveid⟩ := hrec
    exact ⟨_, v, x, rfl, hwave.trans hv, hx, hnone, hlanes, fun h0 => absurd h0 hact,
      fun _ => ⟨rec_, hsave, hkind, hsrc, hcode, hpc, hmask, hwaveid⟩⟩

end Sys2Proof.Machine
end

section
/-! Where the lanes that a waiting word holds stand, and for what they wait (04 R147, R158, R159; 06 R209, R211, R220). -/

namespace Sys2Proof.Machine

open Sys2Proof

/-! ## Lanes that a word holds (04 R147) -/

/-- Where a group's lanes go on after a word: at the word that follows, or at the next clause. -/
def WaveCtx.resume (c : WaveCtx) (w : WWord) : W64 × Nat :=
  if c.g.ix + wordLen w < c.g.words then (c.g.pc, c.g.ix + wordLen w) else (c.g.nextClause, 0)

/-- The group's way past a word leaves the lanes that are not of the group. -/
theorem Wave.pass_lane {x : Wave} {g : Group} (hg : x.group = some g) (len : Nat) {m : Nat} (hm : g.lanes.getLsbD m = false) :
    (x.pass len).lanes[m]? = x.lanes[m]? := by
  simp only [Wave.pass, hg]
  split
  · rfl
  · rw [List.getElem?_mapIdx]
    cases x.lanes[m]? <;> simp [hm]

/-- A lane that a word holds waits where the group goes on; with no lane left the group is dissolved. -/
theorem Wave.hold_held {c : WaveCtx} {x : Wave} (hg : x.group = some c.g) (w : WWord) (mask : Lanes) (wait : Nat → LaneWait) :
    (∀ m y, x.lanes[m]? = some y → m < 32 → mask.getLsbD m = true → (x.hold (wordLen w) mask wait).lanes[m]? =
        some { y with pc := (c.resume w).1, ix := (c.resume w).2, state := .waiting (wait m) })
    ∧ (c.g.lanes &&& ~~~mask = 0 → (x.hold (wordLen w) mask wait).group = none) := by
  have hhold := Wave.hold_eq hg (wordLen w) mask wait
  dsimp only at hhold
  rw [hhold]
  refine ⟨fun m y hy hm hmask => ?_, fun hrest => by rw [if_pos hrest]⟩
  have hlane : (x.lanes.mapIdx (fun i l => if mask.getLsbD i then { l with
      pc := (c.resume w).1, ix := (c.resume w).2, state := .waiting (wait i) } else l))[m]? =
      some { y with pc := (c.resume w).1, ix := (c.resume w).2, state := .waiting (wait m) } := by
    rw [List.getElem?_mapIdx, hy, Option.map_some, if_pos hmask]
  split
  · exact hlane
  · rw [Wave.pass_lane rfl _ (by simp [hmask])]
    exact hlane

/-! ## The waiting words -/

/-- What a waiting word says of the lanes of a mask and of the group: each waits where the group goes on, its arrivals changed as
`arrive` has it. -/
def WaveCtx.Holds (c : WaveCtx) (w : WWord) (mask : Lanes) (arrive : List Nat → List Nat) (wait : LaneWait) (v : Wave) : Prop :=
  (∀ m l, c.wv.lanes[m]? = some l → m < 32 → mask.getLsbD m = true → v.lanes[m]? = some { l with
      pc := (c.resume w).1, ix := (c.resume w).2, state := .waiting wait, arrived := arrive l.arrived })
  ∧ (c.g.lanes &&& ~~~mask = 0 → v.group = none)

/-- A wave in which a word finds its group where it stood, its lanes as they were but for the arrivals of a mask. -/
def WaveCtx.Arrived (c : WaveCtx) (x : Wave) (mask : Lanes) (arrive : List Nat → List Nat) : Prop :=
  x.group = some c.g ∧ ∀ m l, c.wv.lanes[m]? = some l → mask.getLsbD m = true →
    x.lanes[m]? = some { l with arrived := arrive l.arrived }

theorem State.holdLanes_holds {t : State} {c : WaveCtx} {x : Wave} (hx : t.wave? c.r = some x) {mask : Lanes}
    {arrive : List Nat → List Nat} (h : c.Arrived x mask arrive) (w : WWord) (wait : LaneWait) :
    ∃ v, (t.holdLanes c w mask (fun _ => wait)).wave? c.r = some v ∧ c.Holds w mask arrive wait v := by
  obtain ⟨hgroup, hlanes⟩ := h
  obtain ⟨hheld, hnone⟩ := Wave.hold_held hgroup w mask (fun _ => wait)
  refine ⟨x.hold (wordLen w) mask (fun _ => wait), ?_, fun m l hl hm hmask => hheld m _ (hlanes m l hl hmask) hm hmask, hnone⟩
  rw [State.holdLanes, State.updWave_wave?, if_pos rfl, hx]
  rfl

/-- Reading operands moves no lane. -/
theorem WaveCtx.arrived_of_bare {c : WaveCtx} {x : Wave} (h : x.bare = ({ c.wv with issued := c.wv.issued + 1 } : Wave).bare)
    (hg : c.wv.group = some c.g) (mask : Lanes) : c.Arrived x mask id := by
  obtain ⟨-, -, -, -, hlanes, hgroup, -⟩ := Wave.bare_parts h
  exact ⟨hgroup.trans hg, fun m l hl _ => by rw [hlanes]; exact hl⟩

theorem WaveCtx.Arrived.arrive {c : WaveCtx} {x : Wave} {mask : Lanes} (h : c.Arrived x mask id) (n phase : Nat) :
    c.Arrived (x.arrive mask n phase) mask (fun a => setAt a n (phase + 1)) := by
  obtain ⟨hgroup, hlanes⟩ := h
  refine ⟨hgroup, fun m l hl hmask => ?_⟩
  simp only [Wave.arrive, List.getElem?_mapIdx, hlanes m l hl hmask, Option.map_some, hmask, if_true, id_eq]

/-- The wave of a word that was counted and then read its operands. -/
theorem State.ready?_arrived {op : Nat} {w : WWord} {s : State} {c : WaveCtx} {f : WaveForm} (h : s.ready? op w = some (c, f))
    (mask : Lanes) : ∃ x, ((s.countIssue c.r).consume c f w).wave? c.r = some x ∧ c.Arrived x mask id := by
  obtain ⟨⟨x, hx, hbare, -⟩, -⟩ := State.ready?_consumed h
  exact ⟨x, hx, WaveCtx.arrived_of_bare hbare (State.ready?_group h) mask⟩

/-- The wave of a word that read its operands and was then counted. -/
theorem State.issueWord_arrived {op : Nat} {w : WWord} {s : State} {c : WaveCtx} {f : WaveForm} (h : s.ready? op w = some (c, f))
    (mask : Lanes) : ∃ x, (s.issueWord c f w).wave? c.r = some x ∧ c.Arrived x mask id := by
  obtain ⟨u, hu, hbare, -⟩ := State.consume_wave? f w (State.ready?_wave h)
  have hissued := congrArg (fun v : Wave => ({ v with issued := v.issued + 1 } : Wave)) hbare
  exact ⟨_, State.countIssue_wave? hu,
    WaveCtx.arrived_of_bare hissued (State.ready?_group h) mask⟩

/-- The same with the arrivals of the active lanes marked. -/
theorem State.issueWord_marked {op : Nat} {w : WWord} {s : State} {c : WaveCtx} {f : WaveForm} (h : s.ready? op w = some (c, f))
    (n phase : Nat) : ∃ x, ((s.issueWord c f w).updWave c.r (fun v => v.arrive c.act n phase)).wave? c.r = some x
      ∧ c.Arrived x c.act (fun a => setAt a n (phase + 1)) := by
  obtain ⟨x, hx, harrived⟩ := State.issueWord_arrived h c.act
  exact ⟨_, by rw [State.updWave_wave?, if_pos rfl, hx]; rfl, harrived.arrive n phase⟩

theorem sleep_holds {w : WWord} {s : State} {c : WaveCtx} {f : WaveForm} (h : s.ready? 0x3A w = some (c, f)) :
    let n := uniform (c.operands s f w).1
    ∃ t v, exec (.wSleep w) s = .next t ∧ t.wave? c.r = some v
      ∧ c.Holds w (if n = 0 then 0 else c.act) id (.sleep (s.tckOf c.r.core + n)) v := by
  intro n
  obtain ⟨x, hx, harrived⟩ := State.ready?_arrived h (if n = 0 then 0 else c.act)
  obtain ⟨v, hv, hheld⟩ := State.holdLanes_holds hx harrived w (.sleep (s.tckOf c.r.core + n))
  refine ⟨_, v, ?_, hv, hheld⟩
  simp only [exec, execWSleep, waveWord_ready h, (State.ready?_apart h).2]
  rfl

theorem waitf_holds {w : WWord} {s : State} {c : WaveCtx} {f : WaveForm} (h : s.ready? 0x3B w = some (c, f)) :
    let n := uniform (c.operands s f w).1 % 4096
    ∃ t v, exec (.wWaitf w) s = .next t ∧ t.wave? c.r = some v
      ∧ c.Holds w (if c.wv.flagsClear n then 0 else c.act) id (.waitf (BitVec.ofNat 12 n)) v := by
  intro n
  obtain ⟨x, hx, harrived⟩ := State.ready?_arrived h (if c.wv.flagsClear n then 0 else c.act)
  obtain ⟨v, hv, hheld⟩ := State.holdLanes_holds hx harrived w (.waitf (BitVec.ofNat 12 n))
  exact ⟨_, v, by simp only [exec, execWWaitf, waveWord_ready h]; rfl, hv, hheld⟩

theorem waitb_holds {w : WWord} {s : State} {c : WaveCtx} {f : WaveForm} (h : s.ready? 0xB4 w = some (c, f)) :
    let n := uniform (c.operands s f w).1 % 8
    let phase := (c.wg.barriers[n]?).getD 0
    ∃ t v, exec (.wWaitb w) s = .next t ∧ t.wave? c.r = some v
      ∧ c.Holds w (maskOf (fun i => c.act.getLsbD i && (c.wv.lanes[i]?).any (fun l => l.arrivedIn n phase))) id (.waitb n phase) v := by
  intro n phase
  obtain ⟨x, hx, harrived⟩ := State.ready?_arrived h
    (maskOf (fun i => c.act.getLsbD i && (c.wv.lanes[i]?).any (fun l => l.arrivedIn n phase)))
  obtain ⟨v, hv, hheld⟩ := State.holdLanes_holds hx harrived w (.waitb n phase)
  exact ⟨_, v, by simp only [exec, execWWaitb, waveWord_ready h]; rfl, hv, hheld⟩

theorem gbar_holds {w : WWord} {s : State} {c : WaveCtx} {f : WaveForm} (h : s.ready? 0xB2 w = some (c, f)) :
    ∃ t v, exec (.wGbar w) s = .next t ∧ t.wave? c.r = some v ∧ c.Holds w c.act id .gbar v := by
  have harrived : c.Arrived { c.wv with issued := c.wv.issued + 1 } c.act id :=
    WaveCtx.arrived_of_bare rfl (State.ready?_group h) c.act
  obtain ⟨v, hv, hheld⟩ := State.holdLanes_holds (State.countIssue_wave? (State.ready?_wave h)) harrived w .gbar
  exact ⟨_, v, by simp only [exec, execWGbar, waveWord_ready h], (State.gbarArrive_wave? _ (wgOf c.r) _).trans hv, hheld⟩

theorem rdv_holds {w : WWord} {s : State} {c : WaveCtx} {f : WaveForm} (h : s.ready? 0xBC w = some (c, f))
    (hjob : c.wg.job.isSome = true) :
    ∃ t v, exec (.wRdv w) s = .next t ∧ t.wave? c.r = some v ∧ c.Holds w c.act id .rdv v := by
  obtain ⟨x, hx, harrived⟩ := State.issueWord_arrived h c.act
  obtain ⟨v, hv, hheld⟩ := State.holdLanes_holds hx harrived w .rdv
  have hnone : c.wg.job.isNone = false := by simpa using hjob
  exact ⟨_, v, by simp only [exec, execWRdv, rawWord_ready h, hnone, Bool.false_eq_true, if_false], hv, hheld⟩

theorem bar_holds {w : WWord} {s : State} {c : WaveCtx} {f : WaveForm} (h : s.ready? 0xB1 w = some (c, f)) :
    let n := uniform (c.sources s f w).1 % 8
    let phase := (c.wg.barriers[n]?).getD 0
    (c.arrivedAlready n = false → ∃ t v, exec (.wBar w) s = .next t ∧ t.wave? c.r = some v
        ∧ c.Holds w c.act (fun a => setAt a n (phase + 1)) (.bar n phase) v)
    ∧ (c.arrivedAlready n = true → exec (.wBar w) s = .next s) := by
  intro n phase
  refine ⟨fun hfirst => ?_, fun hagain => by simp only [exec, execWBar, rawWord_ready h, n, hagain, if_true]⟩
  obtain ⟨x, hx, harrived⟩ := State.issueWord_marked h n phase
  obtain ⟨v, hv, hheld⟩ := State.holdLanes_holds hx harrived w (.bar n phase)
  refine ⟨_, v, ?_, hv, hheld⟩
  simp only [exec, execWBar, rawWord_ready h]
  exact congrArg Host.Outcome.next (if_neg (by simp [n, hfirst]))

/-- The group's way past a word changes no lane's state and no arrival. -/
theorem Wave.pass_lane_kept (x : Wave) (len : Nat) {m : Nat} {y : Lane} (hy : x.lanes[m]? = some y) :
    ∃ u, (x.pass len).lanes[m]? = some u ∧ u.arrived = y.arrived ∧ u.state = y.state := by
  unfold Wave.pass
  split
  · exact ⟨y, hy, rfl, rfl⟩
  · split
    · exact ⟨y, hy, rfl, rfl⟩
    · refine ⟨_, by rw [List.getElem?_mapIdx, hy, Option.map_some], ?_, ?_⟩ <;> split <;> rfl

theorem arrive_marks {w : WWord} {s : State} {c : WaveCtx} {f : WaveForm} (h : s.ready? 0xB3 w = some (c, f)) :
    let n := uniform (c.sources s f w).1 % 8
    let phase := (c.wg.barriers[n]?).getD 0
    (c.arrivedAlready n = true → exec (.wArrive w) s = .next s)
    ∧ (c.arrivedAlready n = false → ∃ t v, exec (.wArrive w) s = .next t ∧ t.wave? c.r = some v
        ∧ ∀ m l, c.wv.lanes[m]? = some l → m < 32 → c.act.getLsbD m = true →
            ∃ u, v.lanes[m]? = some u ∧ u.arrived = setAt l.arrived n (phase + 1) ∧ u.state = l.state) := by
  intro n phase
  refine ⟨fun hagain => by simp only [exec, execWArrive, rawWord_ready h, n, hagain, if_true], fun hfirst => ?_⟩
  obtain ⟨x, hx, -, hlanes⟩ := State.issueWord_marked h n phase
  refine ⟨_, _, ?_, State.nextWord_wave? (wordLen w) hx, fun m l hl _ hact => x.pass_lane_kept (wordLen w) (hlanes m l hl hact)⟩
  simp only [exec, execWArrive, rawWord_ready h]
  exact congrArg Host.Outcome.next (if_neg (by simp [n, hfirst]))

/-- Settles O16: each word holds the lanes of its mask where the group goes on; BAR and ARRIVE mark their arrivals first. -/
theorem waitingWordsHold : Obligations.WaitingWordsHold := by
  intro w s c f x n phase next holds
  have held {i : Instr} {mask : Lanes} {wait : LaneWait} (arrive : Bool)
      (h : ∃ t v, exec i s = .next t ∧ t.wave? c.r = some v
        ∧ c.Holds w mask (fun a => if arrive then setAt a n (phase + 1) else a) wait v) : holds i mask arrive wait := by
    obtain ⟨t, v, ht, hv, hlanes, hnone⟩ := h
    exact ⟨t, v, ht, hv, fun m l hl hm hmask => ⟨_, hlanes m l hl hm hmask, rfl⟩, hnone⟩
  exact ⟨fun h => held false (sleep_holds h), fun h => held false (waitf_holds h),
    fun h => ⟨fun hfirst => held true ((bar_holds h).1 hfirst), (bar_holds h).2⟩, fun h => arrive_marks h,
    fun h => held false (waitb_holds h), fun h => held false (gbar_holds h), fun h hjob => held false (rdv_holds h hjob)⟩

end Sys2Proof.Machine
end

section
/-! Calls beyond the chip (04 R151-R153) that an access in flight holds back (06 R194, R206). -/

namespace Sys2Proof.Machine

open Sys2Proof

/-- A deep call whose spill an earlier access of its wave holds back waits: nothing changes. -/
theorem callWord_waits {op : Nat} {w : WWord} {s : State} {c : WaveCtx} {f : WaveForm} (h : s.ready? op w = some (c, f))
    (hlast : c.isLast w = true) (hu : w.u = false) (hact : c.act ≠ 0) (hdeep : 4 ≤ c.depth) (hwait : c.accessWaits true = true)
    (relative : Bool) : callWord op w s relative = .next s := by
  have hchip : ¬(c.act = 0 ∨ c.depth < 4) := not_or.mpr ⟨hact, Nat.not_lt.mpr hdeep⟩
  simp only [callWord, lastWord_ready h hlast, hu, Bool.false_and, Bool.false_eq_true, if_false, hchip, hwait, if_true]

/-- CALL_SPILL_FAULT of a wave goes to containment. -/
theorem State.trapWave_callSpill {s : State} {r : WaveRef} {g : Workgroup} (hg : s.wg? (wgOf r) = some g) (acc : BitVec 5)
    (code : W32) (pc va : W64) (mask : Lanes) (needs : List Nat) :
    ∃ t, s.trapWave r .callSpillFault acc code pc va mask needs = s.free.2.contain (wgOf r) t := by
  simp only [State.trapWave, State.stampRecord, hg]
  exact ⟨_, rfl⟩

/-- A CALL of the clause two words ahead. -/
def callAhead : WWord := ⟨.s64, 0, 0, false, false, 0, 0, .imm 2, .v 0, .v 0, .rn⟩

/-- A RECV.acq in flight, which holds back the accesses after it until it is performed (06 R194). -/
def recvInFlight : Pending :=
  { kind := .recv 0, flag := 0, ty := .b32, mask := BitVec.allOnes 32, regs := [9], sticky := 0, spoiled := false, reply := false,
    holds := .accesses, pc := 0x1008 }

/-- A wave of core 0 at depth 4 that is to execute a word, a RECV.acq in flight; its grid has no spill area. -/
def deepBehindRecv : State :=
  ({ State.reset.placeWave 0 with cur := .wave ⟨0, 0, 0⟩ } : State).updWave ⟨0, 0, 0⟩ (fun v => { v with
    lanes := v.lanes.map (fun l => { l with depth := 4, stack := List.replicate 4 0x1000 }), pending := [recvInFlight] })

/-- The CALL is ready, stands last, is deep beyond the spill area, and its accesses wait. -/
theorem deepBehindRecv_ready : (deepBehindRecv.ready? 0x32 callAhead).any (fun p => decide (p.1.isLast callAhead = true ∧ p.1.act ≠ 0
    ∧ p.1.depth = 4 ∧ (deepBehindRecv.lpbOf p.1.wg).lstkStride / 256 = 0 ∧ p.1.accessWaits true = true
    ∧ (deepBehindRecv.context p.1.wg.ctx).stopAll = false)) = true := by decide +kernel

/-- Refutes O27: a CALL at depth 4 and beyond is said to trap or to spill wherever it is ready, but its spill is an access, and one
that an earlier access of the wave holds back, as a RECV.acq in flight does, waits. A CALL is not among the words that count as held
back before they are tried. -/
theorem not_callStackBeyondTheChip : ¬ Obligations.CallStackBeyondTheChip := by
  intro h
  obtain ⟨⟨c, f⟩, hr, hfacts⟩ := (Option.any_eq_true _ _).mp deepBehindRecv_ready
  obtain ⟨hlast, hact, hdepth, hstride, hwait, hstop⟩ := of_decide_eq_true hfacts
  obtain ⟨hcall, -⟩ := h callAhead deepBehindRecv c f hlast hact
  obtain ⟨htrap, -⟩ := hcall 0x32 .wCall true (by simp) hr hdepth.ge (fun hu => Bool.noConfusion hu)
  have hstays : exec (.wCall callAhead) deepBehindRecv = .next deepBehindRecv :=
    callWord_waits hr hlast rfl hact hdepth.ge hwait true
  have hwg : deepBehindRecv.wg? (wgOf c.r) = some c.wg := State.ready?_wg hr
  obtain ⟨rec_, hcontain⟩ := State.trapWave_callSpill hwg 0 0 c.g.wordAddr 0 c.act []
  have hsame : deepBehindRecv = deepBehindRecv.free.2.contain (wgOf c.r) rec_ := by
    rw [← hcontain]
    exact Host.Outcome.next.inj (hstays.symm.trans (htrap (by rw [hstride]; exact Nat.zero_le _)))
  have hgone : (deepBehindRecv.free.2.contain (wgOf c.r) rec_).wg? (wgOf c.r) = none :=
    (State.contain_cases (s := deepBehindRecv.free.2) hwg rec_).1 hstop
  rw [← hsame, hwg] at hgone
  cases hgone

end Sys2Proof.Machine
end

section
/-! Float words complete (05 R164-R177): what a word leaves in its destination and in the flag word where its lanes are computed
all at once, from more than the operands of each. -/

namespace Sys2Proof.Machine

open Sys2Proof

/-! ## Rows whose lanes are computed all at once -/

/-- A row holds whose instruction writes a list of lane values and raises the row's flags, where that list has the row's value at
each active lane. -/
theorem VecRow.holds_of_exec {row : VecRow} (vals : WaveCtx → Sources → WWord → List Nat)
    (hexec : ∀ w s, exec (row.instr w) s = plainWord row.op w s (fun _ c src s =>
      (s.writeTyped c.r (row.ty w) w.d.toNat c.act (vals c src w)).raise (wgOf c.r) (row.flags c src w)))
    (hval : ∀ c x w l, l < 32 → c.act.getLsbD l = true → at_ (vals c x w) l = row.val c x w l) : row.Holds := by
  intro w s c f h _
  obtain ⟨t, v, ht, hv, hlanes, hflags⟩ :=
    typedWord_ready h (row.ty w) (vals c (c.operands s f w) w) (row.flags c (c.operands s f w) w)
  refine ⟨t, v, ?_, hv, fun l hl hact => ?_, hflags⟩
  · rw [hexec, plainWord, waveWord_ready h, ← ht]
    rfl
  · rw [← hval c _ w l hl hact]
    exact hlanes l hl hact

/-! ## Lists of lane values -/

theorem at_replicate (x : Nat) {l : Nat} (hl : l < 32) : at_ (List.replicate 32 x) l = x := by
  simp only [at_, List.getElem?_replicate, hl, if_true, Option.getD_some]

/-- The lanes of a register as numbers are its lane values under a 32-bit type (04 R121). -/
theorem at_vreg (v : Wave) (d l : Nat) : at_ ((v.vreg d).map (fun x => x.toNat)) l = v.laneValue false d l := by
  simp only [at_, Wave.laneValue, List.getElem?_map, Bool.false_eq_true, if_false]
  cases (v.vreg d)[l]? <;> rfl

/-! ## What the words come to -/

/-- CVT looks a cb4 code up in its codebook (05 R171, R172). -/
theorem cvt_exec (w : WWord) (s : State) : exec (.wCvt w) s = plainWord 0x92 w s (fun _ c src s =>
    let out := laneMap c.act src (fun x _ _ => cvtLane c w x)
    (s.writeTyped c.r (cvtType w) w.d.toNat c.act out.1).raise (wgOf c.r) out.2) := rfl

/-- PACK reads its old destination with its operands (05 R173). -/
theorem pack_exec (w : WWord) (s : State) : exec (.wPack w) s = plainWord 0x93 w s (fun _ c src s =>
    let out := laneMap c.act (src.1, src.2.1, (c.wv.vreg w.d.toNat).map (fun v => v.toNat)) (packLane w)
    (s.writeTyped c.r .b32 w.d.toNat c.act out.1).raise (wgOf c.r) out.2) := rfl

/-- UNPACK raises no flag but IV (05 R174). -/
theorem unpack_exec (w : WWord) (s : State) : exec (.wUnpack w) s = plainWord 0x94 w s (fun _ c src s =>
    let out := laneMap c.act src (fun x y _ => unpackLane w x y)
    (s.writeTyped c.r .b32 w.d.toNat c.act out.1).raise (wgOf c.r) (out.2 &&& flagIV)) := rfl

/-- REDUCE hands its one result to every lane (05 R177). -/
theorem reduce_exec (w : WWord) (s : State) : exec (.wReduce w) s = plainWord 0x98 w s (fun _ c src s =>
    (s.writeTyped c.r w.t w.d.toNat c.act (List.replicate 32 (reduceAll c w src.1).1)).raise (wgOf c.r)
      (if c.act = 0 then 0 else (reduceAll c w src.1).2 ||| reduceIV w.t c.act src.1)) := rfl

/-- SCAN hands each lane the result of the lanes up to it (05 R177). -/
theorem scan_exec (w : WWord) (s : State) : exec (.wScan w) s = plainWord 0x99 w s (fun _ c src s =>
    let out := scanAll c w src.1
    (s.writeTyped c.r w.t w.d.toNat c.act ((List.range 32).map (fun l => (assoc out.1 l).getD 0))).raise (wgOf c.r)
      (out.2 ||| reduceIV w.t c.act src.1)) := rfl

/-! ## The statement -/

/-- Settles O5: the arithmetic and the dot products compute lane by lane from their operands. CVT also reads a codebook, and PACK
its old destination; UNPACK raises IV alone; REDUCE and SCAN compute all their lanes at once. -/
theorem floatWordResults : Obligations.FloatWordResults := by
  intro row hrow
  simp only [floatRows, List.mem_cons, List.not_mem_nil, or_false] at hrow
  rcases hrow with rfl | rfl | rfl | rfl | rfl | rfl | rfl | rfl | rfl | rfl | rfl | rfl | rfl | rfl | rfl
  iterate 8 exact VecRow.lanewise_holds fun _ _ => rfl
  · exact VecRow.holds_of_exec _ cvt_exec fun c x w l hl hact => laneMap_active hl hact x _
  · exact VecRow.holds_of_exec _ pack_exec fun c x w l hl hact => by rw [laneMap_active hl hact, at_vreg]
  · exact VecRow.holds_of_exec _ unpack_exec fun c x w l hl hact => laneMap_active hl hact x _
  iterate 2 exact VecRow.lanewise_holds fun _ _ => rfl
  · exact VecRow.holds_of_exec _ reduce_exec fun c x w l hl _ => at_replicate _ hl
  · exact VecRow.holds_of_exec _ scan_exec fun c x w l hl _ => at_map_range _ hl

end Sys2Proof.Machine
end

section
/-! Sequencer words (07 R223-R250): where a ready word's context stands, what a word that issues leaves of it, and the statements
about branches, LDG and STG, copies, the words handed to the engines, and the status words. -/

namespace Sys2Proof.Machine
open Sys2Proof

/-! ## Where a ready word's context stands -/

/-- The context of a ready word is the one that issues, and it may execute the word (07 R232). -/
theorem State.seqReady?_issue {op : Nat} {w : SWord} {s : State} {c : SeqIssue} {f : SeqForm}
    (h : s.seqReady? op w = some (c, f)) :
    s.cur = .seq c.r.core c.ctx ∧ seqForm op = some f ∧ whoTrap (whoMay op) c.ctx = none
      ∧ ∃ x, s.seqIssue? c.r.core c.ctx x = some c := by
  obtain ⟨core, ctx, hcur, hform, hissue, hwho, -⟩ := State.seqReady?_spec h
  obtain ⟨rfl, rfl⟩ := State.seqIssue?_who hissue
  exact ⟨hcur, hform, (Option.or_eq_none_iff.mp hwho).1, _, hissue⟩

/-- The place of a ready word of a user context, and its job. -/
theorem State.seqReady?_user {op : Nat} {w : SWord} {s : State} {c : SeqIssue} {f : SeqForm}
    (h : s.seqReady? op w = some (c, f)) (hc : c.ctx ≠ .trap) :
    s.jobSlot c.r.core = some c.r.slot ∧ s.wg? c.r = some c.wg ∧ c.wg.job = some c.job ∧ c.st = c.job.ctx c.ctx := by
  obtain ⟨-, -, -, x, hissue⟩ := State.seqReady?_issue h
  obtain ⟨-, -, hrest⟩ := State.seqIssue?_user hc hissue
  exact hrest

/-- A word of user contexts, or of main alone, issues in a user context. -/
theorem State.seqReady?_ne_trap {op : Nat} {w : SWord} {s : State} {c : SeqIssue} {f : SeqForm}
    (h : s.seqReady? op w = some (c, f)) (hop : whoMay op = .user ∨ whoMay op = .main) : c.ctx ≠ .trap := by
  obtain ⟨-, -, hwho, -⟩ := State.seqReady?_issue h
  intro hc
  rcases hop with hop | hop <;> · rw [hop, hc] at hwho; cases hwho

/-- A privileged word issues in the trap context. -/
theorem State.seqReady?_trap {op : Nat} {w : SWord} {s : State} {c : SeqIssue} {f : SeqForm}
    (h : s.seqReady? op w = some (c, f)) (hop : whoMay op = .trap) : c.ctx = .trap := by
  obtain ⟨-, -, hwho, -⟩ := State.seqReady?_issue h
  rw [hop] at hwho
  cases hc : c.ctx <;> simp [hc, whoTrap] at hwho ⊢

/-! ## What a change of a context comes to -/

/-- A change of a context's registers within those that the trap context has. -/
def TrapRegsOnly (f : SeqState → SeqState) : Prop :=
  ∀ y : TrapCtx, f y.asSeq = { SeqState.reset with
    g := (f y.asSeq).g, pc := (f y.asSeq).pc, ldgs := (f y.asSeq).ldgs, poison := (f y.asSeq).poison }

theorem SeqState.setG_trapRegsOnly (d : Nat) (v : W64) (f : SeqState → SeqState)
    (hf : ∀ x, ∃ pc ldgs, f x = { x.setG d v with pc := pc, ldgs := ldgs }) : TrapRegsOnly f := by
  intro y
  obtain ⟨pc, ldgs, h⟩ := hf y.asSeq
  rw [h]
  unfold SeqState.setG
  split <;> rfl

/-- A word that changes its context by `upd` and issues changes nothing but its context and its rings (07 R224). -/
theorem State.updSeq_seqDone {op : Nat} {w : SWord} {s : State} {c : SeqIssue} {f : SeqForm}
    (h : s.seqReady? op w = some (c, f)) {upd : SeqState → SeqState} (hupd : c.ctx = .trap → TrapRegsOnly upd) (on : PushOn) :
    let t := (s.updSeq c upd).seqDone c w on
    s.OnlySeq t c ∧ t.seqOf? c = some (c.after upd)
      ∧ (c.ctx ≠ .trap → (t.job? c.r).map Job.rings = some (c.job.takeTokens c.ctx w on).rings) := by
  obtain ⟨-, -, -, x, hissue⟩ := State.seqReady?_issue h
  refine ⟨(s.updSeq_onlySeq c _).trans (State.seqDone_onlySeq _ c w _), ?_, fun hc => (State.seqDone_user hc hissue _ w on).2⟩
  by_cases hc : c.ctx = .trap
  · rw [hc] at hissue
    exact State.seqDone_trap hc hissue _ w on (hupd hc)
  · exact (State.seqDone_user hc hissue _ w on).1

theorem State.updSeq_user (s : State) {c : SeqIssue} (hc : c.ctx ≠ .trap) (f : SeqState → SeqState) :
    s.updSeq c f = s.updJob c.r (fun j => j.updCtx c.ctx f) := by
  unfold State.updSeq
  split
  · next h => exact absurd h hc
  · rfl

theorem State.seqOf?_user (s : State) {c : SeqIssue} (hc : c.ctx ≠ .trap) :
    s.seqOf? c = (s.job? c.r).map (fun j => j.ctx c.ctx) := by
  unfold State.seqOf?
  split
  · next h => exact absurd h hc
  · rfl

theorem State.updJob_wg? (s : State) (r q : WgRef) (f : Job → Job) :
    (s.updJob r f).wg? q = if q = r then (s.wg? q).map (fun w => { w with job := w.job.map f }) else s.wg? q :=
  s.updWg_wg? r q _

theorem State.updJob_job? (s : State) (r : WgRef) (f : Job → Job) : (s.updJob r f).job? r = (s.job? r).map f := by
  unfold State.job?
  rw [State.updJob_wg?, if_pos rfl]
  cases s.wg? r <;> rfl

theorem State.job?_of_wg? {s : State} {r : WgRef} {g : Workgroup} (h : s.wg? r = some g) : s.job? r = g.job := by
  simp [State.job?, h]

/-- A job, after a word of one of its contexts has changed that context by `f` and issued. -/
def Job.issued (j : Job) (ctx : SeqCtx) (f : SeqState → SeqState) (w : SWord) (on : PushOn) : Job :=
  ((j.updCtx ctx f).takeTokens ctx w on).updCtx ctx (fun x => { x with issued := x.issued + 1 })

theorem Job.issued_shell (j : Job) (ctx : SeqCtx) (f : SeqState → SeqState) (w : SWord) (on : PushOn) :
    (j.issued ctx f w on).shell = j.shell := by
  rw [Job.issued, Job.updCtx_shell, (Job.takeTokens_parts _ _ _ _).1, Job.updCtx_shell]

theorem Job.issued_ctx (j : Job) {ctx : SeqCtx} (hc : ctx ≠ .trap) (f : SeqState → SeqState) (w : SWord) (on : PushOn) :
    (j.issued ctx f w on).ctx ctx = { f (j.ctx ctx) with issued := (f (j.ctx ctx)).issued + 1 } := by
  simp [Job.issued, Job.updCtx_ctx, (Job.takeTokens_parts _ _ _ _).2, hc]

/-- The workgroup of a user context, after a word of it has issued. -/
theorem State.seqDone_wg? {s : State} {c : SeqIssue} (hc : c.ctx ≠ .trap) (f : SeqState → SeqState) (w : SWord) (on : PushOn) :
    ((s.updSeq c f).seqDone c w on).wg? c.r =
      (s.wg? c.r).map (fun g => { g with watchdog := 0, job := g.job.map (fun j => j.issued c.ctx f w on) }) := by
  rw [s.seqDone_eq c hc, State.updWg_wg?, if_pos rfl]
  rfl

/-- The job of a user context, after a word of it has issued: whatever else the word did to its workgroup before. -/
theorem State.seqDone_job {s : State} {c : SeqIssue} {j : Job} (hc : c.ctx ≠ .trap) (hj : s.job? c.r = some j)
    (hst : j.ctx c.ctx = c.st) (f : SeqState → SeqState) (w : SWord) (on : PushOn) :
    let t := (s.updSeq c f).seqDone c w on
    t.job? c.r = some (j.issued c.ctx f w on) ∧ t.seqOf? c = some (c.after f) := by
  have ht : ((s.updSeq c f).seqDone c w on).job? c.r = some (j.issued c.ctx f w on) := by
    unfold State.job? at hj ⊢
    rw [State.seqDone_wg? hc]
    cases hg : s.wg? c.r with
    | none => simp [hg] at hj
    | some g =>
      have hgj : g.job = some j := by simpa [hg] using hj
      simp [hgj]
  refine ⟨ht, ?_⟩
  rw [State.seqOf?_user _ hc, ht, Option.map_some, Job.issued_ctx _ hc, hst]
  simp [SeqIssue.after, hc]

theorem Job.updCtx_updCtx (j : Job) (ctx : SeqCtx) (f g : SeqState → SeqState) :
    (j.updCtx ctx f).updCtx ctx g = j.updCtx ctx (fun x => g (f x)) := by
  cases ctx <;> rfl

theorem State.updJob_updJob (s : State) (r : WgRef) (f g : Job → Job) :
    (s.updJob r f).updJob r g = s.updJob r (fun j => g (f j)) := by
  unfold State.updJob
  rw [State.updWg_updWg]
  simp only [Option.map_map]
  rfl

theorem State.updSeq_updSeq (s : State) {c : SeqIssue} (hc : c.ctx ≠ .trap) (f g : SeqState → SeqState) :
    (s.updSeq c f).updSeq c g = s.updSeq c (fun x => g (f x)) := by
  simp only [State.updSeq_user _ hc, State.updJob_updJob, Job.updCtx_updCtx]

/-! ## Branches and jumps (07 R230, R234) -/

/-- A context that has gone to a target, with the return address in a register where the word links. -/
def SeqIssue.jumpTo (c : SeqIssue) (d : BitVec 5) (link : Bool) (target : Int) (x : SeqState) : SeqState :=
  { (if link = true then x.setG d.toNat (BitVec.ofNat 64 (c.st.pc + 4)) else x) with pc := target.toNat }

/-- A word that goes to a target traps where the target lies outside the store, and goes there otherwise. -/
theorem seqWord_jumps {op : Nat} {w : SWord} {s : State} {c : SeqIssue} {f : SeqForm} (h : s.seqReady? op w = some (c, f))
    {body : SeqFmt → SeqIssue → State → SeqDone} {d : BitVec 5} {link : Bool} {target : Int}
    (hbody : body f.fmt c s = seqJump c d link target s) :
    (target < 0 ∨ 0x10000 ≤ target → seqWord op w s body = .next (s.seqTrap c .illegalWord 0 0 0 []))
    ∧ (¬(target < 0 ∨ 0x10000 ≤ target) →
      seqWord op w s body = .next ((s.updSeq c (c.jumpTo d link target)).seqDone c w .now)) := by
  rw [seqWord_ready h, hbody, seqJump]
  exact ⟨fun hout => by rw [if_pos hout], fun hin => by rw [if_neg hin]; rfl⟩

/-- The target of a row's word is no word of the instruction store. -/
def SeqJump.Bad (row : SeqJump) (c : SeqIssue) (w : SWord) (f : SeqForm) : Prop :=
  row.target c w f < 0 ∨ 0x10000 ≤ row.target c w f ∨ row.aligned = true ∧ row.target c w f % 4 ≠ 0

/-- What a ready control word comes to: past it, a trap, or its target. -/
def SeqJump.Moves (row : SeqJump) : Prop :=
  ∀ (w : SWord) (s : State) (c : SeqIssue) (f : SeqForm), s.seqReady? row.op w = some (c, f) →
    (row.taken c w = false → exec (row.instr w) s = .next ((s.seqNext c).seqDone c w .now))
    ∧ (row.taken c w = true → row.Bad c w f → exec (row.instr w) s = .next (s.seqTrap c .illegalWord 0 0 0 []))
    ∧ (row.taken c w = true → ¬row.Bad c w f → exec (row.instr w) s =
        .next ((s.updSeq c (c.jumpTo w.d row.links (row.target c w f))).seqDone c w .now))

/-- A branch compares two registers. -/
theorem SeqJump.Moves.of_branch {op : Nat} {instr : SWord → Instr} {taken : SeqIssue → SWord → Bool} {p : W64 → W64 → Bool}
    (he : ∀ w s, exec (instr w) s = seqBranch op w s p) (hp : ∀ c w, p (SeqIssue.g c w.a) (SeqIssue.g c w.b) = taken c w) :
    (SeqJump.mk op instr taken pcTarget false false).Moves := by
  intro w s c f h
  simp only [SeqJump.Bad, Bool.false_eq_true, false_and, or_false] at h ⊢
  rw [he, seqBranch]
  refine ⟨fun ht => ?_, fun ht hb => ?_, fun ht hb => ?_⟩
  · simp only [seqWord_ready h, hp, ht, Bool.false_eq_true, if_false]
  · exact (seqWord_jumps h (d := 0) (link := false) (if_pos ((hp c w).trans ht))).1 hb
  · exact (seqWord_jumps h (d := 0) (link := false) (if_pos ((hp c w).trans ht))).2 hb

/-- Each control word moves as its row says (07 R234). -/
theorem seqJumps_move : ∀ row ∈ seqJumps, row.Moves := by
  simp only [seqJumps, List.forall_mem_cons, List.not_mem_nil, false_implies, implies_true, and_true]
  refine ⟨?beq, ?bne, ?blt, ?bge, ?j, ?jal, ?jr⟩
  case beq => exact .of_branch (p := fun x y => x == y) (fun _ _ => rfl) (fun _ _ => beq_eq_decide _ _)
  case bne => exact .of_branch (p := fun x y => x != y) (fun _ _ => rfl) (fun _ _ => by simp [bne, beq_eq_decide])
  case blt => exact .of_branch (p := fun x y => decide (x.toInt < y.toInt)) (fun _ _ => rfl) (fun _ _ => rfl)
  case bge => exact .of_branch (p := fun x y => decide (y.toInt ≤ x.toInt)) (fun _ _ => rfl) (fun _ _ => rfl)
  case j =>
    intro w s c f h
    simp only [SeqJump.Bad, Bool.false_eq_true, false_and, or_false] at h ⊢
    obtain ⟨hout, hin⟩ := seqWord_jumps h (body := fun x c s => seqJump c 0 false ((c.st.pc : Int) + 4 * seqImm x w) s) rfl
    exact ⟨nofun, fun _ => hout, fun _ => hin⟩
  case jal =>
    intro w s c f h
    simp only [SeqJump.Bad, Bool.false_eq_true, false_and, or_false] at h ⊢
    obtain ⟨hout, hin⟩ := seqWord_jumps h (body := fun x c s => seqJump c w.d true ((c.st.pc : Int) + 4 * seqImm x w) s) rfl
    exact ⟨nofun, fun _ => hout, fun _ => hin⟩
  case jr =>
    intro w s c f h
    simp only [SeqJump.Bad, true_and] at h ⊢
    by_cases hm : (c.g w.a).toNat % 4 = 0
    · obtain ⟨hout, hin⟩ := seqWord_jumps h (d := w.d) (link := true) (target := (c.g w.a).toNat)
        (body := fun _ c s => if (c.g w.a).toNat % 4 ≠ 0 then .trap .illegalWord 0 0 0 [] s
          else seqJump c w.d true (c.g w.a).toNat s) (if_neg (not_not_intro hm))
      exact ⟨nofun, fun _ hb => hout (by omega), fun _ hb => hin (by omega)⟩
    · refine ⟨nofun, fun _ _ => ?_, fun _ hb => absurd (by omega) hb⟩
      rw [show exec (.seqJr w) s = execSeqJr w s from rfl, execSeqJr, seqWord_ready h]
      simp only [ne_eq, hm, not_false_eq_true, if_true]

/-- A context that goes to a target changes no register that the trap context does not have. -/
theorem SeqIssue.jumpTo_trapRegsOnly (c : SeqIssue) (d : BitVec 5) (link : Bool) (target : Int) :
    TrapRegsOnly (c.jumpTo d link target) := by
  unfold SeqIssue.jumpTo
  split
  · exact SeqState.setG_trapRegsOnly d.toNat _ _ (fun x => ⟨_, x.ldgs, by unfold SeqState.setG; split <;> rfl⟩)
  · exact fun _ => rfl

/-- Settles O29: a control word goes past itself, to its target, or traps, and what a change of the pc comes to holds of every
change of a context. -/
theorem sequencerControl : Obligations.SequencerControl := by
  intro row hrow w s c f h
  obtain ⟨hpast, htrap, hgo⟩ := seqJumps_move row hrow w s c f h
  refine ⟨fun ht hlo hhi hal => ?_, htrap, fun ht => ?_⟩
  · have hb : ¬row.Bad c w f := by
      rintro (hb | hb | ⟨ha, hb⟩)
      · omega
      · omega
      · exact hb (hal ha)
    obtain ⟨honly, hseq, -⟩ := State.updSeq_seqDone h (fun _ => c.jumpTo_trapRegsOnly _ _ _) .now
    exact ⟨_, hgo ht hb, honly, hseq⟩
  · obtain ⟨honly, hseq, -⟩ := State.updSeq_seqDone h (upd := fun x => { x with pc := x.pc + 4 }) (fun _ _ => rfl) .now
    exact ⟨_, hpast ht, honly, hseq⟩

end Sys2Proof.Machine
end

section
/-! Sequencer words for memory and copies (07 R225, R231, R235-R237): LDG, STG, the return of their accesses, CPY and CPYW. -/

namespace Sys2Proof.Machine
open Sys2Proof

/-! ## LDG and STG (07 R231, R235) -/

/-- The form of a ready word is that of its operation. -/
theorem State.seqReady?_form {op : Nat} {w : SWord} {s : State} {c : SeqIssue} {f fm : SeqForm}
    (h : s.seqReady? op w = some (c, f)) (hfm : seqForm op = some fm) : f = fm := by
  obtain ⟨-, hform, -⟩ := State.seqReady?_issue h
  exact Option.some.inj (hform.symm.trans hfm)

/-- The address of LDG and STG. -/
def SeqIssue.accessAddr (c : SeqIssue) (w : SWord) : Nat := (c.g w.a + BitVec.ofInt 64 (signed 12 w.imm.toNat)).toNat

/-- LDG of an aligned address that translates, to bytes that can be read. -/
theorem execSeqLdg_ready {w : SWord} {s : State} {c : SeqIssue} {f : SeqForm} (h : s.seqReady? 0x18 w = some (c, f)) {d : Nat}
    {m : (Xlat × List Nat) × State} (hm : s.mapAccess c.r.core c.wg.ctx (c.accessAddr w) 8 .read = m)
    (ha : c.accessAddr w % 8 = 0) (hd : m.1.1 = .ok d) (hw : s.awaitsMember c.wg d = false)
    (hp : ∀ i, i < 8 → m.2.poisonedByte (d + i) = false) :
    execSeqLdg w s = .next (((m.2.readDv c.r.core c.wg.ctx d).2.updSeq c (fun x => { x with
      pc := x.pc + 4, nextId := x.nextId + 1,
      ldgs := x.ldgs ++ [⟨c.st.nextId, w.d.toNat, BitVec.ofNat 64 (m.2.readDv c.r.core c.wg.ctx d).1⟩] })).seqDone c w
        (.ldg c.ctx c.st.nextId)) := by
  obtain rfl := State.seqReady?_form h (fm := ⟨.i, true, true, false, true⟩) rfl
  have hclean : (List.range 8).any (fun i => m.2.poisonedByte (d + i)) = false :=
    List.any_eq_false.mpr (fun i hi => by simp [hp i (List.mem_range.mp hi)])
  have hva : (c.g w.a + BitVec.ofInt 64 (seqImm .i w)).toNat = c.accessAddr w := rfl
  rw [execSeqLdg, seqWord_ready h]
  simp only [hva, hm, ha, hd, hw, hclean, ne_eq, not_true_eq_false, Bool.false_eq_true, if_false, State.seqAccess]

/-- STG of an aligned address that translates. -/
theorem execSeqStg_ready {w : SWord} {s : State} {c : SeqIssue} {f : SeqForm} (h : s.seqReady? 0x19 w = some (c, f)) {d : Nat}
    {m : (Xlat × List Nat) × State} (hm : s.mapAccess c.r.core c.wg.ctx (c.accessAddr w) 8 .write = m)
    (ha : c.accessAddr w % 8 = 0) (hd : m.1.1 = .ok d) (hw : s.awaitsMember c.wg d = false) :
    execSeqStg w s = .next (((m.2.writeDv c.r.core c.wg.ctx d (c.g w.d).toNat).updSeq c (fun x => { x with
      pc := x.pc + 4, nextId := x.nextId + 1, ldgs := x.ldgs ++ [⟨c.st.nextId, 0, 0⟩] })).seqDone c w
        (.ldg c.ctx c.st.nextId)) := by
  obtain rfl := State.seqReady?_form h (fm := ⟨.i, true, true, false, true⟩) rfl
  have hva : (c.g w.a + BitVec.ofInt 64 (seqImm .i w)).toNat = c.accessAddr w := rfl
  rw [execSeqStg, seqWord_ready h]
  simp only [hva, hm, ha, hd, hw, ne_eq, not_true_eq_false, Bool.false_eq_true, if_false, State.seqAccess]

/-- LDG and STG of a misaligned address trap PROTECTION before anything is translated. -/
theorem exec_seqAccess_misaligned {op : Nat} {i : SWord → Instr} {acc : AccKind}
    (hop : (op, i, acc) ∈ [((0x18 : Nat), Instr.seqLdg, AccKind.read), (0x19, .seqStg, .write)]) {w : SWord} {s : State}
    {c : SeqIssue} {f : SeqForm} (h : s.seqReady? op w = some (c, f)) (ha : c.accessAddr w % 8 ≠ 0) :
    exec (i w) s = .next (s.seqTrap c .protection (accBits acc) 0 (BitVec.ofNat 64 (c.accessAddr w)) []) := by
  have hva : (c.g w.a + BitVec.ofInt 64 (seqImm .i w)).toNat = c.accessAddr w := rfl
  simp only [List.mem_cons, Prod.mk.injEq, List.not_mem_nil, or_false] at hop
  rcases hop with ⟨rfl, rfl, rfl⟩ | ⟨rfl, rfl, rfl⟩ <;>
    obtain rfl := State.seqReady?_form h (fm := ⟨.i, true, true, false, true⟩) rfl
  · rw [show exec (.seqLdg w) s = execSeqLdg w s from rfl, execSeqLdg, seqWord_ready h]
    simp only [hva, ha, ne_eq, not_false_eq_true, if_true, seqFault]
  · rw [show exec (.seqStg w) s = execSeqStg w s from rfl, execSeqStg, seqWord_ready h]
    simp only [hva, ha, ne_eq, not_false_eq_true, if_true, seqFault]

/-! ## The return of an access (07 R225, R231) -/

/-- Making pushes that wait on something changes only the rings of a job. -/
theorem State.completePushes_onlySeq (s : State) (c : SeqIssue) (p : PushOn → Bool) :
    s.OnlySeq (s.updJob c.r (fun j => j.completePushes p)) c := by
  refine s.updWg_onlySeq c _ (fun _ => rfl) (fun g => ?_) (fun g k _ => ?_)
  · cases g.job <;> rfl
  · cases g.job with
    | none => rfl
    | some j => cases k <;> rfl

/-- The oldest access of a context returns: its register is written, and the pushes that wait on it are made. -/
theorem execEvLdgAccessReturn_oldest {s : State} {c : SeqIssue} (hissue : s.seqIssue? c.r.core c.ctx 0 = some c) {l : LdgWait}
    {rest : List LdgWait} (hl : c.st.ldgs = l :: rest) :
    ∃ t, execEvLdgAccessReturn c.r.core c.ctx s = .next t ∧ s.OnlySeq t c
      ∧ t.seqOf? c = some { c.st.setG l.reg l.value with ldgs := rest } := by
  have honly := s.updSeq_onlySeq c (fun x => { x.setG l.reg l.value with ldgs := rest })
  simp only [execEvLdgAccessReturn, hissue, hl]
  by_cases hc : c.ctx = .trap
  · rw [hc] at hissue
    obtain ⟨-, -, hst, -⟩ := State.seqIssue?_trap hissue
    refine ⟨_, rfl, by rwa [if_pos hc], ?_⟩
    have hbare := SeqState.setG_trapRegsOnly l.reg l.value (fun x => { x.setG l.reg l.value with ldgs := rest })
      (fun x => ⟨(x.setG l.reg l.value).pc, rest, rfl⟩) (s.core c.r.core).trap
    simp only [State.seqOf?, State.updSeq, hc, State.updCore_core, if_true, hst]
    exact congrArg some hbare.symm
  · obtain ⟨-, -, -, hg, hj, hst⟩ := State.seqIssue?_user hc hissue
    refine ⟨_, rfl, by rw [if_neg hc]; exact honly.trans (State.completePushes_onlySeq _ c _), ?_⟩
    rw [if_neg hc, State.seqOf?_user _ hc, State.updJob_job?, State.updSeq_user _ hc, State.updJob_job?, State.job?_of_wg? hg, hj]
    simp only [Option.map_some, hst, Option.some.injEq]
    have hctx (j : Job) (p : PushOn → Bool) : (j.completePushes p).ctx c.ctx = j.ctx c.ctx := by cases c.ctx <;> rfl
    rw [hctx, Job.updCtx_ctx, if_pos ⟨rfl, hc⟩]

/-- Settles O30: LDG and STG of an aligned address hand their access over, a misaligned one traps, and the oldest access
returns. -/
theorem sequencerLoadsAndStores : Obligations.SequencerLoadsAndStores :=
  fun _ _ _ _ =>
    ⟨fun _ h ha hd hw hp => execSeqLdg_ready h rfl ha hd hw hp, fun _ h ha hd hw => execSeqStg_ready h rfl ha hd hw,
      fun _ _ _ hop h ha => exec_seqAccess_misaligned hop h ha, fun _ _ hissue hl => execEvLdgAccessReturn_oldest hissue hl⟩

/-! ## Copies (07 R236, R237; 18 R435) -/

/-- The command that a CPY hands over. -/
def SeqIssue.copyWords (c : SeqIssue) (w : SWord) : List W64 :=
  (List.range 4).map (fun i => c.g (BitVec.ofNat 5 (w.a.toNat + i)))

/-- A context that has handed a copy over, numbered `n`. -/
def SeqState.copied (d : BitVec 5) (n : Nat) (x : SeqState) : SeqState :=
  { x.setG d.toNat (BitVec.ofNat 64 n) with pc := x.pc + 4, copies := n, copySince := none }

theorem SeqState.copied_eq (d : BitVec 5) (n : Nat) (x : SeqState) :
    ({ ({ x with copies := n, copySince := none } : SeqState).setG d.toNat (BitVec.ofNat 64 n) with pc := x.pc + 4 } : SeqState) =
      x.copied d n := by
  unfold SeqState.copied SeqState.setG
  split <;> rfl

/-- CPY with a slot of its own hands a well-formed command over, and traps for a malformed one. -/
theorem execSeqCpy_slot {w : SWord} {s : State} {c : SeqIssue} {f : SeqForm} (h : s.seqReady? 0x20 w = some (c, f)) {slot : Nat}
    (hslot : s.copySlotFor c.r.core (arrivalKey (c.st.copySince.getD (s.tckOf c.r.core)) none) = some slot) :
    let n := c.st.copies + 1
    ((copyCmd (c.copyWords w)).isSome = true → execSeqCpy w s = .next (((s.updWg c.r (fun g => g.accept
        (newCopy (c.copyWords w) (.seq c.ctx n) (if w.b = 0 then 0 else c.g w.b) c.r.core slot))).updSeq c
          (SeqState.copied w.d n)).seqDone c w (.copy c.ctx n)))
    ∧ ((copyCmd (c.copyWords w)).isSome = false → execSeqCpy w s = .next (s.seqTrap c .illegalWord 0 0 0 [])) := by
  have hc := State.seqReady?_ne_trap h (.inl rfl)
  have hcmd : (List.range 4).map (fun i => c.g (BitVec.ofNat 5 (w.a.toNat + i))) = c.copyWords w := rfl
  rw [execSeqCpy, seqWord_ready h]
  simp only [hslot, hcmd]
  refine ⟨fun hok => ?_, fun hbad => ?_⟩
  · rw [if_neg (by simpa using Option.isSome_iff_ne_none.mp hok)]
    simp only [State.seqWrite, State.updSeq_updSeq _ hc, SeqState.copied_eq]
  · rw [if_pos (by simpa using hbad)]

/-- The workgroup and the context of a CPY whose copy has been accepted. -/
theorem State.accept_seqDone {op : Nat} {w : SWord} {s : State} {c : SeqIssue} {f : SeqForm}
    (h : s.seqReady? op w = some (c, f)) (hc : c.ctx ≠ .trap) (x : Copy) (upd : SeqState → SeqState) (on : PushOn) :
    let t := ((s.updWg c.r (fun g => g.accept x)).updSeq c upd).seqDone c w on
    (∃ g, t.wg? c.r = some g ∧ g.copies = c.wg.copies ++ [x]) ∧ t.seqOf? c = some (c.after upd) := by
  obtain ⟨-, hg, hj, hst⟩ := State.seqReady?_user h hc
  have haccept : (s.updWg c.r (fun g => g.accept x)).wg? c.r = some (c.wg.accept x) := by
    rw [State.updWg_wg?, if_pos rfl, hg, Option.map_some]
  refine ⟨⟨_, by rw [State.seqDone_wg? hc, haccept, Option.map_some], rfl⟩, ?_⟩
  exact (State.seqDone_job hc ((State.job?_of_wg? haccept).trans hj) hst.symm upd w on).2

/-- Settles O31: CPY hands over, traps or waits by its slot and its command, and CPYW goes on past copies that have completed. -/
theorem sequencerCopies : Obligations.SequencerCopies := by
  intro w s c f
  refine ⟨fun slot h hslot => ?_, fun h hslot => ?_, fun h => ⟨fun hopen => ?_, fun hdone => ?_⟩⟩
  · obtain ⟨hok, hbad⟩ := execSeqCpy_slot h hslot
    refine ⟨fun hcmd => ?_, hbad⟩
    obtain ⟨⟨g, hg, hcopies⟩, hseq⟩ := State.accept_seqDone h (State.seqReady?_ne_trap h (.inl rfl))
      (newCopy (c.copyWords w) (.seq c.ctx (c.st.copies + 1)) (if w.b = 0 then 0 else c.g w.b) c.r.core slot)
      (SeqState.copied w.d (c.st.copies + 1)) (.copy c.ctx (c.st.copies + 1))
    exact ⟨_, g, hok hcmd, hg, hcopies, hseq⟩
  · rw [show exec (.seqCpy w) s = execSeqCpy w s from rfl, execSeqCpy, seqWord_ready h]
    simp only [hslot]
  · rw [show exec (.seqCpyw w) s = execSeqCpyw w s from rfl, execSeqCpyw, seqWord_ready h]
    simp only [hopen, if_true]
  · obtain ⟨honly, hseq, -⟩ := State.updSeq_seqDone h (upd := fun x => { x with pc := x.pc + 4 }) (fun _ _ => rfl) .now
    refine ⟨_, ?_, honly, hseq⟩
    rw [show exec (.seqCpyw w) s = execSeqCpyw w s from rfl, execSeqCpyw, seqWord_ready h]
    simp only [hdone, Bool.false_eq_true, if_false]
    rfl

end Sys2Proof.Machine
end

section
/-! Sequencer words for the engines and the status of a context (07 R238-R247): MW, NEST, GO and NWAIT, and SPW to OVL. -/

namespace Sys2Proof.Machine
open Sys2Proof

/-- A context that has received a value in a register, at its next word. -/
def SeqState.received (d : BitVec 5) (v : Nat) (x : SeqState) : SeqState :=
  { x.setG d.toNat (BitVec.ofNat 64 v) with pc := x.pc + 4 }

/-- A user word that changes its job, but none of its contexts, and then its context: both changes stand once it has issued. -/
theorem State.updJob_seqDone {op : Nat} {w : SWord} {s : State} {c : SeqIssue} {f : SeqForm}
    (h : s.seqReady? op w = some (c, f)) (hc : c.ctx ≠ .trap) {u : Job → Job} (hu : (u c.job).ctx c.ctx = c.job.ctx c.ctx)
    (upd : SeqState → SeqState) (on : PushOn) :
    let t := ((s.updJob c.r u).updSeq c upd).seqDone c w on
    (∃ k, t.job? c.r = some k ∧ k.shell = (u c.job).shell) ∧ t.seqOf? c = some (c.after upd) := by
  obtain ⟨-, hg, hj, hst⟩ := State.seqReady?_user h hc
  have hjob : (s.updJob c.r u).job? c.r = some (u c.job) := by
    rw [State.updJob_job?, State.job?_of_wg? hg, hj, Option.map_some]
  obtain ⟨hk, hseq⟩ := State.seqDone_job hc hjob (hu.trans hst.symm) upd w on
  exact ⟨⟨_, hk, Job.issued_shell _ _ _ _ _⟩, hseq⟩

/-! ## Words and nests for the matrix engine (07 R238-R240; 08 R282, R283) -/

/-- The store offset that MW and NEST name. -/
def SeqIssue.tableOffset (c : SeqIssue) (w : SWord) : Nat := (c.g w.a + BitVec.ofInt 64 (signed 12 w.imm.toNat)).toNat

theorem storeOffset_eq (c : SeqIssue) (w : SWord) (n : Nat) :
    storeOffset c w n = if c.tableOffset w % 8 = 0 ∧ c.tableOffset w + n ≤ 0xE000 then some (c.tableOffset w) else none := rfl

theorem storeOffset_inside {c : SeqIssue} {w : SWord} {n : Nat} (h8 : c.tableOffset w % 8 = 0)
    (hn : c.tableOffset w + n ≤ 0xE000) : storeOffset c w n = some (c.tableOffset w) := by
  rw [storeOffset_eq, if_pos ⟨h8, hn⟩]

theorem storeOffset_outside {c : SeqIssue} {w : SWord} {n : Nat} (h : c.tableOffset w % 8 ≠ 0 ∨ 0xE000 < c.tableOffset w + n) :
    storeOffset c w n = none := by
  rw [storeOffset_eq, if_neg (by omega)]

/-- Where a word's bytes lie in the store or not. -/
theorem storeOffset_cases (c : SeqIssue) (w : SWord) (n : Nat) :
    storeOffset c w n = none ∨ storeOffset c w n = some (c.tableOffset w) := by
  rw [storeOffset_eq]
  split
  · exact .inr rfl
  · exact .inl rfl

/-- Whether the matrix word at a store offset may be handed over (03 R107, R108; 08 R262). -/
def State.matrixGood (s : State) (c : SeqIssue) (w : SWord) : Bool :=
  let x := ofBytes (s.storeBytes c.r.core (c.tableOffset w) 24)
  let m := decodeMatrixFields x
  !matrixReserved x && matrixOk (bits x 188 4) m && !offsetBeyond (s.lpbOf c.wg).scratch (bits x 188 4) m

/-- MW hands a good word to a queue with room. -/
theorem execSeqMw_good {w : SWord} {s : State} {c : SeqIssue} {f : SeqForm} (h : s.seqReady? 0x22 w = some (c, f))
    (h8 : c.tableOffset w % 8 = 0) (hn : c.tableOffset w + 24 ≤ 0xE000) (hgood : s.matrixGood c w = true) :
    let x := ofBytes (s.storeBytes c.r.core (c.tableOffset w) 24)
    let t := c.job.ticket + 1
    (c.job.queue (queueOf (bits x 188 4))).held < 32 →
    execSeqMw w s = .next (((s.updJob c.r (fun j =>
      ({ j with ticket := t, open_ := j.open_ ++ [(t, 0)] }.handOver (bits x 188 4) (decodeMatrixFields x) t false false).noteDrain
        (bits x 188 4) t)).updSeq c (SeqState.received w.d t)).seqDone c w (.ticket t)) := by
  intro x t hroom
  simp only [State.matrixGood, Bool.and_eq_true, Bool.not_eq_true'] at hgood
  obtain ⟨⟨hres, hok⟩, hoff⟩ := hgood
  rw [execSeqMw, seqWord_ready h]
  simp only [storeOffset_inside h8 hn]
  rw [if_neg (by simp [hres, hok, hoff]), if_neg (by exact Nat.not_le.mpr hroom)]
  rfl

/-- MW of a word that is malformed or not in the job's part of the store traps. -/
theorem execSeqMw_bad {w : SWord} {s : State} {c : SeqIssue} {f : SeqForm} (h : s.seqReady? 0x22 w = some (c, f))
    (hbad : c.tableOffset w % 8 ≠ 0 ∨ 0xE000 < c.tableOffset w + 24 ∨ s.matrixGood c w = false) :
    execSeqMw w s = .next (s.seqTrap c .illegalWord 0 0 0 []) := by
  rw [execSeqMw, seqWord_ready h]
  rcases storeOffset_cases c w 24 with hoff | hoff
  · simp only [hoff]
  · have hin : ¬(c.tableOffset w % 8 ≠ 0 ∨ 0xE000 < c.tableOffset w + 24) := fun hout => by
      rw [storeOffset_outside hout] at hoff
      cases hoff
    have hgood : s.matrixGood c w = false := by
      rcases hbad with hb | hb | hb
      · exact absurd (.inl hb) hin
      · exact absurd (.inr hb) hin
      · exact hb
    simp only [hoff]
    rw [if_pos ?_]
    simp only [State.matrixGood, Bool.and_eq_false_iff, Bool.not_eq_false'] at hgood
    rcases hgood with (hb | hb) | hb
    · exact .inl hb
    · exact .inr (.inl hb)
    · exact .inr (.inr hb)

/-- NEST copies a valid table into the shadow registers. -/
theorem execSeqNest_good {w : SWord} {s : State} {c : SeqIssue} {f : SeqForm} (h : s.seqReady? 0x23 w = some (c, f))
    (h8 : c.tableOffset w % 8 = 0) (hn : c.tableOffset w + 200 ≤ 0xE000)
    (hok : nestOk (s.lpbOf c.wg).scratch (s.storeBytes c.r.core (c.tableOffset w) 200) = true) :
    ∃ t, execSeqNest w s = .next t ∧ (t.job? c.r).map (·.shadow) = some (s.storeBytes c.r.core (c.tableOffset w) 200)
      ∧ t.seqOf? c = some (c.after (fun y => { y with pc := y.pc + 4 })) := by
  obtain ⟨⟨k, hk, hshell⟩, hseq⟩ := State.updJob_seqDone h (State.seqReady?_ne_trap h (.inr rfl))
    (u := fun j => { j with shadow := s.storeBytes c.r.core (c.tableOffset w) 200 }) (by cases c.ctx <;> rfl)
    (fun y => { y with pc := y.pc + 4 }) .now
  refine ⟨_, ?_, ?_, hseq⟩
  · rw [execSeqNest, seqWord_ready h]
    simp only [storeOffset_inside h8 hn, hok, if_true]
    rfl
  · rw [hk, Option.map_some]
    exact congrArg some (congrArg Job.shadow hshell :)

theorem execSeqNest_bad {w : SWord} {s : State} {c : SeqIssue} {f : SeqForm} (h : s.seqReady? 0x23 w = some (c, f))
    (hbad : c.tableOffset w % 8 ≠ 0 ∨ 0xE000 < c.tableOffset w + 200
      ∨ nestOk (s.lpbOf c.wg).scratch (s.storeBytes c.r.core (c.tableOffset w) 200) = false) :
    execSeqNest w s = .next (s.seqTrap c .illegalWord 0 0 0 []) := by
  rw [execSeqNest, seqWord_ready h]
  rcases storeOffset_cases c w 200 with hoff | hoff
  · simp only [hoff]
  · rcases hbad with hb | hb | hb
    · rw [storeOffset_outside (.inl hb)] at hoff; cases hoff
    · rw [storeOffset_outside (.inr hb)] at hoff; cases hoff
    · simp only [hoff, hb, Bool.false_eq_true, if_false]

/-- A job whose GO has taken a ticket: its nest runs where the workgroup's share is not empty (08 R283, R284). -/
def Job.goWith (ticket : Nat) (share : Option (List Nat)) (j : Job) : Job :=
  match share with
  | some p => { j with ticket := ticket, open_ := j.open_ ++ [(ticket, 0)], nest := some (nestRunAt j.shadow ticket p) }
  | none => { j with ticket := ticket }

theorem Job.goWith_parts {j : Job} (hn : j.nest = none) (ticket : Nat) (share : Option (List Nat)) :
    (j.goWith ticket share).ticket = ticket ∧ (j.goWith ticket share).nest = share.map (nestRunAt j.shadow ticket)
      ∧ (j.goWith ticket share).open_ = j.open_ ++ (if share.isSome then [(ticket, 0)] else [])
      ∧ ∀ k, (j.goWith ticket share).ctx k = j.ctx k := by
  cases share with
  | none => exact ⟨rfl, hn, (List.append_nil _).symm, fun k => by cases k <;> rfl⟩
  | some p => exact ⟨rfl, rfl, rfl, fun k => by cases k <;> rfl⟩

/-- GO starts the nest of the shadow registers under the next ticket. -/
theorem execSeqGo_starts {w : SWord} {s : State} {c : SeqIssue} {f : SeqForm} (h : s.seqReady? 0x24 w = some (c, f))
    (hn : c.job.nest = none) (hok : nestOk (s.lpbOf c.wg).scratch c.job.shadow = true) :
    let t1 := c.job.ticket + 1
    let share := nestStart (s.lpbOf c.wg) c.wg.wgl (nestLevelsOf c.job.shadow)
    ∃ t j, execSeqGo w s = .next t ∧ t.job? c.r = some j ∧ j.ticket = t1 ∧ j.nest = share.map (nestRunAt c.job.shadow t1)
      ∧ j.open_ = c.job.open_ ++ (if share.isSome then [(t1, 0)] else [])
      ∧ t.seqOf? c = some (c.after (SeqState.received w.d t1)) := by
  intro t1 share
  obtain ⟨hticket, hnest, hopen, hctx⟩ := Job.goWith_parts hn t1 share
  obtain ⟨⟨k, hk, hshell⟩, hseq⟩ := State.updJob_seqDone h (State.seqReady?_ne_trap h (.inr rfl)) (u := Job.goWith t1 share)
    (hctx c.ctx) (SeqState.received w.d t1) (if share.isSome then .ticket t1 else .now)
  refine ⟨_, k, ?_, hk, ((congrArg Job.ticket hshell :)).trans hticket, ((congrArg Job.nest hshell :)).trans hnest,
    ((congrArg Job.open_ hshell :)).trans hopen, hseq⟩
  rw [execSeqGo, seqWord_ready h]
  simp only [hn, Option.isSome_none, Bool.false_eq_true, if_false, hok, Bool.not_true]
  rfl

/-- Settles O32: MW, NEST and GO by the checks of what they name, GO and NWAIT by what still runs. -/
theorem sequencerMatrixHandover : Obligations.SequencerMatrixHandover := by
  intro w s c f
  refine ⟨fun h h8 hn hgood hroom => execSeqMw_good h h8 hn hgood hroom, fun h hbad => execSeqMw_bad h hbad,
    fun h => ⟨fun h8 hn hok => execSeqNest_good h h8 hn hok, fun hbad => execSeqNest_bad h hbad⟩,
    fun h => ⟨fun hn => ?_, fun hn hok => execSeqGo_starts h hn hok, fun hn hbad => ?_⟩, fun h => ⟨fun hopen => ?_, fun hdone => ?_⟩⟩
  · rw [show exec (.seqGo w) s = execSeqGo w s from rfl, execSeqGo, seqWord_ready h]
    simp only [hn, if_true]
  · rw [show exec (.seqGo w) s = execSeqGo w s from rfl, execSeqGo, seqWord_ready h]
    simp only [hn, Option.isSome_none, Bool.false_eq_true, if_false, hbad, Bool.not_false, if_true]
  · rw [show exec (.seqNwait w) s = execSeqNwait w s from rfl, execSeqNwait, seqWord_ready h]
    simp only [hopen, if_true]
  · obtain ⟨honly, hseq, -⟩ := State.updSeq_seqDone h (upd := fun x => { x with pc := x.pc + 4 }) (fun _ _ => rfl) .now
    refine ⟨_, ?_, honly, hseq⟩
    rw [show exec (.seqNwait w) s = execSeqNwait w s from rfl, execSeqNwait, seqWord_ready h]
    simp only [hdone, Bool.false_eq_true, if_false]
    rfl

/-! ## Status words (07 R242-R247) -/

/-- What a user word that does nothing but change its context comes to. -/
theorem State.updSeq_user_seqDone {op : Nat} {w : SWord} {s : State} {c : SeqIssue} {f : SeqForm}
    (h : s.seqReady? op w = some (c, f)) (hop : whoMay op = .user) (upd : SeqState → SeqState) (on : PushOn) :
    let t := (s.updSeq c upd).seqDone c w on
    s.OnlySeq t c ∧ t.seqOf? c = some (c.after upd)
      ∧ (t.job? c.r).map Job.rings = some (c.job.takeTokens c.ctx w on).rings := by
  have hc := State.seqReady?_ne_trap h (.inl hop)
  obtain ⟨honly, hseq, hrings⟩ := State.updSeq_seqDone h (fun ht => absurd ht hc) (upd := upd) on
  exact ⟨honly, hseq, hrings hc⟩

/-- PACE of one of the three queues sets its request (07 R244). -/
theorem execSeqPace_sets {w : SWord} {s : State} {c : SeqIssue} {f : SeqForm} (h : s.seqReady? 0x28 w = some (c, f))
    (himm : w.imm.toNat < 3) :
    ∃ t, execSeqPace w s = .next t
      ∧ (t.job? c.r).map (·.pace) = some (setAt c.job.pace w.imm.toNat (min 65535 (c.g w.a).toNat))
      ∧ t.seqOf? c = some (c.after (fun y => { y with pc := y.pc + 4 })) := by
  obtain ⟨⟨k, hk, hshell⟩, hseq⟩ := State.updJob_seqDone h (State.seqReady?_ne_trap h (.inl rfl))
    (u := fun j => { j with pace := setAt j.pace w.imm.toNat (min 65535 (c.g w.a).toNat) }) (by cases c.ctx <;> rfl)
    (fun y => { y with pc := y.pc + 4 }) .now
  refine ⟨_, ?_, ?_, hseq⟩
  · rw [execSeqPace, seqWord_ready h]
    simp only [if_neg (Nat.not_le.mpr himm)]
    rfl
  · rw [hk, Option.map_some]
    exact congrArg some (congrArg Job.pace hshell :)

/-- A word that has issued leaves its job in its slot, and the issuing agent. -/
theorem State.seqDone_place {op : Nat} {w : SWord} {s : State} {c : SeqIssue} {f : SeqForm}
    (h : s.seqReady? op w = some (c, f)) (hc : c.ctx ≠ .trap) (upd : SeqState → SeqState) (on : PushOn) :
    let t := (s.updSeq c upd).seqDone c w on
    t.jobSlot c.r.core = some c.r.slot ∧ t.cur = .seq c.r.core c.ctx := by
  obtain ⟨hslot, hg, hj, -⟩ := State.seqReady?_user h hc
  obtain ⟨hcur, -⟩ := State.seqReady?_issue h
  dsimp only
  rw [s.seqDone_eq c hc]
  exact ⟨State.updWg_jobSlot hslot hg (by simp [hj]) _ (by simp [hj]), (State.updWg_cur _ _ _).trans hcur⟩

/-- HALT stops its context and tries the completion of its job's workgroup (07 R247). -/
theorem execSeqHalt_ready {w : SWord} {s : State} {c : SeqIssue} {f : SeqForm} (h : s.seqReady? 0x36 w = some (c, f)) :
    execSeqHalt w s =
      .next ((((s.updSeq c (fun y => { y with halted := true })).seqNext c).seqDone c w .now).tryComplete c.r) := by
  have hc := State.seqReady?_ne_trap h (.inl rfl)
  obtain ⟨hslot, hcur⟩ := State.seqDone_place h hc (fun y => { y with halted := true, pc := y.pc + 4 }) .now
  rw [execSeqHalt, seqWord_ready h]
  simp only [State.seqNext, State.updSeq_updSeq _ hc, hcur, hslot]

/-- OVL of a well-formed overlay that stays in its part of the store (07 R246). -/
theorem execSeqOvl_ready {w : SWord} {s : State} {c : SeqIssue} {f : SeqForm} (h : s.seqReady? 0x31 w = some (c, f))
    (hovl : c.job.ovl = none) (hblk : c.ctx = .trap ∨ w.imm.toNat ≤ 223) {o : (Xlat × Nat × List Byte) × State}
    (ho : s.readOverlay c.r.core c.wg (c.g w.a).toNat = o) (hok : o.1.1 = .ok 0)
    (hlen : 256 * w.imm.toNat + o.1.2.2.length ≤ if c.ctx = .trap then 0x10000 else 0xE000) :
    execSeqOvl w s = .next (((if c.ctx = .trap
        then o.2.updCore c.r.core (fun k => { k with store := cellsPut k.store (256 * w.imm.toNat) o.1.2.2 })
        else o.2.updJob c.r (fun j => { j with ovl := some ⟨c.ctx, 256 * w.imm.toNat, o.1.2.2⟩ })).seqNext c).seqDone c w .now) := by
  rw [execSeqOvl, seqWord_ready h]
  have hfits : ¬(c.ctx ≠ .trap ∧ 223 < w.imm.toNat) := by
    rintro ⟨hc, hb⟩
    exact hblk.elim hc (by omega)
  simp only [hovl, Option.isSome_none, Bool.false_eq_true, if_false, if_neg hfits, ho, hok, if_neg (Nat.not_lt.mpr hlen)]
  by_cases hc : c.ctx = .trap
  · simp only [if_pos hc]
  · simp only [if_neg hc]

/-- Settles O33: SPW, TOK and RDV change their context alone; PACE, HALT and OVL by what each does besides. -/
theorem sequencerStatusWords : Obligations.SequencerStatusWords := by
  intro w s c f
  refine ⟨fun h => ?_, fun h => ?_, fun h himm => execSeqPace_sets h himm, fun h => ?_, fun h => execSeqHalt_ready h,
    fun limit h hovl hlimit hblk hok hlen => execSeqOvl_ready h hovl hblk rfl hok (hlimit ▸ hlen)⟩
  · obtain ⟨honly, hseq, -⟩ := State.updSeq_user_seqDone h rfl (SeqState.received w.d
      (((s.core c.r.core).spw.filter (fun e => e.owner == ⟨c.wg.ctx, c.r.slot⟩)).length * 2 ^ 16 + s.spwFree c.r.core)) .now
    refine ⟨_, ?_, honly, hseq⟩
    rw [show exec (.seqSpw w) s = execSeqSpw w s from rfl, execSeqSpw, seqWord_ready h]
    rfl
  · refine ⟨_, ?_, State.updSeq_user_seqDone h rfl (SeqState.received w.d (tokValue c.job c.ctx)) .now⟩
    rw [show exec (.seqTok w) s = execSeqTok w s from rfl, execSeqTok, seqWord_ready h]
    rfl
  · refine ⟨_, ?_, State.updSeq_user_seqDone h rfl (fun y => { y with pc := y.pc + 4, rdv := some w }) (.rdv c.ctx c.st.rdvs)⟩
    rw [show exec (.seqRdv w) s = execSeqRdv w s from rfl, execSeqRdv, seqWord_ready h]

end Sys2Proof.Machine
end

section
/-! Taking a trap (07 R248, R249; 13 R365; 16 R392-R404): what raising one and entering the trap context come to, what a discarded
workgroup leaves as it was, and the statement about traps. -/

namespace Sys2Proof.Machine
open Sys2Proof

/-! ## Records -/

theorem State.stampRecord_parts (s : State) (r : WgRef) (wave : Nat) (t : TrapRecord) :
    ∃ seqs, s.stampRecord r wave t = { t with seqs := seqs, stamp := s.tckOf r.core } := by
  unfold State.stampRecord
  split
  · exact ⟨_, rfl⟩
  · exact ⟨t.seqs, rfl⟩

theorem Workgroup.stoppedAt_parts (w : Workgroup) (t : TrapRecord) :
    ∃ ticket resume, w.stoppedAt t = { t with ticket := ticket, resume := resume } := by
  unfold Workgroup.stoppedAt
  split <;> exact ⟨_, _, rfl⟩

/-- A record that is formed anew keeps what its trap says, and bears the tck of this moment (16 R401). -/
theorem State.formRecord_parts (s : State) (r : WgRef) (t : TrapRecord) :
    (s.formRecord r t).kind = t.kind ∧ (s.formRecord r t).src = t.src ∧ (s.formRecord r t).stamp = s.tckOf r.core := by
  obtain ⟨seqs, hstamp⟩ := s.stampRecord_parts r (if t.src = .wave then t.wave else 1000) t
  unfold State.formRecord
  rw [hstamp]
  dsimp only
  split
  · next w _ =>
    obtain ⟨ticket, resume, hstop⟩ := w.stoppedAt_parts { t with seqs := seqs, stamp := s.tckOf r.core }
    rw [hstop]
    exact ⟨rfl, rfl, rfl⟩
  · exact ⟨rfl, rfl, rfl⟩

/-! ## Entering the trap context -/

theorem State.entryScratch_core (s : State) (core : Nat) (t : TrapItem) (k : Nat) : (s.entryScratch core t).2.core k = s.core k := by
  unfold State.entryScratch
  split <;> rfl

/-- The core of an idle trap context that the next trap enters (07 R248, R249). -/
theorem State.enterTrap_idle {s : State} {core : Nat} {t : TrapItem} {rest : List TrapItem}
    (hi : (s.core core).trap.item = none) (hq : (s.core core).trapQ = t :: rest) :
    (s.enterTrap core).core core = { s.core core with
      trapQ := rest
      trap := { (s.core core).trap with
        item := some t, pc := 0xE000, tepc := trapPc t, ldgs := [], escalating := false,
        tscr0 := (s.entryScratch core t).1.1, tscr1 := (s.entryScratch core t).1.2,
        rec_ := s.formRecord ⟨core, t.who.slot⟩ t.record } } := by
  simp only [State.enterTrap, hi, hq, State.updCore_core, if_true, State.entryScratch_core]

/-- A trap context that services a trap takes no other. -/
theorem State.enterTrap_busy {s : State} {core : Nat} (h : (s.core core).trap.item.isSome = true) : s.enterTrap core = s := by
  obtain ⟨t, ht⟩ := Option.isSome_iff_exists.mp h
  simp only [State.enterTrap, ht]

/-! ## Raising a trap -/

/-- Marking the agent of a trap changes a resident workgroup, or nothing. -/
theorem State.setTrapped_true (s : State) (core : Nat) (who : TrapWho) :
    (∃ q f, s.setTrapped core who true = s.updWg q f) ∨ s.setTrapped core who true = s := by
  cases who with
  | wave slot wave => exact .inl ⟨_, _, rfl⟩
  | seq slot ctx => exact .inl ⟨_, _, rfl⟩
  | copy slot cs => exact .inl ⟨_, _, rfl⟩
  | engine slot q => exact .inl ⟨_, _, rfl⟩
  | detached cs => exact .inr rfl
  | restore f => exact .inr rfl

/-- What marking the agent of a trap leaves: the cores but for their workgroups, the clocks, and who is resident. -/
theorem State.setTrapped_true_leaves (s : State) (core : Nat) (who : TrapWho) :
    (∀ k, { (s.setTrapped core who true).core k with wgs := [] } = { s.core k with wgs := [] })
      ∧ (s.setTrapped core who true).tiles = s.tiles
      ∧ ∀ r, ((s.setTrapped core who true).wg? r).isSome = (s.wg? r).isSome := by
  rcases s.setTrapped_true core who with ⟨q, f, h⟩ | h
  · rw [h]
    refine ⟨s.updWg_bareCore q f, s.updWg_tiles q f, fun r => ?_⟩
    rw [State.updWg_wg?]
    split
    · exact Option.isSome_map
    · rfl
  · rw [h]
    exact ⟨fun _ => rfl, rfl, fun _ => rfl⟩

/-- A core with a trap in its queue, and a PAGE_FAULT counted. -/
def ComputeCore.queued (c : ComputeCore) (t : TrapItem) : ComputeCore :=
  { c with pfCount := if t.record.kind = some .pageFault then c.pfCount + 1 else c.pfCount, trapQ := queueTrap t c.trapQ }

theorem State.raiseTrap_eq (s : State) (core : Nat) (t : TrapItem) :
    s.raiseTrap core t = ((s.updCore core (fun c => c.queued t)).setTrapped core t.who true).enterTrap core := rfl

/-- Raising a trap discards no workgroup. -/
theorem State.raiseTrap_isSome (s : State) (core : Nat) (t : TrapItem) (r : WgRef) :
    ((s.raiseTrap core t).wg? r).isSome = (s.wg? r).isSome := by
  rw [State.raiseTrap_eq, (State.enterTrap_sameWgs _ core).wg?, (State.setTrapped_true_leaves _ core t.who).2.2,
    (State.updCore_sameWgs s core _ rfl).wg?]

/-- The core of a trap's agent, once the trap is queued and the agent marked. -/
theorem State.setTrapped_queued (s : State) (core : Nat) (t : TrapItem) :
    ∃ wgs, ((s.updCore core (fun c => c.queued t)).setTrapped core t.who true).core core =
      { (s.core core).queued t with wgs := wgs } := by
  have h := (State.setTrapped_true_leaves (s.updCore core (fun c => c.queued t)) core t.who).1 core
  rw [State.updCore_core, if_pos rfl] at h
  exact ⟨_, congrArg (fun c : ComputeCore =>
    { c with wgs := (((s.updCore core (fun c => c.queued t)).setTrapped core t.who true).core core).wgs }) h⟩

/-- A trap raised on a core whose trap context is idle and owed no other enters it at once (07 R248, R249; 16 R401, R404). -/
theorem State.raiseTrap_idle {s : State} {core : Nat} (t : TrapItem) (hi : (s.core core).trap.item = none)
    (hq : (s.core core).trapQ = []) :
    let c := (s.raiseTrap core t).core core
    c.trapQ = [] ∧ c.trap.item = some t ∧ c.trap.pc = 0xE000 ∧ c.trap.escalating = false ∧ c.trap.rec_.stamp = s.tckOf core
      ∧ c.trap.tepc = trapPc t ∧ c.pfCount = ((s.core core).queued t).pfCount := by
  obtain ⟨wgs, hcore⟩ := s.setTrapped_queued core t
  have htck : ((s.updCore core (fun c => c.queued t)).setTrapped core t.who true).tckOf core = s.tckOf core := by
    simp only [State.tckOf, State.tile, (State.setTrapped_true_leaves _ core t.who).2.1, State.updCore_tiles]
  have hitem : (((s.updCore core (fun c => c.queued t)).setTrapped core t.who true).core core).trap.item = none := by
    rw [hcore]; exact hi
  have hqueue : (((s.updCore core (fun c => c.queued t)).setTrapped core t.who true).core core).trapQ = [t] := by
    rw [hcore]; simp [ComputeCore.queued, hq, queueTrap]
  have henter := State.enterTrap_idle hitem hqueue
  dsimp only
  rw [State.raiseTrap_eq, henter]
  refine ⟨rfl, rfl, rfl, rfl, ?_, rfl, ?_⟩
  · exact (State.formRecord_parts _ _ _).2.2.trans htck
  · rw [hcore]

/-- A trap raised while another is serviced waits, in its order. -/
theorem State.raiseTrap_busy {s : State} {core : Nat} (t : TrapItem) (hi : (s.core core).trap.item.isSome = true) :
    ((s.raiseTrap core t).core core).trapQ = queueTrap t (s.core core).trapQ
      ∧ ((s.raiseTrap core t).core core).trap = (s.core core).trap := by
  obtain ⟨wgs, hcore⟩ := s.setTrapped_queued core t
  rw [State.raiseTrap_eq, State.enterTrap_busy (by rw [hcore]; exact hi), hcore]
  exact ⟨rfl, rfl⟩

/-! ## Where a trap goes (16 R392, R393) -/

/-- The traps that the trap context services: the pager's kinds, and every trap of an engine job's agents. -/
def TrapItem.Enters (t : TrapItem) : Prop :=
  t.record.kind = some .pageFault ∨ t.record.kind = some .accOwner ∨ t.who.isWave = false

theorem State.takeTrap_enters {t : TrapItem} (h : t.Enters) (s : State) (r : WgRef) : s.takeTrap r t = s.raiseTrap r.core t := by
  unfold State.takeTrap
  rcases h with h | h | h
  · rw [h]
  · rw [h]
  · split
    · rfl
    · rfl
    · simp [h]
    · simp [h]
    · simp [h]

theorem State.takeTrap_stops {t : TrapItem} (he : ¬t.Enters) (h : t.record.kind = some .trap ∨ t.record.kind = some .brk)
    (s : State) (r : WgRef) : s.takeTrap r t = s.beginSave r t.record true none := by
  have hw : t.who.isWave = true := by
    cases hw : t.who.isWave
    · exact absurd (.inr (.inr hw)) he
    · rfl
  unfold State.takeTrap
  rcases h with h | h <;> simp [h, hw]

theorem State.takeTrap_contains {t : TrapItem} (he : ¬t.Enters)
    (h : ¬(t.record.kind = some .trap ∨ t.record.kind = some .brk)) (s : State) (r : WgRef) :
    s.takeTrap r t = s.contain r t.record := by
  have hw : t.who.isWave = true := by
    cases hw : t.who.isWave
    · exact absurd (.inr (.inr hw)) he
    · rfl
  unfold State.takeTrap
  split
  · next hk => exact absurd (.inl hk) he
  · next hk => exact absurd (.inr (.inl hk)) he
  · next hk => exact absurd (.inl hk) h
  · next hk => exact absurd (.inr hk) h
  · simp [hw]

/-! ## The save of a workgroup that stops -/

/-- A workgroup whose save begins: its record, and the fck. -/
theorem State.beginSave_saveAt {s : State} {r : WgRef} {g : Workgroup} (hg : s.wg? r = some g) (hp : g.preempt = none)
    (t : TrapRecord) (stop : Bool) (park : Option Park) :
    ((s.beginSave r t stop park).wg? r).map (fun x => (x.preempt, x.saveAt)) = some (some (.saving t stop park), s.fck) := by
  have hkeep (u : State) : ((u.withdrawDemands r).wg? r).map (fun x => (x.preempt, x.saveAt)) =
      (u.wg? r).map (fun x => (x.preempt, x.saveAt)) := by
    unfold State.withdrawDemands
    split
    · rfl
    · rw [State.updJob_wg?, (State.updGate_sameWgs _ _ _).wg?, if_pos rfl, Option.map_map]
      rfl
  rw [State.beginSave, hkeep, State.updWg_wg?, if_pos rfl, hg]
  simp only [Option.map_some, Workgroup.toSave, hp]

/-! ## What a discarded workgroup leaves -/

/-- What the end of a workgroup leaves as it was, beside the grids: the contexts and the count of saves. -/
def State.books (s : State) : List (Nat × Context) × Nat := (s.contexts, s.saves)

theorem State.updWg_books (s : State) (r : WgRef) (f : Workgroup → Workgroup) : (s.updWg r f).books = s.books := by
  simp [State.books]

theorem State.writeBackLine_books (s : State) (x : L1Line) : (s.writeBackLine x).books = s.books :=
  foldl_keeps State.books (fun _ _ => by split <;> rfl) s

theorem State.settleL1_books (s : State) (core d : Nat) : (s.settleL1 core d).books = s.books := by
  unfold State.settleL1
  split
  · split
    · rfl
    · exact s.writeBackLine_books _
  · rfl

theorem State.writeThrough_books (s : State) (core a : Nat) (b : Byte) : (s.writeThrough core a b).books = s.books := by
  unfold State.writeThrough
  dsimp only
  split <;> exact s.settleL1_books core a

theorem State.performCell_books (s : State) (core : Nat) (c : Host.Cell) : (s.performCell core c).books = s.books := by
  unfold State.performCell State.writeWindow
  split
  · split
    · exact s.updWg_books _ _
    · rfl
  · exact s.writeThrough_books _ _ _

theorem State.drainWg_books (s : State) (r : WgRef) : (s.drainWg r).books = s.books := by
  have hwave (s : State) (q : WaveRef) : (s.drainWc q).books = s.books := by
    unfold State.drainWc
    split
    · rfl
    · exact (State.updWg_books _ _ _).trans (foldl_keeps State.books (fun s c => s.performCell_books q.core c) s)
  unfold State.drainWg
  split
  · rfl
  · exact foldl_keeps State.books (fun s i => hwave s _) s

theorem State.enterTrap_books (s : State) (core : Nat) : (s.enterTrap core).books = s.books := by
  unfold State.enterTrap State.entryScratch
  split
  · split <;> rfl
  · rfl

theorem State.dropTrapsOf_books (s : State) (core : Nat) (p : TrapWho → Bool) : (s.dropTrapsOf core p).books = s.books :=
  State.enterTrap_books _ core

theorem State.dropCopyTraps_books (s : State) (cs : List Copy) : (s.dropCopyTraps cs).books = s.books :=
  foldl_keeps State.books (fun s core => s.dropTrapsOf_books core _) s

theorem State.discardWg_books (s : State) (r : WgRef) : (s.discardWg r).books = s.books := by
  unfold State.discardWg
  split
  · rfl
  · refine (State.dropCopyTraps_books _ _).trans ((State.dropTrapsOf_books _ _ _).trans ?_)
    split
    · exact s.drainWg_books r
    · exact s.drainWg_books r

/-! ## A context's error (11 R335; 13 R365) -/

/-- Whether a context is in error, a workgroup of it having run out of retries. -/
def State.retriesOut (s : State) (ctx : Nat) : Bool × Bool := ((s.context ctx).err, (s.context ctx).retryOut)

theorem State.retriesOut_of_books {s t : State} (h : t.books = s.books) (ctx : Nat) : t.retriesOut ctx = s.retriesOut ctx := by
  have hc : t.contexts = s.contexts := congrArg Prod.fst h
  simp only [State.retriesOut, State.context, hc]

theorem State.discardFrame_retriesOut (s : State) (f ctx : Nat) : (s.discardFrame f).retriesOut ctx = s.retriesOut ctx := by
  have hfold (u : State) (p : TrapWho → Bool) (l : List Nat) :
      (l.foldl (fun s c => s.dropTrapsOf c p) u).books = u.books :=
    foldl_keeps State.books (fun s c => s.dropTrapsOf_books c p) u
  unfold State.discardFrame
  split
  · rfl
  · next x _ =>
    have hdrop (u : State) (p : TrapWho → Bool) (l : List Nat) :
        (l.foldl (fun s c => s.dropTrapsOf c p) u).contexts = u.contexts := congrArg Prod.fst (hfold u p l)
    simp only [State.retriesOut, State.context, hdrop]
    change (State.updContext _ x.wg.ctx _).retriesOut ctx = s.retriesOut ctx
    simp only [State.retriesOut, State.updContext_context]
    split
    · next h => rw [h]; split <;> rfl
    · split <;> rfl

theorem State.endContextGrids_retriesOut (s : State) (ctx k : Nat) : (s.endContextGrids ctx).retriesOut k = s.retriesOut k := by
  unfold State.endContextGrids
  dsimp only
  refine (foldl_keeps (f := fun s (g : Grid) => s.removeGrid g.id) (fun s => s.retriesOut k) (fun _ _ => rfl) _).trans ?_
  refine (foldl_keeps (fun s => s.retriesOut k) (fun s (p : Nat × Frame) => s.discardFrame_retriesOut p.1 k) _).trans ?_
  exact foldl_keeps (fun s => s.retriesOut k)
    (fun s (p : WgRef × Workgroup) => State.retriesOut_of_books (s.discardWg_books p.1) k) _

/-- A context that enters error says so, and that its retries have run out. -/
theorem State.contextError_retriesOut (s : State) (g : Grid) : (s.contextError g).retriesOut g.ctx = (true, true) := by
  unfold State.contextError
  refine (State.endContextGrids_retriesOut _ _ _).trans ?_
  have hhalt (u : State) (c k : Nat) : (u.haltQueues c).retriesOut k = u.retriesOut k := rfl
  rw [hhalt]
  simp only [State.retriesOut, State.updContext_context, if_true]

/-! ## Containment (16 R393; 13 R365) -/

/-- A workgroup that has failed is queued anew while its grid lets it be, and its context is in error after. -/
theorem State.retryOrError_cases {s : State} {grid : Nat} {x : Grid} (hx : s.grid? grid = some x) (wgl : Nat) :
    let used := (assoc x.retries wgl).getD 0
    let u := s.retryOrError grid wgl
    (x.lpb.idem = true ∧ used < x.lpb.retry → ∃ y, u.grid? grid = some y
      ∧ y.relaunch = x.relaunch ++ [(s.saves, wgl)] ∧ assoc y.retries wgl = some (used + 1))
    ∧ (¬(x.lpb.idem = true ∧ used < x.lpb.retry) → (u.context x.ctx).err = true ∧ (u.context x.ctx).retryOut = true) := by
  simp only [State.retryOrError, hx]
  refine ⟨fun h => ?_, fun h => ?_⟩
  · rw [if_pos (by simpa using h)]
    refine ⟨{ x with retries := assocSet x.retries wgl ((assoc x.retries wgl).getD 0 + 1)
                     relaunch := x.relaunch ++ [(s.saves, wgl)] }, ?_, rfl, assoc_assocSet_self _ _ _⟩
    change State.grid? (State.updGrid _ grid _) grid = _
    refine (State.updGrid_grid? _ _ _ ?_).trans ?_
    · exact fun _ => rfl
    · refine (congrArg _ ((State.updGrid_grid? s _ _ ?_).trans (congrArg _ hx))).trans rfl
      exact fun _ => rfl
  · rw [if_neg (by simpa using h)]
    exact Prod.mk.inj (s.contextError_retriesOut x)

theorem State.contain_discards {s : State} {r : WgRef} {g : Workgroup} (hg : s.wg? r = some g) (t : TrapRecord)
    (hs : (s.context g.ctx).stopAll = false) : s.contain r t = (s.discardWg r).retryOrError g.grid g.wgl := by
  simp only [State.contain, hg, hs, Bool.false_eq_true, if_false]

/-- A workgroup that is contained is gone, and is queued anew or its context is in error. -/
theorem State.contain_retries {s : State} {r : WgRef} {g : Workgroup} (hg : s.wg? r = some g) (t : TrapRecord)
    (hs : (s.context g.ctx).stopAll = false) {x : Grid} (hx : s.grid? g.grid = some x) :
    let used := (assoc x.retries g.wgl).getD 0
    let u := s.contain r t
    (x.lpb.idem = true ∧ used < x.lpb.retry → ∃ y, u.grid? g.grid = some y
      ∧ y.relaunch = x.relaunch ++ [(s.saves, g.wgl)] ∧ assoc y.retries g.wgl = some (used + 1))
    ∧ (¬(x.lpb.idem = true ∧ used < x.lpb.retry) → (u.context x.ctx).err = true ∧ (u.context x.ctx).retryOut = true) := by
  have hx' : (s.discardWg r).grid? g.grid = some x := by
    unfold State.grid? at hx ⊢
    rw [State.discardWg_grids, hx]
  have hsaves : (s.discardWg r).saves = s.saves := congrArg Prod.snd (s.discardWg_books r)
  have h := State.retryOrError_cases hx' g.wgl
  rw [hsaves] at h
  rw [State.contain_discards hg t hs]
  exact h

/-! ## A wave's PAGE_FAULT -/

/-- PAGE_FAULT of a wave: the item that is raised for it. -/
theorem State.trapWave_pageFault {s : State} {q : WaveRef} {g : Workgroup} (hg : s.wg? (wgOf q) = some g) (acc : BitVec 5)
    (code : W32) (pc va : W64) (mask : Lanes) (needs : List Nat) :
    ∃ t : TrapItem, s.trapWave q .pageFault acc code pc va mask needs = s.free.2.raiseTrap q.core t
      ∧ t.who = .wave q.slot q.wave ∧ t.tval = va ∧ t.record.kind = some .pageFault ∧ t.record.src = .wave
      ∧ t.record.wave = q.wave ∧ t.record.acc = acc ∧ t.record.pc = pc ∧ t.record.va = va ∧ t.record.mask = mask := by
  obtain ⟨seqs, hstamp⟩ := s.stampRecord_parts (wgOf q) q.wave { TrapRecord.reset with
    kind := some .pageFault, src := .wave, wave := q.wave, acc := acc, code := code, pc := pc, va := va, mask := mask }
  simp only [State.trapWave, hg, hstamp]
  exact ⟨_, rfl, rfl, rfl, rfl, rfl, rfl, rfl, rfl, rfl, rfl⟩

/-- A wave whose trap is raised waits for the pager. -/
theorem State.raiseTrap_wave? {s : State} {q : WaveRef} {v : Wave} (hv : s.wave? q = some v) {t : TrapItem}
    (hw : t.who = .wave q.slot q.wave) : ((s.raiseTrap q.core t).wave? q).map (·.block) = some .trapped := by
  rw [State.raiseTrap_eq, (State.enterTrap_sameWgs _ q.core).wave?, hw]
  change (State.wave? (State.updWave _ q _) q).map _ = _
  rw [State.updWave_wave?, if_pos rfl, (State.updCore_sameWgs s q.core _ rfl).wave?, hv]
  rfl

/-- Settles O44: where a trap goes, by its kind and its agent, and what raising one, beginning a save and containment come to. -/
theorem trapsTaken : Obligations.TrapsTaken := by
  intro s r g t hg
  refine ⟨fun he => ?_, fun he hs hp => ?_, fun he hs => ⟨fun hstop hp => ?_, fun hstop => ⟨?_, fun x hx => ?_⟩⟩, ?_⟩
  · rw [State.takeTrap_enters he]
    refine ⟨by rw [State.raiseTrap_isSome, hg]; rfl, fun hi hq => ?_, fun hi => State.raiseTrap_busy t hi⟩
    obtain ⟨hqueue, hitem, hpc, hesc, hstamp, htepc, -⟩ := State.raiseTrap_idle t hi hq
    exact ⟨hqueue, hitem, hpc, hesc, hstamp, htepc⟩
  · rw [State.takeTrap_stops he hs]
    exact State.beginSave_saveAt hg hp t.record true none
  · rw [State.takeTrap_contains he hs, (State.contain_cases hg t.record).2 hstop]
    exact State.beginSave_saveAt hg hp t.record true none
  · rw [State.takeTrap_contains he hs]
    exact (State.contain_cases hg t.record).1 hstop
  · rw [State.takeTrap_contains he hs]
    exact State.contain_retries hg t.record hstop hx
  · intro wave v acc code pc va mask needs hv hi hq
    obtain ⟨x, htrap, hwho, htval, hkind, hrec⟩ :=
      State.trapWave_pageFault (q := ⟨r.core, r.slot, wave⟩) hg acc code pc va mask needs
    have hwave : s.free.2.wave? ⟨r.core, r.slot, wave⟩ = some v := by
      change (s.wg? r).bind _ = _
      rw [hg]
      exact hv
    obtain ⟨-, hitem, -, -, -, -, hpf⟩ := State.raiseTrap_idle (s := s.free.2) (core := r.core) x hi hq
    dsimp only
    rw [htrap]
    refine ⟨State.raiseTrap_wave? hwave hwho, x, hitem, hwho, htval, hkind, ?_⟩
    obtain ⟨hsrc, hw, hacc, hpc, hva, hmask⟩ := hrec
    refine ⟨hsrc, hw, hacc, hpc, hva, hmask, hpf.trans ?_⟩
    simp only [ComputeCore.queued, hkind, if_true]
    rfl

end Sys2Proof.Machine
end
section
/-! A statement that fails: MTC in the trap context of a core that is listed after a core of higher number. -/

namespace Sys2Proof.Machine

open Sys2Proof

/-! ## MTC for a copy whose slot is found on two listed cores (07 R249; 16 R402) -/

/-- A resident workgroup of an engine job that keeps `v` in TSCR1, with a copy of its own in copy slot 0 of core 3. -/
def copyOwner (v : W64) : Workgroup :=
  { workgroupAtStart pairGrid 0
      { slot := 0, part := 0, base := 0, scratch := 4096, parts := [0], regs := 256, engine := true } 0 [] with
    job := some { Job.reset with tscr1 := v }, copies := [newCopy [] (.seq .main 0) 0 3 0] }

/-- The trap of a copy that runs on in slot 0. -/
def detachedTrap : TrapItem :=
  { record := TrapRecord.reset, who := .detached 0, ctx := 0, tval := 0, word := 0, needs := [] }

/-- Core 3 services the trap of the copy in its slot 0 and is listed after core 5; a workgroup of each core owns a copy that is
said to stand there. -/
def ownersOutOfOrder : State :=
  { State.reset with
    cur := .seq 3 .trap
    cores := [(5, { ComputeCore.reset with wgs := [(0, copyOwner 0)] }),
      (3, { ComputeCore.reset with
        wgs := [(0, copyOwner 1)], trap := { TrapCtx.reset with item := some detachedTrap } })] }

/-- MTC of g0 to TSCR0. -/
def mtcTscr0 : SWord := { tu := false, gd := false, td := false, gu := false, d := 0, a := 0, b := 0, imm := 6 }

/-- TSCR0 and TSCR1 of the job whose trap core 3 services. -/
def servedScratch (s : State) : Option (W64 × W64) :=
  ((s.core 3).trap.item.bind (s.trapOwner 3)).bind (fun p => p.2.job.map (fun j => (j.tscr0, j.tscr1)))

theorem mtcTscr0_ready : (ownersOutOfOrder.seqReady? 0x33 mtcTscr0).map (fun p => p.1.r.core) = some 3 := by decide +kernel

/-- The workgroup that the state lists first, of core 5, keeps 0 in TSCR1. -/
theorem ownersOutOfOrder_scratch : servedScratch ownersOutOfOrder = some (0, 0) := by decide +kernel

/-- The write puts core 3 in its order, before core 5, and the workgroup found then keeps 1. -/
theorem mtcTscr0_scratch :
    (match exec (.seqMtc mtcTscr0) ownersOutOfOrder with
      | .next t => servedScratch t
      | _ => none) = some (0, 1) := by decide +kernel

/-- Refutes O34: the job of the trap's workgroup is said to keep TSCR1 where MTC writes TSCR0. A change of a core keeps the list
of cores in rising order, but the statement ranges over every state, one whose list is in no order too: there the write puts a
second entry for core 3 before core 5, and the copy of the trap is found in another workgroup, whose job holds another TSCR1. -/
theorem not_trapContextWords : ¬ Obligations.TrapContextWords := by
  intro h
  obtain ⟨⟨c, f⟩, hready, hcore⟩ := Option.map_eq_some_iff.mp mtcTscr0_ready
  obtain ⟨-, hmtc, -⟩ := h mtcTscr0 ownersOutOfOrder c f
  obtain ⟨-, htscr0, -⟩ := hmtc hready
  obtain ⟨t, ht, -, -, hkept⟩ := htscr0 rfl
  have hscratch := hkept (by decide)
  dsimp only at hcore
  rw [hcore] at hscratch
  have hafter : servedScratch t = some (0, 1) := by
    have := mtcTscr0_scratch
    rwa [ht] at this
  change servedScratch t = (servedScratch ownersOutOfOrder).map _ at hscratch
  rw [hafter, ownersOutOfOrder_scratch] at hscratch
  have hone : (1 : W64) = 0 := congrArg Prod.snd (Option.some.inj hscratch)
  exact absurd hone (by decide)

end Sys2Proof.Machine
end
section
/-! The engine queues: what a word's operations change in its job and in the tiles of its core, and the words that run to their
end when they start (O36). -/

namespace Sys2Proof.Machine

open Sys2Proof

/-! ## The tiles and the spillway of a core -/

theorem ComputeCore.bare_engine {a b : ComputeCore} (h : { a with wgs := [] } = { b with wgs := [] }) :
    a.tiles = b.tiles ∧ a.spw = b.spw := by
  cases a; cases b; simp only [ComputeCore.mk.injEq] at h ⊢; tauto

@[simp] theorem State.updWg_accTile (s : State) (r : WgRef) (f : Workgroup → Workgroup) (n e : Nat) :
    (s.updWg r f).accTile n e = s.accTile n e := by
  simp only [State.accTile, (ComputeCore.bare_engine (s.updWg_bareCore r f n)).1]

@[simp] theorem State.updHead'_accTile (s : State) (c : HeadCtx) (f : EngineQ → EngineQ) (n e : Nat) :
    (s.updHead' c f).accTile n e = s.accTile n e := s.updWg_accTile _ _ n e

theorem State.updAccTile_accTile (s : State) (n d e : Nat) (f : Tile → Tile) :
    (s.updAccTile n d f).accTile n e = if e = d then f (s.accTile n d) else s.accTile n e := by
  simp only [State.accTile, State.updAccTile, State.updCore_core, if_true, assoc_assocSet]
  split <;> rfl

theorem State.updAccTile_sameWgs (s : State) (n d : Nat) (f : Tile → Tile) : s.SameWgs (s.updAccTile n d f) :=
  s.updCore_sameWgs n _ rfl

/-- The entries of a core's spillway. -/
def State.spillway (s : State) (n : Nat) : List SpwEntry := (s.core n).spw

@[simp] theorem State.updWg_spillway (s : State) (r : WgRef) (f : Workgroup → Workgroup) (n : Nat) :
    (s.updWg r f).spillway n = s.spillway n :=
  (ComputeCore.bare_engine (s.updWg_bareCore r f n)).2

@[simp] theorem State.updHead'_spillway (s : State) (c : HeadCtx) (f : EngineQ → EngineQ) (n : Nat) :
    (s.updHead' c f).spillway n = s.spillway n := s.updWg_spillway _ _ n

@[simp] theorem State.updAccTile_spillway (s : State) (n d : Nat) (f : Tile → Tile) :
    (s.updAccTile n d f).spillway n = s.spillway n := by
  simp [State.spillway, State.updAccTile]

/-! ## The queues of a job -/

theorem Job.updQueue_queue (j : Job) (q : EngineQueue) (f : EngineQ → EngineQ) : (j.updQueue q f).queue q = f (j.queue q) := by
  cases q <;> rfl

theorem Job.updQueue_updQueue (j : Job) (q : EngineQueue) (f g : EngineQ → EngineQ) :
    (j.updQueue q f).updQueue q g = j.updQueue q (fun x => g (f x)) := by
  cases q <;> rfl

theorem State.updHead'_wg? (s : State) (c : HeadCtx) (f : EngineQ → EngineQ) :
    (s.updHead' c f).wg? c.r = (s.wg? c.r).map (fun g => { g with job := g.job.map (fun j => j.updQueue c.eq f) }) := by
  rw [State.updHead', State.updJob_wg?, if_pos rfl]

/-- The queue of a word once it has begun. -/
def HeadCtx.begin (c : HeadCtx) (q : EngineQ) : EngineQ :=
  let count (begun : Bool) (n : Nat) : Nat := if begun then n else n + 1
  if c.loader then { q with loader := q.loader.map (fun l => { l with phase := .running, begun := true }),
                            started := count (q.loader.any (·.begun)) q.started }
  else { q with phase := .running, begun := true, started := count q.begun q.started }

/-- The queue of a word whose effects are done. -/
def HeadCtx.finish (c : HeadCtx) (f : BitVec 6) (q : EngineQ) : EngineQ :=
  let q := { q with sticky := q.sticky ||| f }
  if c.loader then { q with loader := q.loader.map (fun l => { l with phase := .finished }) } else { q with phase := .finished }

theorem State.beginWord_wg? (s : State) (c : HeadCtx) : (s.beginWord c).wg? c.r =
    (s.wg? c.r).map (fun g => { g with job := g.job.map (fun j => j.updQueue c.eq c.begin), watchdog := 0 }) := by
  have hbegun : ((s.updHead' c c.begin).updWg c.r (fun g => { g with watchdog := 0 })).wg? c.r =
      (s.wg? c.r).map (fun g => { g with job := g.job.map (fun j => j.updQueue c.eq c.begin), watchdog := 0 }) := by
    rw [State.updWg_wg?, if_pos rfl, State.updHead'_wg?, Option.map_map]
    rfl
  unfold State.beginWord
  dsimp only
  split
  · exact ((State.updAccTile_sameWgs _ _ _ _).wg? _).trans hbegun
  · exact hbegun

theorem State.beginWord_accTile (s : State) (c : HeadCtx) (e : Nat) : (s.beginWord c).accTile c.r.core e =
    if namesTile c.q.opx = true ∧ e = c.q.w.d.toNat then { s.accTile c.r.core e with owner := some c.tag }
    else s.accTile c.r.core e := by
  unfold State.beginWord
  by_cases hn : namesTile c.q.opx = true
  · by_cases he : e = c.q.w.d.toNat
    · subst he
      simp [hn, State.updAccTile_accTile]
    · simp [hn, he, State.updAccTile_accTile]
  · simp [hn]

@[simp] theorem State.beginWord_spillway (s : State) (c : HeadCtx) :
    (s.beginWord c).spillway c.r.core = s.spillway c.r.core := by
  unfold State.beginWord
  dsimp only
  split
  · simp
  · simp

theorem State.wordDone_eq (s : State) (c : HeadCtx) (f : BitVec 6) : s.wordDone c f = s.updHead' c (c.finish f) := by
  refine (State.updJob_updJob s c.r _ _).trans ?_
  simp only [Job.updQueue_updQueue]
  rfl

@[simp] theorem State.wordDone_accTile (s : State) (c : HeadCtx) (f : BitVec 6) (n e : Nat) :
    (s.wordDone c f).accTile n e = s.accTile n e := by
  rw [State.wordDone_eq, State.updHead'_accTile]

@[simp] theorem State.wordDone_spillway (s : State) (c : HeadCtx) (f : BitVec 6) (n : Nat) :
    (s.wordDone c f).spillway n = s.spillway n := by
  rw [State.wordDone_eq, State.updHead'_spillway]

/-! ## A word that starts -/

/-- A word stands where its place says: its job is that of its workgroup, and the weight loader's word is in the loader. -/
structure HeadCtx.Placed (c : HeadCtx) : Prop where
  job : c.wg.job = some c.job
  loader : c.loader = true → c.eq = .matrix ∧ ∃ l, c.job.matrixQ.loader = some l

theorem State.queueWord?_spec {s : State} {core : Nat} {eq : EngineQueue} {pick : EngineQ → Option (QueueWord × Bool)}
    {c : HeadCtx} (h : s.queueWord? core eq pick = some c) :
    s.wg? c.r = some c.wg ∧ c.wg.job = some c.job ∧ c.eq = eq ∧ pick (c.job.queue eq) = some (c.q, c.loader) := by
  unfold State.queueWord? at h
  split at h
  · cases h
  · split at h
    · cases h
    · next g hg =>
      split at h
      · cases h
      · next j hj =>
        obtain ⟨x, hx, rfl⟩ := Option.map_eq_some_iff.mp h
        exact ⟨hg, hj, rfl, hx⟩

theorem State.queueWord?_place {s : State} {core slot : Nat} {eq : EngineQueue}
    {pick : EngineQ → Option (QueueWord × Bool)} {c : HeadCtx} (hs : s.jobSlot core = some slot)
    (h : s.queueWord? core eq pick = some c) : c.r = ⟨core, slot⟩ := by
  unfold State.queueWord? at h
  rw [hs] at h
  dsimp only at h
  split at h
  · cases h
  · split at h
    · cases h
    · obtain ⟨x, -, rfl⟩ := Option.map_eq_some_iff.mp h
      rfl

theorem State.headWord?_spec {s : State} {core : Nat} {eq : EngineQueue} {c : HeadCtx} (h : s.headWord? core eq = some c) :
    s.wg? c.r = some c.wg ∧ c.Placed ∧ c.loader = false := by
  obtain ⟨hg, hj, -, hpick⟩ := State.queueWord?_spec h
  obtain ⟨x, -, hx⟩ := Option.map_eq_some_iff.mp hpick
  have hloader : c.loader = false := (Prod.mk.inj hx).2.symm
  exact ⟨hg, ⟨hj, fun hl => absurd (hloader.symm.trans hl) (by decide)⟩, hloader⟩

theorem State.loaderWord?_spec {s : State} {core : Nat} {c : HeadCtx} (h : s.loaderWord? core = some c) :
    s.wg? c.r = some c.wg ∧ c.Placed ∧ c.loader = true := by
  obtain ⟨hg, hj, heq, hpick⟩ := State.queueWord?_spec h
  obtain ⟨l, hl, hx⟩ := Option.map_eq_some_iff.mp hpick
  exact ⟨hg, ⟨hj, fun _ => ⟨heq, l, hl⟩⟩, (Prod.mk.inj hx).2.symm⟩

/-- The scratchpad as a word reads it is that of its workgroup where no wave has stored to bytes it has yet to read. -/
theorem State.raceView_of_not_raced (s : State) {c : HeadCtx} (h : c.q.raced = []) : s.raceView c = (c, s) := by
  simp only [State.raceView, h, List.foldl_nil]

/-- A word that is ready to start stands in its queue and runs its operation. -/
theorem State.matrixReady?_spec {opx : Nat} {w : MWord} {s : State} {c : HeadCtx} (h : s.matrixReady? opx w = some c) :
    s.wg? c.r = some c.wg ∧ c.Placed ∧ c.loader = decide (opx = 1) ∧ c.q.opx = opx ∧ c.q.w = w
      ∧ ∀ body, engineWord opx w s body = .next (body c s) := by
  unfold State.matrixReady? at h
  split at h
  · next core eq hcur =>
    split at h
    · next c' hword =>
      split at h
      · next hok =>
        cases h
        obtain ⟨hopx, hw, hcheck, hraced⟩ := hok
        have hrun (body : HeadCtx → State → State) : engineWord opx w s body = .next (body c s) := by
          simp only [engineWord, hcur, hword, hcheck, hopx, hw, ne_eq, not_true_eq_false, or_self, if_false,
            s.raceView_of_not_raced hraced]
        by_cases h1 : opx = 1
        · rw [if_pos h1] at hword
          obtain ⟨hg, hplaced, hloader⟩ := State.loaderWord?_spec hword
          exact ⟨hg, hplaced, by simp [hloader, h1], hopx, hw, hrun⟩
        · rw [if_neg h1] at hword
          obtain ⟨hg, hplaced, hloader⟩ := State.headWord?_spec hword
          exact ⟨hg, hplaced, by simp [hloader, h1], hopx, hw, hrun⟩
      · cases h
    · cases h
  · cases h

/-! ## A word that runs to its end -/

/-- The phase of a word in its unit. -/
def HeadCtx.phase? (c : HeadCtx) (j : Job) : Option HeadPhase :=
  if c.loader then j.matrixQ.loader.map (·.phase) else some (j.queue c.eq).phase

/-- A word has ended, with nothing but its queue changed in its job's workgroup and nothing in memory. -/
structure State.Ended (s t : State) (c : HeadCtx) : Prop where
  phase : (t.job? c.r).map c.phase? = some (some .finished)
  mem : t.mem = s.mem
  scratch : (t.wg? c.r).map (·.scratch) = some c.wg.scratch

/-- The phase of a word whose effects are done. -/
theorem HeadCtx.finish_phase? {c : HeadCtx} (hc : c.Placed) (f : BitVec 6) (g : EngineQ → EngineQ)
    (hg : ∀ q, (g q).loader.isSome = q.loader.isSome) :
    c.phase? (c.job.updQueue c.eq (fun q => c.finish f (g q))) = some .finished := by
  unfold HeadCtx.phase? HeadCtx.finish
  cases hl : c.loader with
  | false => simp [Job.updQueue_queue]
  | true =>
    obtain ⟨heq, l, hloader⟩ := hc.loader hl
    have hsome : (g c.job.matrixQ).loader.isSome = true := by rw [hg, hloader]; rfl
    obtain ⟨x, hx⟩ := Option.isSome_iff_exists.mp hsome
    simp [heq, Job.updQueue, hx]

theorem HeadCtx.begin_loader (c : HeadCtx) (q : EngineQ) : (c.begin q).loader.isSome = q.loader.isSome := by
  unfold HeadCtx.begin
  split
  · simp
  · rfl

/-- A word that begins, changes its queue by `g` and no workgroup's scratchpad, and whose effects are then done. -/
theorem State.ended_of_wordDone {s u : State} {c : HeadCtx} (hc : c.Placed) (f : BitVec 6) {g : EngineQ → EngineQ}
    (hg : ∀ q, (g q).loader.isSome = q.loader.isSome) (hmem : u.mem = s.mem)
    (hu : u.wg? c.r = some { c.wg with job := some (c.job.updQueue c.eq g), watchdog := 0 }) :
    s.Ended (u.wordDone c f) c := by
  have hwg : (u.wordDone c f).wg? c.r =
      some { c.wg with job := some (c.job.updQueue c.eq (fun q => c.finish f (g q))), watchdog := 0 } := by
    rw [State.wordDone_eq, State.updHead'_wg?, hu]
    simp [Job.updQueue_updQueue]
  refine ⟨?_, (State.wordDone_mem _ _ _).trans hmem, by rw [hwg]; rfl⟩
  rw [State.job?_of_wg? hwg]
  exact congrArg some (HeadCtx.finish_phase? hc f g hg)

/-- A word that has begun has its job begun, in its place. -/
theorem State.beginWord_placed {s : State} {c : HeadCtx} (hg : s.wg? c.r = some c.wg) (hc : c.Placed) :
    (s.beginWord c).wg? c.r = some { c.wg with job := some (c.job.updQueue c.eq c.begin), watchdog := 0 } := by
  rw [State.beginWord_wg?, hg, Option.map_some, hc.job, Option.map_some]

/-- A word with no tile and no effect runs to its end. -/
theorem State.beginWord_wordDone {opx : Nat} {w : MWord} {s : State} {c : HeadCtx} (h : s.matrixReady? opx w = some c)
    (hn : namesTile opx = false) : let t := (s.beginWord c).wordDone c 0
    s.Ended t c ∧ t.spillway c.r.core = s.spillway c.r.core ∧ ∀ e, t.accTile c.r.core e = s.accTile c.r.core e := by
  obtain ⟨hg, hc, -, hopx, -, -⟩ := State.matrixReady?_spec h
  refine ⟨State.ended_of_wordDone hc 0 c.begin_loader (s.beginWord_mem c) (State.beginWord_placed hg hc), by simp, fun e => ?_⟩
  simp [State.beginWord_accTile, hopx, hn]

/-! ## WLOAD and MCLR (08 R265, R274) -/

/-- The queue of a WLOAD whose rows are in its latch. -/
def EngineQ.latched (l : Latch) (q : EngineQ) : EngineQ :=
  { q with loader := q.loader.map (fun x => { x with latch := some l }) }

/-- A WLOAD whose rows are full loads them in the loader's latch and runs to its end. -/
theorem State.wload_ends {w : MWord} {s : State} {c : HeadCtx} (h : s.matrixReady? 1 w = some c) (l : Latch) :
    let t := ((s.beginWord c).updHead' c (EngineQ.latched l)).wordDone c 0
    s.Ended t c ∧ (t.job? c.r).map (fun j => (j.slots, j.matrixQ.loader.bind (·.latch))) = some (c.job.slots, some l)
      ∧ ∀ e, t.accTile c.r.core e = s.accTile c.r.core e := by
  obtain ⟨hg, hc, hloader, hopx, -, -⟩ := State.matrixReady?_spec h
  have hwg : ((s.beginWord c).updHead' c (EngineQ.latched l)).wg? c.r = some { c.wg with
      job := some (c.job.updQueue c.eq (fun q => (c.begin q).latched l)), watchdog := 0 } := by
    rw [State.updHead'_wg?, State.beginWord_placed hg hc]
    simp [Job.updQueue_updQueue]
  refine ⟨State.ended_of_wordDone hc 0 (fun q => ?_) (by simp) hwg, ?_, fun e => ?_⟩
  · rw [EngineQ.latched, Option.isSome_map, c.begin_loader]
  · obtain ⟨heq, x, hx⟩ := hc.loader hloader
    rw [State.wordDone_eq, State.job?, State.updHead'_wg?, hwg]
    simp [heq, Job.updQueue, HeadCtx.finish, HeadCtx.begin, EngineQ.latched, hloader, hx]
  · simp [State.beginWord_accTile, hopx, namesTile]

/-- MCLR leaves its tile empty, unbound and its job's, and frees its entries. -/
theorem State.mclr_ends {w : MWord} {s : State} {c : HeadCtx} (h : s.matrixReady? 5 w = some c) :
    let d := w.d.toNat
    let t := (((s.beginWord c).updCore c.r.core (fun x =>
      { x with spw := x.spw.filter (fun e => !(e.owner == c.tag && e.tile == d)) })).updAccTile c.r.core d (fun t =>
        { t with kind := .empty, elems := [], fold := none })).wordDone c 0
    s.Ended t c ∧ t.accTile c.r.core d = { owner := some c.tag, kind := .empty, elems := [], fold := none }
      ∧ t.spillway c.r.core = (s.spillway c.r.core).filter (fun e => !(e.owner == c.tag && e.tile == d))
      ∧ ∀ e, e ≠ d → t.accTile c.r.core e = s.accTile c.r.core e := by
  obtain ⟨hg, hc, -, hopx, hw, -⟩ := State.matrixReady?_spec h
  have htiles (u : State) (f : List SpwEntry → List SpwEntry) (e : Nat) :
      (u.updCore c.r.core (fun x => { x with spw := f x.spw })).accTile c.r.core e = u.accTile c.r.core e := by
    simp [State.accTile]
  have hspw (u : State) (f : List SpwEntry → List SpwEntry) :
      (u.updCore c.r.core (fun x => { x with spw := f x.spw })).spillway c.r.core = f (u.spillway c.r.core) := by
    simp [State.spillway]
  refine ⟨State.ended_of_wordDone hc 0 c.begin_loader (by simp) ?_, ?_, ?_, fun e he => ?_⟩
  · exact ((State.updAccTile_sameWgs _ _ _ _).wg? _).trans
      (((State.updCore_sameWgs _ _ _ rfl).wg? _).trans (State.beginWord_placed hg hc))
  · rw [State.wordDone_accTile, State.updAccTile_accTile, if_pos rfl, htiles, State.beginWord_accTile, if_pos]
    exact ⟨by rw [hopx]; rfl, by rw [hw]⟩
  · rw [State.wordDone_spillway, State.updAccTile_spillway, hspw, State.beginWord_spillway]
  · rw [State.wordDone_accTile, State.updAccTile_accTile, if_neg he, htiles, State.beginWord_accTile, if_neg]
    exact fun hd => he (by rw [hd.2, hw])

/-- Settles O36: each word begins and has its effects done at once, but for a WLOAD whose lines are not full, which has begun. -/
theorem matrixWordsRun : Obligations.MatrixWordsRun := by
  intro w s c
  refine ⟨fun h => ?_, fun h => ?_, fun opx i hi h => ?_⟩
  · obtain ⟨-, -, hloader, -, -, hrun⟩ := State.matrixReady?_spec h
    have hexec := (show exec (.mWload w) s = execMWload w s from rfl).trans (hrun _)
    refine ⟨hloader, fun hempty => ?_, fun hempty => ?_⟩
    · rw [hexec]
      simp only [hempty, if_true]
    · obtain ⟨⟨hphase, hmem, hscratch⟩, hlatch, htiles⟩ := State.wload_ends h (loadLatch c.wg w)
      refine ⟨_, hexec.trans ?_, ⟨hphase, hmem, hscratch⟩, hlatch, htiles⟩
      simp only [hempty, Bool.false_eq_true, if_false]
      rfl
  · obtain ⟨-, -, -, -, -, hrun⟩ := State.matrixReady?_spec h
    obtain ⟨⟨hphase, hmem, hscratch⟩, htile, hspw, hothers⟩ := State.mclr_ends h
    exact ⟨_, (show exec (.mClr w) s = execMClr w s from rfl).trans (hrun _), ⟨hphase, hmem, hscratch⟩, htile, hspw, hothers⟩
  · obtain ⟨-, -, -, -, -, hrun⟩ := State.matrixReady?_spec h
    have hword : namesTile opx = false ∧ exec (i w) s = engineWord opx w s (fun c s => (s.beginWord c).wordDone c 0) := by
      simp only [List.mem_cons, Prod.mk.injEq, List.not_mem_nil, or_false] at hi
      rcases hi with ⟨rfl, rfl⟩ | ⟨rfl, rfl⟩
      · exact ⟨rfl, rfl⟩
      · exact ⟨rfl, rfl⟩
    obtain ⟨⟨hphase, hmem, hscratch⟩, hspw, htiles⟩ := State.beginWord_wordDone h hword.1
    exact ⟨_, hword.2.trans (hrun _), ⟨hphase, hmem, hscratch⟩, hspw, htiles⟩

end Sys2Proof.Machine
end
section
/-! Events of the engine queues (O50): what reads of a job's image leave as it was, the completion of words, and the passes of a
waiting MSTEP. -/

namespace Sys2Proof.Machine

open Sys2Proof

/-! ## Reading a job's image (07 R229; 11 R339) -/

theorem State.translateSpan_sameWgs (s : State) (core ctx va n : Nat) (acc : AccKind) :
    s.SameWgs (s.translateSpan core ctx va n acc).2 := by
  unfold State.translateSpan
  split
  · exact s.translate_sameWgs core ctx va acc
  · next p rest _ =>
    exact rest.foldlRecOn (motive := fun (r : Xlat × State) => s.SameWgs r.2) _ (s.translate_sameWgs core ctx p acc)
      (fun (r : Xlat × State) hr q _ => hr.trans (r.2.translate_sameWgs core ctx q acc))

theorem State.readVia_sameWgs (s : State) (core : Nat) (g : Workgroup) (va n : Nat) : s.SameWgs (s.readVia core g va n).2 := by
  have hspan := s.translateSpan_sameWgs core g.ctx va n .read
  unfold State.readVia
  dsimp only
  split
  · split
    · exact hspan
    · have hread := (List.range n).foldlRecOn (b := (([], (s.translateSpan core g.ctx va n .read).2) : List Byte × State))
        (motive := fun a => s.SameWgs a.2) (fun a i =>
          let d := a.2.spanAddr core g.ctx va i .read
          match place d with
          | .window c off => (a.2.windowByte c off :: a.1, a.2)
          | .regs _ => (0 :: a.1, a.2.setFerr (a.2.funcOf g.ctx) 1)
          | _ => (a.2.readAround core d :: a.1, a.2)) hspan (fun a ha i _ => by
            dsimp only
            split
            · exact ha
            · exact ha
            · exact ha)
      split
      · exact hread
      · exact hread.trans (State.noteStray_sameWgs _ _ _)
  · exact hspan

theorem State.loadImage_sameWgs (s : State) (core : Nat) (g : Workgroup) (img : W64) :
    s.SameWgs (s.loadImage core g img).2 := by
  have hhead := s.readVia_sameWgs core g img.toNat 64
  have hbody (n : Nat) := hhead.trans ((s.readVia core g img.toNat 64).2.readVia_sameWgs core g (img.toNat + 64) n)
  unfold State.loadImage
  dsimp only
  split
  · split
    · exact (hbody _).trans (State.updCore_sameWgs _ core _ rfl)
    · exact hbody _
  · exact hhead

/-- An overlay load that succeeds leaves the workgroups as they are. -/
theorem State.overlayLoad_sameWgs {s : State} {r : WgRef} (h : (s.overlayLoad r).1 = true) :
    s.SameWgs (s.overlayLoad r).2 := by
  unfold State.overlayLoad at h ⊢
  split at h
  · exact .refl s
  · next g _ =>
    dsimp only at h ⊢
    split at h
    · exact s.loadImage_sameWgs _ _ _
    all_goals cases h

/-! ## A workgroup with a wave that has not ended -/

/-- Such a workgroup does not complete: its job alone may end. -/
theorem State.tryComplete_live {s : State} {r : WgRef} {g : Workgroup} (hg : s.wg? r = some g)
    (hw : g.waves.any (fun v => !v.ended) = true) : s.tryComplete r = s.updWg r Workgroup.endJob := by
  have hend : (s.updWg r Workgroup.endJob).wg? r = some g.endJob := by
    rw [State.updWg_wg?, if_pos rfl, hg]
    rfl
  have hopen : g.endJob.complete = false := by
    obtain ⟨v, hv, hlive⟩ := List.any_eq_true.mp hw
    have hall : g.endJob.waves.all (·.ended) = false := by
      rw [List.all_eq_false]
      exact ⟨v, hv, by simpa using hlive⟩
    simp only [Workgroup.complete, hall, Bool.false_and]
  unfold State.tryComplete
  simp only [hend, hopen, Bool.not_false, if_true]

/-! ## The completion of a word (07 R240; 08 R265; 02 R78) -/

theorem State.raise_wg? {s : State} {r : WgRef} {g : Workgroup} (hg : s.wg? r = some g) (f : BitVec 6) :
    ∃ tck, (s.raise r f).wg? r = some { g with flags := g.flags ||| f, flagTck := tck } := by
  unfold State.raise
  split
  · next h => exact ⟨g.flagTck, by rw [hg, h, show g.flags ||| 0 = g.flags from BitVec.or_zero]⟩
  · exact ⟨_, by rw [State.updWg_wg?, if_pos rfl, hg]; rfl⟩

/-- The queues and the latches of a job, which the completion of a ticket leaves. -/
theorem Job.closeTickets_parts (j : Job) (eq : EngineQueue) :
    j.closeTickets.queue eq = j.queue eq ∧ j.closeTickets.slots = j.slots := by
  cases eq <;> exact ⟨rfl, rfl⟩

theorem Job.finishWord_parts (j : Job) (n : Nat) (eq : EngineQueue) :
    (j.finishWord n).queue eq = j.queue eq ∧ (j.finishWord n).slots = j.slots := by
  cases eq <;> exact ⟨rfl, rfl⟩

theorem Job.takeLatch_queue (j : Job) (d : DoneAt) (eq : EngineQueue) : (j.takeLatch d).queue eq = j.queue eq := by
  unfold Job.takeLatch
  split
  · cases eq <;> rfl
  · rfl

/-- The words of a queue, in the places where they stand. -/
def EngineQ.words? (q : EngineQ) : List (QueueWord × BitVec 6) × Option LoaderRun × List QueueWord :=
  (q.finishing, q.loader, q.words)

theorem Job.spwReturn_parts (j : Job) (x : QueueWord) (eq : EngineQueue) :
    ((j.spwReturn x).queue eq).words? = (j.queue eq).words? ∧ (j.spwReturn x).slots = j.slots := by
  unfold Job.spwReturn
  split
  · split
    · cases eq <;> exact ⟨rfl, rfl⟩
    · exact ⟨rfl, rfl⟩
  · exact ⟨rfl, rfl⟩

/-- A word that completes leaves its queue, and nothing else leaves it; a WLOAD's latch takes its slot. -/
theorem Job.popWord_parts (j : Job) (eq : EngineQueue) (d : DoneAt) (x : QueueWord) :
    ((j.popWord eq d x).queue eq).words? = ((j.queue eq).withoutDone d).words?
      ∧ (j.popWord eq d x).slots = (j.takeLatch d).slots := by
  unfold Job.popWord
  have hslots : ((j.takeLatch d).updQueue eq (fun y => y.withoutDone d)).slots = (j.takeLatch d).slots := by
    cases eq <;> rfl
  rw [(Job.spwReturn_parts _ _ _).1, (Job.spwReturn_parts _ _ eq).2, (Job.closeTickets_parts _ _).1,
    (Job.closeTickets_parts _ eq).2, (Job.finishWord_parts _ _ _).1, (Job.finishWord_parts _ _ eq).2,
    Job.updQueue_queue, Job.takeLatch_queue, hslots]
  exact ⟨rfl, rfl⟩

/-- A job that may have ended, with its queues and its latches as they were. -/
theorem Workgroup.endJob_job {g : Workgroup} {j : Job} (hj : g.job = some j) :
    ∃ b, g.endJob.job = some { j with ended := b } := by
  refine ⟨j.ended || j.finished g.copies, ?_⟩
  rw [Workgroup.endJob, hj]
  rfl

/-- The word that completes, in a workgroup with a wave that has not ended. -/
theorem execEvMatrixWordCompletion_done {s : State} {core slot : Nat} {g : Workgroup} {j : Job}
    (hslot : s.jobSlot core = some slot) (hg : s.wg? ⟨core, slot⟩ = some g) (hj : g.job = some j)
    (hw : g.waves.any (fun v => !v.ended) = true) {eq : EngineQueue} {d : DoneAt} {x : QueueWord × BitVec 6}
    (hd : s.doneAt core eq g.saving (j.queue eq) = some d) (hx : (j.queue eq).doneWord d = some x) :
    ∃ t k, exec (.evMatrixWordCompletion core eq) s = .next t
      ∧ (t.wg? ⟨core, slot⟩).map (·.flags) = some (g.flags ||| x.2) ∧ t.job? ⟨core, slot⟩ = some k
      ∧ (k.queue eq).words? = ((j.queue eq).withoutDone d).words? ∧ k.slots = (j.takeLatch d).slots := by
  obtain ⟨tck, hraise⟩ := State.raise_wg? hg x.2
  have hfree : ∃ u : State, u.wg? ⟨core, slot⟩ = some { g with flags := g.flags ||| x.2, flagTck := tck }
      ∧ exec (.evMatrixWordCompletion core eq) s =
        .next ((u.updJob ⟨core, slot⟩ (fun j => j.popWord eq d x.1)).tryComplete ⟨core, slot⟩) := by
    have hexec : exec (.evMatrixWordCompletion core eq) s = execEvMatrixWordCompletion core eq s := rfl
    rw [hexec, execEvMatrixWordCompletion]
    simp only [State.engineJob?_eq hslot hg hj, hg, Option.any_some, hd, hx, Option.bind_some, Option.map_some]
    split
    · exact ⟨_, hraise, rfl⟩
    · exact ⟨_, ((State.updGate_sameWgs _ _ _).wg? _).trans hraise, rfl⟩
  obtain ⟨u, hu, hexec⟩ := hfree
  have hpop : (u.updJob ⟨core, slot⟩ (fun j => j.popWord eq d x.1)).wg? ⟨core, slot⟩ =
      some { g with flags := g.flags ||| x.2, flagTck := tck, job := some (j.popWord eq d x.1) } := by
    rw [State.updJob_wg?, if_pos rfl, hu, Option.map_some, hj]
    rfl
  rw [State.tryComplete_live hpop hw] at hexec
  obtain ⟨b, hend⟩ := Workgroup.endJob_job (g := { g with
    flags := g.flags ||| x.2, flagTck := tck, job := some (j.popWord eq d x.1) }) rfl
  obtain ⟨hwords, hslots⟩ := Job.popWord_parts j eq d x.1
  refine ⟨_, { j.popWord eq d x.1 with ended := b }, hexec, ?_, ?_, ?_, hslots⟩
  · rw [State.updWg_wg?, if_pos rfl, hpop]
    rfl
  · rw [State.job?, State.updWg_wg?, if_pos rfl, hpop]
    exact hend
  · rw [← hwords]
    cases eq <;> rfl

/-! ## The passes of a float MSTEP (08 R268) -/

/-- The tile and the flags after one more pass. -/
def floatStep (w : MWord) (l : Latch) (g : Workgroup) (a : Tile × BitVec 6) (n : Nat) : Tile × BitVec 6 :=
  let o := floatPass l w a.1 n (readVector g w (w.a.toNat + n * w.astr.toNat))
  (o.1, a.2 ||| o.2)

/-- Whether the activation vector of a pass can be read: below SCRATCH, not poisoned, its lines full. -/
def Workgroup.vectorReady (g : Workgroup) (scratch : Nat) (w : MWord) (n : Nat) : Prop :=
  let v := vectorParts w (w.a.toNat + n * w.astr.toNat)
  inScratch scratch v = true ∧ g.poisonedIn v = false ∧ g.emptyIn v = false

/-- A pass of a float MSTEP whose vector can be read commits. -/
theorem State.tryPass_float {s : State} {c : HeadCtx} {l : Latch} (hj : s.job? c.r = some c.job)
    (hl : (c.job.slots[c.q.w.c.toNat]?).join = some l) (hf : intActivation c.q.w.fmt.toNat = false)
    (hv : c.wg.vectorReady (s.lpbOf c.wg).scratch c.q.w c.job.matrixQ.pass) :
    let w := c.q.w
    let n := c.job.matrixQ.pass
    let out := floatPass l w (s.accTile c.r.core w.d.toNat) n (readVector c.wg w (w.a.toNat + n * w.astr.toNat))
    s.tryPass c = (true, (s.updAccTile c.r.core w.d.toNat (fun _ => out.1)).passDone c out.2) := by
  obtain ⟨hscratch, hpoison, hempty⟩ := hv
  simp only [State.tryPass, hj, hl, hscratch, hpoison, hempty, hf, Bool.not_true, Bool.false_eq_true, if_false]

/-- The word of the array, in a job with another matrix queue. -/
def HeadCtx.withQueue (c : HeadCtx) (q : EngineQ) : HeadCtx :=
  { c with wg := { c.wg with job := some { c.job with matrixQ := q } }, job := { c.job with matrixQ := q } }

/-- The queue after a pass with its flags. -/
def EngineQ.passed (q : EngineQ) (f : BitVec 6) : EngineQ :=
  { q with phase := .running, pass := q.pass + 1, sticky := q.sticky ||| f }

/-- The passes that remain of a float MSTEP run to its end, where each of their vectors can be read. -/
theorem State.runPasses_float {c : HeadCtx} {l : Latch} {scratch : Nat} (heq : c.eq = .matrix) (hloader : c.loader = false)
    (hraced : c.q.raced = []) (hl : (c.job.slots[c.q.w.c.toNat]?).join = some l)
    (hf : intActivation c.q.w.fmt.toNat = false) (fuel : Nat) : ∀ (s : State) (q : EngineQ),
      s.wg? c.r = some (c.withQueue q).wg → (s.lpbOf c.wg).scratch = scratch → q.pass ≤ extP c.q.w →
      extP c.q.w < q.pass + fuel →
      (∀ n, q.pass ≤ n → n < extP c.q.w → c.wg.vectorReady scratch c.q.w n) →
      let run := (List.range' q.pass (extP c.q.w - q.pass)).foldl (floatStep c.q.w l c.wg)
        (s.accTile c.r.core c.q.w.d.toNat, q.sticky)
      ∃ k, ((s.runPasses c fuel).job? c.r).map (·.matrixQ) = some k ∧ k.phase = .finished ∧ k.pass = extP c.q.w
        ∧ k.sticky = run.2 ∧ (s.runPasses c fuel).accTile c.r.core c.q.w.d.toNat = run.1 := by
  induction fuel with
  | zero => intro s q _ _ hle hlt; omega
  | succ fuel ih =>
    intro s q hg hscratch hle hlt hready
    have hjob : s.job? c.r = some (c.withQueue q).job := State.job?_of_wg? hg
    have hpass : ((s.job? c.r).map (fun j => j.matrixQ.pass)).getD 0 = q.pass := by rw [hjob]; rfl
    rw [State.runPasses]
    simp only [hpass]
    by_cases hdone : extP c.q.w ≤ q.pass
    · have hall : q.pass = extP c.q.w := Nat.le_antisymm hle hdone
      rw [if_pos (by simpa using hdone), hall, Nat.sub_self]
      refine ⟨c.finish 0 q, ?_, ?_, ?_, ?_, by simp⟩
      · rw [State.wordDone_eq, State.job?, State.updHead'_wg?, hg]
        simp [HeadCtx.withQueue, heq, Job.updQueue]
      · simp [HeadCtx.finish, hloader]
      · simp [HeadCtx.finish, hloader, hall]
      · simp [HeadCtx.finish, hloader]
    · rw [if_neg (by simpa using hdone)]
      have hrefresh : s.refresh c = (c.withQueue q, s) := by
        unfold State.refresh
        rw [hg]
        exact s.raceView_of_not_raced hraced
      have htry := State.tryPass_float (c := c.withQueue q) hjob hl hf
        (by rw [show s.lpbOf (c.withQueue q).wg = s.lpbOf c.wg from rfl, hscratch]
            exact hready q.pass le_rfl (Nat.lt_of_not_le hdone))
      dsimp only at htry
      rw [hrefresh]
      simp only [htry]
      generalize hout : floatPass l (c.withQueue q).q.w (s.accTile (c.withQueue q).r.core (c.withQueue q).q.w.d.toNat)
        (c.withQueue q).job.matrixQ.pass _ = out
      have hcount : extP c.q.w - q.pass = (extP c.q.w - (q.pass + 1)) + 1 := by omega
      have hnext := ih ((s.updAccTile c.r.core c.q.w.d.toNat (fun _ => out.1)).passDone (c.withQueue q) out.2) (q.passed out.2)
        ?_ ?_ (Nat.lt_of_not_le hdone) (by simp only [EngineQ.passed]; omega)
        (fun n hn => hready n (Nat.le_of_succ_le hn))
      · have htile : ((s.updAccTile c.r.core c.q.w.d.toNat (fun _ => out.1)).passDone (c.withQueue q) out.2).accTile
            c.r.core c.q.w.d.toNat = out.1 := by
          rw [State.passDone, State.updHead'_accTile, State.updAccTile_accTile, if_pos rfl]
        rw [htile] at hnext
        rw [hcount, List.range'_succ, List.foldl_cons]
        have hstep : floatStep c.q.w l c.wg (s.accTile c.r.core c.q.w.d.toNat, q.sticky) q.pass = (out.1, q.sticky ||| out.2) := by
          rw [← hout]; rfl
        rw [hstep]
        exact hnext
      · have hq := State.updHead'_wg? (s.updAccTile c.r.core c.q.w.d.toNat (fun _ => out.1)) (c.withQueue q)
          (fun q => q.passed out.2)
        refine hq.trans ?_
        rw [(State.updAccTile_sameWgs _ _ _ _).wg?]
        rw [show (c.withQueue q).r = c.r from rfl, hg]
        simp [HeadCtx.withQueue, heq, Job.updQueue]
      · rw [← hscratch]
        simp only [State.lpbOf, State.grid?, State.passDone, State.updHead', State.updJob, State.updWg_grids]
        rfl

/-- PASS_COMMIT of a float MSTEP that waits, with the vectors of its remaining passes there, runs it to its end. -/
theorem execEvPassCommit_float {s : State} {core : Nat} {c : HeadCtx} {l : Latch} (hc : s.headWord? core .matrix = some c)
    (hopx : c.q.opx = 2) (hphase : c.job.matrixQ.phase = .running ∨ ∃ n, c.job.matrixQ.phase = .stalled n)
    (htrap : c.job.matrixQ.trapped = false) (hsave : c.wg.saving = false) (hraced : c.q.raced = [])
    (hl : (c.job.slots[c.q.w.c.toNat]?).join = some l) (hf : intActivation c.q.w.fmt.toNat = false)
    (hle : c.job.matrixQ.pass ≤ extP c.q.w)
    (hready : ∀ n, c.job.matrixQ.pass ≤ n → n < extP c.q.w → c.wg.vectorReady (s.lpbOf c.wg).scratch c.q.w n) :
    let run := (List.range' c.job.matrixQ.pass (extP c.q.w - c.job.matrixQ.pass)).foldl (floatStep c.q.w l c.wg)
      (s.accTile c.r.core c.q.w.d.toNat, c.job.matrixQ.sticky)
    ∃ t q, exec (.evPassCommit core) s = .next t ∧ (t.job? c.r).map (·.matrixQ) = some q ∧ q.phase = .finished
      ∧ q.pass = extP c.q.w ∧ q.sticky = run.2 ∧ t.accTile c.r.core c.q.w.d.toNat = run.1 := by
  obtain ⟨hg, hplaced, hloader⟩ := State.headWord?_spec hc
  have heq : c.eq = .matrix := (State.queueWord?_where hc).2
  have hrun : exec (.evPassCommit core) s = .next (s.runPasses c 65) := by
    rw [show exec (.evPassCommit core) s = execEvPassCommit core s from rfl, execEvPassCommit, hc]
    rcases hphase with h | ⟨n, h⟩
    · simp [hopx, h, htrap, hsave]
    · simp [hopx, h, htrap, hsave]
  have hpasses : extP c.q.w < c.job.matrixQ.pass + 65 := by
    have := c.q.w.px.isLt
    unfold extP
    omega
  obtain ⟨k, hk⟩ := State.runPasses_float heq hloader hraced hl hf 65 s c.job.matrixQ (by rw [HeadCtx.withQueue, hg, ← hplaced.job]) rfl
    hle hpasses hready
  exact ⟨_, k, hrun, hk⟩

/-! ## SPILLWAY_FULL (08 R270, R271; 16 R401, R403; 19 R447) -/

theorem EngineQ.unload_loader (q : EngineQ) : q.unload.loader.all (fun l => !l.phase.started) = true := by
  have hwaiting (l : Option LoaderRun) :
      (l.map (fun l => { l with phase := HeadPhase.waiting, begun := false, latch := none })).all
        (fun l => !l.phase.started) = true := by
    cases l <;> rfl
  unfold EngineQ.unload
  dsimp only
  split
  · split
    · rfl
    · exact hwaiting q.loader
  · exact hwaiting q.loader

/-- SPILLWAY_FULL of a word of the array stops it before its pass, no later word started. -/
theorem State.spillwayFull_stops {s : State} {c : HeadCtx} (hg : s.wg? c.r = some c.wg) (hj : c.wg.job = some c.job)
    (heq : c.eq = .matrix) : ∃ k, (s.spillwayFull c).job? c.r = some k ∧ k.matrixQ.phase = .stopped
      ∧ k.matrixQ.loader.all (fun x => !x.phase.started) = true
      ∧ k.spwStop = some { tval := engineTval c.q.w.d.toNat c.job.matrixQ.pass c.q.ticket, delivered := false, drain := none }
      ∧ (s.spillwayFull c).spillway c.r.core = s.spillway c.r.core := by
  have hjob : s.job? c.r = some c.job := (State.job?_of_wg? hg).trans hj
  have hrelease (u : State) (e : EngineQueue) (b : Bool) : (u.releaseDemand c.r.core e b).job? c.r = u.job? c.r := by
    simp only [State.job?, State.releaseDemand, (State.updGate_sameWgs _ _ _).wg?]
  have hspw (u : State) (b : Bool) : (u.releaseDemand c.r.core c.eq b).spillway c.r.core = u.spillway c.r.core := rfl
  refine ⟨{ c.job with
    matrixQ := { c.job.matrixQ.unload with phase := .stopped }
    spwStop := some { tval := engineTval c.q.w.d.toNat c.job.matrixQ.pass c.q.ticket, delivered := false, drain := none } },
    ?_, rfl, c.job.matrixQ.unload_loader, rfl, ?_⟩
  · unfold State.spillwayFull State.unloadLater State.updHead'
    simp only [State.updJob_job?, hrelease, hjob, Option.map_some, heq, Job.updQueue, Job.queue, Option.getD_some]
  · simp [State.spillwayFull, State.unloadLater, State.updJob, hspw]

theorem State.updJob_tckOf (s : State) (r : WgRef) (f : Job → Job) (n : Nat) : (s.updJob r f).tckOf n = s.tckOf n := by
  simp only [State.tckOf, State.tile, State.updJob, State.updWg_tiles]

/-- Where SPILLWAY_FULL waits for main's next word boundary and neither main nor the trap context holds it off. -/
structure SpillwayDue (s : State) (r : WgRef) (g : Workgroup) (j : Job) (x : SpwStop) : Prop where
  stop : j.spwStop = some x
  undelivered : x.delivered = false
  main : j.main.trapped = false
  overlay : ∀ o, j.ovl = some o → o.ctx ≠ .main
  resident : g.saving = false
  queue : j.matrixQ.trapped = false
  idle : (s.core r.core).trap.item = none

/-- A handler that main can go to: main runs, and g31 names a word of the user's part of the store. -/
def Job.armed (j : Job) : Prop :=
  let g31 := (j.main.g[31]?).getD 0
  j.main.halted = false ∧ g31 ≠ 0 ∧ g31.toNat % 4 = 0 ∧ g31.toNat < 0xE000

/-- The item of the delivery: SPILLWAY_FULL of the matrix queue. -/
theorem State.engineItem_spillwayFull (s : State) (r : WgRef) (ctx ticket pass tile : Nat) (needs : List Nat) :
    let item := s.engineItem r ctx .matrix .spillwayFull ticket pass tile needs
    item.who = .engine r.slot .matrix ∧ item.record.kind = some .spillwayFull ∧ item.record.src = .matrixQ := by
  obtain ⟨seqs, hstamp⟩ := s.stampRecord_parts r 1000 { TrapRecord.reset with
    kind := some .spillwayFull, src := .matrixQ, ticket := ticket, resume := pass }
  dsimp only [State.engineItem]
  rw [hstamp]
  exact ⟨rfl, rfl, rfl⟩

/-- The delivery of SPILLWAY_FULL to main's handler, where one is armed, and its trap otherwise. -/
theorem execEvSpillwayHandlerDelivery_due {s : State} {r : WgRef} {g : Workgroup} {j : Job} {x : SpwStop}
    (hg : s.wg? r = some g) (hj : g.job = some j) (h : SpillwayDue s r g j x) :
    (j.armed → ∃ t, exec (.evSpillwayHandlerDelivery r) s = .next t
        ∧ t.job? r = some { j.deliver x.tval ((j.main.g[31]?).getD 0) with spwStop := some { x with delivered := true } }
        ∧ (t.core r.core).trap.rec_.kind = some .spillwayFull ∧ (t.core r.core).trap.rec_.src = .matrixQ
        ∧ (t.core r.core).trap.rec_.stamp = s.tckOf r.core)
    ∧ (¬j.armed → ∃ item, exec (.evSpillwayHandlerDelivery r) s = .next (s.takeTrap r item)
        ∧ item.who = .engine r.slot .matrix ∧ item.record.kind = some .spillwayFull ∧ item.record.src = .matrixQ) := by
  obtain ⟨hstop, hdelivered, hmain, hovl, hsave, hqueue, hidle⟩ := h
  have hload : (j.ovl.any (fun o => o.ctx == .main)) = false := by
    cases ho : j.ovl with
    | none => rfl
    | some o => simpa using hovl o ho
  have hexec : exec (.evSpillwayHandlerDelivery r) s = execEvSpillwayHandlerDelivery r s := rfl
  rw [hexec, execEvSpillwayHandlerDelivery]
  simp only [hg, hj, hstop, hdelivered, hsave, hmain, hqueue, hload, hidle, Option.isSome_none, Bool.or_self,
    Bool.false_eq_true, if_false]
  have harmed : j.armed ↔ ¬(j.main.halted = true ∨ (j.main.g[31]?).getD 0 = 0 ∨ ((j.main.g[31]?).getD 0).toNat % 4 ≠ 0
      ∨ 0xE000 ≤ ((j.main.g[31]?).getD 0).toNat) := by
    simp only [Job.armed, not_or, Bool.not_eq_true, not_not, Nat.not_le, ne_eq]
  refine ⟨fun ha => ?_, fun ha => ?_⟩
  · rw [if_neg (harmed.mp ha)]
    refine ⟨_, rfl, ?_, ?_⟩
    · rw [State.job?, State.updTrap, (State.updCore_sameWgs _ _ _ rfl).wg?, State.updJob_wg?, if_pos rfl, hg]
      simp [hj]
    · simp only [State.updTrap, State.updCore_core, if_true]
      obtain ⟨-, hkind, hsrc⟩ := s.engineItem_spillwayFull r _ _ _ _ _
      exact ⟨(State.formRecord_parts _ _ _).1.trans hkind, (State.formRecord_parts _ _ _).2.1.trans hsrc,
        (State.formRecord_parts _ _ _).2.2.trans (s.updJob_tckOf r _ r.core)⟩
  · rw [if_pos (not_not.mp (fun hn => ha (harmed.mpr hn)))]
    exact ⟨_, rfl, s.engineItem_spillwayFull r _ _ _ _ _⟩

/-- Main as its handler finds it, where it waits at no rendezvous. -/
theorem Job.deliver_main {j : Job} (h : j.main.rdv = none) (tval handler : W64) : (j.deliver tval handler).main =
    { ((((j.main.setG 28 6).setG 29 tval).setG 30 (BitVec.ofNat 64 j.main.pc)).setG 31 0) with
      pc := handler.toNat, copySince := none } := by
  simp only [Job.deliver, h]
  rfl

/-! ## The start of a job, an overlay and a nest (07 R229, R246; 08 R283; 11 R339) -/

/-- A job whose image has been loaded starts at the entries of its header. -/
theorem execEvSequencerJobStart_loaded {s : State} {r : WgRef} {g : Workgroup} {j : Job} (hg : s.wg? r = some g)
    (hj : g.job = some j) (hs : j.started = false) (hi : j.intake.trapped = false) (hp : g.preempt = none) :
    let load := s.overlayLoad r
    let head := (load.2.readVia r.core g (s.lpbOf g).seqImg.toNat 64).1.2
    let entry (off : Nat) : Nat := ofBytes ((head.drop off).take 2)
    (load.1 = true → ∃ t, exec (.evSequencerJobStart r) s = .next t ∧ t.job? r = some { j with
      started := true, intake := { j.intake with pc := entry 0x0C }, main := { j.main with pc := entry 0x0E },
      outfall := { j.outfall with pc := entry 0x10 } })
    ∧ (load.1 = false → exec (.evSequencerJobStart r) s = .next load.2) := by
  have hexec : exec (.evSequencerJobStart r) s = execEvSequencerJobStart r s := rfl
  simp only [hexec, execEvSequencerJobStart, hg, hj, hs, hi, hp, Option.isSome_none, Bool.false_eq_true, or_self, if_false]
  refine ⟨fun hload => ?_, fun hload => ?_⟩
  · simp only [hload, Bool.not_true, Bool.false_eq_true, if_false]
    refine ⟨_, rfl, ?_⟩
    have hsame := (State.overlayLoad_sameWgs hload).trans
      ((s.overlayLoad r).2.readVia_sameWgs r.core g (s.lpbOf g).seqImg.toNat 64)
    rw [State.updJob_job?, State.job?_of_wg? ((hsame.wg? r).trans hg), hj, Option.map_some]
    simp only [hi]
  · simp only [hload, Bool.not_false, if_true]

theorem execEvOvlLoadComplete_stands {s : State} {core slot : Nat} {j : Job} (hslot : s.jobSlot core = some slot)
    (hj : s.job? ⟨core, slot⟩ = some j) {o : OvlLoad} (ho : j.ovl = some o) :
    ∃ t, exec (.evOvlLoadComplete core) s = .next t ∧ (t.core core).store = cellsPut (s.core core).store o.at_ o.bytes
      ∧ t.job? ⟨core, slot⟩ = some { j with ovl := none } := by
  have hexec : exec (.evOvlLoadComplete core) s = execEvOvlLoadComplete core s := rfl
  simp only [hexec, execEvOvlLoadComplete, hslot, hj, ho, Option.bind_some]
  refine ⟨_, rfl, ?_, ?_⟩
  · have hshell := ComputeCore.bare_shell (State.updWg_bareCore (s.updCore core (fun c =>
      { c with store := cellsPut c.store o.at_ o.bytes })) ⟨core, slot⟩ (fun w => { w with job := w.job.map (fun j =>
        { j with ovl := none }) }) core)
    refine (congrArg ComputeCore.store hshell).trans ?_
    simp
  · rw [State.updJob_job?]
    have hsame := State.updCore_sameWgs s core (fun c => { c with store := cellsPut c.store o.at_ o.bytes }) rfl
    rw [State.job?, hsame.wg?]
    exact congrArg _ hj

theorem execEvNestWordGeneration_hands {s : State} {core slot : Nat} {g : Workgroup} {j : Job}
    (hslot : s.jobSlot core = some slot) (hg : s.wg? ⟨core, slot⟩ = some g) (hj : g.job = some j) {n : NestRun}
    {x : NestWord} {rest : Option NestRun} (hn : j.nest = some n) (hx : n.next (s.lpbOf g) g.wgl 8 = some (x, rest))
    (hm : j.matrixQ.trapped = false) (hd : j.drainQ.trapped = false) (hs : g.saving = false)
    (hroom : (j.queue (queueOf x.opx)).held < 32) :
    ∃ t, exec (.evNestWordGeneration core) s = .next t
      ∧ t.job? ⟨core, slot⟩ = some { j.handOver x.opx x.w n.ticket true x.astray with nest := rest } := by
  have hexec : exec (.evNestWordGeneration core) s = execEvNestWordGeneration core s := rfl
  simp only [hexec, execEvNestWordGeneration, hslot, hg, hj, hn, hx, hm, hd, hs, Nat.not_le.mpr hroom, Bool.false_eq_true,
    or_self, if_false]
  exact ⟨_, rfl, by rw [State.updJob_job?, State.job?_of_wg? hg, hj]; rfl⟩

/-! ## Which finished word completes (08 R261, R265, R275) -/

/-- An MNOP that may end has no earlier word before it. -/
theorem EngineQ.mayEnd_mnop {q : EngineQ} {saving : Bool} {x y : QueueWord} (hx : x.opx = 0) (h : q.mayEnd saving x = true)
    (hy : y ∈ q.open_) : y.before x = false := by
  simp only [EngineQ.mayEnd, hx, Bool.and_eq_true, bne_self_eq_false, Bool.false_or, List.all_eq_true] at h
  simpa using h.1 y hy

/-- A word that is neither an MNOP nor a WLOAD may always end. -/
theorem EngineQ.mayEnd_other (q : EngineQ) (saving : Bool) {x : QueueWord} (h0 : x.opx ≠ 0) (h1 : x.opx ≠ 1) :
    q.mayEnd saving x = true := by
  simp [EngineQ.mayEnd, h0, h1]

/-- A queue's parts after a word has left it, one by one. -/
theorem EngineQ.words?_eq {y q : EngineQ} (h : y.words? = q.words?) :
    y.finishing = q.finishing ∧ y.loader = q.loader ∧ y.words = q.words := by
  obtain ⟨h1, h2⟩ := Prod.mk.inj h
  exact ⟨h1, (Prod.mk.inj h2).1, (Prod.mk.inj h2).2⟩

/-- Settles O50: each event of the engine queues and of their jobs, with the state after it. -/
theorem engineEvents : Obligations.EngineEvents := by
  intro s core slot g j hslot hg hj
  have hjob : s.job? ⟨core, slot⟩ = some j := (State.job?_of_wg? hg).trans hj
  have hplace {c : HeadCtx} (hc : s.headWord? core .matrix = some c) : c.r = ⟨core, slot⟩ ∧ c.wg = g ∧ c.job = j := by
    have hr : c.r = ⟨core, slot⟩ := State.queueWord?_place hslot hc
    obtain ⟨hcg, hplaced, -⟩ := State.headWord?_spec hc
    have hcwg : c.wg = g := Option.some.inj (hcg.symm.trans (hr ▸ hg))
    exact ⟨hr, hcwg, Option.some.inj (hplaced.job.symm.trans (hcwg ▸ hj))⟩
  refine ⟨?start, ?overlay, ?delivery, ?nest, ?completion, ?expiry, ?passes⟩
  case start => exact fun hs hi hp => execEvSequencerJobStart_loaded hg hj hs hi hp
  case overlay => exact fun o ho => execEvOvlLoadComplete_stands hslot hjob ho
  case delivery =>
    intro x hx hd hm ho hs hq hi
    obtain ⟨harmed, hnot⟩ := execEvSpillwayHandlerDelivery_due hg hj ⟨hx, hd, hm, ho, hs, hq, hi⟩
    refine ⟨fun ha => ?_, hnot⟩
    obtain ⟨t, hexec, htjob, hkind, hsrc, hstamp⟩ := harmed ha
    refine ⟨t, hexec, htjob, hkind, hsrc, hstamp, fun hrdv => ?_⟩
    rw [htjob]
    exact congrArg some (Job.deliver_main hrdv x.tval _)
  case nest => exact fun n x rest hn hx hm hd hs hroom => execEvNestWordGeneration_hands hslot hg hj hn hx hm hd hs hroom
  case completion =>
    intro eq hw
    dsimp only
    have hdone {d : DoneAt} {x : QueueWord × BitVec 6} := execEvMatrixWordCompletion_done hslot hg hj hw (eq := eq) (d := d) (x := x)
    refine ⟨fun x h0 h1 => EngineQ.mayEnd_other _ _ h0 h1, fun x y hx hmay hy => EngineQ.mayEnd_mnop hx hmay hy,
      fun n x hn hx => ?_, fun l hbehind heq hl hfin hmay hfree => ?_, fun x rest hbehind hno hwords hfin hmay hfree => ?_⟩
    · obtain ⟨t, k, hexec, hflags, hk, hparts, hslots⟩ := hdone (d := .behind n) (by simp only [State.doneAt, hn]) hx
      obtain ⟨hf, hld, hwd⟩ := EngineQ.words?_eq hparts
      exact ⟨t, k, hexec, hflags, hk, hf, hld, hwd, hslots⟩
    · obtain ⟨t, k, hexec, hflags, hk, hparts, hslots⟩ := hdone (d := .loader) (x := (l.q, 0))
        (by simp [State.doneAt, hbehind, hl, hfin, hmay, hfree]) (by simp [EngineQ.doneWord, hl])
      obtain ⟨hf, hld, hwd⟩ := EngineQ.words?_eq hparts
      refine ⟨t, k, hexec, hflags, hk, hf, hld, hwd, hslots.trans ?_⟩
      subst heq
      simp only [Job.takeLatch, show j.matrixQ.loader = some l from hl]
    · have hloader : (j.queue eq).loader.any (fun l => l.phase == .finished && (j.queue eq).mayEnd g.saving l.q) = false := by
        cases hl : (j.queue eq).loader with
        | none => rfl
        | some l =>
          rcases hno l hl with h | h
          · simp [h]
          · simp [h]
      obtain ⟨t, k, hexec, hflags, hk, hparts, hslots⟩ := hdone (d := .head) (x := (x, (j.queue eq).sticky))
        (by simp [State.doneAt, hbehind, hloader, hwords, hfin, hmay, hfree]) (by simp [EngineQ.doneWord, hwords])
      obtain ⟨hf, hld, hwd⟩ := EngineQ.words?_eq hparts
      exact ⟨t, k, hexec, hflags, hk, hf, hld, hwd.trans (by simp [EngineQ.withoutDone, hwords]), hslots⟩
  case expiry =>
    intro c n hc hphase hn hopen
    obtain ⟨hr, hcwg, hcjob⟩ := hplace hc
    obtain ⟨hcg, hplaced, -⟩ := State.headWord?_spec hc
    obtain ⟨k, hk, hphase', hload, hstop, hspw⟩ := State.spillwayFull_stops hcg hplaced.job (State.queueWord?_where hc).2
    rw [hr] at hk hspw
    rw [hcjob] at hstop
    refine ⟨_, k, ?_, hk, hphase', hload, hstop, hspw⟩
    rw [show exec (.evSpillwayStallExpiry core) s = execEvSpillwayStallExpiry core s from rfl, execEvSpillwayStallExpiry, hc]
    simp only [hcjob, hphase, if_pos (And.intro hn hopen)]
  case passes =>
    intro c l hc hopx hphase htrap hsave hraced hl hf w p hle hready
    obtain ⟨hr, hcwg, hcjob⟩ := hplace hc
    have hrun := execEvPassCommit_float (l := l) hc hopx
    rw [hr, hcwg, hcjob] at hrun
    exact hrun hphase htrap hsave hraced hl hf hle hready

end Sys2Proof.Machine
end
section
/-! Events of the copy engine (O52): acceptance, chunks, stream delivery, and completion, which a timeline write does not keep
from the workgroup's copies. -/

namespace Sys2Proof.Machine

open Sys2Proof

/-! ## The copy in a slot (18 R435) -/

/-- The copy found in a slot stands in it. -/
theorem Workgroup.copyIn_slot {w : Workgroup} {core slot : Nat} {c : Copy × CopyCmd} (h : w.copyIn core slot = some c) :
    c.1.core = core ∧ c.1.slot = slot := by
  obtain ⟨y, hy, hcmd⟩ := Option.bind_eq_some_iff.mp h
  obtain ⟨k, -, rfl⟩ := Option.map_eq_some_iff.mp hcmd
  have hslot := List.find?_some hy
  simp only [Copy.inSlot, Bool.and_eq_true, beq_iff_eq] at hslot
  exact hslot.1

theorem State.copyAt?_slot {s : State} {core slot : Nat} {x : CopyRef} (h : s.copyAt? core slot = some x) :
    x.copy.core = core ∧ x.copy.slot = slot := by
  unfold State.copyAt? at h
  split at h
  · next y hy =>
    obtain ⟨p, -, hp⟩ := List.exists_of_findSome?_eq_some hy
    obtain ⟨c, hc, rfl⟩ := Option.map_eq_some_iff.mp hp
    cases h
    exact Workgroup.copyIn_slot hc
  · obtain ⟨p, -, hp⟩ := List.exists_of_findSome?_eq_some h
    obtain ⟨c, hc, rfl⟩ := Option.map_eq_some_iff.mp hp
    exact Workgroup.copyIn_slot hc

/-- The copies of a workgroup where the one in a slot has changed. -/
def Workgroup.updCopies (w : Workgroup) (core slot : Nat) (f : Copy → Copy) : List Copy :=
  w.copies.map (fun c => if c.inSlot core slot then f c else c)

/-- A change of a copy of a resident workgroup. -/
theorem State.updCopy_eq (s : State) {core slot : Nat} {r : WgRef} {x : CopyRef} (h : s.copyAt? core slot = some x)
    (hr : x.owner = .wg r) (u : State) (f : Copy → Copy) :
    u.updCopy x f = u.updWg r (fun w => { w with copies := w.updCopies core slot f }) := by
  obtain ⟨hcore, hslot⟩ := State.copyAt?_slot h
  simp only [State.updCopy, State.updOwner, hr, hcore, hslot]
  rfl

/-! ## Acceptance (07 R259, R260; 18 R435) -/

/-- A workgroup once entry `k` of its copy ring has been taken as a copy. -/
def Workgroup.takeEntry (w : Workgroup) (k : Nat) (c : Copy) : Workgroup :=
  ({ w with ring := { w.ring with taken := k + 1 } }.accept c).writeScratch 0x10 (toBytes 8 (k + 1))

/-- The next entry of a copy ring takes a slot, or stops its ring where it is poisoned or malformed. -/
theorem execEvCopyAcceptance_next {s : State} {r : WgRef} {w : Workgroup} {v : RingView} {slot : Nat}
    (hw : s.wg? r = some w) (hv : w.ring.views.find? (fun v => decide (w.ring.taken < v.upto)) = some v)
    (hslot : s.copySlotFor r.core (arrivalKey v.since (some r.slot)) = some slot) (hstop : w.ring.stopped = false)
    (hsave : w.saving = false) (hlt : w.ring.taken < w.ring.tail) :
    let k := w.ring.taken
    let at_ := v.base + 32 * (k % v.entries)
    let b := w.readScratch at_ 32
    let cmd := (List.range 4).map (fun i => BitVec.ofNat 64 (ofBytes ((b.drop (8 * i)).take 8)))
    exec (.evCopyAcceptance r) s =
      if w.padPoisoned at_ 32 then .next (s.stopRing r .poison)
      else if (copyCmd cmd).isNone then .next (s.stopRing r .illegalWord)
      else .next (s.updWg r (fun w => w.takeEntry k (newCopy cmd (.ring k) v.timeline r.core slot))) := by
  have hexec : exec (.evCopyAcceptance r) s = execEvCopyAcceptance r s := rfl
  simp only [hexec, execEvCopyAcceptance, hw, hv, hslot, hstop, hsave, Nat.not_le.mpr hlt, decide_false, Bool.or_self,
    Bool.false_eq_true, if_false]
  rfl

/-! ## Chunks (18 R436-R439) -/

/-- A chunk that may start does what the map of its elements says. -/
theorem execEvCopyChunkStart_maps {s : State} {core slot : Nat} {x : CopyRef} {k : Nat} (h : s.copyAt? core slot = some x)
    (hk : x.nextChunk = some k) (hheld : x.held = false) (hwave : x.cmd.dk = 3 → x.cmd.aux / 8 < x.wg.waves.length)
    (hop : x.cmd.op ≠ .bitplane) :
    let g := x.cmd.chunkRange k
    let m := s.mapElems x ((List.range (g.2 - g.1)).map (fun i => g.1 + i))
    (∀ l, m.1 = .ok l → exec (.evCopyChunkStart core slot) s =
        .next ((m.2.updCopy x (fun c => { c with running := c.running ++ [k] })).performElems x (m.2.ownSource x) l))
    ∧ (m.1 = .wait → exec (.evCopyChunkStart core slot) s = .next m.2)
    ∧ (∀ e va acc, m.1 = .fault e va acc → exec (.evCopyChunkStart core slot) s = .next (m.2.copyFault x k e va acc)) := by
  have hexec : exec (.evCopyChunkStart core slot) s = execEvCopyChunkStart core slot s := rfl
  have hlane : ¬(x.cmd.dk = 3 ∧ x.wg.waves.length ≤ x.cmd.aux / 8) := fun hn => Nat.not_le.mpr (hwave hn.1) hn.2
  have hplanes (u : State) : u.planeFault x [] = none := rfl
  simp only [hexec, execEvCopyChunkStart, h, hk, hheld, Bool.false_eq_true, if_false, if_neg hlane, if_neg hop]
  refine ⟨fun l hm => ?_, fun hm => ?_, fun e va acc hm => ?_⟩
  · simp only [hm, hplanes]
  · simp only [hm]
  · simp only [hm]

/-- The lowest chunk in progress completes, a stream copy's once its elements are delivered. -/
theorem execEvCopyChunkCompletion_done {s : State} {core slot : Nat} {x : CopyRef} {k : Nat} {rest : List Nat}
    (h : s.copyAt? core slot = some x) (hrun : x.copy.running = k :: rest)
    (hsent : x.cmd.dk = 3 → (x.cmd.chunkRange k).2 ≤ x.copy.sent) :
    exec (.evCopyChunkCompletion core slot) s = .next (s.updCopy x (fun c => { c with
      done := k + 1, running := rest, marks := c.marks.filter (fun i => decide ((x.cmd.chunkRange k).2 ≤ i)) })) := by
  have hexec : exec (.evCopyChunkCompletion core slot) s = execEvCopyChunkCompletion core slot s := rfl
  have hall : ¬(x.cmd.dk = 3 ∧ x.copy.sent < (x.cmd.chunkRange k).2) := fun hn => Nat.not_lt.mpr (hsent hn.1) hn.2
  simp only [hexec, execEvCopyChunkCompletion, h, hrun, if_neg hall]

/-! ## Streams (18 R430, R431) -/

/-- Whether a copy owes a lane of a stream register an element. -/
def Copy.owesLane (wave q lane : Nat) (c : Copy) : Bool :=
  match copyCmd c.cmd with
  | some k => k.owes wave q c.sent lane
  | none => false

theorem Workgroup.deliverable_eq (w : Workgroup) (c : Copy) (k : CopyCmd) :
    w.deliverable c k = (k.dk == 3 && !c.fetched.isEmpty
      && !(w.copies.takeWhile (fun x => !x.inSlot c.core c.slot)).any (Copy.owesLane (k.aux / 8) (k.aux % 8) (c.sent % 32))
      && (w.waves[k.aux / 8]?).any (fun v =>
        v.laneGone (c.sent % 32) || decide (((v.stream (k.aux % 8)).lane (c.sent % 32)).length < 8))) := rfl

/-- A stream element that no earlier copy holds back can be delivered where its lane has room or is gone. -/
theorem Workgroup.deliverable_of_not_owed {w : Workgroup} {c : Copy} {k : CopyCmd} {u : Wave} (hdk : k.dk = 3)
    (hf : c.fetched.isEmpty = false) (hu : w.waves[k.aux / 8]? = some u)
    (howed : (w.copies.takeWhile (fun x => !x.inSlot c.core c.slot)).any
      (Copy.owesLane (k.aux / 8) (k.aux % 8) (c.sent % 32)) = false) :
    w.deliverable c k = (u.laneGone (c.sent % 32) || decide (((u.stream (k.aux % 8)).lane (c.sent % 32)).length < 8)) := by
  simp [Workgroup.deliverable_eq, hdk, hf, hu, howed]

theorem Wave.deliver_stream {u : Wave} {q : Nat} (hq : q < u.streams.length) (lane : Nat) (v : W32) :
    ((u.deliver q lane v).stream q).lane lane = (u.stream q).lane lane ++ [v] := by
  simp only [Wave.stream, Wave.deliver, modAt_getElem?, if_true, List.getElem?_eq_getElem hq, Option.map_some,
    Option.getD_some, StreamReg.lane, assoc_assocSet]

/-- A stream element that can be delivered goes to its lane, or is discarded where that takes none any more. -/
theorem execEvStreamDelivery_delivers {s : State} {core slot : Nat} {r : WgRef} {x : CopyRef} {v : W32} {rest : List W32}
    {u : Wave} (h : s.copyAt? core slot = some x) (hr : x.owner = .wg r) (hf : x.copy.fetched = v :: rest)
    (hu : x.wg.waves[x.cmd.aux / 8]? = some u) (hd : x.wg.deliverable x.copy x.cmd = true) :
    let lane := x.copy.sent % 32
    exec (.evStreamDelivery core slot) s = .next ((if u.laneGone lane then s
      else s.updWave ⟨r.core, r.slot, x.cmd.aux / 8⟩ (fun w => w.deliver (x.cmd.aux % 8) lane v)).updCopy x
        (fun c => { c with sent := c.sent + 1, fetched := rest })) := by
  have hexec : exec (.evStreamDelivery core slot) s = execEvStreamDelivery core slot s := rfl
  simp only [hexec, execEvStreamDelivery, h, hr, hf, hd, Copy.nextLane, hu, Option.any_some, Bool.not_true,
    Bool.false_eq_true, if_false]

/-- One that cannot stays with its copy. -/
theorem execEvStreamDelivery_waits {s : State} {core slot : Nat} {r : WgRef} {x : CopyRef} {v : W32} {rest : List W32}
    (h : s.copyAt? core slot = some x) (hr : x.owner = .wg r) (hf : x.copy.fetched = v :: rest)
    (hd : x.wg.deliverable x.copy x.cmd = false) : exec (.evStreamDelivery core slot) s = .next s := by
  have hexec : exec (.evStreamDelivery core slot) s = execEvStreamDelivery core slot s := rfl
  simp only [hexec, execEvStreamDelivery, h, hr, hf, hd, Bool.not_false, if_true]

/-! ## What a timeline write leaves of the workgroups (06 R213, R214) -/

/-- The copies of a resident workgroup, and whether a wave of it has not ended. -/
def State.copying (s : State) (r : WgRef) : Option (List Copy × Bool) :=
  (s.wg? r).map (fun w => (w.copies, w.waves.any (fun v => !v.ended)))

/-- Every resident workgroup has the copies it had, and waves that have not ended where it had. -/
def State.SameCopies (s t : State) : Prop := ∀ r, t.copying r = s.copying r

theorem State.SameCopies.refl (s : State) : s.SameCopies s := fun _ => rfl

theorem State.SameCopies.trans {s t u : State} (h : s.SameCopies t) (k : t.SameCopies u) : s.SameCopies u :=
  fun r => (k r).trans (h r)

theorem State.SameWgs.sameCopies {s t : State} (h : s.SameWgs t) : s.SameCopies t := fun r => by
  rw [State.copying, h.wg? r, State.copying]

theorem State.SameCopies.foldl {α : Type} {f : State → α → State} (hf : ∀ (s : State) (x : α), s.SameCopies (f s x))
    (l : List α) (s : State) : s.SameCopies (l.foldl f s) :=
  l.foldlRecOn f (.refl s) (fun t ht x _ => ht.trans (hf t x))

/-- A change of a workgroup but for its copies and its waves. -/
theorem State.updWg_sameCopies (s : State) (r : WgRef) (f : Workgroup → Workgroup) (hc : ∀ w, (f w).copies = w.copies)
    (hw : ∀ w, (f w).waves = w.waves) : s.SameCopies (s.updWg r f) := by
  intro q
  rw [State.copying, State.updWg_wg?]
  split
  · rw [Option.map_map, State.copying]
    refine Option.map_congr (fun w _ => ?_)
    simp only [Function.comp_apply, hc, hw]
  · rfl

theorem Workgroup.meet_copying (w : Workgroup) (seen : W64 → Option Nat) :
    (w.meet seen).copies = w.copies ∧ (w.meet seen).waves.any (fun v => !v.ended) = w.waves.any (fun v => !v.ended) := by
  refine ⟨rfl, ?_⟩
  simp only [Workgroup.meet, List.any_map]
  rfl

theorem State.markWaiters_wg? (s : State) (seen : Nat → W64 → Option Nat) (r : WgRef) :
    (s.markWaiters seen).wg? r = (s.wg? r).map (fun w => w.meet (seen w.ctx)) := by
  have hcore : ((s.markWaiters seen).core r.core).wgs =
      (s.core r.core).wgs.map (fun q => (q.1, q.2.meet (seen q.2.ctx))) := by
    have hassoc := assoc_map_value
      (fun c : ComputeCore => { c with wgs := c.wgs.map (fun q => (q.1, q.2.meet (seen q.2.ctx))) }) s.cores r.core
    unfold State.core State.markWaiters
    dsimp only
    rw [hassoc]
    cases assoc s.cores r.core <;> rfl
  unfold State.wg?
  rw [hcore]
  exact assoc_map_value (fun w : Workgroup => w.meet (seen w.ctx)) _ _

theorem State.markWaiters_sameCopies (s : State) (seen : Nat → W64 → Option Nat) : s.SameCopies (s.markWaiters seen) := by
  intro r
  rw [State.copying, State.markWaiters_wg?, Option.map_map, State.copying]
  refine Option.map_congr (fun w _ => ?_)
  exact Prod.ext (w.meet_copying (seen w.ctx)).1 (w.meet_copying (seen w.ctx)).2

theorem State.performTimeline_sameCopies (s : State) (ctx : Nat) (va : W64) (dpa : Nat) (add : Bool) (v : W64) :
    s.SameCopies (s.performTimeline ctx va dpa add v) := by
  have hevent (u : State) (b c : Bool) : u.SameWgs (u.timelineEvent ctx va b c) := by
    unfold State.timelineEvent
    split
    · exact fun _ => rfl
    · exact .refl u
  have hwrite (b : List Byte) : s.SameWgs (s.writeMem dpa b) := fun _ => rfl
  unfold State.performTimeline State.compareWaiters
  exact ((hwrite _).trans (hevent _ _ _)).sameCopies.trans (State.markWaiters_sameCopies _ _)

theorem State.performTimelineOf_sameCopies (s : State) (home : Option Nat) (ctx : Nat) (va : W64) (dpa : Nat) (add : Bool)
    (v : W64) : s.SameCopies (s.performTimelineOf home ctx va dpa add v) := by
  cases home with
  | none => exact s.performTimeline_sameCopies ctx va dpa add v
  | some core =>
    exact ((s.settleL1_sameWgs core dpa).sameCopies.trans (State.performTimeline_sameCopies _ ctx va dpa add v)).trans
      (.foldl (fun s _ => (s.writeThrough_sameWgs core _ _).sameCopies) _ _)

/-- A timeline write of the front end or of a copy engine leaves each workgroup its copies. -/
theorem State.feTimeline_sameCopies (s : State) (home : Option Nat) (ctx : Nat) (va : W64) (add : Bool) (v : W64)
    (who : HostOpWho) : s.SameCopies (s.feTimeline home ctx va add v who) := by
  unfold State.feTimeline
  split
  · exact .refl s
  · split
    · exact State.SameWgs.sameCopies fun _ => rfl
    · split
      · split
        · exact s.performTimelineOf_sameCopies _ _ _ _ _ _
        · exact State.SameWgs.sameCopies fun _ => rfl
        · exact State.SameWgs.sameCopies fun _ => rfl
      · exact State.SameWgs.sameCopies fun _ => rfl

theorem State.raiseLate_sameCopies (s : State) (grid wgl : Nat) (f : BitVec 6) : s.SameCopies (s.raiseLate grid wgl f) := by
  unfold State.raiseLate State.raise
  split
  · exact .refl s
  · split
    · exact s.updWg_sameCopies _ _ (fun _ => rfl) (fun _ => rfl)
    · exact State.SameWgs.sameCopies fun _ => rfl

/-! ## Completion (07 R236, R241) -/

/-- A copy that completes leaves its workgroup's copies; the waves stay. -/
theorem Workgroup.copyDone_parts (w : Workgroup) (c : Copy) :
    (w.copyDone c).copies = w.copies.filter (fun y => !y.inSlot c.core c.slot) ∧ (w.copyDone c).waves = w.waves := by
  unfold Workgroup.copyDone
  dsimp only
  split
  · exact ⟨rfl, rfl⟩
  · split
    · exact ⟨rfl, rfl⟩
    · exact ⟨rfl, rfl⟩

/-- A copy whose chunks are all complete leaves its slot, in a workgroup with a wave that has not ended. -/
theorem execEvCopyCompletion_leaves {s : State} {core slot : Nat} {r : WgRef} {x : CopyRef}
    (h : s.copyAt? core slot = some x) (hr : x.owner = .wg r) (hw : s.wg? r = some x.wg)
    (hdone : x.cmd.chunks ≤ x.copy.done) (hfault : x.copy.fault = none)
    (hwait : s.timelineWaits x.wg.ctx x.copy.timeline = false) (hlive : x.wg.waves.any (fun v => !v.ended) = true) :
    ∃ t, exec (.evCopyCompletion core slot) s = .next t
      ∧ (t.wg? r).map (·.copies) = some (x.wg.copies.filter (fun c => !c.inSlot core slot)) := by
  obtain ⟨hcore, hslot⟩ := State.copyAt?_slot h
  have hsame := (s.raiseLate_sameCopies x.wg.grid x.wg.wgl x.copy.sticky).trans
    (State.feTimeline_sameCopies _ (some x.home) x.wg.ctx x.copy.timeline true 1 (.copy x.wg.ctx))
  generalize hu : (s.raiseLate x.wg.grid x.wg.wgl x.copy.sticky).feTimeline (some x.home) x.wg.ctx x.copy.timeline true 1
    (.copy x.wg.ctx) = u at hsame
  have hcopying : u.copying r = some (x.wg.copies, true) := by
    rw [hsame r, State.copying, hw, Option.map_some, hlive]
  obtain ⟨w, hwg, hparts⟩ := Option.map_eq_some_iff.mp hcopying
  obtain ⟨hcopies, hwaves⟩ := Prod.mk.inj hparts
  have hgone : (u.updWg r (fun w => w.copyDone x.copy)).wg? r = some (w.copyDone x.copy) := by
    rw [State.updWg_wg?, if_pos rfl, hwg]
    rfl
  have hexec : exec (.evCopyCompletion core slot) s =
      .next ((u.updWg r (fun w => w.copyDone x.copy)).updWg r Workgroup.endJob) := by
    have hready : ¬(x.copy.done < x.cmd.chunks ∨ x.copy.fault.isSome = true
        ∨ s.timelineWaits x.wg.ctx x.copy.timeline = true) := by
      simp [hfault, hwait, Nat.not_lt.mpr hdone]
    rw [show exec (.evCopyCompletion core slot) s = execEvCopyCompletion core slot s from rfl, execEvCopyCompletion]
    simp only [h, if_neg hready, hu, hr, State.updOwner]
    rw [State.tryComplete_live hgone (by rw [(w.copyDone_parts x.copy).2]; exact hwaves)]
  refine ⟨_, hexec, ?_⟩
  rw [State.updWg_wg?, if_pos rfl, hgone]
  exact congrArg some ((w.copyDone_parts x.copy).1.trans (by rw [hcopies, hcore, hslot]))

/-- Settles O52: the acceptance of a ring's entry, the start and the completion of a chunk, the delivery of a stream's element and
the completion of a copy, each with the state after it. -/
theorem copyEvents : Obligations.CopyEvents := by
  refine ⟨fun s r w v slot hw => ?_, fun s core slot r x h hr hw => ?_⟩
  · intro k hv hslot hstop hsave hlt at_ b cmd
    have hnext := execEvCopyAcceptance_next hw hv hslot hstop hsave hlt
    refine ⟨fun hp => ?_, fun hp hc => ?_, fun hp hc => ?_⟩
    · exact hnext.trans (if_pos hp)
    · refine ⟨_, w.takeEntry k (newCopy cmd (.ring k) v.timeline r.core slot),
        hnext.trans ((if_neg (Bool.eq_false_iff.mp hp)).trans (if_neg ?_)), ?_, rfl, rfl, rfl⟩
      · simpa using Option.isSome_iff_ne_none.mp hc
      · exact (s.updWg_wg? r r _).trans ((if_pos rfl).trans (congrArg _ hw))
    · exact hnext.trans ((if_neg (Bool.eq_false_iff.mp hp)).trans (if_pos (by simpa using hc)))
  · have hcopies (t : State) (g : Workgroup) (hg : t.wg? r = some g) (hgc : g.copies = x.wg.copies) (f : Copy → Copy) :
        ((t.updCopy x f).wg? r).map (·.copies) = some (x.wg.copies.map (fun c => if c.inSlot core slot then f c else c)) := by
      rw [State.updCopy_eq s h hr, State.updWg_wg?, if_pos rfl, hg, Option.map_some, Option.map_some, Workgroup.updCopies, hgc]
    have hwave (t : State) (f : Copy → Copy) (q : WaveRef) : (t.updCopy x f).wave? q = t.wave? q := by
      rw [State.updCopy_eq s h hr]
      exact State.updWg_wave? _ _ _ _ (fun _ => rfl)
    refine ⟨fun k l hk hheld hlane hop => ?start, fun k rest hrun hsent => ?completion, fun v rest u hf hdk hu howed => ?stream,
      fun hdone hfault hwait hlive => execEvCopyCompletion_leaves h hr hw hdone hfault hwait hlive⟩
    case start =>
      have hmaps := execEvCopyChunkStart_maps h hk hheld hlane hop
      exact ⟨hmaps.1 l, hmaps.2⟩
    case completion => exact ⟨_, execEvCopyChunkCompletion_done h hrun hsent, hcopies s x.wg hw rfl _⟩
    case stream =>
      obtain ⟨hcore, hslot⟩ := State.copyAt?_slot h
      have hready := Workgroup.deliverable_of_not_owed hdk (by rw [hf]; rfl) hu
        (by rw [hcore, hslot]; exact howed)
      have huw : s.wave? ⟨r.core, r.slot, x.cmd.aux / 8⟩ = some u := by
        change (s.wg? r).bind _ = _
        rw [hw]
        exact hu
      dsimp only
      refine ⟨fun l hend hl hstate hroom hq => ?_, fun hgone hfull => ?_, fun hgone => ?_⟩
      · have hgone : u.laneGone (x.copy.sent % 32) = false := by
          simp [Wave.laneGone, hend, hl, hstate]
        have hdel := execEvStreamDelivery_delivers h hr hf hu (by rw [hready]; simp [hroom])
        dsimp only at hdel
        rw [hgone, if_neg Bool.false_ne_true] at hdel
        refine ⟨_, u.deliver (x.cmd.aux % 8) (x.copy.sent % 32) v, hdel, ?_, ?_, Wave.deliver_stream hq _ v⟩
        · refine hcopies _ { x.wg with waves := modAt x.wg.waves (x.cmd.aux / 8) (fun w =>
            w.deliver (x.cmd.aux % 8) (x.copy.sent % 32) v) } ?_ rfl _
          rw [State.updWave, State.updWg_wg?]
          exact (if_pos rfl).trans (congrArg _ hw)
        · rw [hwave, State.updWave_wave?, if_pos rfl, huw]
          rfl
      · exact execEvStreamDelivery_waits h hr hf (by rw [hready, hgone]; simpa using hfull)
      · have hdel := execEvStreamDelivery_delivers h hr hf hu (by rw [hready, hgone]; rfl)
        dsimp only at hdel
        rw [if_pos hgone] at hdel
        exact ⟨_, hdel, hcopies s x.wg hw rfl _, (hwave _ _ _).trans huw⟩

end Sys2Proof.Machine
end
